-- ==== Sys2Proof/Word.lean ====
section
/-! DEFINITION. The word types of the KZ-1 (spec/00_scope.md, Notation): bytes, 16, 32, 48 and 64 bit words. -/

namespace Sys2Proof

/-- One byte. -/
abbrev Byte := BitVec 8

/-- A 32-bit word: a register, an FP32 encoding, an event counter value. -/
abbrev Word := BitVec 32

/-- A 64-bit scalar register or counter. -/
abbrev Dword := BitVec 64

end Sys2Proof
end

