-- ==== Sys2Proof/Syntax.lean ====
section
/-! DEFINITION. The commands of the KZ-1: one constructor of Instr per row of spec/opcode_table.json, with the
row's operands. A seat instruction carries the fields of its 64-bit word (Tables 10-2 to 10-13, 11-2 to 11-15),
reserved bits included, so that R4 can be stated. A host command carries the operands of Table 15-7. An event
carries what the outside world or a check reports. -/

namespace Sys2Proof

/-- A context number, 0 to 63 (R250). -/
abbrev CtxId := Fin 64
/-- A scalar register field s0 to s31. -/
abbrev SReg := BitVec 5
/-- A buffer handle field b0 to b63. -/
abbrev HReg := BitVec 6
/-- A predicate field p0 to p7. -/
abbrev PReg := BitVec 3
/-- An event counter field e0 to e15. -/
abbrev EReg := BitVec 4

/-- The guard of every instruction word, bits [57:54] (R274). -/
structure Guard where
  pg : PReg
  pn : Bool
  deriving DecidableEq, Repr

/-- The engine kinds accounted by the Table (Table 09-5). -/
inductive EngKind where
  | matrix | vector | copy
  deriving DecidableEq, Repr

/-! ### Instruction word formats, Tables 10-2 to 10-13 -/

structure AluF where
  (g : Guard) (sd sa sb : SReg) (funct : BitVec 4) (rsv : BitVec 35)
  deriving DecidableEq, Repr
structure AluiF where
  (g : Guard) (sd sa : SReg) (rsvB : BitVec 5) (funct : BitVec 4) (rsvC : BitVec 3) (imm : Word)
  deriving DecidableEq, Repr
structure LiF where
  (g : Guard) (sd : SReg) (funct : BitVec 1) (rsv : BitVec 16) (imm : Word)
  deriving DecidableEq, Repr
structure CmpF where
  (g : Guard) (pd : PReg) (sa sb : SReg) (funct : BitVec 4) (useImm : Bool) (rsv : BitVec 4) (imm : Word)
  deriving DecidableEq, Repr
structure PlogF where
  (g : Guard) (pd pa : PReg) (rsvA : BitVec 2) (pb : PReg) (sd : SReg) (funct : BitVec 3) (rsv : BitVec 35)
  deriving DecidableEq, Repr
structure BrF where
  (g : Guard) (rsv : BitVec 22) (off : Word)
  deriving DecidableEq, Repr
structure JalF where
  (g : Guard) (sd sa : SReg) (rsv : BitVec 12) (imm : Word)
  deriving DecidableEq, Repr
structure SldF where
  (g : Guard) (sd sa : SReg) (bh : HReg) (size : BitVec 2) (sx : Bool) (rsv : BitVec 3) (imm : Word)
  deriving DecidableEq, Repr
structure SstF where
  (g : Guard) (ss sa : SReg) (bh : HReg) (size : BitVec 2) (rsv : BitVec 4) (imm : Word)
  deriving DecidableEq, Repr
/-- EXIT and TSEAL: every bit of [53:0] is reserved. -/
structure BareF where
  (g : Guard) (rsv : BitVec 54)
  deriving DecidableEq, Repr
structure DeclF where
  (g : Guard) (bh : HReg) (sS sA sT : SReg) (rsv : BitVec 33)
  deriving DecidableEq, Repr
structure SpillrF where
  (g : Guard) (rsvA : BitVec 6) (sS : SReg) (rsv : BitVec 43)
  deriving DecidableEq, Repr
structure RelF where
  (g : Guard) (bh : HReg) (rsv : BitVec 48)
  deriving DecidableEq, Repr
/-- SHARE; FUNCT [53:52] is the row. -/
structure ShareF where
  (g : Guard) (bh : HReg) (sI : SReg) (acc : Bool) (rsv : BitVec 40)
  deriving DecidableEq, Repr
structure CopyF where
  (g : Guard) (bd bs : HReg) (sDO sSO sEXT sRC : SReg) (ec : EReg) (pub cnt : Bool) (rsv : BitVec 16)
  deriving DecidableEq, Repr
/-- GATHER and SCATTER. -/
structure GatherF where
  (g : Guard) (bd bs bi : HReg) (sIX sROW sRC : SReg) (ec : EReg) (cnt pub : Bool) (rsv : BitVec 15)
  deriving DecidableEq, Repr
structure FillF where
  (g : Guard) (bd : HReg) (sDO sEXT sV : SReg) (rsvA : BitVec 11) (ec : EReg) (pub cnt : Bool) (rsv : BitVec 16)
  deriving DecidableEq, Repr
structure WaitF where
  (g : Guard) (e : EReg) (sN : SReg) (rsv : BitVec 13) (imm : Word)
  deriving DecidableEq, Repr
/-- EVT; FUNCT [49:47] is the row. -/
structure EvtF where
  (g : Guard) (e : EReg) (s : SReg) (bh : HReg) (rsv : BitVec 36)
  deriving DecidableEq, Repr
structure FenceF where
  (g : Guard) (mask : BitVec 3) (rsv : BitVec 51)
  deriving DecidableEq, Repr
structure TbeginF where
  (g : Guard) (sd : SReg) (rsv : BitVec 49)
  deriving DecidableEq, Repr
/-- QUERY; SEL [48:41] is the row. -/
structure QueryF where
  (g : Guard) (sd sa : SReg) (clr : Bool) (rsv : BitVec 35)
  deriving DecidableEq, Repr

/-! ### Instruction word formats, Tables 11-2 to 11-15 -/

structure MmaF where
  (g : Guard) (bd ba bb : HReg) (sG sK sC sRC : SReg) (ec : EReg) (cnt pub : Bool) (rsv : BitVec 10)
  deriving DecidableEq, Repr
/-- VEW and VCMP. -/
structure VewF where
  (g : Guard) (bd ba bb : HReg) (func : BitVec 6) (sha shb : BitVec 2) (sX sVC sS : SReg) (ec : EReg)
  (cnt pub : Bool) (sW : SReg)
  deriving DecidableEq, Repr
structure VselF where
  (g : Guard) (bd ba bb bc : HReg) (sha shb : BitVec 2) (sX sVC sS : SReg) (ec : EReg) (cnt pub : Bool) (sW : SReg)
  deriving DecidableEq, Repr
structure VlutF where
  (g : Guard) (bd ba bt : HReg) (rsvA : BitVec 6) (sha : BitVec 2) (rsvB : BitVec 7) (sVC sS : SReg) (ec : EReg)
  (cnt pub : Bool) (sW : SReg)
  deriving DecidableEq, Repr
structure VredF where
  (g : Guard) (bd ba : HReg) (rsvA : BitVec 6) (opr : BitVec 4) (dir : BitVec 2) (nod : Bool) (rsvB : BitVec 8)
  (sVC sS : SReg) (ec : EReg) (cnt pub : Bool) (sW : SReg)
  deriving DecidableEq, Repr
/-- STS; FUNC [53:51] is the row. -/
structure StsF where
  (g : Guard) (bp bs bx bw bg : HReg) (sW sRC : SReg) (src endmb : Bool) (ec : EReg) (cnt pub : Bool) (rsv : BitVec 3)
  deriving DecidableEq, Repr
/-- UPD; FUNC [53:52] is the row. -/
structure UpdF where
  (g : Guard) (bc bt bs bu : HReg) (sH : SReg) (ec : EReg) (cnt pub : Bool) (rsv : BitVec 17)
  deriving DecidableEq, Repr
/-- COLL; FUNC [53:51] is the row. -/
structure CollF where
  (g : Guard) (bd bs : HReg) (sA sB sRC : SReg) (ec : EReg) (cnt pub : Bool) (rsv : BitVec 18)
  deriving DecidableEq, Repr

/-! ### Operands of host commands, frames and events -/

/-- The header of a host command (Table 15-6): the issuing queue pair, FLAGS, TAG, and whether a byte that
Table 15-7 does not name was non-zero (R425). -/
structure HostCmd where
  (qp : BitVec 12) (flags : Byte) (tag : Dword) (rsvSet : Bool)
  deriving DecidableEq, Repr

/-- A queue pair of the module: one of the 4,096 of R415, or one of the 64 store queue pairs of R421. -/
inductive QpRef where
  | host (i : BitVec 12)
  | store (i : BitVec 6)
  deriving DecidableEq, Repr

/-- Header of a peer frame (Table 14-2) with the port it arrived on. Reserved fields are ignored (R5). -/
structure FrameHdr where
  (port : Fin 12) (retx last : Bool) (ver : Byte) (epoch : Word) (sysid src dst : BitVec 16) (seq ack : Word)
  (trick : BitVec 48) (attempt : Byte) (jobid : Word)
  deriving DecidableEq, Repr

/-- State of a view entry (Table 14-4). -/
inductive MemState where
  | active | spare | dead
  deriving DecidableEq, Repr

structure ViewEntry where
  (mid : BitVec 9) (state : MemState) (site : Byte) (rank flevel : BitVec 16) (jobid : Word)
  deriving DecidableEq, Repr

/-- A view record whose form and CHECK are good (Table 14-4). -/
structure View where
  (epoch : Word) (sysid : BitVec 16) (fanout : Nat) (entries : List ViewEntry)
  deriving DecidableEq, Repr

/-- A DATA payload: the transfer header of R391 with its data and what the sender's instruction says of the transfer
(format, scale mode 0 none 1 tensor 2 block, elements of the buffer, range carried, bytes in all, root or origin rank), or
the header of R391 with a piece of a member's pass-one results (R209), whose bytes normOfBytes reads. The spec does not lay out
the latter two. -/
inductive DataMsg where
  | xfer (ctx : CtxId) (func : BitVec 3) (tag : BitVec 16) (k : Nat) (fmt : BitVec 3) (mode : BitVec 2)
      (total first count len : Nat) (root : BitVec 16) (off : Nat) (data : List Byte)
  | norms (ctx : CtxId) (off : Nat) (data : List Byte)
  deriving DecidableEq, Repr

/-- STATE traffic (R438, R443, R449, R452), and the comparison of first trick numbers (R460): the spec names its contents
and gives no byte layout. -/
inductive StateMsg where
  /-- The length of the sender's shard, from which S follows (R441). -/
  | shardLength (point p len : Nat)
  | parityChunk (point p : Nat) (off : Nat) (data : List Byte)
  | refreshRefused (point : Nat)
  | logCopy (entry : List Byte)
  | rebuildRequest
  | rebuildRefused
  | rebuildChunk (chunk size off : Nat) (data : List Byte)
  | rebuildParity (size off : Nat) (data : List Byte)
  | rebuildLog (entries : List (List Byte))
  /-- A substitute's ADMIT has completed (R449). -/
  | rebuilt
  | stripeRequest (bufid : BitVec 12) (stripe : Nat) (fmt : BitVec 3) (rows cols : Nat) (mode block dir : BitVec 2)
  | firstTrick (trick : Nat)
  | trickSkew
  deriving DecidableEq, Repr

/-- Verdict of a seal message (Table 08-2). -/
inductive Verdict where
  | ok | void | halt
  deriving DecidableEq, Repr

/-- Physical unit kinds in the numbering of Table 17-6. -/
inductive UnitKind where
  | tile | engine | bank | channel | seat | lane
  deriving DecidableEq, Repr

/-- A physical unit: its kind and UNIT number (Table 17-6). -/
structure PUnit where
  (kind : UnitKind) (idx : Nat)
  deriving DecidableEq, Repr

/-- What has gone wrong in a tile while it computed an output tile: elements whose accumulated value differs (row, column, hi,
lo) and checksum cells whose reference differs (a row's or a column's, its index, the reference as FP32). late: the result of
the check comes after the tile's epilogue has begun (Table 05-8). With nothing listed the tile computed correctly. -/
structure TileErr where
  (els : List (Fin 128 × Fin 128 × Word × Word)) (cells : List (Bool × Fin 128 × Word)) (late : Bool)
  deriving DecidableEq, Repr

/-- What an uncorrectable LPDDR6 error hit (Table 16-1); trick is that of the work that met it (none: log entry 84). sum: a held sum in
a spill region, by its output tile's buffer and block coordinates. -/
inductive DramHit where
  | buffer (buf : Nat) (off : Nat) (trick : Option (BitVec 48))
  | spill (buf : Nat) (off : Nat) (trick : Option (BitVec 48))
  | sum (buf r c : Nat) (off : Nat) (trick : Option (BitVec 48))
  | kitty
  | code
  | package (p : Fin 12)
  | channelLost (ch : Fin 156)
  deriving DecidableEq, Repr

/-- The verdict of a third copy (R165). -/
inductive SpotVerdict where
  | aSuspect | bSuspect | both
  deriving DecidableEq, Repr

/-- The PLLs of Table 01-8. -/
inductive Pll where
  | group (d : Fin 56)
  | die (n : Fin 4)
  | hub
  deriving DecidableEq, Repr

/-- Why a peer frame is dropped on arrival (R390, R393, R408): uncorrectable is a FEC codeword past correction. -/
inductive DropWhy where
  | badCheck | uncorrectable | reservedClass | wrongVer | wrongSysid
  deriving DecidableEq, Repr
/-- Why a host port drops a frame (R412, R414): an unsupported protocol, an invariant CRC failure, an uncorrectable FEC codeword. -/
inductive HostDrop where
  | unsupported | icrc | uncorrectable
  deriving DecidableEq, Repr
/-- A frame a host port drops: the port and why. -/
structure BadFrame where
  (port : Fin 4) (why : HostDrop)
  deriving DecidableEq, Repr
/-- A member's answer to a stripe request (R452): the stripe, its stripe is damaged too, or it holds no such export. -/
inductive StripeAns where
  | stripe (data : List Byte) | damaged | notHeld
  deriving DecidableEq, Repr
/-- The member that answers, and its answer. -/
structure StripeReply where
  (src : BitVec 9) (ans : StripeAns)
  deriving DecidableEq, Repr
/-- The sender of a CM request: its queue pair number, retry count, RNR retry and local ACK timeout (Table 15-2). -/
structure CmPeer where
  (qpn : BitVec 24) (retry rnr : BitVec 3) (ackTimeout : BitVec 5)
  deriving DecidableEq, Repr

/-- The kinds with a rotation period (R471), in the bit order of HEALTH.ROTSTAT.DUE. -/
inductive RotKind where
  | tile | bank | engine | seat
  deriving DecidableEq, Repr

/-- The commands of the block: one constructor per row of spec/opcode_table.json, in the table's order. -/
inductive Instr where
  -- scalar and control
  | alu (c : CtxId) (f : AluF)
  | alui (c : CtxId) (f : AluiF)
  | li (c : CtxId) (f : LiF)
  | cmp (c : CtxId) (f : CmpF)
  | plog (c : CtxId) (f : PlogF)
  | br (c : CtxId) (f : BrF)
  | jal (c : CtxId) (f : JalF)
  | sld (c : CtxId) (f : SldF)
  | sst (c : CtxId) (f : SstF)
  | exit (c : CtxId) (f : BareF)
  | exitComplete (c : CtxId)
  -- buffers
  | decl (c : CtxId) (f : DeclF)
  | spillr (c : CtxId) (f : SpillrF)
  | rel (c : CtxId) (f : RelF)
  | shareExport (c : CtxId) (f : ShareF)
  | shareBind (c : CtxId) (f : ShareF)
  -- copies
  | copy (c : CtxId) (f : CopyF)
  | gather (c : CtxId) (f : GatherF)
  | scatter (c : CtxId) (f : GatherF)
  | fill (c : CtxId) (f : FillF)
  -- events, fences, tricks, queries
  | wait (c : CtxId) (f : WaitF)
  | waitSatisfied (c : CtxId)
  | evtRead (c : CtxId) (f : EvtF)
  | evtSet (c : CtxId) (f : EvtF)
  | evtAdd (c : CtxId) (f : EvtF)
  | evtBind (c : CtxId) (f : EvtF)
  | evtLocal (c : CtxId) (f : EvtF)
  | fence (c : CtxId) (f : FenceF)
  | fenceDrained (c : CtxId)
  | tbegin (c : CtxId) (f : TbeginF)
  | stalledTbeginResume (c : CtxId)
  | tseal (c : CtxId) (f : BareF)
  | queryTag (c : CtxId) (f : QueryF)
  | queryLastjoin (c : CtxId) (f : QueryF)
  | queryFlags (c : CtxId) (f : QueryF)
  | queryUpdstat (c : CtxId) (f : QueryF)
  | queryFeature (c : CtxId) (f : QueryF)
  | queryMembers (c : CtxId) (f : QueryF)
  | queryNumshare (c : CtxId) (f : QueryF)
  | sealedQueryResume (c : CtxId)
  -- matrix, vector, soft targets, update, collectives
  | mma (c : CtxId) (f : MmaF)
  | vew (c : CtxId) (f : VewF)
  | vsel (c : CtxId) (f : VselF)
  | vcmp (c : CtxId) (f : VewF)
  | vlut (c : CtxId) (f : VlutF)
  | vred (c : CtxId) (f : VredF)
  | fold (c : CtxId) (f : StsF)
  | loss (c : CtxId) (f : StsF)
  | finish (c : CtxId) (f : StsF)
  | grad (c : CtxId) (f : StsF)
  | pass1 (c : CtxId) (f : UpdF)
  | pass2 (c : CtxId) (f : UpdF)
  | rebuild (c : CtxId) (f : UpdF)
  | ared (c : CtxId) (f : CollF)
  | rscat (c : CtxId) (f : CollF)
  | agath (c : CtxId) (f : CollF)
  | bcast (c : CtxId) (f : CollF)
  | send (c : CtxId) (f : CollF)
  | recv (c : CtxId) (f : CollF)
  -- engine progress
  | engineWorkGrant (die : Fin 4) (kind : EngKind)
  | outputTileDrain (c : CtxId) (err : TileErr)
  | epilogue (die : Fin 4)
  | accumulatorSlotReload (c : CtxId) (buf : Nat) (r col : Nat)
  | spotDuplicateCompare (die : Fin 4) (mismatch : Bool)
  | thirdCopyVerdict (die : Fin 4) (v : SpotVerdict)
  | instructionComplete (c : CtxId) (kind : EngKind)
  | potReservationGrant
  | roomRequestGrant
  | roomRequestFail
  | stashSpillComplete (buf : Nat)
  | stashFillComplete (buf : Nat)
  | relocationComplete (buf : Nat)
  | hostStagingGrant
  | seatError (seat : Fin 18) (check : Byte)
  -- seal
  | moduleVoteOk (trick : BitVec 48)
  | sealVoteReceived (h : FrameHdr) (verdict : Verdict) (commit : Bool) (cause : BitVec 4) (origin : BitVec 16)
  | sealDecisionReceived (h : FrameHdr) (verdict : Verdict) (commit : Bool) (cause : BitVec 4) (origin : BitVec 16)
  -- residency
  | swapOutComplete (c : CtxId)
  | swapInComplete (c : CtxId)
  | schedStuckTimeout
  -- host commands
  | admitJob (h : HostCmd) (iregion : BitVec 16) (ilen : Word) (ioff seed : Dword) (jobid epoch inpages : Word)
      (trick cursor : BitVec 48)
  | admissionImageReceived (image : List Byte)
  | endJob (h : HostCmd)
  | jobEndDrained
  | wipeComplete
  | resume (h : HostCmd)
  | own (h : HostCmd)
  | create (h : HostCmd) (entry : Byte) (shm shv shc : BitVec 16) (arg : Dword)
  | kill (h : HostCmd) (ctx : Byte)
  | regreg (h : HostCmd) (region : BitVec 16) (path access : Byte) (rkey : Word) (vaddr length : Dword) (qpn : Word)
      (addr : BitVec 128)
  | regdel (h : HostCmd) (region : BitVec 16)
  | inpub (h : HostCmd) (offset length : Dword)
  | cqbind (h : HostCmd) (log2n : Byte) (region : BitVec 16) (offset : Dword)
  | sqbind (h : HostCmd) (ring : Byte)
  | joinview (h : HostCmd) (region : BitVec 16) (len : Word) (offset : Dword)
  | override (h : HostCmd) (region : BitVec 16) (len : Word) (offset : Dword)
  | viewchg (h : HostCmd) (action : Byte) (mid rank spareMid : BitVec 16)
  | ckptcfg (h : HostCmd) (p : BitVec 16) (f : Word) (ta tb : BitVec 16) (aoff boff : Dword)
  | ckptnow (h : HostCmd)
  | restore (h : HostCmd) (region : BitVec 16) (offset length : Dword)
  -- connections and transport
  | cmReq (port : Fin 4) (role : Byte) (version : Byte) (rsvZero : Bool) (mtu : Nat) (peer : CmPeer)
  | cmRtu (qp : BitVec 12)
  | cmDreq (qp : QpRef)
  | cmDrep (qp : QpRef)
  | connectingTimeout (qp : BitVec 12)
  | qpErrorTimeout (qp : BitVec 12)
  | qpRetryExhausted (qp : QpRef)
  | controlSendReceived (qp : BitVec 12) (bytes : List Byte)
  | rdmaWriteReceived (qp : BitVec 12) (rkey : Word) (vaddr : Dword) (data : List Byte)
  | rdmaReadReceived (qp : BitVec 12) (rkey : Word) (vaddr : Dword) (len : Nat)
  | rdmaWriteAck (qp : QpRef)
  | cePacketReceived (port : Fin 4) (qp : QpRef)
  | cnpReceived (port : Fin 4) (qp : QpRef)
  | rateIncreaseTimer (qp : QpRef)
  | storeConnectReply (region : BitVec 16) (accepted : Bool)
  | storeConnectTimeout (region : BitVec 16)
  | storeReconnectTimer (region : BitVec 16)
  -- serving
  | sqtailWrite (ring : Fin 128) (value : Word)
  | submitEntryTaken (ring : Fin 128)
  | cancelEntryTaken (ring : Fin 128)
  | planFreeze
  | requestDeadlineExpiry (ring : Fin 128) (reqid : Dword)
  -- peer data, recovery traffic
  | dataFrameReceived (h : FrameHdr) (m : DataMsg)
  | stateFrameReceived (h : FrameHdr) (m : StateMsg)
  | refreshDoneReceived (h : FrameHdr) (point : Nat) (refused : Bool)
  | refreshCommitReceived (h : FrameHdr) (point : Nat)
  | shadowCopyComplete
  | checkpointWriteAck
  | substituteRebuildComplete
  | streamStripeRepair (buf : Nat) (stripe : Nat) (reply : StripeReply)
  -- peer links
  | linkKeepalive (port : Fin 12) (peer : BitVec 9)
  | linkAck (h : FrameHdr)
  | linkNak (h : FrameHdr) (expected : Word)
  | retransmitTimeout (port : Fin 12) (peer : BitVec 9)
  | hello (port : Fin 12) (sysid : BitVec 16) (peer : BitVec 9) (peerPort : Byte) (peerMac : BitVec 48) (revMin revMax : Byte)
  | helloTimer
  | lanecap (port : Fin 12) (reply : Bool)
  | fenced (h : FrameHdr) (epoch : Word) (refusedSeq : Word)
  | routeDownTimeout (port : Fin 12) (peer : BitVec 9)
  | peerSuspectTimeout (peer : BitVec 9)
  | laneFailure (port : Fin 12) (lane : Fin 9)
  | laneFecWindow (port : Fin 12) (lane : Fin 9) (symbolErrors : Nat)
  | spareLaneTrained (port : Fin 12)
  | portLinkUp (isHost : Bool) (port : Fin 12) (pmd : BitVec 2)
  | portLinkDown (isHost : Bool) (port : Fin 12)
  -- membership
  | prepare (h : FrameHdr) (newEpoch ballot : Word)
  | promise (h : FrameHdr) (newEpoch ballot : Word) (accepted : Option (Word × View))
  | accept (h : FrameHdr) (newEpoch ballot : Word) (view : View)
  | accepted (h : FrameHdr) (newEpoch ballot : Word)
  | commit (h : FrameHdr) (view : View)
  | suspect (h : FrameHdr) (mid : BitVec 9)
  | viewreq (h : FrameHdr)
  | view (h : FrameHdr) (v : View)
  | recon (h : FrameHdr) (decision : Option Verdict) (attempt : Byte) (trick : BitVec 48)
  | quorumTimeout
  | ballotRetryTimer
  | quarantineSelfTestComplete (failed : List PUnit)
  -- memory and unit health
  | dramUncorrectableError (hit : DramHit)
  | dramCorrectableError (ch : Fin 156)
  | spareChannelCopyComplete (p : Fin 12)
  | workingStoreCorrectedError (bank : Fin 528)
  | wsue (bank : Fin 528) (lost : List (Nat × Nat))
  | ringLinkLoss (link : Fin 4) (retryFailed : Bool)
  | hubLinkLoss (link : Fin 4)
  | escalationWindowExpiry
  | escalationStepSettled (domain : Fin 80)
  | rotationDue (kind : RotKind) (die : Fin 4)
  | spareTestComplete (u : PUnit) (pass : Bool)
  | rotationTargetTestComplete (u : PUnit) (pass : Bool)
  | longRotationTimeout (kind : RotKind) (die : Fin 4)
  | selfTestComplete (failed : List PUnit)
  -- Scoresheet
  | wearTimer
  | pageProgramComplete (ok : Bool)
  | recordReadbackComplete (matched : Bool)
  | sectorEraseComplete (ok : Bool)
  -- supply, temperature, reset, boot
  | startFilter
  | brace
  | braceEnd
  | resetLevel
  | overvoltage (millivolts : Nat)
  | overvoltageRelease
  | junctionHot
  | overtemperature
  | overtemperatureRelease
  | aonOscillatorStop
  | domainFault (d : Fin 80) (lostLock : Bool)
  | serdesReferenceChange (isPresent : Bool)
  | resetNAssert
  | resetNRelease
  | bootScoresheetRead (sfdp0 sfdp1 : Bool)
  | bootRepairLoad
  | bootholdRelease
  | bootDomainWave
  | pllLock (p : Pll)
  | dramTrainingComplete
  | bootReady
  -- register accesses with rows of their own
  | mresetWrite (qp : BitVec 12)
  | vminclr (qp : BitVec 12)
  | peakclr (qp : BitVec 12)
  | scoreLoadPatternSet (qp : BitVec 12) (region : BitVec 16)
  | scoreLoadKeySet (qp : BitVec 12) (region : BitVec 16)
  | scoreLoadReservedKind (qp : BitVec 12) (region : BitVec 16) (kind3 : Bool)
  | scoreLoadDataReceived (data : List Byte)
  | attestGo (qp : BitVec 12) (region : BitVec 16)
  | lowerTreeGenerated
  | attestReportWritten
  | loRegisterRead (qp : BitVec 12) (offset : BitVec 24)
  | hiRegisterRead (qp : BitVec 12) (offset : BitVec 24)
  | registerWrite (qp : BitVec 12) (offset : BitVec 24) (value : Word)
  -- SMBus and JTAG
  | smbReadVin
  | smbReadPin
  | smbReadDieTemp (die : Fin 4)
  | smbReadHubTemp
  | smbReadDramTemp
  | smbReadStatus
  | smbUndefinedAccess (isWrite : Bool) (code : Byte)
  | jtagBypass
  | jtagIdcode
  | jtagSample
  | jtagPreload
  | jtagExtest
  | jtagExtestPulse
  | jtagExtestTrain
  -- rows added at the end of the table
  | powerOn (millivolts : Nat)
  | recoveryFilterStart
  | hotCleared
  | strapContactChange (contacts : BitVec 15)
  | seatCorrectedError (seat : Fin 18) (refetch : Bool)
  | ringOrHubFrameRetryExhausted (trick : BitVec 48)
  | viewRecordReceived (record : List Byte)
  | restoreRecordReceived (record : List Byte)
  | forwardedViewchgReceived (h : FrameHdr) (action : Byte) (mid rank spareMid : BitVec 16)
  | keepaliveReceived (h : FrameHdr)
  | peerFrameDropped (port : Fin 12) (why : DropWhy)
  | arpFrameReceived (isHost : Bool) (port : Fin 12) (isReply : Bool) (addr : BitVec 128) (mac : BitVec 48)
  | icmpEchoReceived (isHost : Bool) (port : Fin 12) (dst : BitVec 128) (payload : List Byte)
  | pfcFrameReceived (isHost : Bool) (port : Fin 12) (priority : BitVec 3) (pause : Bool)
  | unsupportedHostFrame (frame : BadFrame)
  | refusedRocePacket (port : Fin 4) (qp : Option (BitVec 12))
  | localAckTimeout (qp : QpRef)
  | roceNakReceived (qp : QpRef) (sequence : Bool)
  deriving DecidableEq, Repr

end Sys2Proof
end

