-- ==== Sys2Proof/Config.lean ====
section
/-! DEFINITION. What one module fixes and what the spec leaves free, as constants with no body: nothing can be proved
of their values. Each is named in the log entry its docstring gives. -/

namespace Sys2Proof

/-- A byte of host memory read through a HOST buffer: the read's number, the region, the offset (log entry 16). -/
opaque Config.hostByte : Nat → Nat → Nat → Byte

/-- SHA-256 of a message; RFC 8554 names the function, the spec gives no procedure (log entry 10). -/
opaque Config.sha256 : List Byte → BitVec 256
/-- Whether an HSS signature verifies: public key, message, signature (R517; log entry 9). -/
opaque Config.hssVerify : List Byte → List Byte → List Byte → Bool
/-- Byte i of what no rule states of the lower signature of a message at a leaf (R520, R524; log entry 10). -/
opaque Config.hssSigByte : Nat → List Byte → Nat → Byte
/-- Byte i of what no rule states of lower tree t's LMS public key and of the upper signature over it (log entry 10). -/
opaque Config.lowerKeyByte : Nat → Nat → Byte
opaque Config.upperSigByte : Nat → Nat → Byte

/-- Fused identity (R505, R506, R517; log entry 12). -/
opaque Config.serial : BitVec 48
opaque Config.assemblyLot : BitVec 42
opaque Config.dieFuses : Nat → BitVec 71
opaque Config.hostMac : Nat → BitVec 48
opaque Config.peerMac : Nat → BitVec 48
opaque Config.pubKeyByte : Nat → Byte
opaque Config.vendorKeyHash : BitVec 256
/-- The module's own MID, which its HELLO carries before any view names it (R393; log entry 12). -/
opaque Config.ownMid : BitVec 9
/-- Manufacturer field of IDCODE, given in the boundary-scan description file (R549; log entry 12). -/
opaque Config.jtagMaker : BitVec 12

/-- A value the spec leaves undefined, by its number (log entry 16). -/
opaque Config.freeValue : Nat → BitVec 64
/-- The square of a pair whose lo is not zero, as PSUMSQ's leaf: hi in bits 31 to 0, lo above (R161; log entry 85). -/
opaque Config.pairSquare : Word → Word → BitVec 64

end Sys2Proof
end

