-- ==== Sys2Proof/Machine/State.lean ====
section
/-! DEFINITION. The state of the KZ-1 as plain data: everything INVENTORY.md lists under State. The names follow the
spec's own (files 02 to 21); State.reset is the module at a cold reset, before boot step 1 (log entry 15). -/

namespace Sys2Proof.Machine

/-- A floating-point value taken apart: NaN, an infinity, or (-1)^s * m * 2^e (m = 0 for a zero). -/
inductive Fp where
  | nan
  | inf (s : Bool)
  | fin (s : Bool) (m : Nat) (e : Int)
  deriving DecidableEq, Repr

/-! ### Formats, scales, buffers (files 03, 06, 09) -/

/-- Element formats in the encoding order of Table 09-2 (FMT 0 to 6). -/
inductive Fmt where
  | v8 | g8 | bf16 | fp16 | fp32 | u32 | byte
  deriving DecidableEq, Repr

/-- Placement classes in the encoding order of Table 09-2 (CLASS 0 to 6). -/
inductive Cls where
  | stream | resident | stash | pot | state | input | host
  deriving DecidableEq, Repr

/-- Direction of block scales (Table 03-5). -/
inductive Dir where
  | row | col | square
  deriving DecidableEq, Repr

/-- Scale mode of a buffer (R77): none, a tensor scale with its load and store factors, or block scales of size b,
held in the scale buffer sbuf (a buffer number of the job). -/
inductive Scale where
  | none
  | tensor (tload tstore : Word)
  | block (b : Nat) (dir : Dir) (auto : Bool) (sbuf : Nat)
  deriving DecidableEq, Repr

/-- The sticky flags of Table 03-10: bit 0 NX, 1 UF, 2 OF, 3 NV, 4 EMPTY. -/
abbrev Fl := BitVec 5

/-- Memory in canonical form: addresses strictly rising, no byte equal to what an unlisted address reads as. -/
abbrev Memory := List Host.Cell

/-- The three counts NUMSTAT keeps per format (Table 03-11). -/
structure NumRow where
  (seen ovf van : Nat)
  deriving DecidableEq, Repr

/-- NUMSTAT counts of the five formats (R111). -/
structure NumCnt where
  (v8 g8 bf16 fp16 fp32 : NumRow)
  deriving DecidableEq, Repr

/-- Where a working-store buffer lies (R181, R190, R191): placed, waiting for room, being spilled, spilled, being filled. -/
inductive Place where
  | placed | waiting | spilling | spilled | filling
  deriving DecidableEq, Repr

/-- One position of a POT buffer: the context that reserved it, home die, reserved bytes, trick that reserved it, the record bytes (Table 02-4), the
tap records (R61), and whether all of it has been written (R50). -/
structure PotRec where
  (ctx : CtxId) (pos die size trick : Nat) (data : List Byte) (taps : List (List Byte)) (done : Bool)
  deriving DecidableEq, Repr

/-- A buffer of the job (Table 09-2, Table 10-7). -/
structure Buffer where
  (id : Nat) (owner : CtxId) (handle : Nat) (cls : Cls) (fmt : Fmt) (rows cols : Nat) (scale : Scale) (prio : Nat)
  -- POT shape (R52): positions, K, tap bytes per position
  (potP potK potTap : Nat)
  -- HOST region, and OFFSET of HOST and INPUT
  (region offset : Nat)
  (mem : Memory)
  (place : Place) (inAside : Option Nat) (moving : Bool) (lastAccess : Nat)
  -- trick of the declaration (withdrawn by its void), of a release that waits for its seal, and the immediate release
  (declTrick : Option Nat) (relTrick : Option Nat) (released : Bool) (dead : Bool)
  -- export: BUFID, write access granted, trick that issued it
  (exp : Option (Nat × Bool × Option Nat))
  -- publish count of sealed tricks, and of open tricks (R254)
  (pubSealed : Word) (pubOpen : List (Nat × Nat))
  (recs : List PotRec)
  -- NFREC of its output tiles by number, block row × 2^32 + block column (R92), and the elements that exchanges gave it in open tricks: trick, first, count (R204)
  (nfrecs : List (Nat × Word)) (exchanged : List (Nat × Nat × Nat))
  deriving DecidableEq, Repr

/-! ### Contexts (file 09) -/

/-- Buffer handle entry: the buffer it names, OWNER and WRITE; the other fields of Table 09-2 are the buffer's. -/
structure Hnd where
  (buf : Nat) (owner write : Bool)
  deriving DecidableEq, Repr

/-- Event counter: its value, and the buffer it is bound to, if BOUND (R252, R253). -/
structure Ctr where
  (val : Word) (bound : Option Nat)
  deriving DecidableEq, Repr

/-- The architectural state a snapshot holds (Table 09-1). -/
structure Arch where
  (pc : Dword) (regs : Vector Dword 32) (preds : Vector Bool 8) (ctrs : Vector Ctr 16)
  (hnds : Vector (Option Hnd) 64) (cur : Fl)
  deriving DecidableEq, Repr

/-- An open trick the context has joined: its number, whether its TSEAL was issued, the TBEGIN snapshot (R222), and the
completions that named a LOCAL counter since the snapshot, each with its trick tag (R255). -/
structure Joined where
  (trick : Nat) (tsealed : Bool) (snap : Arch) (incs : List (Nat × EReg))
  deriving DecidableEq, Repr

/-- What an open trick has done to a context's SEALED flags: SEALED becomes (SEALED and keep) or add at its seal (R109). -/
structure FlagTrick where
  (trick : Nat) (keep add : Fl)
  deriving DecidableEq, Repr

/-- A provisional fault (R268): trick, attempt, status, PC. -/
structure Prov where
  (trick : Nat) (att : Byte) (status : Byte) (pc : Dword)
  deriving DecidableEq, Repr

/-- Rounding control (Table 03-8). -/
structure Rc where
  (sr : Bool) (stream : BitVec 16) (base : Word)
  deriving DecidableEq, Repr

/-- One operation of an epilogue chain (Table 11-4), its look-up table as read at issue. -/
structure EpiOp where
  (func sh : Nat) (opnd : Option Nat) (swap : Bool) (imm : Word) (table : List Byte)
  deriving DecidableEq, Repr

/-- Mask of a vector instruction or epilogue (R147): its kind, buffer, polarity and mode. -/
structure Mask where
  (kind : Nat) (buf : Option Nat) (pol mz : Bool)
  deriving DecidableEq, Repr

/-- An epilogue descriptor as read at issue (R308). -/
structure Epi where
  (ops : List EpiOp) (mask : Mask) (red rdir : Nat) (part : Option Nat)
  deriving DecidableEq, Repr

/-- A gradient bucket as an update pass names it (R561): its buffer, the update record, the record's half size, the tensor's
number in the list, E_INIT. -/
structure Bkt where
  (buf bu hr idx : Nat) (einit : Int)
  deriving DecidableEq, Repr

/-- An update pass as R561 looks back to it: its trick, the buffer it publishes and whether it has, the contexts that it precedes
from here on, each with the trick it had joined last: the one that issued it (R263), and those that have observed its publish
(R264); the buckets it names. -/
structure BktPass where
  (uid : Nat) (trick : Nat) (pub : Option Nat) (seen : List (CtxId × Option Nat)) (bkts : List Bkt)
  deriving DecidableEq, Repr

/-- MMA with its operand words (Table 11-3). begin: 0 ZERO, 1 ACC, 2 LOAD. -/
structure MmaOp where
  (bd ba bb row0 nrow col0 ncol k0 kn bgn : Nat) (drain ta tb pair pairst : Bool) (wrole site : Nat)
  (lb : Option Nat) (epi : Option Epi) (rc : Rc)
  deriving DecidableEq, Repr

/-- A vector source operand (R145): shape 0 FULL, 1 ROWB, 2 COLB, 3 SCALAR. -/
structure VSrc where
  (sh : Nat) (buf : Option Nat) (sx : Word)
  deriving DecidableEq, Repr

/-- The kind of a vector instruction. -/
inductive VKind where
  | ew (func : Nat)
  | sel
  | cmp (func : Nat)
  | lut (table : List Byte)
  | red (opr dir : Nat) (nod : Bool)
  deriving DecidableEq, Repr

/-- A vector instruction with its operand words (Tables 11-6, R311, R312). -/
structure VecOp where
  (kind : VKind) (bd : Option Nat) (a b : VSrc) (bc : Option Nat) (mask : Mask) (rc : Rc) (row0 nrow rows cols : Nat)
  deriving DecidableEq, Repr

/-- A tap of the parameter block (Table 11-10). -/
structure TapPrm where
  (layer proj : Nat) (bf16 : Bool) (dtap hsrc sval tgrad : Nat) (gamma : Word)
  deriving DecidableEq, Repr

/-- The parameter block as read at issue (Table 11-10); buffers by number of the job, and the MASK handle itself. -/
structure StsPrm where
  (v k mkind : Nat) (maskH : Byte) (t alpha : Word) (mask keys labels lacc : Nat) (taps : List TapPrm)
  deriving DecidableEq, Repr

/-- A soft-target instruction: func 0 FOLD, 1 LOSS, 2 FINISH, 3 GRAD. -/
structure StsOp where
  (func bp bs bx : Nat) (bw bg : Option Nat) (p0 n : Nat) (rc : Rc) (src endmb : Bool) (prm : StsPrm)
  deriving DecidableEq, Repr

/-- A coefficient: base value and schedule index (R196). -/
structure Coef where
  (v0 : Word) (sched : Option Nat)
  deriving DecidableEq, Repr

/-- A group descriptor of the coefficient table (Table 07-1). -/
structure Group where
  (moments p : Nat) (epsOut sign trust : Bool) (wfmt grow : Nat) (coefs : List Coef)
  deriving DecidableEq, Repr

/-- A schedule record (Table 07-2). -/
structure Sched where
  (kind npt t0 : Nat) (pts : List (Nat × Word))
  deriving DecidableEq, Repr

/-- A tensor list entry (Table 07-3), buffers by number of the job. -/
structure TensorE where
  (bucket : Nat) (work : Option Nat) (einit : Int) (group count boff soff : Nat)
  deriving DecidableEq, Repr

/-- What the update passes read at issue (R198). -/
structure UpdPrm where
  (clip : Coef) (groups : List Group) (scheds : List Sched) (tensors : List TensorE)
  deriving DecidableEq, Repr

/-- An update pass: func 0 PASS1, 1 PASS2, 2 REBUILD; hs are its handle fields. -/
structure UpdOp where
  (func bc bt bs bu hb : Nat) (hs : List Nat) (prm : UpdPrm)
  deriving DecidableEq, Repr

/-- A collective or peer transfer: func 0 ARED to 5 RECV; k is its match number (R328, R332); raw: its sRC names s0. -/
structure CollOp where
  (func : Nat) (bd bs : Option Nat) (rank tag first count : Nat) (rc : Rc) (raw : Bool) (k : Nat)
  deriving DecidableEq, Repr

/-- An engine instruction with its operands as read at issue. -/
inductive EOp where
  | copy (bd bs dr dc sr sc rows cols : Nat) (rc : Rc)
  | gather (bd bs bi ix cnt row : Nat) (rc : Rc)
  | scatter (bd bs bi ix cnt row : Nat) (rc : Rc)
  | fill (bd dr dc rows cols : Nat) (v : Word)
  | mma (m : MmaOp)
  | vec (v : VecOp)
  | sts (t : StsOp)
  | upd (u : UpdOp)
  | coll (k : CollOp)
  deriving DecidableEq, Repr

/-- What a begun-waiting engine instruction waits for (Table 12-6 codes 2, 3, 4, 8, 9, 10; R561). -/
inductive EWait where
  | pot | room | coll | pin | stage | record | bucket | moving
  deriving DecidableEq, Repr

/-- A fault found after issue: status, handle, DETAIL. -/
structure Late where
  (status : Byte) (handle : Byte) (detail : Dword)
  deriving DecidableEq, Repr

/-- An entry of an engine queue. units: die and charge of the work units still to be granted (R347); cells: for an MMA, the
output tile (block row and column) of each of these units, in the same order; begun: its work has begun; settled: every effect on buffers is in place; bkts: the
buffers it names that are gradient buckets for it (R561); hnds: the handle by which it names each buffer (Table 09-6). -/
structure QE where
  (uid : Nat) (op : EOp) (trick : Nat) (pc insn : Dword) (ec : Option EReg) (pub : Option Nat) (sum : Option SReg)
  (sumVal : Dword) (reads writes : List Nat) (units : List (Nat × Nat)) (cells : List (Nat × Nat)) (granted : Bool)
  (wait : Option EWait) (begun settled : Bool) (flags : Fl) (late : Option Late) (bkts : List Bkt)
  (hnds : List (Nat × Byte))
  deriving DecidableEq, Repr

/-- Why a seat stalls with its PC at the instruction (R252, R220, R281, R296, R300, R191, R282). -/
inductive Stall where
  | wait (e : EReg) (n : Word) (insn : Dword)
  | tbegin (sd : SReg) (insn : Dword)
  | exit
  | fence (mask : BitVec 3)
  | qflags (sd sa : SReg) (clr : Bool)
  | sealedQuery (sel : Nat) (sd sa : SReg)
  | room
  deriving DecidableEq, Repr

/-- Residency of a context (Table 12-10 CSTATE). -/
inductive Resid where
  | resident | out | swapOut | swapIn
  deriving DecidableEq, Repr

/-- A context of the job: architectural state, trick state, queues, residency and accounting. rdyM, rdyV, rdyC: it has ready
work of the kind (R349). -/
structure Ctx where
  (arch : Arch) (sealedFl : Fl) (flagTricks : List FlagTrick) (tag : Option Nat) (last : Option Nat)
  (joined : List Joined) (prov : Option Prov) (faulted : Bool) (halted : Bool)
  (qm qv qc : List QE)
  (stall : Option Stall) (blocked : Bool) (since : Dword)
  (resid : Resid) (seat : Option (Fin 18))
  (rvt passM passV passC : Dword) (rdyM rdyV rdyC : Bool) (shm shv shc : BitVec 16)
  (tile lane copy cswaps : Nat)
  -- spill region: bytes; the trick of its SPILLR; the sizes of storage withdrawn and kept aside (R558)
  (spill : Option Nat) (spillTrick : Option Nat) (aside : List Nat)
  -- collectives issued per open trick: (trick, count); transfers: (trick, send, peer, tag, count)
  (collK : List (Nat × Nat))
  deriving DecidableEq, Repr

/-! ### Engines (files 04, 05) -/

/-- The checksum of one logical row or column of an output tile (R134): the running reference, the running magnitude, and
whether an infinity or NaN has entered it (R135). -/
structure ChkLine where
  (ref mag : Fp) (skip : Bool)
  deriving DecidableEq, Repr

/-- The checksum state of an output tile (R134): K, its columns and its rows. -/
structure Chk where
  (k : Nat) (cols rows : List ChkLine)
  deriving DecidableEq, Repr

/-- A failed tile check as the checksum event word reports it (Table 04-6). -/
structure CheckFail where
  (die tile row col : Nat) (rowValid colValid : Bool)
  deriving DecidableEq, Repr

/-- Where a held sum lies: in its slot of the accumulator buffer, spilled to the working store, or from there to its
context's spill region, or the kept-aside one of a size (R117, R189, R558). -/
inductive SumAt where
  | slot | store
  | region (aside : Option Nat)
  deriving DecidableEq, Repr

/-- A copy R560 keeps of a held sum: the trick whose first product it precedes, the sum, its checksum state. -/
structure SumCopy where
  (trick : Nat) (acc : List (Word × Word)) (chk : Chk)
  deriving DecidableEq, Repr

/-- An output tile: its buffer and block coordinates, the context that began it and the trick, the physical tile and slot
(the even one of a pair, R115), the sum row-major (hi, lo) with its checksum state, where it lies, and the copies R560 keeps.
live is false once it has drained and only a void could bring it back. -/
structure OutTile where
  (buf r c : Nat) (ctx : CtxId) (trick : Nat) (pair : Bool) (die tile slot : Nat) (acc : List (Word × Word)) (chk : Chk)
  (lies : SumAt) (live : Bool) (saved : List SumCopy)
  deriving DecidableEq, Repr

/-- An output tile that has received its last product under DRAIN and keeps its slot (R159), or a finished-tile queue entry
(Table 05-7, epi). fail is a failed check whose result comes after the epilogue has begun (Table 05-8). -/
structure FinTile where
  (uid : Nat) (ctx : CtxId) (trick : Nat) (buf r c h w : Nat) (pair : Bool) (acc : List (Word × Word)) (chk : Chk)
  (die tile slot : Nat) (nfrec : Word) (epi : Bool) (fail : Option CheckFail)
  deriving DecidableEq, Repr

/-- What room in the working store is asked for (R191, R189): a buffer's placement, its filling, a slot spill of an output
tile of the buffer, or the copy of R560 of one for a trick. -/
inductive RoomKind where
  | place | fill
  | slot (r c : Nat)
  | copy (r c trick : Nat)
  deriving DecidableEq, Repr

/-- A room request (R191): the context it arose from, the buffer, what for, and what a fault record would name (Table 09-6):
the trick of the instruction, its PC and word, the handle. uid: the queue entry it arose from, 0 for one of a seat. -/
structure RoomReq where
  (ctx : CtxId) (buf : Nat) (kind : RoomKind) (trick : Option Nat) (pc insn : Dword) (handle : Byte) (uid : Nat)
  deriving DecidableEq, Repr

/-- A staged write (R227): a host write (region, offset, bytes), or the place of an EMIT, whose tokens stand in toks. -/
inductive Staged where
  | host (trick ctx region off : Nat) (data : List Byte)
  | emit (trick : Nat)
  deriving DecidableEq, Repr

/-! ### Seal (file 08) -/

/-- A vote held for a trick: from this module (rank none) or from a child. -/
structure VoteR where
  (rank : Option Nat) (verdict : Verdict) (commit : Bool) (cause : BitVec 4) (origin : BitVec 16)
  deriving DecidableEq, Repr

/-- The update of a trick (R195, R198, R209): issuing context, operands, results of pass one and pass two; p2uid, p2bu: pass two and the buffer
it names as its update record. -/
structure UpdRec where
  (ctx : CtxId) (uid : Nat) (op : UpdOp) (evald : List (List Word)) (held : Bool) (nf : Bool) (clipF : Word)
  (etas : List Word) (mods : List (Word × Word × Word × Word)) (nfbs : List Bool) (amax : List Word)
  (p2issued p2begun p2done nf2 wwrote : Bool) (p2pc : Dword) (p2uid p2bu : Nat) (got : List Nat)
  deriving DecidableEq, Repr

/-- An output tile as the Dealer has dealt it in a trick (R185): its physical tile and its K-steps. -/
structure Dealt where
  (buf r c die tile ksteps : Nat)
  deriving DecidableEq, Repr

/-- What one open trick has gathered on this member. place: the matrix tiles it is placed over with their clocks, fixed at its boundary (R182); dealt: its output tiles' places (R121, R185); rebuilt: the REBUILDs that have run in it, by uid (R217). -/
structure TrickRec where
  (place : List (Nat × Nat)) (dealt : List Dealt) (att abase : Byte) (begun : Bool) (voted : Option Verdict) (votes : List VoteR) (fwdOk fwdVoid : Bool)
  (recorded : Option (BitVec 4)) (counts : NumCnt) (loss : Option (Word × Word)) (finIssued : Bool)
  (sites : List (Nat × List Nat)) (upd : Option UpdRec) (rebuilt : List Nat) (cursorBytes : Nat)
  (xfers : List (Bool × Nat × Nat × Nat))
  deriving DecidableEq, Repr

/-! ### Serving (file 13) -/

/-- A submission ring's counts (R363) and the queue pair SQBIND gave it (Table 15-9). -/
structure SRing where
  (head tail : BitVec 12) (refused : BitVec 16) (bound : Option (BitVec 12))
  deriving DecidableEq, Repr

/-- Request states of Table 13-3; an ENDED request is kept while an unsealed plan holds it. -/
inductive ReqState where
  | queued | prefill | generate | ended
  deriving DecidableEq, Repr

/-- A held request (R364 to R382): the entry's fields, its slot, the prompt tokens planned, the tokens produced, the
token ring entries written, whether EMIT has ended it, and the cancels waiting for it (their count). -/
structure Req where
  (ring : Fin 128) (reqid : Dword) (nlog2 : Nat) (arrival : Dword) (deadline : Option Nat)
  (promptOff promptLen maxNew : Nat) (stop : BitVec 24) (rregion ringOff : Nat) (param : List Byte)
  (state : ReqState) (slot : Option Nat) (planned produced wrote : Nat) (emitEnded : Bool) (cancels : Nat)
  deriving DecidableEq, Repr

/-- A plan entry (Table 13-4): kind 1 PREFILL, 2 PREFILL_LAST, 3 GENERATE. -/
structure PlanE where
  (slot kind d pos count inoff : Nat) (ring : Fin 128) (reqid : Dword) (param : List Byte) (isNew : Bool) (produced : Nat)
  deriving DecidableEq, Repr

/-- A frozen plan (R371): its trick, entries, whether it is published, and whether its EMIT was taken, in the current attempt. -/
structure Plan where
  (trick : Nat) (ents : List PlanE) (published taken : Bool)
  deriving DecidableEq, Repr

/-- A token staged for a request (R376): its flags are those of Table 13-2. -/
structure TokStage where
  (trick : Nat) (ring : Fin 128) (reqid : Dword) (slot pos : Nat) (tok : BitVec 24) (first last stopped drafted : Bool)
  deriving DecidableEq, Repr

/-! ### Recovery (file 16) -/

/-- A trick log entry (Table 16-3). -/
structure LogE where
  (trick : Nat) (loss : Option (Word × Word)) (skip proof : Bool) (att : Byte) (epoch : Word) (cursor : Nat)
  deriving DecidableEq, Repr

/-- A member's Kitty shard (R441): header fields, update-record half, state-image half. -/
structure Shard where
  (trick cursor : Nat) (epoch : Word) (hb hr : Nat) (record img : List Byte)
  deriving DecidableEq, Repr

/-- A parity generation: the point it belongs to and its bytes; none is invalid. -/
structure Parity where
  (point : Nat) (data : List Byte)
  deriving DecidableEq, Repr

/-- What a member is told of a refresh: the length of another's shard, a piece of a chunk, a done report, a refusal. -/
inductive RefreshMsg where
  | length (n : Nat)
  | piece (off : Nat) (data : List Byte)
  | done
  | refused
  deriving DecidableEq, Repr

/-- A refresh in progress (R443): the pinned shard, the shard lengths of the Kitty by rank (R441), the size of a chunk (0: not
known yet), the parity being built, the bytes received by rank, done reports, commit. -/
structure Refresh where
  (point : Nat) (pinned : Shard) (lens : List (Nat × Nat)) (z : Nat) (building : List Byte) (got : List (Nat × Nat))
  (doneSelf : Bool) (doneFrom : List Nat) (sentUp committed ckpt : Bool) (tags : List HostCmd)
  deriving DecidableEq, Repr

/-- A checkpoint write in progress (R456): the shard, the target being written (0 A, 1 B), and the step awaiting its
acknowledgement: 0 zero header, 1 data, 2 header, or waiting for trick R's seal; the regions and offsets of both targets as they
were when it began (region 0: none); when the step's write was last sent. -/
structure CkWrite where
  (shard : Shard) (target step : Nat) (awaitSeal : Bool) (aOk bOk : Bool) (tags : List HostCmd)
  (a b : Nat × Nat) (sent : Dword)
  deriving DecidableEq, Repr

/-- A substitute's rebuild (R449): its ADMIT, its chunks with their bytes received, the parity of its group with the
bytes received from each rank, the size of a chunk, whether the buddy log has come. -/
structure Rebuild where
  (cmd : HostCmd) (chunks : List (Nat × List Byte × Nat)) (par : List Byte) (parGot : List (Nat × Nat)) (size : Nat)
  (logGot : Bool)
  deriving DecidableEq, Repr

/-- What a survivor gathers for a substitute's rebuild (R449): the substitute's position once it has
asked, the XOR so far, the bytes
received from each rank. -/
structure Assist where
  (pos : Option Nat) (acc : List Byte) (got : List (Nat × Nat))
  deriving DecidableEq, Repr

/-- The recovery state of a job. -/
structure Recov where
  -- CKPTCFG: P, F, targets (region, offset); a CKPTCFG taken while a refresh runs; CKPTNOW requests
  (p f : Nat) (ta tb : Nat) (aoff boff : Nat) (pendCfg : Option (Nat × Nat × Nat × Nat × Nat × Nat))
  (nowReqs : List HostCmd)
  (shadow : Option Shard) (par0 par1 : Option Parity) (room : Nat)
  (refresh : Option Refresh) (ck : Option CkWrite)
  (pend : Option Shard) (proof : Option LogE) (proofHeld : Bool) (restored issuedT begunT skewStop : Bool)
  (srcFirst : Bool) (rebuild : Option Rebuild) (assist : Option Assist)
  -- refresh frames of a point this member has not reached: point, rank, offset, bytes
  (early : List (Nat × Nat × RefreshMsg))
  -- the point whose refresh has failed and been told to the neighbours (R446); ranks a substitute has taken in the view and not
  -- yet rebuilt (R449); the log entry of the point the shadow was restored or rebuilt to (R451)
  (failedAt : Option Nat) (filling : List Nat) (shadowLog : Option LogE)
  (imgBufs : Option (Nat × Nat × Nat × Nat))
  (tlog blog : List LogE)
  deriving DecidableEq, Repr

/-! ### Collectives (files 11, 14) -/

/-- Data of one transfer received from a member (R391, R328, R332): its key, its shape, the bytes placed so far. -/
structure Xfer where
  (trick : Nat) (att : Byte) (src : BitVec 9) (ctx : CtxId) (func tag k : Nat) (fmt : BitVec 3) (mode : BitVec 2)
  (total first count len : Nat) (root : BitVec 16) (mem : Memory) (got : Nat)
  deriving DecidableEq, Repr

/-- Pass-one results received from a member (R209). -/
structure NormMsg where
  (trick : Nat) (att : Byte) (src : BitVec 9) (groups : List (Word × Word × Word × Word)) (nf : Bool)
  (nfbs : List Bool) (amax : List Word)
  deriving DecidableEq, Repr

/-- A duplicate outstanding (R163): the die and engine of the original, its trick and attempt. -/
structure SpotDup where
  (die eng trick : Nat) (att : Byte)
  deriving DecidableEq, Repr

/-- A mismatch whose third copy is running (R165): die and engine of the original (a), the duplicate (b) and the third copy (c),
the trick and attempt. -/
structure Third where
  (die a bdie b cdie c trick : Nat) (att : Byte)
  deriving DecidableEq, Repr

/-! ### The job (file 12) -/

/-- An ADMIT being carried out (R335, R336): the command, its starting trick and cursor, the image's region and length, whether
a parameter was out of range or a job was here already, its job number and epoch. -/
structure Admission where
  (cmd : HostCmd) (trick cursor region len : Nat) (bad : Bool) (jobid epoch : Word)
  deriving DecidableEq, Repr

/-- Job states of Table 12-1. -/
inductive JobState where
  | idle | admitting | running | ending | wiping
  deriving DecidableEq, Repr

/-- The job: everything a wipe or a module reset clears. -/
structure Job where
  (state : JobState) (jobid : Word) (seed : Dword) (epoch : Word) (inpages : Nat) (feature : BitVec 16) (a2 : Bool)
  (code : List Byte) (entries : List Nat) (input : Memory)
  -- the ADMIT being carried out; END commands waiting; draining without FORCE
  (admission : Option Admission) (ends : List HostCmd) (draining : Bool)
  (ctxs : Vector (Option Ctx) 64) (dead : List (CtxId × Ctx))
  (bufs : List Buffer) (nextBuf nextUid : Nat)
  (tiles : List OutTile) (fins : List FinTile)
  -- buffers to be moved that the Dealer considers again at the next boundary (R183)
  (stay : List Nat)
  (potQ : List (Nat × CtxId)) (roomQ : List RoomReq) (stageQ : List (Nat × CtxId))
  (staged : List Staged) (toks : List TokStage)
  -- update passes issued, newest first, and the STATE buffers as the last decision left them (R561)
  (buckets : List BktPass) (fixed : List (Nat × Memory))
  (t0 t1 : TrickRec) (halt : Bool) (haltCause : BitVec 4)
  (evict : Option CtxId) (lagLeft : Nat) (stuckSince : Option Dword)
  -- update status of R210
  (updNf updNf2 updCommit wdirty updSel : Bool) (updC : Word)
  -- spot duplication (R163): operations per die, duplicates outstanding, third copies running
  (spotCnt : Vector Nat 4) (spotWait : List SpotDup) (spotThird : List Third)
  -- serving
  (subArea : Memory) (rings : List (Nat × SRing)) (reqs : List Req) (plans : List Plan)
  -- collectives
  (xfers : List Xfer) (norms : List NormMsg)
  (recov : Recov) (ranks0 : Nat)
  -- share registers written for contexts that do not exist (Table 12-10)
  (shareRegs : List (Nat × Word × Word))
  deriving DecidableEq, Repr

/-- The record of the last mismatch (SPOTLAST, Table 05-9). -/
structure SpotLast where
  (die engA engB engC : Nat) (verdict : Nat) (xdie valid : Bool)
  deriving DecidableEq, Repr

/-- The last void (LASTVOID and LVTRICK, Table 08-4). -/
structure LastVoid where
  (cause : BitVec 4) (isLocal next : Bool) (att : Byte) (origin : BitVec 16) (valid : Bool) (trick : Nat)
  deriving DecidableEq, Repr

/-- Counters and status an operator may read after the job (R537): they outlive a wipe. -/
structure Stat where
  (sealedN : Nat) (cursor : Nat)
  (num : NumCnt) (shares : List (Word × Word)) (numTrick : Nat) (numValid : Bool)
  (spotRun spotMis : Vector Nat 4) (spotLast : SpotLast)
  (potStall : Vector Nat 4) (potFrac : Vector Nat 4) (voids : Nat) (lastVoid : LastVoid)
  (swaps : Nat) (stuck exh : Bool) (plchg : Nat)
  (tok endOk endDl endCan endAbt : Nat) (emitErr subErr : Bool)
  -- KSTAT, RP, CK and RSTAT of Table 16-7
  (gen degraded noroom rfail mismatch : Bool) (kskips : Nat) (rp : Option Nat)
  (ckTrick : Nat) (ckA ckB ckValid : Bool)
  (rstStatus : Byte) (proofOk waived proofBad rngSkew rstValid : Bool)
  deriving DecidableEq, Repr

/-! ### Host attachment (file 15) -/

/-- Queue pair states of Table 15-4. -/
inductive QpState where
  | free | connecting | ready | error
  deriving DecidableEq, Repr

/-- A completion ring (R428): region, offset, size, entries written, and the drops it has told of (R430). -/
structure CRing where
  (region off log2n i seen : Nat)
  deriving DecidableEq, Repr

/-- A completion entry before its ring fields are filled (Table 15-8). -/
structure Compl where
  (kind status opc : Byte) (tag : Dword) (payload : List Byte)
  deriving DecidableEq, Repr

/-- A queue pair table entry: state, role (1 CONTROL, 2 MANAGE, 3 DATA), port, path MTU, peer QPN, the counter when it
entered CONNECTING or ERROR, its retry count, RNR retry and local ACK timeout (Table 15-2) and the times its oldest requests have
been sent again, its send rate in Gb/s and last congestion times (R413), its capture latches by HI offset
(R535), its completion ring, and the SENDs not yet taken (R417, R426). -/
structure Qp where
  (st : QpState) (role : Byte) (port : Fin 4) (mtu : Nat) (peer : BitVec 24) (since : Dword)
  (retry rnr timeout tries : Nat)
  (rate : Nat) (cnpSent cnpRcvd rateUp lowered : Option Dword) (latches : List (Nat × Word))
  (ring : Option CRing) (rx : List (List Byte))
  deriving DecidableEq, Repr

/-- A store queue pair (R421); its retry count, RNR retry and ACK timeout are 7, 7 and 14. -/
structure SQp where
  (region : Nat) (port : Fin 12) (ready : Bool) (since : Dword) (tries : Nat) (rate : Nat) (cnpSent cnpRcvd rateUp lowered : Option Dword)
  deriving DecidableEq, Repr

/-- A registered region (R420, R557): its carrier is a host queue pair, or the store at an address. pending is the
REGREG that waits for its store queue pair; retry is when the next reconnection is due (R422). -/
structure Region where
  (num : Nat) (peer : Bool) (qp : BitVec 12) (addr : BitVec 128) (read write : Bool) (rkey : Word) (vaddr length : Nat)
  (orphaned : Bool) (sqp : Option Nat) (pending : Option HostCmd) (retry : Option Dword) (deleting : Option HostCmd)
  deriving DecidableEq, Repr

/-- A host port: link up, PMD, PFC pause per priority, counters (Table 15-11). -/
structure HPort where
  (up pmd : Bool) (paused : BitVec 8) (cnpSent cnpRcvd icrc fec dropped : Nat)
  deriving DecidableEq, Repr

/-- What the module sends: its output stream, oldest first (log entry 14). A RoCEv2 message goes in packets of at most its queue
pair's path MTU, so that no frame is above 4,200 bytes (Tables 15-1, 15-2). -/
inductive Out where
  /-- RDMA WRITE to a region: queue pair, region, virtual address, bytes. -/
  | write (qp : QpRef) (region vaddr : Nat) (data : List Byte)
  /-- RDMA READ from a region. -/
  | read (qp : QpRef) (region vaddr len : Nat)
  | readReply (qp : BitVec 12) (words : List Word)
  | ack (qp : BitVec 12)
  /-- NAK: 0 invalid request, 1 remote access error, 2 RNR. -/
  | nak (qp : BitVec 12) (kind : Nat)
  | rep (port : Fin 4) (qp : BitVec 12) (data : List Byte)
  | rej (port : Fin 4) (code : Nat)
  /-- REQ to the store's QP1 (R421 step 3): path MTU, retry count, RNR retry, local ACK timeout, starting PSN, private data. -/
  | storeReq (port : Fin 12) (sqp : Nat) (addr : BitVec 128) (mtu retry rnr timeout psn : Nat) (data : List Byte)
  | rtu (qp : QpRef) | dreq (qp : QpRef) | drep (qp : QpRef)
  | cnp (qp : QpRef)
  | resend (qp : QpRef)
  /-- A peer transport frame (R386, R390): destination address and 802.1Q tag, then the header of Table 14-2 (its port is the
  port it leaves by), its class and LEN, and the payload. -/
  | frame (mac : BitVec 48) (pcp : BitVec 3) (vlan : BitVec 12) (h : FrameHdr) (cls : Byte) (len : Nat) (payload : List Byte)
  | arpReply (host : Bool) (port : Fin 12) (addr : BitVec 128)
  | arpRequest (port : Fin 12) (addr : BitVec 128)
  | echoReply (host : Bool) (port : Fin 12) (payload : List Byte)
  | smbWord (w : BitVec 16) (pec : Byte)
  | smbNack
  /-- JTAG: the register selected for the shift path (0 bypass, 1 idcode with its value, 2 boundary). -/
  | jtag (sel : Nat) (value : Word)
  deriving DecidableEq, Repr

/-- The header of a RoCEv2 message: priority, DSCP and ECN field (Tables 15-1 and 14-9); its VLAN is 0. -/
structure RoceHdr where
  (pcp : BitVec 3) (dscp : BitVec 6) (ecn : BitVec 2)
  deriving DecidableEq, Repr
/-- A message sent; hdr: of a RoCEv2 message. -/
structure Sent where
  (hdr : Option RoceHdr) (msg : Out)
  deriving DecidableEq, Repr

/-- What a write carries: staged bytes, an entry of a token ring, or a completion; own: it is the job owner's, to go back to the
holding queue. -/
inductive Carried where
  | bytes | token | compl (own : Bool) (c : Compl)
  deriving DecidableEq, Repr

/-- A write the module has issued and not had acknowledged: its queue pair, the trick it belongs to, its region, what it carries,
the queue pair whose ring a completion is for, and when it was last sent. -/
structure Unacked where
  (qp : QpRef) (trick : Option Nat) (region : Nat) (what : Carried) (tag : Nat) (sent : Dword)
  deriving DecidableEq, Repr

/-- An RDMA READ of the module's own: queue pair, region, virtual address, length, when it was last sent. -/
structure Rd where
  (qp : QpRef) (region vaddr len : Nat) (sent : Dword)
  deriving DecidableEq, Repr

/-- A view being read for a command: whether it is an OVERRIDE, its region, its length, whether the command itself was bad. -/
structure ViewRead where
  (cmd : HostCmd) (ovr : Bool) (region len : Nat) (bad : Bool)
  deriving DecidableEq, Repr
/-- A record being read for a RESTORE: its length, its region, whether the command itself was bad. -/
structure RestoreRead where
  (cmd : HostCmd) (len region : Nat) (bad : Bool)
  deriving DecidableEq, Repr

/-- A write of a trick waiting for the acknowledgements of an earlier trick (R431), in ascending trick; a completion of no
trick that waited in the holding queue stands among them in its order. -/
inductive HeldOut where
  | write (trick region off : Nat) (data : List Byte) (tokenRing : Bool)
  | ownerCompl (trick : Option Nat) (c : Compl)
  | compl (trick : Nat) (qp : BitVec 12) (c : Compl)
  deriving DecidableEq, Repr

structure HostSt where
  (qps : List (Nat × Qp)) (sqps : List (Nat × SQp)) (regions : List Region) (ports : Vector HPort 4)
  -- completions dropped, and how many of them a ring has been told of (R430)
  (owner : Option (BitVec 12)) (holding : List (Option Nat × Compl)) (lost told : Nat)
  -- queue pairs of the SENDs not yet taken, in order of arrival (R426)
  (arrived : List (BitVec 12))
  (unacked : List Unacked) (heldOut : List HeldOut)
  -- HOSTPORT.ERR
  (errLocked errCq errRing errWr errQp errCmd : Bool)
  -- MAC addresses resolved for store addresses
  (arp : List (BitVec 128 × BitVec 48))
  -- RDMA READs in order; the first 16 of each queue pair have been issued (Table 15-2)
  (reads : List Rd)
  -- what the reads are for: views, records, and images of ADMITs that found a job here
  (viewRead : List ViewRead) (restoreRead : List RestoreRead) (admitRead : List Admission)
  deriving DecidableEq, Repr

/-! ### Peer fabric and membership (file 14) -/

/-- A frame sent and not acknowledged on a route (R393). -/
structure TxFrame where
  (seq : Word) (cls : Byte) (trick : Nat) (att : Byte) (tries : Nat) (sent : Dword) (payload : List Byte) (last : Bool)
  (epoch jobid : Word)
  deriving DecidableEq, Repr

/-- A route: local port and peer, the peer's port and MAC, revision, sequence numbers, window, times; silent: it went down
because nothing arrived on it (R394, Table 14-7). -/
structure Route where
  (port : Fin 12) (peer : BitVec 9) (peerPort : Byte) (mac : BitVec 48) (rev : Byte) (up : Bool)
  (txSeq rxSeq : Word) (window : List TxFrame) (lastTx lastRx : Dword) (downSince : Dword) (silent : Bool)
  deriving DecidableEq, Repr

/-- A peer port (Table 14-9), with its lanes: retired, spare, symbol errors counted in the window. -/
structure PPort where
  (up : Bool) (pmd : BitVec 2) (direct : Bool) (spare retiredLane : BitVec 4) (training : Bool)
  (errDown errLane errRev errExh : Bool) (dropped retx crc fec : Nat) (paused : BitVec 8)
  deriving DecidableEq, Repr

/-- MEMBER.SELF.STATE. -/
inductive SelfState where
  | unjoined | active | spare | quarantine | offered
  deriving DecidableEq, Repr

/-- A coordinator's round (R399). -/
structure Round where
  (newEpoch ballot : Word) (accepting : Bool) (promises : List (BitVec 9 × Option (Word × View)))
  (accepts : List (BitVec 9)) (view : Option View) (since : Dword) (failed : Bool)
  deriving DecidableEq, Repr

/-- A change of view requested through this module (VIEWCHG): 1 add spare, 2 move rank, 3 remove; its command, if local. -/
structure ChgReq where
  (action : Nat) (mid rank spareMid : BitVec 16) (cmd : Option HostCmd) (coord : Bool)
  deriving DecidableEq, Repr

structure Fab where
  (ports : Vector PPort 12) (routes : List Route) (epoch : Word) (mid : BitVec 9) (self : SelfState)
  (view : Option View) (overridden : Bool)
  (promised : Word) (accepted : Option (Word × View)) (round : Nat) (coord : Option Round)
  (suspects reported : List (BitVec 9)) (chgs : List ChgReq)
  -- suspects whose every route was down because of silence (Table 14-7); a rewind that waits for the reconciliation (R447)
  (silentSus : List (BitVec 9)) (rewindDue : Bool)
  (recons : List (Nat × Option Verdict × Byte × Nat)) (reconciling : Bool) (reconWait : List (BitVec 9))
  -- frames held for a later epoch or attempt (R224, R402), as the commands that brought them
  (held : List Instr) (fenced : Bool) (qstage : Nat)
  (fSent fRcvd : Nat) (fEvent : Bool)
  -- frames with no usable route, in order
  (waiting : List (BitVec 9 × TxFrame))
  deriving DecidableEq, Repr

/-! ### Health and the Talon (file 17) -/

/-- Suspicion of one unit: event count, counter value of the last event, corrected errors in the window (R464, R466). -/
structure Susp where
  (u : PUnit) (n : Nat) (last : Option Dword) (ce : Nat)
  deriving DecidableEq, Repr

/-- A package's channel map (CHMAP, Table 06-7). pendMove: the index moves to the spare at the next trick to begin; unread: the
retired channel can no longer be read, and its spare is still under test (R174, R475). -/
structure ChMap where
  (spare retired moved : BitVec 4) (copying lost : Bool) (pendMove unread : Bool)
  deriving DecidableEq, Repr

/-- A spare being woken or tested, or ready (R475). -/
structure Wake where
  (u : PUnit) (forRetire : Bool) (passed : Bool)
  deriving DecidableEq, Repr

/-- A rotation of a kind on a die, or on the hub for seats (R471, R472). stage: 0 none, 1 spare wanted, 2 spare ready,
3 target under test, 4 an engine that has passed and returns at a boundary, 5 a test inside the trick (R473), 6 a seat whose context is to
move to the spare, 7 it is being swapped out for that, 8 a target that has failed and waits for its step. -/
structure Rot where
  (kind : RotKind) (die : Nat) (start : Dword) (lastUnit : Option Nat) (due : Bool) (dueSince : Dword) (stage : Nat)
  (target spare : Option Nat)
  deriving DecidableEq, Repr

/-- A step that waits for the trick boundary (R467, R491): voltage or clock of a domain, a retirement, or a unit whose domain
faulted leaving service. -/
inductive DueStep where
  | volt (d : Nat) | clock (d : Nat) | retire (u : PUnit) | leave (u : PUnit)
  deriving DecidableEq, Repr

/-- The last event (EVLAST, EVTRICK). -/
structure EvLast where
  (kind source unit step : Nat) (valid : Bool) (trick : Nat)
  deriving DecidableEq, Repr

structure Health where
  (failed nopat selftest : Bool) (fcause : Nat)
  (susp : List Susp) (window : Dword)
  (tret tspr : BitVec 224) (vret : BitVec 16) (bret bspr : BitVec 528) (cret cspr : BitVec 156)
  (sret sspr : BitVec 18) (lret lspr : BitVec 108)
  (vstep : Vector (BitVec 4) 80) (fstep : Vector (BitVec 2) 80) (keptOff retest : BitVec 80)
  (domFltAt : List (Nat × Dword)) (off : List PUnit)
  (due : List DueStep) (wakes : List Wake) (rots : List Rot) (rotLong : Bool)
  -- ring links lost, and the lost link that transfers have gone around since the last boundary (R22)
  (ringLost hubLost : BitVec 4) (ringRoute : Option Nat) (chmaps : Vector ChMap 12)
  (lost : List (Nat × Nat))
  (ev : EvLast) (evCount : Nat) (seen : List (PUnit × Nat × Byte)) (hours : List (Nat × Nat × Nat)) (wsMib : Vector Nat 4)
  deriving DecidableEq, Repr

/-! ### The always-on domain (file 18) -/

/-- The instruction in the JTAG port's instruction register (R549; log entry 32). -/
inductive Tap where
  | bypass | idcode | sample | preload | extest | extestPulse | extestTrain
  deriving DecidableEq, Repr

structure Aon where
  (counter : Dword) (oscOn : Bool) (contacts latch : BitVec 15)
  (vin vmin pin peak : BitVec 16) (temps : Vector Byte 4) (tempHub tempDram : Byte) (hot : Bool)
  (startFilter : Bool) (braceAt recover : Option Dword) (braces : Nat) (lastDur : BitVec 31) (lastValid : Bool)
  (rstCause : Nat) (bootStep waves : Nat) (hold : Bool) (ready : Bool)
  (holdOv holdOt holdRst : Bool)
  (domOn domFlt : BitVec 80) (refOk hubLock : Bool) (vsLock : BitVec 4) (tgPll : BitVec 56) (unlock : Nat)
  (asRun : Bool) (jtag : Tap)
  deriving DecidableEq, Repr

/-! ### The Scoresheet and attestation (file 19) -/

/-- A record requested for a region (R510, R514). -/
structure WReq where
  (region : Nat) (payload : List Byte)
  deriving DecidableEq, Repr

/-- The record being written (R510): its SEQ, device, slot offset, bytes, pages programmed, mismatches in this bank,
whether a page is being programmed. -/
structure Writing where
  (req : WReq) (seq dev slot : Nat) (bytes : List Byte) (done : Nat) (fails : Nat) (started : Bool)
  deriving DecidableEq, Repr

/-- A SCORE.LOAD in progress (R519). -/
structure LoadSt where
  (kind region len : Nat) (queued : Bool)
  deriving DecidableEq, Repr

structure Score where
  (f0 f1 : Memory) (ok0 ok1 : Bool) (erases : List (Nat × Nat)) (suspended : Bool)
  (queue : List WReq) (cur : Option Writing)
  (evdrop nolms norepair : Bool) (load : Option LoadSt) (loadStatus : Byte) (loadDone : Bool)
  (keys : List Byte) (keygen : Word) (pat : List Byte) (patver : Word) (limit : Option Nat) (hsslow : List Byte)
  (wearDue : Dword)
  deriving DecidableEq, Repr

/-- An attestation request being served (R525): its region, offset, report; waiting for a reservation, then for a tree. -/
structure AttReq where
  (region off : Nat) (report : List Byte) (waitResv waitTree : Bool)
  deriving DecidableEq, Repr

structure Att where
  (busy done overrun : Bool) (status : Byte) (next limit : Nat) (tree : Option Nat) (req : Option AttReq)
  (signed : List Byte)
  deriving DecidableEq, Repr

/-! ### Registers host software writes (file 20) -/

structure Cfg where
  (spot esc rot : Word) (sealCfg kcfg : Word) (mem : Word) (hp : Word) (hpIp : Vector Word 4) (pp : Word)
  (ppIp : Vector Word 12) (sched : Word) (serve0 serve1 : Word) (sqctl : Vector Word 128)
  (load loadLo loadHi loadLen : Word) (attCtl destLo destHi : Word) (nonce : Vector Word 8)
  deriving DecidableEq, Repr

/-! ### The whole machine -/

/-- The state of the module. pending is the block's queue, outbox its output stream, heldTx the RoCEv2 messages that wait for a
paused port (R386, R412), fresh the number of free values taken (log entry 16); the rest is the spec's. -/
structure State where
  (pending : List Instr) (outbox heldTx : List Sent) (fresh : Nat)
  (aon : Aon) (cfg : Cfg) (hl : Health) (fab : Fab) (host : HostSt) (job : Job) (stat : Stat) (att : Att) (score : Score)
  deriving DecidableEq, Repr

/-- Why the block stops. -/
inductive Fault where
  /-- OVERVOLTAGE or POWER_ON reporting a bus beyond the absolute maximum of Table 21-1: R540 defines no behaviour
  there. Safe: nothing is claimed of what follows. -/
  | beyondRatings
  deriving DecidableEq, Repr

/-- Why a command is refused. -/
inductive Refusal where
  /-- Raised by an arm of Machine/Dispatch.lean whose command has no meaning yet. Safe. -/
  | notModelled (mnemonic : String)
  deriving DecidableEq, Repr

/-! ### Reset

Every register at the Reset value of its table; where the spec gives a live or fused source, the value log entries 13
and 15 name. -/

/-- A bit vector with the listed bits set. -/
def bitsAt (w : Nat) (l : List Nat) : BitVec w := BitVec.ofNat w (l.foldl (fun a i => a + 2 ^ i) 0)

def Recov.empty : Recov where
  p := 0
  f := 0
  ta := 0
  tb := 0
  aoff := 0
  boff := 0
  pendCfg := none
  nowReqs := []
  shadow := none
  par0 := none
  par1 := none
  room := 0
  refresh := none
  ck := none
  pend := none
  proof := none
  proofHeld := false
  restored := false
  issuedT := false
  begunT := false
  skewStop := false
  srcFirst := false
  rebuild := none
  assist := none
  early := []
  failedAt := none
  filling := []
  shadowLog := none
  imgBufs := none
  tlog := []
  blog := []

def TrickRec.empty : TrickRec where
  place := []
  dealt := []
  att := 0
  abase := 0
  begun := false
  voted := none
  votes := []
  fwdOk := false
  fwdVoid := false
  recorded := none
  counts := ⟨⟨0, 0, 0⟩, ⟨0, 0, 0⟩, ⟨0, 0, 0⟩, ⟨0, 0, 0⟩, ⟨0, 0, 0⟩⟩
  loss := none
  finIssued := false
  sites := []
  upd := none
  rebuilt := []
  cursorBytes := 0
  xfers := []

/-- No job: the state a wipe leaves (R339). -/
def Job.cleared : Job where
  state := .idle
  jobid := 0
  seed := 0
  epoch := 0
  inpages := 0
  feature := 0
  a2 := false
  code := []
  entries := []
  input := []
  admission := none
  ends := []
  draining := false
  ctxs := Vector.replicate 64 none
  dead := []
  bufs := []
  nextBuf := 1
  nextUid := 1
  tiles := []
  fins := []
  stay := []
  potQ := []
  roomQ := []
  stageQ := []
  staged := []
  toks := []
  buckets := []
  fixed := []
  t0 := .empty
  t1 := .empty
  halt := false
  haltCause := 0
  evict := none
  lagLeft := 0
  stuckSince := none
  updNf := false
  updNf2 := false
  updCommit := false
  wdirty := false
  updSel := false
  updC := 0
  spotCnt := Vector.replicate 4 0
  spotWait := []
  spotThird := []
  subArea := []
  rings := []
  reqs := []
  plans := []
  xfers := []
  norms := []
  recov := .empty
  ranks0 := 0
  shareRegs := []

def Stat.reset : Stat where
  sealedN := 0
  cursor := 0
  num := ⟨⟨0, 0, 0⟩, ⟨0, 0, 0⟩, ⟨0, 0, 0⟩, ⟨0, 0, 0⟩, ⟨0, 0, 0⟩⟩
  shares := List.replicate 5 (0, 0)
  numTrick := 0
  numValid := false
  spotRun := Vector.replicate 4 0
  spotMis := Vector.replicate 4 0
  spotLast := ⟨0, 0, 0, 0, 0, false, false⟩
  potStall := Vector.replicate 4 0
  potFrac := Vector.replicate 4 0
  voids := 0
  lastVoid := ⟨0, false, false, 0, 0, false, 0⟩
  swaps := 0
  stuck := false
  exh := false
  plchg := 0
  tok := 0
  endOk := 0
  endDl := 0
  endCan := 0
  endAbt := 0
  emitErr := false
  subErr := false
  gen := false
  degraded := false
  noroom := false
  rfail := false
  mismatch := false
  kskips := 0
  rp := none
  ckTrick := 0
  ckA := false
  ckB := false
  ckValid := false
  rstStatus := 0
  proofOk := false
  waived := false
  proofBad := false
  rngSkew := false
  rstValid := false

def HPort.reset : HPort := ⟨false, false, 0, 0, 0, 0, 0, 0⟩

def HostSt.reset : HostSt where
  qps := []
  sqps := []
  regions := []
  ports := Vector.replicate 4 .reset
  owner := none
  holding := []
  lost := 0
  told := 0
  arrived := []
  unacked := []
  heldOut := []
  errLocked := false
  errCq := false
  errRing := false
  errWr := false
  errQp := false
  errCmd := false
  arp := []
  reads := []
  viewRead := []
  restoreRead := []
  admitRead := []

/-- A peer port after reset: spare lane 8, none retired (Table 14-9). -/
def PPort.reset : PPort where
  up := false
  pmd := 0
  direct := false
  spare := 8
  retiredLane := 15
  training := false
  errDown := false
  errLane := false
  errRev := false
  errExh := false
  dropped := 0
  retx := 0
  crc := 0
  fec := 0
  paused := 0

def Fab.reset : Fab where
  ports := Vector.replicate 12 .reset
  routes := []
  epoch := 0
  mid := 0
  self := .unjoined
  view := none
  overridden := false
  promised := 0
  accepted := none
  round := 0
  coord := none
  suspects := []
  reported := []
  chgs := []
  silentSus := []
  rewindDue := false
  recons := []
  reconciling := false
  reconWait := []
  held := []
  fenced := false
  qstage := 0
  fSent := 0
  fRcvd := 0
  fEvent := false
  waiting := []

/-- Spares at shipment (Table 17-4): tiles T52 to T55 of each die. -/
def shipTiles : BitVec 224 := bitsAt 224 ((List.range 4).flatMap fun n => [56 * n + 52, 56 * n + 53, 56 * n + 54, 56 * n + 55])
def shipBanks : BitVec 528 :=
  bitsAt 528 ((List.range 4).flatMap fun n => [132 * n + 64, 132 * n + 65, 132 * n + 130, 132 * n + 131])
def shipChans : BitVec 156 := bitsAt 156 ((List.range 12).map fun p => 13 * p + 12)
def shipLanes : BitVec 108 := bitsAt 108 ((List.range 12).map fun q => 9 * q + 8)

def ChMap.reset : ChMap := ⟨12, 15, 15, false, false, false, false⟩
def Rot.reset (k : RotKind) (die : Nat) : Rot := ⟨k, die, 0, none, false, 0, 0, none, none⟩

/-- Health at shipment (Tables 17-7 and 17-8). -/
def Health.reset : Health where
  failed := false
  nopat := false
  selftest := false
  fcause := 0
  susp := []
  window := 0
  tret := 0
  tspr := shipTiles
  vret := 0
  bret := 0
  bspr := shipBanks
  cret := 0
  cspr := shipChans
  sret := 0
  sspr := 0x30000
  lret := 0
  lspr := shipLanes
  vstep := Vector.replicate 80 0
  fstep := Vector.replicate 80 0
  keptOff := 0
  retest := 0
  domFltAt := []
  off := []
  due := []
  wakes := []
  rots := (List.range 4).flatMap (fun n => [.reset .tile n, .reset .bank n, .reset .engine n]) ++ [.reset .seat 0]
  rotLong := false
  ringLost := 0
  hubLost := 0
  ringRoute := none
  chmaps := Vector.replicate 12 .reset
  lost := []
  ev := ⟨0, 0, 0, 0, false, 0⟩
  evCount := 0
  seen := []
  hours := []
  wsMib := Vector.replicate 4 2880

/-- The domains powered before the waves of boot step 5: H-AON alone. -/
def onlyAon : BitVec 80 := 2 ^ 67
/-- H-AON at a cold reset (Table 18-9). DOMON and TGPLL reach their Reset values at the end of boot (log entry 15). -/
def Aon.reset : Aon where
  counter := 0
  oscOn := true
  contacts := 0
  latch := 0
  vin := 0
  vmin := 0xFFFF
  pin := 0
  peak := 0
  temps := Vector.replicate 4 0
  tempHub := 0
  tempDram := 0
  hot := false
  startFilter := false
  braceAt := none
  recover := none
  braces := 0
  lastDur := 0
  lastValid := false
  rstCause := 0
  bootStep := 0
  waves := 0
  hold := false
  ready := false
  holdOv := false
  holdOt := false
  holdRst := false
  domOn := onlyAon
  domFlt := 0
  refOk := false
  hubLock := false
  vsLock := 0
  tgPll := 0
  unlock := 0
  asRun := false
  jtag := .idcode

def Score.reset : Score where
  f0 := []
  f1 := []
  ok0 := true
  ok1 := true
  erases := []
  suspended := false
  queue := []
  cur := none
  evdrop := false
  nolms := false
  norepair := false
  load := none
  loadStatus := 0
  loadDone := false
  keys := []
  keygen := 0
  pat := []
  patver := 0
  limit := none
  hsslow := []
  wearDue := 0

def Att.reset : Att := ⟨false, false, false, 0, 0, 0, none, none, []⟩

/-- RW and RL registers at their Reset values. -/
def Cfg.reset : Cfg where
  spot := 0x40
  esc := 0x04A60FB8
  rot := 0x20804010
  sealCfg := 0x8
  kcfg := 0
  mem := 0x64
  hp := 0x2D3
  hpIp := Vector.replicate 4 0
  pp := 0x829C001D
  ppIp := Vector.replicate 12 0
  sched := 0x20400
  serve0 := 0x0800400C
  serve1 := 0
  sqctl := Vector.replicate 128 8
  load := 0
  loadLo := 0
  loadHi := 0
  loadLen := 0
  attCtl := 0
  destLo := 0
  destHi := 0
  nonce := Vector.replicate 8 0

/-- The machine right after a cold reset, before boot step 1 (log entry 15). -/
def State.reset : State where
  pending := []
  outbox := []
  heldTx := []
  fresh := 0
  aon := .reset
  cfg := .reset
  hl := .reset
  fab := .reset
  host := .reset
  job := .cleared
  stat := .reset
  att := .reset
  score := .reset

end Sys2Proof.Machine
end

