-- ==== Sys2Proof/Machine/Flags.lean ====
section
/-! DEFINITION. Number formats, arithmetic and the flags (file 03, and R142, R151 to R156 of file 05). Values travel
unpacked (Fp); every operation rounds through roundTo, the STORE procedure of R74, and the flags and NUMSTAT counts it
earns are gathered in Acc. -/

namespace Sys2Proof.Machine

/-! ### Flags and counts -/

/-- Flag bits of Table 03-10. -/
def flNX : Fl := 1
def flUF : Fl := 2
def flOF : Fl := 4
def flNV : Fl := 8
def flEMPTY : Fl := 16

def NumRow.zero : NumRow := ⟨0, 0, 0⟩
def NumCnt.zero : NumCnt := ⟨.zero, .zero, .zero, .zero, .zero⟩
def NumRow.add (a b : NumRow) : NumRow := ⟨a.seen + b.seen, a.ovf + b.ovf, a.van + b.van⟩
def NumCnt.add (a b : NumCnt) : NumCnt :=
  ⟨a.v8.add b.v8, a.g8.add b.g8, a.bf16.add b.bf16, a.fp16.add b.fp16, a.fp32.add b.fp32⟩

/-- The counts of a format; U32 and BYTE are not counted (R111). -/
def NumCnt.row (n : NumCnt) : Fmt → NumRow
  | .v8 => n.v8 | .g8 => n.g8 | .bf16 => n.bf16 | .fp16 => n.fp16 | .fp32 => n.fp32
  | .u32 | .byte => .zero

def NumCnt.bump (n : NumCnt) (f : Fmt) (d : NumRow) : NumCnt :=
  match f with
  | .v8 => { n with v8 := n.v8.add d }
  | .g8 => { n with g8 := n.g8.add d }
  | .bf16 => { n with bf16 := n.bf16.add d }
  | .fp16 => { n with fp16 := n.fp16.add d }
  | .fp32 => { n with fp32 := n.fp32.add d }
  | .u32 | .byte => n

/-- What a computation has set so far. -/
structure Acc where
  (fl : Fl) (num : NumCnt)
  deriving DecidableEq, Repr

def Acc.zero : Acc := ⟨0, .zero⟩

/-- A computation that sets flags and counts values. -/
abbrev FM := StateM Acc

def flag (f : Fl) : FM Unit := modify fun a => { a with fl := a.fl ||| f }
def count (f : Fmt) (seen ovf van : Bool) : FM Unit :=
  modify fun a => { a with num := a.num.bump f ⟨seen.toNat, ovf.toNat, van.toNat⟩ }

/-- Run a computation without its counts, its flags kept (R111: arithmetic inside soft-target instructions). -/
def uncounted {α : Type} (x : FM α) : FM α := fun a =>
  let r := x a
  (r.1, { r.2 with num := a.num })

/-! ### Formats, Tables 03-1 and 03-2 -/

/-- Mantissa width p. -/
def Fmt.p : Fmt → Nat
  | .v8 => 3 | .g8 => 2 | .bf16 => 7 | .fp16 => 10 | .fp32 => 23 | .u32 => 0 | .byte => 0
/-- Exponent field width. -/
def Fmt.eb : Fmt → Nat
  | .v8 => 4 | .g8 => 5 | .bf16 => 8 | .fp16 => 5 | .fp32 => 8 | .u32 => 0 | .byte => 0
def Fmt.bias : Fmt → Int
  | .v8 => 7 | .g8 => 15 | .bf16 => 127 | .fp16 => 15 | .fp32 => 127 | .u32 => 0 | .byte => 0
/-- Bytes of an element. -/
def Fmt.bytes : Fmt → Nat
  | .v8 => 1 | .g8 => 1 | .bf16 => 2 | .fp16 => 2 | .fp32 => 4 | .u32 => 4 | .byte => 1
def Fmt.isFloat : Fmt → Bool
  | .u32 => false | .byte => false | _ => true
/-- A matrix operand format (R72). -/
def Fmt.isMul : Fmt → Bool
  | .v8 | .g8 | .bf16 | .fp16 => true
  | .fp32 | .u32 | .byte => false

/-- Mantissa of the canonical NaN: its top bit (Table 03-2). -/
def Fmt.nanBits (f : Fmt) : Nat := (2 ^ f.eb - 1) * 2 ^ f.p + 2 ^ (f.p - 1)
def Fmt.infBits (f : Fmt) : Nat := (2 ^ f.eb - 1) * 2 ^ f.p
def Fmt.signBit (f : Fmt) (s : Bool) : Nat := if s then 2 ^ (f.p + f.eb) else 0

/-- The encoding is a subnormal one. -/
def isSubnormal (f : Fmt) (w : Nat) : Bool :=
  (w >>> f.p) % 2 ^ f.eb == 0 && w % 2 ^ f.p != 0

/-- An encoding taken apart, its value exact, subnormals included (used where R80 applies a word as written). -/
def unpackRaw (f : Fmt) (w : Nat) : Fp :=
  let s := w.testBit (f.p + f.eb)
  let ex := (w >>> f.p) % 2 ^ f.eb
  let m := w % 2 ^ f.p
  if ex = 2 ^ f.eb - 1 then (if m = 0 then .inf s else .nan)
  else if ex = 0 then .fin s m (1 - f.bias - f.p)
  else .fin s (2 ^ f.p + m) (ex - f.bias - f.p)

/-- An encoding as R73 and R562 read it: a subnormal is a zero of its sign. -/
def unpack (f : Fmt) (w : Nat) : Fp :=
  if isSubnormal f w then .fin (w.testBit (f.p + f.eb)) 0 0 else unpackRaw f w

/-! ### Rounding, R74 -/

/-- The result of a store: its encoding and flags. mode SR is `some r`. STORE(x, fmt, mode, r) of R74. -/
def roundTo (f : Fmt) (sr : Option Nat) (x : Fp) : Nat × Fl :=
  match x with
  | .nan => (f.nanBits, 0)
  | .inf s => (f.signBit s + f.infBits, 0)
  | .fin s m e =>
    if m = 0 then (f.signBit s, 0)
    else
      let l := m.log2
      let ex : Int := e + l
      let d := l - f.p
      let q := if l ≤ f.p then m <<< (f.p - l) else m >>> d
      let rem := if l ≤ f.p then 0 else m % 2 ^ d
      let up := match sr with
        | none => decide (2 * rem > 2 ^ d) || (decide (2 * rem = 2 ^ d) && decide (rem ≠ 0) && decide (q % 2 = 1))
        | some r => decide (rem * 65536 / 2 ^ d + r ≥ 65536)
      let q1 := if up then q + 1 else q
      let carry := decide (q1 = 2 ^ (f.p + 1))
      let ex1 := if carry then ex + 1 else ex
      let q2 := if carry then 2 ^ f.p else q1
      if ex1 > (2 : Int) ^ f.eb - 2 - f.bias then (f.signBit s + f.infBits, flOF ||| flNX)
      else if ex1 < 1 - f.bias then (f.signBit s, flUF ||| flNX)
      else (f.signBit s + (ex1 + f.bias).toNat * 2 ^ f.p + (q2 - 2 ^ f.p), if rem = 0 then 0 else flNX)

/-- Round to FP32 to nearest even (RNE32), with its flags. -/
def rnd (x : Fp) : FM Fp := do
  let r := roundTo .fp32 none x
  flag r.2
  return unpack .fp32 r.1

/-- The FP32 encoding of a value that is one already. -/
def toBits (x : Fp) : Word := BitVec.ofNat 32 (roundTo .fp32 none x).1
def ofBits (w : Word) : Fp := unpack .fp32 w.toNat
def fpZero : Fp := .fin false 0 0
def fpNegZero : Fp := .fin true 0 0
def fpOne : Fp := .fin false 1 0
def fpMinNormal : Fp := .fin false 1 (-126)
def Fp.isFinite : Fp → Bool
  | .fin _ _ _ => true
  | _ => false
def Fp.isNan : Fp → Bool
  | .nan => true
  | _ => false
def Fp.isZero : Fp → Bool
  | .fin _ 0 _ => true
  | _ => false
def Fp.sign : Fp → Bool
  | .nan => false
  | .inf s => s
  | .fin s _ _ => s
def Fp.neg : Fp → Fp
  | .nan => .nan
  | .inf s => .inf (!s)
  | .fin s m e => .fin (!s) m e
def Fp.abs : Fp → Fp
  | .nan => .nan
  | .inf _ => .inf false
  | .fin _ m e => .fin false m e
def Fp.ofInt (i : Int) : Fp := .fin (decide (i < 0)) i.natAbs 0
/-- Multiply by a power of two, exactly (R81, R82). -/
def Fp.scale (x : Fp) (k : Int) : Fp :=
  match x with
  | .fin s m e => .fin s m (e + k)
  | y => y

/-! ### Exact operations, R86 to R91 -/

/-- Signed significand at exponent e0 not above e. -/
def fpAt (s : Bool) (m : Nat) (e e0 : Int) : Int :=
  let v : Int := (m <<< (e - e0).toNat : Nat)
  if s then -v else v

/-- Exact sum, with the flags of R89. -/
def addX : Fp → Fp → Fp × Fl
  | .nan, _ => (.nan, 0)
  | _, .nan => (.nan, 0)
  | .inf s, .inf t => if s = t then (.inf s, 0) else (.nan, flNV)
  | .inf s, .fin _ _ _ => (.inf s, 0)
  | .fin _ _ _, .inf t => (.inf t, 0)
  | .fin s m e, .fin t n g =>
    if m = 0 ∧ n = 0 then (.fin (s && t) 0 0, 0)
    else if m = 0 then (.fin t n g, 0)
    else if n = 0 then (.fin s m e, 0)
    else
      let e0 := min e g
      let v := fpAt s m e e0 + fpAt t n g e0
      (.fin (decide (v < 0)) v.natAbs e0, 0)

def mulX : Fp → Fp → Fp × Fl
  | .nan, _ => (.nan, 0)
  | _, .nan => (.nan, 0)
  | .inf s, .inf t => (.inf (s != t), 0)
  | .inf s, .fin t n _ => if n = 0 then (.nan, flNV) else (.inf (s != t), 0)
  | .fin s m _, .inf t => if m = 0 then (.nan, flNV) else (.inf (s != t), 0)
  | .fin s m e, .fin t n g => (.fin (s != t) (m * n) (e + g), 0)

/-- Quotient to 64 significant bits with a sticky last bit, enough for one correct rounding to FP32 (R86). -/
def divX : Fp → Fp → Fp × Fl
  | .nan, _ => (.nan, 0)
  | _, .nan => (.nan, 0)
  | .inf _, .inf _ => (.nan, flNV)
  | .inf s, .fin t _ _ => (.inf (s != t), 0)
  | .fin s _ _, .inf t => (.fin (s != t) 0 0, 0)
  | .fin s m e, .fin t n g =>
    if n = 0 then (if m = 0 then (.nan, flNV) else (.inf (s != t), flOF))
    else if m = 0 then (.fin (s != t) 0 0, 0)
    else
      let k := 64 + n.log2
      let a := m <<< k
      let q := a / n
      let st := if a % n = 0 then 0 else 1
      (.fin (s != t) (2 * q + st) (e - g - k - 1), 0)

/-- Integer square root by bisection, one result bit a round from the top. -/
def isqrtGo (n : Nat) : Nat → Nat → Nat
  | 0, r => r
  | k + 1, r =>
    let c := r + 2 ^ k
    isqrtGo n k (if c * c ≤ n then c else r)
def isqrt (n : Nat) : Nat := isqrtGo n (n.log2 / 2 + 1) 0

def sqrtX : Fp → Fp × Fl
  | .nan => (.nan, 0)
  | .inf s => if s then (.nan, flNV) else (.inf false, 0)
  | .fin s m e =>
    if m = 0 then (.fin s 0 0, 0)
    else if s then (.nan, flNV)
    else
      let a := if e % 2 = 0 then m else 2 * m
      let e1 := if e % 2 = 0 then e else e - 1
      let n := a <<< 80
      let q := isqrt n
      let st := if q * q = n then 0 else 1
      (.fin false (2 * q + st) (e1 / 2 - 40 - 1), 0)

def fadd (a b : Fp) : FM Fp := do
  let r := addX a b
  flag r.2
  rnd r.1
def fsub (a b : Fp) : FM Fp := fadd a b.neg
def fmul (a b : Fp) : FM Fp := do
  let r := mulX a b
  flag r.2
  rnd r.1
def fdiv (a b : Fp) : FM Fp := do
  let r := divX a b
  flag r.2
  rnd r.1
def fsqrt (a : Fp) : FM Fp := do
  let r := sqrtX a
  flag r.2
  rnd r.1

/-! ### EXP and LN, R142 -/

/-- Fraction bits of the fixed-point evaluation: errors stay below 2^-170, so the nearest FP32 value is found. -/
def fxBits : Nat := 192
def fxOne : Int := (2 ^ fxBits : Nat)
def fxMul (a b : Int) : Int := a * b / fxOne

/-- Sum of y^i / i! from term t of index i, n more terms. -/
def expSeries (y : Int) : Nat → Nat → Int → Int
  | 0, _, _ => 0
  | n + 1, i, t => t + expSeries y n (i + 1) (fxMul t y / (i + 1 : Nat))
def squares : Nat → Int → Int
  | 0, v => v
  | n + 1, v => squares n (fxMul v v)
/-- e^x of a fixed-point x, by halving eight times. -/
def fxExp (x : Int) : Int := squares 8 (expSeries (x / 256) 50 0 fxOne)

/-- 2 atanh z: sum of 2 z^(2i+1) / (2i+1). -/
def atanhSeries (z2 : Int) : Nat → Nat → Int → Int
  | 0, _, _ => 0
  | n + 1, i, t => 2 * t / (2 * i + 1 : Nat) + atanhSeries z2 n (i + 1) (fxMul t z2)
def fxLn1 (num den : Int) : Int :=
  let z := (num - den) * fxOne / (num + den)
  atanhSeries (fxMul z z) 70 0 z
def fxLn2 : Int := fxLn1 2 1

/-- A fixed-point value as an Fp with a sticky last bit: never an FP32 value or a midpoint of two. -/
def ofFixed (v : Int) : Fp := .fin (decide (v < 0)) (2 * v.natAbs + 1) (-(fxBits : Int) - 1)

def expX : Fp → Fp × Fl
  | .nan => (.nan, 0)
  | .inf s => if s then (fpZero, 0) else (.inf false, 0)
  | .fin s m e =>
    if m = 0 then (fpOne, 0)
    else if e + m.log2 ≥ 7 then
      -- |x| at least 128: beyond the FP32 range either way
      (if s then .fin false 1 (-1000) else .fin false 1 1000, 0)
    else
      let x : Int := if e + fxBits ≥ 0 then (m <<< (e + fxBits).toNat : Nat) else (m >>> (-(e + fxBits)).toNat : Nat)
      (ofFixed (fxExp (if s then -x else x)), 0)

def lnX : Fp → Fp × Fl
  | .nan => (.nan, 0)
  | .inf s => if s then (.nan, flNV) else (.inf false, 0)
  | .fin s m e =>
    if m = 0 then (.inf true, flOF)
    else if s then (.nan, flNV)
    else
      let l := m.log2
      if m = 2 ^ l ∧ e + l = 0 then (fpZero, 0)
      else (ofFixed ((e + l) * fxLn2 + fxLn1 m (2 ^ l : Nat)), 0)

def fexp (a : Fp) : FM Fp := do
  let r := expX a
  flag r.2
  rnd r.1
def fln (a : Fp) : FM Fp := do
  let r := lnX a
  flag r.2
  rnd r.1

/-! ### Compares and order, R90, R153, R278 -/

/-- Exact order of two non-NaN values: negative, zero or positive. -/
def cmpX (a b : Fp) : Int :=
  match a, b with
  | .inf s, .inf t => (if s then -1 else 1) - (if t then -1 else 1)
  | .inf s, _ => if s then -1 else 1
  | _, .inf t => if t then 1 else -1
  | .fin s m e, .fin t n g =>
    let e0 := min e g
    fpAt s m e e0 - fpAt t n g e0
  | _, _ => 0
def fpEq (a b : Fp) : Bool := !a.isNan && !b.isNan && decide (cmpX a b = 0)
def fpLt (a b : Fp) : Bool := !a.isNan && !b.isNan && decide (cmpX a b < 0)
def fpLe (a b : Fp) : Bool := !a.isNan && !b.isNan && decide (cmpX a b ≤ 0)

/-- The total order of R153 on non-NaN values: −0 before +0. -/
def keyLt (a b : Fp) : Bool :=
  let c := cmpX a b
  decide (c < 0) || (decide (c = 0) && a.isZero && b.isZero && a.sign && !b.sign)
def fmax (a b : Fp) : Fp := if a.isNan || b.isNan then .nan else if keyLt a b then b else a
def fmin (a b : Fp) : Fp := if a.isNan || b.isNan then .nan else if keyLt b a then b else a

/-! ### Compensated pairs, R103 to R106 -/

abbrev Pair := Fp × Fp
def pairZero : Pair := (fpZero, fpZero)

def twoSum (a b : Fp) : FM Pair := do
  let s ← fadd a b
  if !s.isFinite then return (s, fpZero)
  let bb ← fsub s a
  let e1 ← fsub a (← fsub s bb)
  let e2 ← fsub b bb
  return (s, ← fadd e1 e2)
def fastTwoSum (a b : Fp) : FM Pair := do
  let s ← fadd a b
  if !s.isFinite then return (s, fpZero)
  return (s, ← fsub b (← fsub s a))
def pairAdd (a b : Pair) : FM Pair := do
  let (s, e) ← twoSum a.1 b.1
  let e ← fadd e (← fadd a.2 b.2)
  fastTwoSum s e
def pairScale (c : Fp) (x : Pair) : FM Pair := do
  fastTwoSum (← fmul c x.1) (← fmul c x.2)

/-! ### Loads and stores with scales, R73 to R83 -/

/-- What an element's load applies: nothing, a block scale byte, or a tensor factor. -/
inductive LScale where
  | none
  | blk (e : Nat)
  | ten (t : Fp)
  deriving DecidableEq, Repr

/-- Load an element to FP32 (R73, R79 to R81), with flags and NUMSTAT counts (Table 03-11). A subnormal element sets UF under
every scale, the NaN scale 0xFF included, beside its NV: DESIGN CHOICE, log entry 100. -/
def loadEl (f : Fmt) (sc : LScale) (w : Nat) : FM Fp := do
  let sub := isSubnormal f w
  let x := unpack f w
  if sub then flag flUF
  match sc with
  | .none =>
    count f true false sub
    return x
  | .blk e =>
    if e = 255 then
      flag flNV
      count f true false sub
      return .nan
    let r := roundTo .fp32 none (x.scale ((e : Int) - 127))
    flag r.2
    let y := unpack .fp32 r.1
    count f true (x.isFinite && !y.isFinite) (sub || (!x.isZero && y.isZero))
    return y
  | .ten t =>
    let p := mulX x t
    flag p.2
    let y ← rnd p.1
    count f true (x.isFinite && !y.isFinite && !y.isNan) (sub || (!x.isZero && y.isZero))
    return y

/-- What an element's store applies: nothing, a block exponent, or the tensor factor f_s. -/
inductive SScale where
  | none
  | blk (e : Nat)
  | ten (t : Fp)
  deriving DecidableEq, Repr

/-- Store an FP32 value (R74, R82) with rounding RNE or SR with random value r; flags and counts as Table 03-11. The
NaN scale stores the canonical NaN: DESIGN CHOICE for a scale byte 0xFF that a program has written (log entry 100). -/
def storeEl (f : Fmt) (sc : SScale) (sr : Option Nat) (x : Fp) : FM Nat := do
  let y ← match sc with
    | .none => pure x
    | .blk e => pure (if e = 255 then Fp.nan else x.scale (127 - (e : Int)))
    | .ten t => fmul x t
  let r := roundTo f sr y
  flag r.2
  if f ≠ .fp32 then
    let o := unpack f r.1
    count f true (x.isFinite && !o.isFinite && !o.isNan) (x.isFinite && !x.isZero && o.isZero)
  return r.1

/-- The smallest E in 0 to 254 with amax × 2^(127 − E) not above the largest finite value of f; 127 for no finite
non-zero element (R83). E is searched upward from 0. -/
def autoE (f : Fmt) (amax : Fp) : Nat :=
  match amax with
  | .fin _ m e =>
    if m = 0 then 127
    else
      -- largest finite value: (2^(p+1) − 1) × 2^(emax − p)
      let emax : Int := (2 : Int) ^ f.eb - 2 - f.bias
      let big : Fp := .fin false (2 ^ (f.p + 1) - 1) (emax - f.p)
      -- the exponents alone put E within one of e + log2 m + 127 − emax
      let e0 : Int := e + m.log2 + 127 - emax
      let ok (k : Int) : Bool := decide (cmpX (.fin false m (e + 127 - k)) big ≤ 0)
      let c : Int := if ok (e0 - 1) then e0 - 1 else if ok e0 then e0 else e0 + 1
      if c < 0 then 0 else if c > 254 then 254 else c.toNat
  | _ => 127

/-- One product of a matrix tile (R84): exact with both block exponents, rounded once. -/
def product (a b : Fp) (ea eb : Nat) : FM Fp := do
  let r := mulX a b
  flag r.2
  rnd (r.1.scale ((ea : Int) - 127 + ((eb : Int) - 127)))

/-! ### Shuffle, R100 and R101 -/

def rotl32 (x : Word) (k : Nat) : Word := (x <<< k) ||| (x >>> (32 - k))

def shuffleRounds (k0 k1 : Word) : Nat → Nat → Word × Word × Word × Word → Word × Word × Word × Word
  | 0, _, x => x
  | n + 1, rnd, (x0, x1, x2, x3) =>
    let x0 := x0 + x1
    let x3 := rotl32 (x3 ^^^ x0) 16
    let x2 := x2 + x3
    let x1 := rotl32 (x1 ^^^ x2) 12
    let x0 := x0 + x1
    let x3 := rotl32 (x3 ^^^ x0) 8
    let x2 := x2 + x3
    let x1 := rotl32 (x1 ^^^ x2) 7
    let x0 := x0 + k1
    let x2 := x2 + (k0 ^^^ BitVec.ofNat 32 (rnd + 1))
    shuffleRounds k0 k1 n (rnd + 1) (x0, x1, x2, x3)

/-- Shuffle(seed, trick, STREAM, lane, draw): the counter words of Table 03-9, then R101. -/
def shuffle (seed : Dword) (trick stream lane draw : Nat) : Dword :=
  let k0 : Word := seed.setWidth 32
  let k1 : Word := (seed >>> 32).setWidth 32
  let x0 : Word := BitVec.ofNat 32 trick
  let x1 : Word := BitVec.ofNat 32 (stream % 65536 * 65536 + trick / 2 ^ 32 % 65536)
  let x2 : Word := BitVec.ofNat 32 (draw % 65536 * 65536 + lane % 65536)
  let x3 : Word := BitVec.ofNat 32 (draw / 65536 % 65536)
  let (y0, y1, y2, y3) := shuffleRounds k0 k1 4 0 (x0 + k0, x1 + k1, x2, x3)
  (y1 ^^^ y3) ++ (y0 ^^^ y2)

/-- The random value of element i under a rounding control word (R97); none under RNE (R95). -/
def drawOf (seed : Dword) (trick : Nat) (rc : Rc) (i : Nat) : Option Nat :=
  if rc.sr then
    let n := i / 4
    let lane := n % 65536
    let draw := (rc.base.toNat + n / 65536) % 2 ^ 32
    some ((shuffle seed trick rc.stream.toNat lane draw).toNat >>> (16 * (i % 4)) % 65536)
  else none

/-! ### Reductions, R152 to R156 -/

/-- One level of the fixed binary tree: adjacent results combined, the lower index as left operand. -/
def treeLevel {α : Type} (comb : α → α → FM α) : List α → FM (List α)
  | a :: b :: rest => do
    let x ← comb a b
    let xs ← treeLevel comb rest
    return x :: xs
  | l => return l
def treeLevels {α : Type} (comb : α → α → FM α) : Nat → List α → FM (List α)
  | 0, l => return l
  | n + 1, l => do treeLevels comb n (← treeLevel comb l)

/-- TREE128 of R44: 128 leaves, seven levels; missing leaves are the identity. -/
def tree128 {α : Type} (comb : α → α → FM α) (ident : α) (leaves : List α) : FM α := do
  let l ← treeLevels comb 7 (leaves ++ List.replicate (128 - leaves.length) ident)
  return l.headD ident

def chunks128Go {α : Type} : Nat → List α → List (List α)
  | 0, _ => []
  | n + 1, l => if l.isEmpty then [] else l.take 128 :: chunks128Go n (l.drop 128)
/-- Successive groups of 128. -/
def chunks128 {α : Type} (l : List α) : List (List α) := chunks128Go (l.length / 128 + 1) l

/-- The group scheme of R152: TREE128 over each group, the group results combined in ascending order. -/
def reduce128 {α : Type} (comb : α → α → FM α) (ident : α) (leaves : List α) : FM α := do
  let parts ← (chunks128 leaves).mapM (tree128 comb ident)
  match parts with
  | [] => return ident
  | p :: ps => ps.foldlM comb p

/-- (value, index) pairs of R153: NaN first, then the order key, equal values to the lower index; the identity's index
0xFFFFFFFF loses to any live element. -/
def takeMax (a b : Fp × Nat) : Fp × Nat :=
  if a.1.isNan && b.1.isNan then (if b.2 < a.2 then b else a)
  else if a.1.isNan then a else if b.1.isNan then b
  else if keyLt a.1 b.1 then b else if keyLt b.1 a.1 then a
  else if b.2 < a.2 then b else a
def takeMin (a b : Fp × Nat) : Fp × Nat :=
  if a.1.isNan && b.1.isNan then (if b.2 < a.2 then b else a)
  else if a.1.isNan then a else if b.1.isNan then b
  else if keyLt b.1 a.1 then b else if keyLt a.1 b.1 then a
  else if b.2 < a.2 then b else a

/-! ### Non-finite record, R92 and R93 -/

/-- NFREC of a tile's values, given row by row in ascending order with their coordinates. -/
def nfrecOf (vals : List (Nat × Nat × Fp)) : Word :=
  match vals.find? (fun v => !v.2.2.isFinite) with
  | none => 0
  | some (r, c, x) =>
    let anyNan := vals.any (fun v => v.2.2.isNan)
    BitVec.ofNat 32 (1 + (if x.isNan then 2 else 0) + (if !x.isNan && x.sign then 4 else 0) + (if anyNan then 8 else 0)
      + r * 16 + c * 2048)

/-! ### The share fields of NUMSTAT, R112 -/

/-- floor(2^32 × count / SEEN), saturating; zero when SEEN is zero. -/
def shareOf (cnt seen : Nat) : Word :=
  if seen = 0 then 0 else BitVec.ofNat 32 (min (2 ^ 32 * cnt / seen) (2 ^ 32 - 1))

end Sys2Proof.Machine
end

