-- ==== Sys2Proof/Machine/Ops.lean ====
section
/-! DEFINITION. The named operations over memory, registers, contexts, buffers, faults and outputs that the meanings
share: one home per register (R251, R252), one fault procedure (R267 to R271), one place where a completion is posted
(R428 to R431). -/

namespace Sys2Proof.Machine

/-! ### Memory: sparse bytes in canonical form -/

/-- The byte at an address; an unlisted address reads as d (0 for buffers, 0xFF for flash; log entries 1 and 15). -/
def memRead (d : Byte) (m : Memory) (a : Nat) : Byte :=
  match m with
  | [] => d
  | (x, b) :: r => if x = a then b else memRead d r a

/-- The memory without its entry for an address. -/
def memDel (m : Memory) (a : Nat) : Memory := m.filter fun p => p.1 != a
/-- An entry put in its place, addresses rising. -/
def memIns (m : Memory) (a : Nat) (v : Byte) : Memory :=
  match m with
  | [] => [(a, v)]
  | (x, b) :: r => if a < x then (a, v) :: (x, b) :: r else (x, b) :: memIns r a v
/-- Write one byte, keeping the addresses rising and no entry equal to d. -/
def memWrite (d : Byte) (m : Memory) (a : Nat) (v : Byte) : Memory :=
  if v = d then memDel m a else memIns (memDel m a) a v

def memReadN (d : Byte) (m : Memory) (a : Nat) : Nat → List Byte
  | 0 => []
  | n + 1 => memRead d m a :: memReadN d m (a + 1) n

def memWriteN (d : Byte) (m : Memory) (a : Nat) : List Byte → Memory
  | [] => m
  | b :: r => memWriteN d (memWrite d m a b) (a + 1) r

/-- The canonical form: addresses strictly rising, no entry equal to d. -/
def Memory.wf (d : Byte) : Memory → Bool
  | [] => true
  | [(_, b)] => b != d
  | (x, b) :: (y, c) :: r => b != d && decide (x < y) && Memory.wf d ((y, c) :: r)

/-! ### Little-endian values -/

def leNat : List Byte → Nat
  | [] => 0
  | b :: r => b.toNat + 256 * leNat r
def leBytes (n : Nat) : Nat → List Byte
  | 0 => []
  | k + 1 => BitVec.ofNat 8 n :: leBytes (n / 256) k
/-- Byte i of a byte string; 0 past its end. -/
def byteAt (l : List Byte) (i : Nat) : Byte := l.getD i 0
/-- The little-endian value of n bytes at offset i. -/
def fieldAt (l : List Byte) (i n : Nat) : Nat := leNat ((l.drop i).take n)
def allZero (l : List Byte) : Bool := l.all (· == 0)
def zerosTo (l : List Byte) (n : Nat) : List Byte := l ++ List.replicate (n - l.length) 0
def ceilDiv (a b : Nat) : Nat := (a + b - 1) / b
def roundUp (a b : Nat) : Nat := ceilDiv a b * b
def satAdd (a d limit : Nat) : Nat := min (a + d) limit
def sat32 : Nat := 2 ^ 32 - 1
def sat16 : Nat := 2 ^ 16 - 1

/-- CRC-32C over bytes, bit by bit (polynomial 0x1EDC6F41 reflected, initial and final all ones; log entry 11). -/
def crcBits : Nat → Word → Word
  | 0, c => c
  | n + 1, c => crcBits n (if c.getLsbD 0 then (c >>> 1) ^^^ 0x82F63B78 else c >>> 1)
def crc32c (l : List Byte) : Word :=
  (l.foldl (fun c b => crcBits 8 (c ^^^ b.setWidth 32)) (BitVec.allOnes 32)) ^^^ BitVec.allOnes 32

/-! ### Status codes, Table 00-6 -/

def stOK : Byte := 0x00
def stVOIDED : Byte := 0x01
def stDEADLINE : Byte := 0x02
def stCANCELLED : Byte := 0x03
def stABORTED : Byte := 0x04
def stALREADY : Byte := 0x05
def stILLEGAL : Byte := 0x10
def stBUFFER : Byte := 0x11
def stSTASH : Byte := 0x12
def stTIED : Byte := 0x13
def stSKIP : Byte := 0x14
def stFENCED : Byte := 0x20
def stSTALE : Byte := 0x21
def stFEATURE : Byte := 0x22
def stMISMATCH : Byte := 0x30
def stRNGSKEW : Byte := 0x31
def stSIGNATURE : Byte := 0x40
def stLMS : Byte := 0x41

/-- Keep the greatest code among the failing conditions (R12). -/
def worst (a b : Option Byte) : Option Byte :=
  match a, b with
  | none, x => x
  | x, none => x
  | some x, some y => if x < y then some y else some x
def failIf (c : Bool) (s : Byte) : Option Byte := if c then some s else none

/-! ### Architectural registers (R251, R252) -/

/-- Read a scalar register; s0 is zero. -/
def Arch.reg (a : Arch) (r : SReg) : Dword := if r = 0 then 0 else a.regs.get r.toFin
/-- Write a scalar register; a write to s0 is discarded. -/
def Arch.setReg (a : Arch) (r : SReg) (v : Dword) : Arch :=
  if r = 0 then a else { a with regs := a.regs.set r.toNat v r.isLt }
def Arch.pred (a : Arch) (p : PReg) : Bool := if p = 0 then true else a.preds.get p.toFin
def Arch.setPred (a : Arch) (p : PReg) (v : Bool) : Arch :=
  if p = 0 then a else { a with preds := a.preds.set p.toNat v p.isLt }
def Arch.ctr (a : Arch) (e : EReg) : Ctr := a.ctrs.get e.toFin
def Arch.setCtr (a : Arch) (e : EReg) (c : Ctr) : Arch := { a with ctrs := a.ctrs.set e.toNat c e.isLt }
def Arch.hnd (a : Arch) (h : HReg) : Option Hnd := a.hnds.get h.toFin
def Arch.setHnd (a : Arch) (h : HReg) (x : Option Hnd) : Arch := { a with hnds := a.hnds.set h.toNat x h.isLt }
/-- A handle field read from an operand word or buffer: its low six bits name the entry. -/
def Arch.hndN (a : Arch) (h : Nat) : Option Hnd := a.hnd (BitVec.ofNat 6 h)

/-- The guard: p[PG] XOR PN (R274). -/
def Arch.guard (a : Arch) (g : Guard) : Bool := a.pred g.pg != g.pn

/-- PC advances to the next word. -/
def Arch.next (a : Arch) : Arch := { a with pc := a.pc + 8 }

/-! ### Contexts of the job -/

def Job.ctx? (j : Job) (c : CtxId) : Option Ctx := j.ctxs.get c
def Job.setCtx (j : Job) (c : CtxId) (x : Option Ctx) : Job := { j with ctxs := j.ctxs.set c.val x c.isLt }
def Job.modCtx (j : Job) (c : CtxId) (f : Ctx → Ctx) : Job :=
  match j.ctx? c with
  | none => j
  | some x => j.setCtx c (some (f x))
def ctxIds : List CtxId := List.finRange 64
/-- The contexts that exist, in ascending number. -/
def Job.ctxList (j : Job) : List (CtxId × Ctx) := ctxIds.filterMap fun c => (j.ctx? c).map fun x => (c, x)
def Job.mapCtxs (j : Job) (f : CtxId → Ctx → Ctx) : Job :=
  { j with ctxs := Vector.ofFn fun c => (j.ctxs.get c).map (f c) }

def Ctx.setArch (x : Ctx) (a : Arch) : Ctx := { x with arch := a }
def Ctx.queue (x : Ctx) : EngKind → List QE
  | .matrix => x.qm | .vector => x.qv | .copy => x.qc
def Ctx.setQueue (x : Ctx) (k : EngKind) (q : List QE) : Ctx :=
  match k with
  | .matrix => { x with qm := q }
  | .vector => { x with qv := q }
  | .copy => { x with qc := q }
/-- Issued, incomplete engine instructions of the context. -/
def Ctx.entries (x : Ctx) : List QE := x.qm ++ x.qv ++ x.qc
def Ctx.mapEntries (x : Ctx) (f : QE → QE) : Ctx := { x with qm := x.qm.map f, qv := x.qv.map f, qc := x.qc.map f }
def Ctx.filterEntries (x : Ctx) (f : QE → Bool) : Ctx :=
  { x with qm := x.qm.filter f, qv := x.qv.filter f, qc := x.qc.filter f }

/-- A scalar register awaits a summary (R158). -/
def Ctx.pendingReg (x : Ctx) (r : SReg) : Bool := r != 0 && x.entries.any fun q => q.sum == some r

/-- The context's tag, if it is open. -/
def Ctx.joinedAt (x : Ctx) (t : Nat) : Option Joined := x.joined.find? fun k => k.trick == t

def allEntries (j : Job) : List (CtxId × QE) :=
  j.ctxList.flatMap fun (c, x) => x.entries.map fun q => (c, q)
/-- Some issued, incomplete instruction of any context names the buffer (R190, R257). -/
def Job.named (j : Job) (b : Nat) : Bool :=
  (allEntries j).any fun (_, q) => q.reads.contains b || q.writes.contains b

/-! ### Buffers of the job -/

def Job.buf? (j : Job) (b : Nat) : Option Buffer := j.bufs.find? fun x => x.id == b
def Job.modBuf (j : Job) (b : Nat) (f : Buffer → Buffer) : Job :=
  { j with bufs := j.bufs.map fun x => if x.id = b then f x else x }
def Job.dropBuf (j : Job) (b : Nat) : Job := { j with bufs := j.bufs.filter fun x => x.id != b }

/-- The live buffer a handle names; none when the handle is invalid (Table 09-2, R257). -/
def Job.live (j : Job) (h : Option Hnd) : Option (Hnd × Buffer) :=
  match h with
  | none => none
  | some k =>
    match j.buf? k.buf with
    | none => none
    | some b => if !k.owner && (b.dead || b.exp.isNone) then none else some (k, b)

/-- Logical elements and bytes. POT buffers have no element view. -/
def Buffer.elems (b : Buffer) : Nat := b.rows * b.cols
def Buffer.bytes (b : Buffer) : Nat := b.rows * b.cols * b.fmt.bytes
/-- The encoding at flat element index i. -/
def Buffer.rawEl (b : Buffer) (i : Nat) : Nat := leNat (memReadN 0 b.mem (i * b.fmt.bytes) b.fmt.bytes)
def Buffer.setRawEl (b : Buffer) (i w : Nat) : Buffer :=
  { b with mem := memWriteN 0 b.mem (i * b.fmt.bytes) (leBytes w b.fmt.bytes) }
def Buffer.readBytes (b : Buffer) (off n : Nat) : List Byte := memReadN 0 b.mem off n
def Buffer.writeBytes (b : Buffer) (off : Nat) (l : List Byte) : Buffer := { b with mem := memWriteN 0 b.mem off l }

/-- Blocks of a scale along rows and columns, and the block of an element (Table 03-5, R78, R79). -/
def scaleCount (rows cols b : Nat) : Dir → Nat
  | .row => rows * ceilDiv cols b
  | .col => ceilDiv rows b * cols
  | .square => ceilDiv rows b * ceilDiv cols b
def scaleIdx (cols b : Nat) (d : Dir) (r c : Nat) : Nat :=
  match d with
  | .row => r * ceilDiv cols b + c / b
  | .col => r / b * cols + c
  | .square => r / b * ceilDiv cols b + c / b

/-- The scale buffer bound to a buffer. -/
def Buffer.scaleBuf (b : Buffer) : Option Nat :=
  match b.scale with
  | .block _ _ _ s => some s
  | _ => none
/-- The buffers an access to b reaches: b and its scale buffer (R263). -/
def Buffer.reach (b : Buffer) : List Nat := b.id :: b.scaleBuf.toList

/-- Scale byte of block i, from the bound scale buffer. -/
def Job.scaleByte (j : Job) (s i : Nat) : Nat :=
  match j.buf? s with
  | none => 127
  | some k => (memRead 0 k.mem i).toNat

/-! ### Capacity: R52, R168, R169, R177, R180, R181 -/

/-- Slots of 64 KiB an output tile takes, and the bytes of its sum (R115, Table 04-1). -/
def OutTile.slots (o : OutTile) : Nat := if o.pair then 2 else 1
def OutTile.bytes (o : OutTile) : Nat := 65536 * o.slots
/-- Working-store units an output tile takes as STASH data of its context: its sum, when spilled there, and the copies kept of
it, all on its tile's die (R189, R560; log entry 53). -/
def OutTile.wsUnits (o : OutTile) : Nat := 2 * o.slots * (o.saved.length + if o.live ∧ o.lies = .store then 1 else 0)
/-- Working-store units of 32 KiB a RESIDENT or STASH buffer takes on die d, its origin taken as 0 (log entry 8). -/
def Buffer.wsUnits (b : Buffer) (d : Nat) : Nat :=
  let br := ceilDiv b.rows 128
  let bc := ceilDiv b.cols 128
  let mine := (bc + 3 - d) / 4
  ceilDiv (br * mine * 16384 * b.fmt.bytes) 32768
/-- Job DRAM a buffer takes, in bytes (R180). -/
def Buffer.dram (b : Buffer) : Nat :=
  match b.cls with
  | .stream => roundUp (ceilDiv b.cols 128 * (ceilDiv b.rows 128 * 128 * 128 * b.fmt.bytes)) 4096
  | .state => roundUp b.bytes 4096
  | _ => 0
/-- Rows and columns of the scales of a data buffer, and the block column of the data that a column of them scales (Table 03-5). -/
def Buffer.scaleShape (y : Buffer) : Nat × Nat := match y.scale with
  | .block n .row _ _ => (y.rows, ceilDiv y.cols n)
  | .block n .col _ _ => (ceilDiv y.rows n, y.cols)
  | .block n .square _ _ => (ceilDiv y.rows n, ceilDiv y.cols n)
  | _ => (0, 0)
def Buffer.scaleCol (y : Buffer) (k : Nat) : Nat := match y.scale with
  | .block _ .col _ _ => k / 128
  | .block n _ _ _ => k * n / 128
  | _ => 0
/-- The data buffer a scale buffer is bound to. -/
def Job.scaledBy (j : Job) (b : Nat) : Option Buffer := j.bufs.find? fun y => y.scaleBuf == some b
/-- Units of a buffer on die d: each scale byte of a scale buffer bound to a data buffer lies on the die of the block it scales, a die's
columns of scales side by side in blocks padded like any other (R169; log entry 8). -/
def Job.wsUnits (j : Job) (b : Buffer) (d : Nat) : Nat := match j.scaledBy b.id with
  | none => b.wsUnits d
  | some y =>
    let mine := ((List.range y.scaleShape.2).filter fun k => y.scaleCol k % 4 == d).length
    ceilDiv (ceilDiv y.scaleShape.1 128 * ceilDiv mine 128 * 16384) 32768
def Buffer.inWs (b : Buffer) : Bool :=
  (b.cls == .resident || b.cls == .stash) && (b.place == .placed || b.place == .spilling || b.place == .filling)
/-- Units in use on die d. -/
def Job.wsUsed (j : Job) (d : Nat) : Nat :=
  j.bufs.foldl (fun a b => if b.inWs then a + j.wsUnits b d else a) 0 + (j.tiles.map fun o => if o.die = d then o.wsUnits else 0).sum
def Ctx.spillBytes (x : Ctx) : Nat := x.spill.getD 0 + x.aside.sum
/-- Job DRAM in use: input region, STREAM and STATE buffers, spill regions, Kitty area. -/
def Job.dramUsed (j : Job) : Nat :=
  j.inpages * 4096 + j.bufs.foldl (fun a b => a + b.dram) 0 + j.ctxList.foldl (fun a x => a + x.2.spillBytes) 0 + j.recov.room
/-- 958 GiB (R180). -/
def jobDram : Nat := 958 * 2 ^ 30
/-- Bytes of a POT buffer's record with its taps (R49, R52). -/
def potRecBytes (k tapb : Nat) : Nat := 16 * ceilDiv (16 + 5 * k) 16 + tapb
def potDieBytes : Nat := 201326592
/-- Home die of a position (R25, R51; log entry 8). -/
def homeDie (p : Nat) : Nat := p % 4
/-- Pot bytes in use on die d. -/
def Job.potUsed (j : Job) (d : Nat) : Nat :=
  j.bufs.foldl (fun a b => b.recs.foldl (fun a r => if r.die = d then a + r.size else a) a) 0

/-! ### Trick records (file 08) -/

/-- The record of an open trick: n, or n + 1. -/
def State.trick? (s : State) (t : Nat) : Option TrickRec :=
  if t = s.stat.sealedN then some s.job.t0 else if t = s.stat.sealedN + 1 then some s.job.t1 else none
def State.modTrick (s : State) (t : Nat) (f : TrickRec → TrickRec) : State :=
  if t = s.stat.sealedN then { s with job := { s.job with t0 := f s.job.t0 } }
  else if t = s.stat.sealedN + 1 then { s with job := { s.job with t1 := f s.job.t1 } }
  else s

def trickMax : Nat := 0xFFFFFFFFFFFE
def allOnes48 : Nat := 2 ^ 48 - 1

/-! ### Membership of the job (R397, R406, R409) -/

/-- ACTIVE entries of the current view carrying the job's number, in ascending rank. -/
def insertRank (e : ViewEntry) : List ViewEntry → List ViewEntry
  | [] => [e]
  | x :: r => if e.rank < x.rank then e :: x :: r else x :: insertRank e r
def viewRanks (v : View) (jobid : Word) : List ViewEntry :=
  (v.entries.filter fun e => e.state == .active && e.jobid == jobid && e.rank != 0xFFFF).foldr insertRank []
/-- The module runs as the one entry of a bench job (R500): no view, or a view of epoch 0. -/
def State.ranks (s : State) : List ViewEntry :=
  match s.fab.view with
  | none => []
  | some v => viewRanks v s.job.jobid
def State.memberCount (s : State) : Nat := max 1 s.ranks.length
/-- This member's position in the tree. -/
def State.position (s : State) : Nat := (s.ranks.findIdx? fun e => e.mid == s.fab.mid).getD 0
def State.myRank (s : State) : Nat :=
  match s.ranks.find? fun e => e.mid == s.fab.mid with
  | none => 0
  | some e => e.rank.toNat
def State.fanout (s : State) : Nat := match s.fab.view with
  | none => 2
  | some v => max 2 v.fanout
/-- MIDs of the children and of the parent (R406). -/
def State.children (s : State) : List (BitVec 9) :=
  let p := s.position
  ((s.ranks.drop (s.fanout * p + 1)).take s.fanout).map ViewEntry.mid
def State.parent (s : State) : Option (BitVec 9) :=
  if s.position = 0 then none else (s.ranks[(s.position - 1) / s.fanout]?).map ViewEntry.mid
def State.isRoot (s : State) : Bool := s.position == 0
def State.rankOf (s : State) (m : BitVec 9) : Nat :=
  match s.ranks.find? fun e => e.mid == m with
  | none => 0
  | some e => e.rank.toNat
/-- The view leaves a rank of the job vacant: its ranks are not 0 to N - 1 without a gap, or this member's is not among them
(R407). -/
def State.viewVacant (s : State) : Bool :=
  (s.job.state == .running || s.job.state == .ending) && decide (s.job.ranks0 ≠ 0) &&
    (s.ranks.map (fun e => e.rank.toNat) != List.range s.job.ranks0 || !(s.ranks.any fun e => e.mid == s.fab.mid))
/-- A rank of the job is vacant (R407), or is filled by a substitute whose ADMIT has not completed (R449). -/
def State.vacant (s : State) : Bool := s.viewVacant || !s.job.recov.filling.isEmpty

/-! ### Outputs -/

/-- The entry of a number in a table kept as a list. -/
def alGet {α : Type} (l : List (Nat × α)) (i : Nat) : Option α :=
  match l with
  | [] => none
  | (k, x) :: r => if k = i then some x else alGet r i
/-- Host port or peer port, and the number, of a queue pair; a queue pair that has gone has none. -/
def State.qpPort (s : State) : QpRef → Bool × Option Nat
  | .host i => (true, (alGet s.host.qps i.toNat).map fun q => q.port.val)
  | .store i => (false, (alGet s.host.sqps i.toNat).map fun q => q.port.val)
/-- The port a RoCEv2 message leaves by; what is no RoCEv2 message has none. -/
def State.via (s : State) : Out → Option (Bool × Option Nat)
  | .write q _ _ _ => some (s.qpPort q)
  | .read q _ _ _ => some (s.qpPort q)
  | .readReply q _ => some (s.qpPort (.host q))
  | .ack q => some (s.qpPort (.host q))
  | .nak q _ => some (s.qpPort (.host q))
  | .rep p _ _ => some (true, some p.val)
  | .rej p _ => some (true, some p.val)
  | .storeReq p _ _ _ _ _ _ _ _ => some (false, some p.val)
  | .rtu q => some (s.qpPort q)
  | .dreq q => some (s.qpPort q)
  | .drep q => some (s.qpPort q)
  | .cnp q => some (s.qpPort q)
  | .resend q => some (s.qpPort q)
  | .frame _ _ _ _ _ _ _ => none
  | .arpReply _ _ _ => none
  | .arpRequest _ _ => none
  | .echoReply _ _ _ => none
  | .smbWord _ _ => none
  | .smbNack => none
  | .jtag _ _ => none
/-- The header of the RoCEv2 messages of a host port or of a peer port: HOSTPORT.CFG.PCP or PEERPORT.CFG.RPCP, HOSTPORT.CFG.DSCP,
ECT(0) (R412, R421). -/
def State.roceHdr (s : State) (isHost : Bool) : RoceHdr :=
  ⟨if isHost then s.cfg.hp.extractLsb' 0 3 else s.cfg.pp.extractLsb' 3 3, s.cfg.hp.extractLsb' 3 6, 2⟩
def State.stamp (s : State) (o : Out) : Sent := ⟨(s.via o).map fun v => s.roceHdr v.1, o⟩
/-- The partner has paused the priority of a message on its port (R386, R412). -/
def State.pausedTo (s : State) (o : Out) : Bool := match s.via o with
  | some (true, some p) => (s.host.ports.get (Fin.ofNat 4 p)).paused.getLsbD (s.roceHdr true).pcp.toNat
  | some (false, some p) => (s.fab.ports.get (Fin.ofNat 12 p)).paused.getLsbD (s.roceHdr false).pcp.toNat
  | _ => false
/-- Send messages; one for a paused port waits. -/
def State.send (s : State) (o : Out) : State := { s with
  outbox := s.outbox ++ (if s.pausedTo o then [] else [s.stamp o])
  heldTx := s.heldTx ++ (if s.pausedTo o then [s.stamp o] else []) }
/-- What waits no longer goes, in order. -/
def State.flushTx (s : State) : State := { s with
  outbox := s.outbox ++ s.heldTx.filter fun x => !s.pausedTo x.msg
  heldTx := s.heldTx.filter fun x => s.pausedTo x.msg }
/-- What waits for a port that goes down is lost. -/
def State.dropTx (s : State) (isHost : Bool) (p : Nat) : State := { s with
  heldTx := s.heldTx.filter fun x => s.via x.msg != some (isHost, some p) }

/-- Take one fresh number for a free value (log entry 16). -/
def State.takeFresh (s : State) : Nat × State := (s.fresh, { s with fresh := s.fresh + 1 })

end Sys2Proof.Machine
end

