-- ==== Sys2Proof/Machine/Post.lean ====
section
/-! DEFINITION. What the module sends: region writes and completions over RoCEv2 (R424, R428 to R431), and peer
frames over routes (R390 to R395). -/

namespace Sys2Proof.Machine

/-! ### Tables kept as lists by number -/

def alSet {α : Type} (l : List (Nat × α)) (i : Nat) (x : α) : List (Nat × α) :=
  match l with
  | [] => [(i, x)]
  | (k, y) :: r => if i < k then (i, x) :: (k, y) :: r else if i = k then (i, x) :: r else (k, y) :: alSet r i x
def alDel {α : Type} (l : List (Nat × α)) (i : Nat) : List (Nat × α) := l.filter fun p => p.1 != i

/-! ### Queue pairs and regions -/

def State.qp? (s : State) (i : Nat) : Option Qp := alGet s.host.qps i
def State.setQp (s : State) (i : Nat) (q : Qp) : State := { s with host := { s.host with qps := alSet s.host.qps i q } }
def State.modQp (s : State) (i : Nat) (f : Qp → Qp) : State :=
  match s.qp? i with
  | none => s
  | some q => s.setQp i (f q)
def State.modHost (s : State) (f : HostSt → HostSt) : State := { s with host := f s.host }
/-- Times the oldest requests of a queue pair have been sent again. -/
def State.setTries (s : State) (q : QpRef) (n : Nat) : State := match q with
  | .host i => s.modQp i.toNat fun x => { x with tries := n }
  | .store i => match alGet s.host.sqps i.toNat with
    | none => s
    | some x => s.modHost fun h => { h with sqps := alSet h.sqps i.toNat { x with tries := n } }
/-- The queue pair is READY. -/
def State.qpReady (s : State) (i : Nat) : Bool :=
  match s.qp? i with
  | none => false
  | some q => q.st == .ready
def State.region? (s : State) (n : Nat) : Option Region := s.host.regions.find? fun r => r.num == n && r.pending.isNone
def State.modRegion (s : State) (n : Nat) (f : Region → Region) : State :=
  { s with host := { s.host with regions := s.host.regions.map fun r => if r.num = n then f r else r } }
/-- The queue pair that carries a region. -/
def Region.carrier (r : Region) : Option QpRef :=
  if r.peer then r.sqp.map fun i => .store (BitVec.ofNat 6 i) else some (.host r.qp)

/-- A write is lost: WRLOST, RINGLOST of a token ring's, CQLOST of a completion (Table 15-11). -/
def State.lose (s : State) : Carried → State
  | .bytes => { s with host := { s.host with errWr := true } }
  | .token => { s with host := { s.host with errRing := true } }
  | .compl _ _ => { s with host := { s.host with lost := s.host.lost + 1, errCq := true } }
/-- Write bytes of a region. An orphaned or missing region drops the write (R424), and nothing is written past the region's LENGTH
(R420). -/
def State.writeRegion (s : State) (trick : Option Nat) (rn off : Nat) (data : List Byte) (what : Carried) (tag : Nat) : State :=
  let drop : State := s.lose what
  match s.region? rn with
  | none => drop
  | some r =>
    match r.carrier with
    | none => drop
    | some q =>
      if r.orphaned || decide (off + data.length > r.length) then drop
      else
        let s := s.send (.write q rn (r.vaddr + off) data)
        { s with host := { s.host with unacked := s.host.unacked ++ [⟨q, trick, rn, what, tag, s.aon.counter⟩] } }

/-! ### Completions, R428 to R431 -/

/-- The 64 bytes of completion i of a ring of 2^n entries (Table 15-8). -/
def complBytes (n i : Nat) (c : Compl) : List Byte :=
  let phase : Byte := if i / 2 ^ n % 2 = 0 then 1 else 0
  zerosTo ([c.kind, c.status, phase, c.opc] ++ leBytes i 4 ++ leBytes c.tag.toNat 8 ++ c.payload.take 48) 64

/-- Put one entry in a queue pair's ring. own is the completion to give back if it is never acknowledged (Table 15-10). -/
def State.ringPut (s : State) (qi : Nat) (trick : Option Nat) (c : Compl) (own : Bool) : State :=
  match s.qp? qi with
  | none => s
  | some q =>
    match q.ring with
    | none => s
    | some r =>
      let s := s.setQp qi { q with ring := some { r with i := r.i + 1 } }
      s.writeRegion trick r.region (r.off + 64 * (r.i % 2 ^ r.log2n)) (complBytes r.log2n r.i c) (.compl own c) qi

/-- Drops that a queue pair's ring has not been told of. -/
def State.untold (s : State) (qi : Nat) : Nat := match (s.qp? qi).bind Qp.ring with
  | none => 0
  | some r => s.host.lost - r.seen
/-- A completion for a queue pair able to take it; the drops its ring has not been told of are reported first (R430). -/
def State.ringWrite (s : State) (qi : Nat) (trick : Option Nat) (c : Compl) (own : Bool) : State :=
  let s :=
    if s.untold qi = 0 then s
    else
      let l : Compl := ⟨7, 0, 0, 0, leBytes (min sat32 (s.untold qi)) 4⟩
      let s := s.modQp qi fun q => { q with ring := q.ring.map fun r => { r with seen := s.host.lost } }
      (s.modHost fun x => { x with told := x.lost }).ringPut qi none l false
  s.ringPut qi trick c own

/-- A queue pair can take completions: READY, with a ring. -/
def State.canTake (s : State) (qi : Nat) : Bool :=
  match s.qp? qi with
  | none => false
  | some q => q.st == .ready && q.ring.isSome

def State.dropCompl (s : State) : State :=
  { s with host := { s.host with lost := s.host.lost + 1, errCq := true } }

/-- A COMMAND or REQUEST completion (R430). -/
def State.postTo (s : State) (qi : Nat) (trick : Option Nat) (c : Compl) : State :=
  if s.canTake qi then s.ringWrite qi trick c false else s.dropCompl

/-- The job owner's queue pair, if it can take completions. -/
def State.ownerReady (s : State) : Option Nat :=
  match s.host.owner with
  | none => none
  | some o => if s.canTake o.toNat then some o.toNat else none

/-- A job-owner completion: written, or held with its trick in the queue of 256 entries (R430). -/
def State.postOwner (s : State) (trick : Option Nat) (c : Compl) : State :=
  match s.ownerReady with
  | some o => s.ringWrite o trick c true
  | none =>
    if s.host.holding.length < 256 then { s with host := { s.host with holding := s.host.holding ++ [(trick, c)] } }
    else ({ s with host := { s.host with holding := s.host.holding.tail ++ [(trick, c)] } }).dropCompl

/-- The completion of a command (KIND 1); CTX_FAULT_ILLEGAL sets ERR.BADCMD (Table 15-11). -/
def State.complete (s : State) (h : HostCmd) (opc status : Byte) (payload : List Byte) : State :=
  let s := if status = stILLEGAL then { s with host := { s.host with errCmd := true } } else s
  s.postTo h.qp.toNat none ⟨1, status, opc, h.tag, payload⟩

/-! ### Writes that wait for an earlier trick's acknowledgements, R431 -/

def HeldOut.trick : HeldOut → Option Nat
  | .write t _ _ _ _ => some t
  | .ownerCompl t _ => t
  | .compl t _ _ => some t
/-- A trick-outcome completion (KIND 4). -/
def HeldOut.outcome : HeldOut → Bool
  | .ownerCompl _ c => c.kind == 4
  | _ => false

/-- Some write of an earlier trick is unacknowledged, or a trick's outcome comes while an earlier trick of the job may still
have completions of its own (R242). -/
def State.outBlocked (s : State) (h : HeldOut) : Bool := match h.trick with
  | none => false
  | some t => (s.host.unacked.any fun u => match u.trick with
      | none => false
      | some k => k < t) ||
    (h.outcome && decide (t > s.stat.sealedN) && (s.job.state == .running || s.job.state == .ending))

def State.doOut (s : State) : HeldOut → State
  | .write t rn off data ring => s.writeRegion (some t) rn off data (if ring then .token else .bytes) 0
  | .ownerCompl t c => s.postOwner t c
  | .compl t q c => s.postTo q.toNat (some t) c

/-- What waits for a later trick than h; a completion of no trick waits for none. -/
def HeldOut.after (h k : HeldOut) : Bool := match h.trick, k.trick with
  | some a, some b => decide (a < b)
  | none, some _ => true
  | _, none => false
/-- Put a write among those that wait, behind those of its own trick and of earlier ones. -/
def insertOut (h : HeldOut) : List HeldOut → List HeldOut
  | [] => [h]
  | k :: r => if h.after k then h :: k :: r else k :: insertOut h r
/-- Release a write or completion of a trick. -/
def State.release (s : State) (h : HeldOut) : State :=
  if s.host.heldOut.all h.after && !s.outBlocked h then s.doOut h
  else { s with host := { s.host with heldOut := insertOut h s.host.heldOut } }

/-- Issue what no longer waits, in order. -/
def State.flushHeldGo (s : State) : Nat → State
  | 0 => s
  | n + 1 =>
    match s.host.heldOut with
    | [] => s
    | h :: r =>
      if s.outBlocked h then s
      else (({ s with host := { s.host with heldOut := r } }).doOut h).flushHeldGo n
def State.flushHeld (s : State) : State := s.flushHeldGo s.host.heldOut.length

/-- Held completions go out once an owner can take them, in their order and under R431. -/
def State.flushHolding (s : State) : State :=
  match s.ownerReady with
  | none => s
  | some _ =>
    let l := s.host.holding.map fun p => HeldOut.ownerCompl p.1 p.2
    { s with host := { s.host with holding := [], heldOut := l ++ s.host.heldOut } }.flushHeld

/-- A queue pair becomes the job owner (R430). -/
def State.setOwner (s : State) (q : BitVec 12) : State := { s with host := { s.host with owner := some q } }.flushHolding

/-! ### Job events (R429) and trick outcomes (R242) -/

def State.eventCompl (s : State) (status : Byte) (trick : Nat) (cause event : Nat) : Compl :=
  ⟨5, status, 0, 0, leBytes s.job.jobid.toNat 4 ++ leBytes trick 6 ++ leBytes cause 1 ++ leBytes event 1⟩
def State.jobEvent (s : State) (status : Byte) (trick : Nat) (cause event : Nat) : State :=
  s.postOwner none (s.eventCompl status trick cause event)

/-- KIND 4. -/
def trickCompl (status : Byte) (trick : Nat) (att : Byte) (cause : BitVec 4) (origin : BitVec 16) : Compl :=
  ⟨4, status, 0, 0, leBytes trick 6 ++ [att, cause.setWidth 8] ++ leBytes origin.toNat 2⟩

/-! ### Peer frames, R390 to R395 -/

def classLINK : Byte := 0
def classDATA : Byte := 1
def classSEAL : Byte := 2
def classMEMB : Byte := 3
def classSTATE : Byte := 4

/-- Sequence numbers are compared as in R252. -/
def seqGe (a b : Word) : Bool := (a - b).toNat < 2 ^ 31

def Route.key (r : Route) : Fin 12 × BitVec 9 := (r.port, r.peer)
def State.route? (s : State) (p : Fin 12) (m : BitVec 9) : Option Route :=
  s.fab.routes.find? fun r => r.port == p && r.peer == m
def State.modRoute (s : State) (p : Fin 12) (m : BitVec 9) (f : Route → Route) : State :=
  { s with fab := { s.fab with routes := s.fab.routes.map fun r => if r.port = p ∧ r.peer = m then f r else r } }
def State.setPPort (s : State) (p : Fin 12) (f : PPort → PPort) : State :=
  { s with fab := { s.fab with ports := s.fab.ports.set p.val (f (s.fab.ports.get p)) p.isLt } }

/-- Priority and VLAN of the 802.1Q tag of peer transport frames (R386). -/
def State.pcp (s : State) : BitVec 3 := s.cfg.pp.extractLsb' 0 3
def State.vlan (s : State) : BitVec 12 := s.cfg.pp.extractLsb' 6 12
/-- The partner has paused the priority of peer transport frames on a port (R386; log entry 93). -/
def State.pausedPort (s : State) (p : Fin 12) : Bool := (s.fab.ports.get p).paused.getLsbD s.pcp.toNat
def State.cfgSysid (s : State) : BitVec 16 := s.cfg.mem.extractLsb' 16 16
/-- The header of a frame this module sends (Table 14-2). -/
def State.txHdr (s : State) (p : Fin 12) (dst : BitVec 9) (ver : Byte) (retx last : Bool) (epoch seq ack : Word) (trick : Nat)
    (att : Byte) (jobid : Word) : FrameHdr where
  port := p
  retx := retx
  last := last
  ver := ver
  epoch := epoch
  sysid := s.cfgSysid
  src := Config.ownMid.setWidth 16
  dst := dst.setWidth 16
  seq := seq
  ack := ack
  trick := BitVec.ofNat 48 trick
  attempt := att
  jobid := jobid

/-- The usable route to a member: up, not paused, with room in its window of 1,024; the lowest port (log entry 17). -/
def State.pickRoute (s : State) (m : BitVec 9) : Option Route :=
  s.fab.routes.foldl (fun b r =>
    if r.peer = m ∧ r.up ∧ r.window.length < 1024 ∧ !s.pausedPort r.port then
      match b with
      | none => some r
      | some x => if r.port < x.port then some r else b
    else b) none

/-- Put one frame on a route. -/
def State.putFrame (s : State) (r : Route) (f : TxFrame) (retx : Bool) : State :=
  let f := if retx then { f with tries := f.tries + 1, sent := s.aon.counter }
    else { f with seq := r.txSeq, tries := 1, sent := s.aon.counter }
  let s := s.modRoute r.port r.peer fun r =>
    if retx then { r with window := r.window.map (fun g => if g.seq = f.seq then f else g), lastTx := s.aon.counter }
    else { r with window := r.window ++ [f], txSeq := r.txSeq + 1, lastTx := s.aon.counter }
  s.send (.frame r.mac s.pcp s.vlan (s.txHdr r.port r.peer r.rev retx f.last f.epoch f.seq r.rxSeq f.trick f.att f.jobid) f.cls
    f.payload.length f.payload)

/-- A LINK frame on one port: SEQ, TRICK and JOBID zero. -/
def State.linkFrame (s : State) (p : Fin 12) (mac : BitVec 48) (m : BitVec 9) (ver : Byte) (ack : Word) (payload : List Byte) : Out :=
  .frame mac s.pcp s.vlan (s.txHdr p m ver false false s.fab.epoch 0 ack 0 0 0) classLINK payload.length payload
/-- Send a LINK frame on a route. -/
def State.sendLink (s : State) (p : Fin 12) (m : BitVec 9) (payload : List Byte) : State := match s.route? p m with
  | none => s
  | some r => (s.send (s.linkFrame p r.mac m r.rev r.rxSeq payload)).modRoute p m fun r => { r with lastTx := s.aon.counter }

/-- A fenced or quarantined module sends no DATA, SEAL or STATE frame (R403). -/
def State.silenced (s : State) (cls : Byte) : Bool :=
  (cls == classDATA || cls == classSEAL || cls == classSTATE) &&
    (s.fab.fenced || s.fab.self == .quarantine || s.fab.self == .offered)

/-- The job of the frames this module sends: its admitted job, or before that the job whose rank the view gives it (R449). -/
def State.peerJob (s : State) : Word :=
  if s.job.state != .idle then s.job.jobid
  else match s.fab.view with
    | none => 0
    | some v => match v.entries.find? fun e => e.mid == s.fab.mid with
      | none => 0
      | some e => e.jobid
/-- The ranks of that job in the view in force. -/
def State.jobRanks (s : State) : List ViewEntry := match s.fab.view with
  | none => []
  | some v => viewRanks v s.peerJob
/-- Send a peer frame to a member, over a usable route or once one is. last: the frame is the last of a transfer. -/
def State.sendPeer (s : State) (m : BitVec 9) (cls : Byte) (trick : Nat) (att : Byte) (payload : List Byte)
    (last : Bool) : State :=
  if s.silenced cls then s
  else
    let memb := cls == classMEMB
    let f : TxFrame := ⟨0, cls, if memb then 0 else trick, if memb then 0 else att, 0, 0, payload, last, s.fab.epoch,
      if memb then 0 else s.peerJob⟩
    match s.pickRoute m with
    | some r => s.putFrame r f false
    | none => { s with fab := { s.fab with waiting := s.fab.waiting ++ [(m, f)] } }

/-- Send the bytes of one transfer behind a transfer header, in frames of at most 8,176 data bytes placed by offset (R391). -/
def State.sendXferGo (s : State) (m : BitVec 9) (t : Nat) (a : Byte) (head : List Byte) : Nat → Nat → List Byte → State
  | 0, _, _ => s
  | n + 1, off, d =>
    if d.isEmpty then s
    else State.sendXferGo (s.sendPeer m classDATA t a (head ++ leBytes off 8 ++ d.take 8176) (d.length ≤ 8176)) m t a head n (off + 8176)
      (d.drop 8176)

/-- Frames not yet sent use the routes that remain (R395); those a fenced module may not send go (R403). -/
def State.flushWaiting (s : State) : State :=
  let l := s.fab.waiting.filter fun x => !s.silenced x.2.cls
  l.foldl (fun s (x : BitVec 9 × TxFrame) =>
    match s.pickRoute x.1 with
    | some r => s.putFrame r x.2 false
    | none => { s with fab := { s.fab with waiting := s.fab.waiting ++ [x] } })
    { s with fab := { s.fab with waiting := [] } }

/-- Some peer frame of (trick, attempt) is not acknowledged yet (R229). -/
def State.unackedFrame (s : State) (t : Nat) (a : Byte) : Bool :=
  let hit (f : TxFrame) : Bool :=
    (f.cls == classDATA || f.cls == classSEAL) && f.trick == t && f.att == a && f.jobid == s.job.jobid
  s.fab.routes.any (fun r => r.window.any hit) || s.fab.waiting.any fun x => hit x.2

/-- Payload of a SEAL frame (R392). kind: 0 vote, 1 decision. -/
def sealPayload (decision : Bool) (v : Verdict) (commit : Bool) (cause : BitVec 4) (origin : BitVec 16) : List Byte :=
  let vn := match v with
    | .ok => 0 | .void => 1 | .halt => 2
  zerosTo (leBytes (decision.toNat + 2 * vn + 8 * commit.toNat + 16 * cause.toNat) 2 ++ leBytes origin.toNat 2) 16

end Sys2Proof.Machine
end

