-- ==== Sys2Proof/Machine/Sched.lean ====
section
/-! DEFINITION. The Table (file 12): why a context is blocked (R345), shares and pass values (R346 to R350), and the
residency of contexts on seats (R351 to R360). -/

namespace Sys2Proof.Machine

/-! ### Event counters (R252, R254) -/

/-- Publishes of a buffer visible at a trick tag. -/
def Buffer.pubAt (b : Buffer) (tag : Option Nat) : Word :=
  match tag with
  | none => b.pubSealed
  | some t => b.pubSealed + BitVec.ofNat 32 (b.pubOpen.foldl (fun a p => if p.1 ≤ t then a + p.2 else a) 0)

/-- The buffer of a BOUND counter is gone or released (R257). -/
def Job.boundGone (j : Job) (k : Ctr) : Bool :=
  match k.bound with
  | none => false
  | some b =>
    match j.buf? b with
    | none => true
    | some x => x.dead

/-- The value a context reads from a counter. -/
def Job.ctrVal (j : Job) (x : Ctx) (e : EReg) : Word :=
  let k := x.arch.ctr e
  match k.bound with
  | none => k.val
  | some b =>
    match j.buf? b with
    | none => 0
    | some y => y.pubAt x.tag

/-- An update pass precedes what a context does now: the context issued it, or has observed its publish (R263, R264). -/
def BktPass.before (p : BktPass) (c : CtxId) : Bool := p.seen.any fun o => o.1 == c

/-! ### Stalls -/

/-- The trick a TBEGIN would join (R297). -/
def State.joinTarget (s : State) (x : Ctx) : Nat :=
  let n := s.stat.sealedN
  let base := if s.job.t0.voted.isSome then n + 1 else n
  match x.last with
  | none => base
  | some l => max (l + 1) base

/-- Reasons other than HALT for a TBEGIN to stall: R220, R337, R407, R460, R273, R484. -/
def State.tbeginHeld (s : State) (x : Ctx) : Bool :=
  s.joinTarget x ≥ s.stat.sealedN + 2 || s.job.draining || s.job.state != .running || s.vacant || s.job.recov.skewStop
    || s.hl.failed || s.aon.braceAt.isSome

/-- Queues named by a FENCE mask still hold an instruction (R296). -/
def Ctx.fenceHeld (x : Ctx) (mask : BitVec 3) : Bool :=
  (mask.getLsbD 2 && !x.qm.isEmpty) || (mask.getLsbD 1 && !x.qv.isEmpty) || (mask.getLsbD 0 && !x.qc.isEmpty)

/-- A sealed-state query still awaits decisions (R300). -/
def State.queryHeld (s : State) (x : Ctx) : Bool :=
  match x.tag with
  | some t => t > s.stat.sealedN
  | none => !x.joined.isEmpty
/-- An update pass the context has issued has not completed: a reader of its results waits, as for a summary (R158, R210). -/
def Ctx.passOpen (x : Ctx) : Bool := x.qv.any fun q => match q.op with
  | .upd _ => true
  | _ => false

/-- The stall's condition has not cleared. -/
def State.stallHolds (s : State) (x : Ctx) : Stall → Bool
  | .wait e n _ => decide ((s.job.ctrVal x e - n).toNat ≥ 2 ^ 31) && !s.job.boundGone (x.arch.ctr e)
  | .tbegin _ _ => s.tbeginHeld x || s.job.halt
  | .exit => !x.joined.isEmpty
  | .fence m => x.fenceHeld m
  | .qflags _ _ _ => x.fenceHeld 7
  | .sealedQuery sel _ _ => s.queryHeld x || (sel == 3 && x.passOpen)
  | .room => true

/-! ### Blocking, Table 12-6 -/

def EWait.code : EWait → Nat
  | .pot => 2 | .room => 3 | .coll => 4 | .pin => 8 | .stage => 9 | .record => 10
  | .bucket => 0 | .moving => 0

/-- The blocking code of a seat's stall. -/
def State.stallCode (s : State) (x : Ctx) : Nat :=
  match x.stall with
  | none => 0
  | some k =>
    if !s.stallHolds x k then 0
    else match k with
      | .wait _ _ _ => 1 | .room => 3 | .tbegin _ _ => if s.tbeginHeld x then 5 else 11
      | .exit => 6 | .sealedQuery _ _ _ => if s.queryHeld x then 7 else 0 | .fence _ => 8 | .qflags _ _ _ => 8

/-- The lowest blocking code of a context; 0 when runnable (R345). -/
def State.blockCode (s : State) (x : Ctx) : Nat :=
  let codes := s.stallCode x :: (if x.halted && s.job.halt then 11 else 0) :: x.entries.map fun q =>
    match q.wait with
    | none => 0
    | some w => w.code
  codes.foldl (fun a k => if k = 0 then a else if a = 0 then k else min a k) 0

/-! ### Seats -/

/-- A seat rotation whose spare takes the target's place (R472). -/
def Rot.seatMoves (r : Rot) : Bool := r.kind == .seat && (r.stage == 6 || r.stage == 7)
/-- Seats that take contexts: neither retired, nor spare, nor taken out (R19, R272, R273), nor about to be (R472). -/
def State.seatsUp (s : State) : List (Fin 18) :=
  (List.finRange 18).filter fun i => !s.hl.sret.getLsbD i && !s.hl.sspr.getLsbD i && !s.hl.off.contains ⟨.seat, i⟩ &&
    !(s.hl.rots.any fun r => r.seatMoves && r.target == some i.val)
/-- The seat that the context of a rotation's target moves to, once it has been swapped out for that. -/
def State.seatSpare (s : State) (seat : Option (Fin 18)) : Option (Fin 18) :=
  match s.hl.rots.find? fun r => r.seatMoves && r.stage == 7 && r.target == seat.map Fin.val && seat.isSome with
  | none => none
  | some r => r.spare.map (Fin.ofNat 18)
def Job.seatsTaken (j : Job) : List (Fin 18) := j.ctxList.filterMap fun x => x.2.seat
def State.emptySeat (s : State) : Option (Fin 18) :=
  let used := s.job.seatsTaken
  if used.length ≥ 16 then none else s.seatsUp.find? fun i => !used.contains i

/-- Has joined the oldest unsealed trick without its TSEAL. -/
def State.inOldest (s : State) (x : Ctx) : Bool :=
  match x.joinedAt s.stat.sealedN with
  | none => false
  | some k => !k.tsealed

def minRvt (l : List (CtxId × Ctx)) : Option Nat :=
  l.foldl (fun a x => match a with
    | none => some x.2.rvt.toNat
    | some m => some (min m x.2.rvt.toNat)) none

/-- The swapped-out runnable context R352 chooses. -/
def State.chooseIn (s : State) : Option (CtxId × Ctx) :=
  let better (a b : CtxId × Ctx) : Bool :=
    let ka := s.inOldest a.2
    let kb := s.inOldest b.2
    if ka != kb then ka else decide (a.2.rvt.toNat < b.2.rvt.toNat)
  (s.job.ctxList.filter fun x => x.2.resid == .out && s.blockCode x.2 == 0).foldl (fun a x => match a with
    | none => some x
    | some y => if better x y then some x else some y) none

/-- No copy in flight, not being swapped (R353). -/
def Ctx.evictable (x : Ctx) : Bool := x.resid == .resident && !(x.qc.any fun q => q.begun)

/-- Begin a swap-out: the seat stops. A stalled instruction goes on waiting in the saved state (R345) and is executed afresh
after swap-in (R357). -/
def State.startOut (s : State) (c : CtxId) : State :=
  { s with job := { s.job.modCtx c (fun x => { x with resid := .swapOut }) with evict := some c } }

/-- Record blocked and runnable changes; a context becoming runnable catches up its RVT (R351). -/
def State.noteBlocked (s : State) : State :=
  let lo := (minRvt (s.job.ctxList.filter fun x => x.2.resid == .resident)).getD 0
  { s with job := s.job.mapCtxs fun _ x =>
      let b := s.blockCode x != 0
      if b == x.blocked then x
      else if b then { x with blocked := true, since := s.aon.counter }
      else { x with blocked := false, rvt := if x.rvt.toNat < lo then BitVec.ofNat 64 lo else x.rvt } }

/-- Fill seats that are empty (R354). -/
def State.fillSeats (s : State) : Nat → State
  | 0 => s
  | n + 1 =>
    match s.emptySeat with
    | none => s
    | some i =>
      match s.chooseIn with
      | none => s
      | some (c, _) =>
        State.fillSeats { s with job := s.job.modCtx c fun x => { x with resid := .swapIn, seat := some i } } n

/-- Every resident context is blocked, no seat is empty, and a swapped-out context is runnable (R355). -/
def State.allBlocked (s : State) : Bool :=
  let res := s.job.ctxList.filter fun x => x.2.resid != .out
  !res.isEmpty && res.all (fun x => x.2.resid == .resident && s.blockCode x.2 != 0) && s.emptySeat.isNone && s.chooseIn.isSome

/-- The blocked evictable context blocked longest. -/
def State.chooseOut (s : State) : Option CtxId :=
  ((s.job.ctxList.filter fun x => x.2.evictable && s.blockCode x.2 != 0).foldl (fun a x => match a with
    | none => some x
    | some y => if x.2.since.toNat < y.2.since.toNat then some x else some y) none).map Prod.fst

/-- The Table's decisions after a change: R351, R354, R355, and the start of the condition of R360. -/
def State.schedule (s : State) : State :=
  let s := s.noteBlocked
  let s := s.fillSeats 16
  if s.allBlocked && s.job.evict.isNone then
    match s.chooseOut with
    | some c => { (s.startOut c) with job := { (s.startOut c).job with stuckSince := none } }
    | none =>
      { s with job := { s.job with stuckSince := match s.job.stuckSince with
          | some t => some t
          | none => some s.aon.counter } }
  else { s with job := { s.job with stuckSince := none } }

/-- The evictable resident context of greatest RVT, ties to the lower number (R356). -/
def State.mostRvt (s : State) : Option (CtxId × Ctx) :=
  (s.job.ctxList.filter fun x => x.2.evictable).foldl (fun a x => match a with
    | none => some x
    | some z => if x.2.rvt.toNat > z.2.rvt.toNat then some x else some z) none
/-- Up to n lag swaps (R356), one after another: one is begun, the next when it ends; while an eviction is under way they
wait for it. -/
def State.lagSwapN (s : State) (n : Nat) : State :=
  if s.job.evict.isSome then { s with job := { s.job with lagLeft := max n s.job.lagLeft } }
  else
    let s := { s with job := { s.job with lagLeft := 0 } }
    match n, s.chooseIn, s.mostRvt with
    | 0, _, _ => s
    | _, none, _ => s
    | _, _, none => s
    | _, some (_, y), some (c, x) =>
        if !s.inOldest x ∧ x.rvt.toNat > y.rvt.toNat + (s.cfg.sched.toNat % 65536) * 2 ^ 20 then
          { s.startOut c with job := { (s.startOut c).job with lagLeft := n - 1 } }
        else s
/-- The lag swaps of a seal or void applied. -/
def State.lagSwap (s : State) : State := s.lagSwapN (min 16 ((s.cfg.sched >>> 16).toNat % 32))

/-! ### Pass values (R347 to R349) -/

/-- A share of zero is applied as 1 (R350). -/
def shareVal (h : BitVec 16) : Nat := max 1 h.toNat
def Ctx.share (x : Ctx) : EngKind → Nat
  | .matrix => shareVal x.shm | .vector => shareVal x.shv | .copy => shareVal x.shc
def Ctx.pass (x : Ctx) : EngKind → Dword
  | .matrix => x.passM | .vector => x.passV | .copy => x.passC
def Ctx.setPass (x : Ctx) (k : EngKind) (v : Dword) : Ctx :=
  match k with
  | .matrix => { x with passM := v }
  | .vector => { x with passV := v }
  | .copy => { x with passC := v }
/-- Signed comparison of the difference (R347). -/
def passLt (a b : Dword) : Bool := (a - b).msb

/-- A saturating 63-bit count of charges (Table 12-10); the SAT bit is set when it is full. -/
def satCharge (a q : Nat) : Nat := min (a + q) (2 ^ 63 - 1)

/-- Charge q units of a kind: accounting, and the pass value (R346, R347). -/
def Ctx.charge (x : Ctx) (k : EngKind) (q : Nat) : Ctx :=
  let x := x.setPass k (x.pass k + BitVec.ofNat 64 (q * (65536 / x.share k)))
  match k with
  | .matrix => { x with tile := satCharge x.tile q }
  | .vector => { x with lane := satCharge x.lane q }
  | .copy => { x with copy := satCharge x.copy q }

/-- Charged copy bytes of a module movement (R346, Table 06-4): no work unit is granted. -/
def Ctx.chargeMove (x : Ctx) (q : Nat) : Ctx := { x with copy := satCharge x.copy q }

def Ctx.rdy (x : Ctx) : EngKind → Bool
  | .matrix => x.rdyM | .vector => x.rdyV | .copy => x.rdyC
def Ctx.setRdy (x : Ctx) (k : EngKind) (b : Bool) : Ctx :=
  match k with
  | .matrix => { x with rdyM := b }
  | .vector => { x with rdyV := b }
  | .copy => { x with rdyC := b }
/-- GVT_k over the contexts with ready work of the kind (R349). -/
def Job.gvt (j : Job) (k : EngKind) : Option Dword :=
  (j.ctxList.filter fun x => x.2.rdy k).foldl (fun a x => match a with
    | none => some (x.2.pass k)
    | some v => if passLt (x.2.pass k) v then some (x.2.pass k) else some v) none

/-- A context whose ready work of a kind is now as told: one that gains it is raised to GVT_k (R349). -/
def Job.noteReady (j : Job) (k : EngKind) (now : Bool) (x : Ctx) : Ctx :=
  let y := x.setRdy k now
  if !now || x.rdy k then y
  else match j.gvt k with
    | none => y
    | some v => if passLt (x.pass k) v then y.setPass k v else y

end Sys2Proof.Machine
end

