-- ==== Sys2Proof/Machine/Store.lean ====
section
/-! DEFINITION. The life of a buffer: release (R257, R285), room in the working store and spilling (R181, R189 to R192),
the spill region (R284, R558), and Pot room (R53 to R56). -/

namespace Sys2Proof.Machine

/-! ### Release -/

/-- A buffer that is no longer held: released, and named by no incomplete instruction (R257). -/
def Job.free? (j : Job) (b : Buffer) : Bool := b.released && !j.named b.id

/-- Free released buffers, empty released POT buffers, and free kept-aside spill storage no buffer uses (R257, R285,
R558). -/
def Job.collect (j : Job) : Job :=
  let bufs := (j.bufs.filter fun b => !j.free? b).map fun b =>
    if b.cls == .pot && (b.dead || b.relTrick.isSome) && !j.named b.id then { b with recs := [], dead := true } else b
  let j := { j with bufs := bufs }
  j.mapCtxs fun c x =>
    { x with aside := x.aside.filter fun z => (bufs.any fun b => b.owner == c && b.inAside == some z) ||
        j.tiles.any fun o => o.ctx == c && o.lies == .region (some z) }

/-- Collect, then let the Table decide. -/
def State.settle (s : State) : State := { s with job := s.job.collect }.schedule

/-! ### Working-store room -/

/-- Units of die d open to RESIDENT and STASH buffers (R19, R168). -/
def State.wsCap (s : State) (d : Fin 4) : Nat := s.hl.wsMib.get d * 32
def Job.units (j : Job) (b : Buffer) : List Nat := (List.range 4).map (j.wsUnits b)
def Job.footprint (j : Job) (b : Buffer) : Nat := (j.units b).sum * 32768

/-- Whether units fit beside what the job holds, less what is given up. -/
def State.fits (s : State) (need gone : List Nat) : Bool :=
  (List.finRange 4).all fun d => decide (s.job.wsUsed d + need.getD d 0 ≤ s.wsCap d + gone.getD d 0)
def addUnits (a b : List Nat) : List Nat := List.zipWith (· + ·) a b
def noUnits : List Nat := [0, 0, 0, 0]

/-- Bytes of a context's spill region in use. -/
def Job.spillUsed (j : Job) (c : CtxId) : Nat :=
  j.bufs.foldl (fun a b => if b.owner == c && b.inAside.isNone && (b.place == .spilled || b.place == .spilling || b.place == .filling)
    && b.cls == .stash then a + j.footprint b else a) 0 +
    (j.tiles.map fun o => if o.ctx = c ∧ o.live ∧ o.lies = .region none then o.bytes else 0).sum

/-- Victims of R190 in order: not named, placed, the owner's region with room for them. -/
def victimLt (a b : Buffer) : Bool :=
  if a.prio != b.prio then decide (a.prio < b.prio)
  else if a.lastAccess != b.lastAccess then decide (a.lastAccess < b.lastAccess)
  else if a.handle != b.handle then decide (b.handle < a.handle)
  else decide (b.owner < a.owner)
def insertBy {α : Type} (lt : α → α → Bool) (x : α) : List α → List α
  | [] => [x]
  | y :: r => if lt y x then y :: insertBy lt x r else x :: y :: r
def sortBy {α : Type} (lt : α → α → Bool) (l : List α) : List α := l.foldr (insertBy lt) []

def State.victims (s : State) : List Buffer :=
  sortBy victimLt (s.job.bufs.filter fun b => b.cls == .stash && b.place == .placed && !b.moving && !s.job.named b.id)

/-- Take victims until the need fits; the buffers to spill, or none when even all of them do not suffice. -/
def State.pickVictims (s : State) (need : List Nat) : List Buffer → List Nat → List Buffer → Option (List Buffer)
  | [], gone, acc => if s.fits need gone then some acc else none
  | b :: r, gone, acc =>
    if s.fits need gone then some acc
    else
      let used := acc.foldl (fun a y => if y.owner = b.owner then a + s.job.footprint y else a) (s.job.spillUsed b.owner)
      match (s.job.ctx? b.owner).bind Ctx.spill with
      | none => s.pickVictims need r gone acc
      | some z =>
        if used + s.job.footprint b ≤ z then s.pickVictims need r (addUnits gone (s.job.units b)) (acc ++ [b])
        else s.pickVictims need r gone acc

/-- Units being freed by spills already running. -/
def State.spillingUnits (s : State) : List Nat :=
  s.job.bufs.foldl (fun a b => if b.place == .spilling then addUnits a (s.job.units b) else a) noUnits
/-- Sums spilled to the working store go on to their contexts' spill regions, oldest first, until the need fits beside what is
given up: after every STASH buffer that may be spilled (R189; log entry 53). -/
def State.sumsOut (s : State) (need gone : List Nat) : List OutTile → State
  | [] => s
  | o :: r =>
    if s.fits need gone then s
    else
      let room := match (s.job.ctx? o.ctx).bind Ctx.spill with
        | none => false
        | some z => decide (s.job.spillUsed o.ctx + o.bytes ≤ z)
      if !o.live ∨ o.lies ≠ .store ∨ !room then State.sumsOut s need gone r
      else
        let here (y : OutTile) : Bool := y.live && y.buf == o.buf && y.r == o.r && y.c == o.c
        let j := { s.job with tiles := s.job.tiles.map fun y => if here y then { y with lies := .region none } else y }
        State.sumsOut { s with job := j.modCtx o.ctx fun x => x.chargeMove (2 * o.bytes) } need gone r

/-- Make room for units: some true when they fit now, some false when spills have been begun that will make room, none
when no spill could. -/
def State.makeRoom (s : State) (need : List Nat) : Option (Bool × State) :=
  if s.fits need noUnits then some (true, s)
  else
    match s.pickVictims need s.victims s.spillingUnits [] with
    | none =>
      let t := s.sumsOut need noUnits s.job.tiles
      if t.fits need noUnits then some (true, t) else none
    | some l =>
      some (false, { s with job := l.foldl (fun j b => j.modBuf b.id fun x => { x with place := .spilling }) s.job })

/-- The lowest handle of the context that names a buffer; 0xFF when none does (Table 09-6). -/
def Ctx.handleOf (x : Ctx) (b : Nat) : Byte :=
  match (List.range 64).find? fun h => (x.arch.hndN h).any fun k => k.buf == b with
  | some h => BitVec.ofNat 8 h
  | none => 0xFF
/-- Ask for a spilled buffer to be filled (R191), on behalf of the instruction at pc, queue entry uid, which names it by
handle h. -/
def Job.askFill (j : Job) (c : CtxId) (t : Option Nat) (pc insn : Dword) (h : Byte) (uid b : Nat) : Job :=
  if j.roomQ.any fun r => r.buf == b && r.kind == .fill then j
  else match j.buf? b with
    | none => j
    | some x => if x.place == .spilled then
        { j with roomQ := j.roomQ ++ [⟨c, b, .fill, t, pc, insn, h, uid⟩] } else j

/-- The buffer may be used by an engine or a scalar access now: in place and not being moved (R183, R191). -/
def Buffer.usable (b : Buffer) : Bool :=
  !b.moving && (b.place == .placed || b.place == .spilling || !(b.cls == .resident || b.cls == .stash))

/-- Note an access for R190's order; accesses are numbered by uid. -/
def Job.touch (j : Job) (l : List Nat) (n : Nat) : Job :=
  { j with bufs := j.bufs.map fun b => if l.contains b.id then { b with lastAccess := n } else b }

/-! ### The spill region -/

/-- Withdraw a spill region declared in a voided trick (R558). -/
def Job.withdrawSpill (j : Job) (c : CtxId) : Job :=
  match j.ctx? c with
  | none => j
  | some x =>
    match x.spill with
    | none => j
    | some z =>
      let mine (b : Buffer) : Bool := b.owner == c && b.cls == .stash && b.inAside.isNone &&
        (b.place == .spilled || b.place == .spilling || b.place == .filling)
      let sums (o : OutTile) : Bool := o.ctx == c && o.lies == .region none
      let held := j.bufs.any mine || j.tiles.any sums
      let j := { j with
        bufs := j.bufs.map fun b => if mine b then { b with inAside := some z } else b
        tiles := j.tiles.map fun o => if sums o then { o with lies := .region (some z) } else o }
      j.modCtx c fun x => { x with spill := none, spillTrick := none, aside := if held then x.aside ++ [z] else x.aside }

/-! ### The Pot (R49 to R56) -/

def potUnitsNeeded (b : Buffer) : Nat := potRecBytes b.potK b.potTap
/-- Pot bytes per die that the given positions take. -/
def potNeed (ps : List Nat) (sz : Nat) : List Nat :=
  (List.range 4).map fun d => (ps.filter fun p => homeDie p == d).length * sz
/-- Every die has the bytes (R53). -/
def Job.potFits (j : Job) (need : List Nat) : Bool :=
  (List.range 4).all fun d => decide (j.potUsed d + need.getD d 0 ≤ potDieBytes)

end Sys2Proof.Machine
end

