-- ==== Sys2Proof/Machine/Tokens.lean ====
section
/-! DEFINITION. Token rings and the ending of requests (R367 to R369, R378 to R382), and the meeting of the SERVE block
with the program: plans published, EMIT taken (R362, R373 to R377). -/

namespace Sys2Proof.Machine

/-- A token ring entry (Table 13-2). fl: FIRST, LAST, TERM, STOPPED, DRAFTED. -/
def tokenEntry (nlog2 i : Nat) (tok pos : Nat) (first last term stopped drafted : Bool) (status : Byte) (step : Nat) :
    List Byte :=
  let phase := if i / 2 ^ nlog2 % 2 = 0 then 1 else 0
  leBytes (tok % 2 ^ 24) 4 ++ leBytes pos 4 ++
    leBytes (phase + 2 * first.toNat + 4 * last.toNat + 8 * term.toNat + 16 * stopped.toNat + 32 * drafted.toNat) 1 ++
    [status] ++ leBytes 0 2 ++ leBytes (step % 2 ^ 32) 4

/-- STEP outside a seal: the last sealed trick, or all ones (Table 13-2). -/
def State.lastStep (s : State) : Nat := if s.stat.sealedN = 0 then sat32 else s.stat.sealedN - 1

def Req.sameAs (a b : Req) : Bool := a.ring == b.ring && a.reqid == b.reqid && a.slot == b.slot && a.arrival == b.arrival
def State.modReq (s : State) (r : Req) (f : Req → Req) : State :=
  { s with job := { s.job with reqs := s.job.reqs.map fun x => if x.sameAs r then f x else x } }

/-- The greatest trick whose entry of this request waits for an earlier trick's writes. -/
def State.heldEntry (s : State) (r : Req) : Option Nat :=
  s.host.heldOut.foldl (fun a h => match h with
    | .write t rn off _ true =>
      if rn = r.rregion ∧ r.ringOff ≤ off ∧ off < r.ringOff + 16 * 2 ^ r.nlog2 then some (max t (a.getD 0)) else a
    | _ => a) none
/-- Write a request's next ring entry: one of a trick behind earlier tricks' writes (R431), one of no trick at once (R379,
R382), but behind the request's own entries that still wait: entries of one request are written in ascending i (R368). -/
def State.ringEntry (s : State) (r : Req) (hold : Option Nat) (bytes : List Byte) : State :=
  let off := r.ringOff + 16 * (r.wrote % 2 ^ r.nlog2)
  match hold.or (s.heldEntry r) with
  | none => s.writeRegion none r.rregion off bytes .token 0
  | some t => s.release (.write t r.rregion off bytes true)

/-- A REQUEST completion for a submission ring (Table 15-9); none when no queue pair is bound. -/
def State.reqCompl (s : State) (ring : Fin 128) (hold : Option Nat) (status : Byte) (reqid : Dword) (kind : Byte) : State :=
  match (alGet s.job.rings ring.val).bind SRing.bound with
  | none => s.dropCompl
  | some q =>
    let c : Compl := ⟨6, status, 0, reqid, [BitVec.ofNat 8 ring.val, kind]⟩
    match hold with
    | none => s.postTo q.toNat none c
    | some t => s.release (.compl t q c)

/-- Count an ended request. -/
def State.countEnd (s : State) (status : Byte) : State :=
  let st := s.stat
  { s with stat :=
      if status = stOK then { st with endOk := satAdd st.endOk 1 sat32 }
      else if status = stDEADLINE then { st with endDl := satAdd st.endDl 1 sat32 }
      else if status = stCANCELLED then { st with endCan := satAdd st.endCan 1 sat32 }
      else { st with endAbt := satAdd st.endAbt 1 sat32 } }

/-- Post the completions of the cancels a request's end answers (R380). -/
def State.cancelsDone (s : State) (r : Req) (hold : Option Nat) (status : Byte) : Nat → State
  | 0 => s
  | n + 1 => State.cancelsDone (s.reqCompl r.ring hold status r.reqid 2) r hold status n

/-- End a request with a terminal entry (R369). step is the entry's STEP. -/
def State.endReq (s : State) (r : Req) (status : Byte) (hold : Option Nat) (step : Nat) : State :=
  let e := tokenEntry r.nlog2 r.wrote 0xFFFFFF (r.promptLen + r.wrote) false true true false false status step
  let s := s.ringEntry r hold e
  let s := s.countEnd status
  let s := s.cancelsDone r hold (if status = stABORTED then stABORTED else if status = stCANCELLED then stOK else stALREADY)
    r.cancels
  s.modReq r fun x => { x with state := .ended, wrote := x.wrote + 1, cancels := 0 }

/-- A request is in flight while a frozen plan of an unsealed trick holds it (R370). -/
def State.inFlight (s : State) (r : Req) : Bool :=
  match r.slot with
  | none => false
  | some k => s.job.plans.any fun p => p.ents.any fun e => e.slot == k && e.ring == r.ring && e.reqid == r.reqid

/-- Forget ended requests no plan holds (Table 13-3, R381). -/
def State.gcReqs (s : State) : State :=
  { s with job := { s.job with reqs := s.job.reqs.filter fun r => !(r.state == .ended && !s.inFlight r) } }

/-- Release one request's staged tokens at the seal of n. -/
def State.releaseToks (s : State) (n : Nat) (slot : Nat) : List TokStage → State
  | [] => s
  | t :: rest =>
    match s.job.reqs.find? fun r => r.slot == some slot with
    | none => s
    | some r =>
      let e := tokenEntry r.nlog2 r.wrote t.tok.toNat t.pos t.first t.last false t.stopped t.drafted stOK n
      let s := s.ringEntry r (some n) e
      let s := { s with stat := { s.stat with tok := s.stat.tok + 1 } }
      let s := s.modReq r fun x => { x with wrote := x.wrote + 1, state := if t.last then .ended else x.state }
      State.releaseToks (if t.last then s.countEnd stOK else s) n slot rest

/-- Resolve one request of the sealed plan (R378). -/
def State.resolveReq (s : State) (n : Nat) (e : PlanE) : State :=
  match s.job.reqs.find? fun r => r.slot == some e.slot with
  | none => s
  | some r =>
    if r.state == .ended then s
    else if r.cancels > 0 then s.endReq r stCANCELLED (some n) n
    else if (match r.deadline with
      | none => false
      | some d => decide (d ≤ s.aon.counter.toNat)) then s.endReq r stDEADLINE (some n) n
    else s.releaseToks n e.slot (s.job.toks.filter fun t => t.trick == n && t.slot == e.slot)

/-- Resolve every request of the plan of the sealed trick, in ascending slot. -/
def State.resolvePlan (s : State) (n : Nat) : State :=
  match s.job.plans.find? fun p => p.trick == n with
  | none => s
  | some p => (sortBy (fun a b : PlanE => decide (a.slot < b.slot)) p.ents).foldl (fun s e => s.resolveReq n e) s

/-- Step 4 of R235: staged writes in the order they were staged, the trick's tokens at the place of its EMIT. -/
def State.releaseStaged (s : State) (n : Nat) : State :=
  let mine := s.job.staged.filter fun w => match w with
    | .host t _ _ _ _ => t == n
    | .emit t => t == n
  let hasEmit := mine.any fun w => match w with
    | .emit _ => true
    | .host _ _ _ _ _ => false
  let s := mine.foldl (fun s w => match w with
    | .host t _ rn off d => s.release (.write t rn off d false)
    | .emit t => s.resolvePlan t) s
  let s := if hasEmit then s else s.resolvePlan n
  let s := { s with job := { s.job with
      staged := s.job.staged.filter (fun w => match w with
        | .host t _ _ _ _ => t != n
        | .emit t => t != n)
      toks := s.job.toks.filter fun t => t.trick != n
      plans := s.job.plans.filter fun p => p.trick != n } }
  s.gcReqs

/-- A void: staged tokens of tricks t and above go; requests return to what they were when the oldest voided plan was
frozen; those plans wait to be published again (R236, R370, R374). -/
def State.voidServe (s : State) (t : Nat) : State :=
  let old := s.job.plans.filter fun p => p.trick ≥ t
  let undo (r : Req) : Req :=
    match (old.flatMap Plan.ents).find? fun e => r.slot == some e.slot && e.ring == r.ring && e.reqid == r.reqid with
    | none => r
    | some e => if r.state == .ended then r else { r with produced := e.produced, emitEnded := false }
  { s with job := { s.job with
      toks := s.job.toks.filter (fun x => x.trick < t)
      reqs := s.job.reqs.map undo
      plans := s.job.plans.map fun p => if p.trick ≥ t then { p with published := false, taken := false } else p } }

/-- Every held request ends with ABORTED (R382). -/
def State.abortReqs (s : State) : State :=
  let live := s.job.reqs.filter fun r => r.state != .ended
  let s := live.foldl (fun s r => s.endReq r stABORTED none s.lastStep) s
  { s with job := { s.job with reqs := [], plans := [], toks := [] } }

/-! ### PLAN and EMIT -/

/-- Some context has joined the trick. -/
def State.joinedBy (s : State) (t : Nat) : Bool := s.job.ctxList.any fun x => (x.2.joinedAt t).isSome
/-- SERVE.CFG0.MODE; the reserved encoding acts as the reset value (R534). -/
def State.serveMode (s : State) : Nat := s.cfg.serve0.toNat % 4 % 3
def Job.exportedAs (j : Job) (n : Nat) : Option Buffer := if n = 0 then none else j.bufs.find? fun b => match b.exp with
  | none => false
  | some (i, _, _) => i == n
def State.planBuf (s : State) : Option Buffer := s.job.exportedAs (s.cfg.serve1.toNat % 4096)
def State.emitBuf (s : State) : Option Buffer := s.job.exportedAs (s.cfg.serve1.toNat / 4096 % 4096)
/-- R362. -/
def State.serveAttached (s : State) : Bool :=
  (s.serveMode == 1 || s.serveMode == 2) &&
    (match s.planBuf with
      | none => false
      | some b => b.cls == .resident && b.fmt == .byte && decide (b.bytes ≥ 131136) && (match b.exp with
        | some (_, w, _) => w
        | none => false)) &&
    (match s.emitBuf with
      | none => false
      | some b => b.cls == .resident && b.fmt == .byte && decide (b.bytes ≥ 262208))

/-- Table 13-4. -/
def planEntry (e : PlanE) : List Byte :=
  zerosTo (leBytes e.slot 2 ++ leBytes e.kind 1 ++ leBytes e.d 1 ++ leBytes e.pos 4 ++ leBytes e.count 4 ++ leBytes 0 4 ++
    leBytes e.inoff 8 ++ leBytes e.reqid.toNat 8 ++ e.param ++ leBytes e.isNew.toNat 1) 64
def planBytes (p : Plan) (mode : Nat) : List Byte :=
  zerosTo (leBytes p.trick 8 ++ leBytes p.ents.length 4 ++ leBytes mode 1) 64 ++ p.ents.flatMap planEntry
def Buffer.publish (b : Buffer) (t : Nat) : Buffer := { b with pubOpen := b.pubOpen ++ [(t, 1)] }

/-- The EMIT of the trick before has been taken in the current attempt, or there is no plan for it. -/
def Job.prevTaken (j : Job) (t : Nat) : Bool := j.plans.all fun p => p.trick + 1 != t || p.taken
/-- Write and publish every frozen plan that may be (R374). -/
def State.servePublish (s : State) : State :=
  if !s.serveAttached then s
  else s.job.plans.foldl (fun s p =>
    if p.published || p.taken || !s.joinedBy p.trick || !s.job.prevTaken p.trick then s
    else
      match s.planBuf with
      | none => s
      | some b =>
        let j := s.job.modBuf b.id fun y => (y.writeBytes 0 (planBytes p s.serveMode)).publish p.trick
        { s with job := { j with plans := j.plans.map fun (q : Plan) => if q.trick = p.trick then { q with published := true } else q } }) s
/-- The module is attached anew: plans whose EMIT is still wanted are published into the new buffer. -/
def State.serveAttach (s : State) : State :=
  if !s.serveAttached then s
  else
    let j := s.job
    { s with job := { j with plans := j.plans.map fun (q : Plan) => if q.taken then q else { q with published := false } } }.servePublish

/-- Accepted tokens of one entry (R376): j counts the token, k the accepted drafts. -/
def emitGo (v : Nat → Nat) (b k stop maxNew : Nat) : Nat → Nat → Nat → List (Nat × Nat × Bool × Bool × Bool × Bool) × Nat × Bool
  | 0, _, produced => ([], produced, false)
  | n + 1, j, produced =>
    let t := v j
    let p := produced + 1
    let stopped := decide (t = stop ∧ stop ≠ 0xFFFFFF)
    let last := stopped || decide (p = maxNew)
    let e := (t, b + 1 + j, decide (produced = 0), last, stopped, decide (j < k))
    if last then ([e], p, true)
    else
      let r := emitGo v b k stop maxNew n (j + 1) p
      (e :: r.1, r.2)
/-- Leading drafts the verifier chose too. -/
def emitAccept (v dr : Nat → Nat) (d : Nat) : Nat → Nat
  | 0 => 0
  | n + 1 => if dr (d - (n + 1)) = v (d - (n + 1)) then 1 + emitAccept v dr d n else 0
/-- One entry of a taken EMIT. -/
def State.emitEntry (s : State) (t : Nat) (data : List Byte) (i : Nat) (e : PlanE) : State :=
  if e.kind = 1 then s
  else match s.job.reqs.find? fun r => r.slot == some e.slot && r.ring == e.ring && r.reqid == e.reqid with
    | none => s
    | some r =>
      if r.state == .ended then s
      else
        let o := 64 + 128 * i
        let v (j : Nat) : Nat := fieldAt data (o + 4 * j) 3
        let dr (j : Nat) : Nat := fieldAt data (o + 64 + 4 * j) 3
        let b := if e.kind = 3 then e.pos else e.pos + e.count - 1
        let k := emitAccept v dr e.d e.d
        let (l, produced, ended) := emitGo v b k r.stop.toNat r.maxNew (k + 1) 0 r.produced
        let toks := l.map fun x =>
          (⟨t, r.ring, r.reqid, e.slot, x.2.1, BitVec.ofNat 24 x.1, x.2.2.1, x.2.2.2.1, x.2.2.2.2.1, x.2.2.2.2.2⟩ : TokStage)
        let s := { s with job := { s.job with toks := s.job.toks ++ toks } }
        s.modReq r fun x => { x with produced := produced, emitEnded := ended }
/-- A buffer was published under a trick: an EMIT of the latest published plan is taken (R376, R377). -/
def State.emitPublished (s : State) (buf t : Nat) : State :=
  let bad (s : State) : State := { s with stat := { s.stat with emitErr := true } }
  match s.emitBuf with
  | none => s
  | some b =>
    if b.id ≠ buf then s
    else match s.job.plans.find? fun p => p.trick == t && p.published with
      | none => s
      | some p =>
        if p.taken then bad s
        else
          let data := b.readBytes 0 b.bytes
          let take (s : State) : State := { s with job := { s.job with plans := s.job.plans.map fun (q : Plan) =>
            if q.trick = t then { q with taken := true } else q } }
          if fieldAt data 0 8 ≠ t ∨ fieldAt data 8 4 ≠ p.ents.length then (bad (take s)).servePublish
          else
            let s := (sortBy (fun (a b : Nat × PlanE) => decide (a.2.slot < b.2.slot)) ((List.range p.ents.length).zip p.ents)).foldl
              (fun s e => s.emitEntry t data e.1 e.2) (take s)
            { s with job := { s.job with staged := s.job.staged ++ [Staged.emit t] } }.servePublish

end Sys2Proof.Machine
end

