-- ==== Sys2Proof/Machine/Kitty.lean ====
section
/-! DEFINITION. Trick log, Kitty, refresh and checkpoint writes (R435 to R446, R454 to R457). -/

namespace Sys2Proof.Machine

/-! ### Trick log, Table 16-3 -/

def logBytes (e : LogE) : List Byte :=
  let l := match e.loss with
    | none => leBytes 0 8
    | some (h, o) => leBytes h.toNat 4 ++ leBytes o.toNat 4
  zerosTo (leBytes e.trick 6 ++ leBytes (e.loss.isSome.toNat + 2 * e.skip.toNat + 4 * e.proof.toNat) 1 ++ [e.att] ++ l ++
    leBytes e.epoch.toNat 4 ++ leBytes e.cursor 6) 32
def logOfBytes (b : List Byte) : LogE :=
  let f := (byteAt b 6).toNat
  ⟨fieldAt b 0 6, if f % 2 = 1 then some (BitVec.ofNat 32 (fieldAt b 8 4), BitVec.ofNat 32 (fieldAt b 12 4)) else none,
    f / 2 % 2 == 1, f / 4 % 2 == 1, byteAt b 7, BitVec.ofNat 32 (fieldAt b 16 4), fieldAt b 20 6⟩
/-- Add an entry, overwriting one of the same trick; the oldest fall out of a ring of cap entries (Table 16-2). -/
def logAdd (cap : Nat) (l : List LogE) (e : LogE) : List LogE :=
  let m := l.filter (fun x => x.trick != e.trick) ++ [e]
  m.drop (m.length - cap)
def tlogCap : Nat := 2097152
def blogCap : Nat := 1048576

/-! ### Kitties, R440 -/

/-- Rank count of the job. -/
def State.jobN (s : State) : Nat := max s.job.ranks0 s.memberCount
/-- SEAL.KCFG.G; 1, 2 and above 17 behave as 0 (Table 16-7). -/
def kittyG (w : Word) : Nat :=
  let g := w.toNat % 32
  if 3 ≤ g ∧ g ≤ 17 then g else 0
/-- Lowest rank and size of the Kitty of rank r. -/
def kittyOf (n g r : Nat) : Option (Nat × Nat) :=
  if n < 3 ∨ g = 0 then none
  else
    let full := n / g
    let rem := n % g
    if (rem = 1 ∨ rem = 2) ∧ full ≠ 0 then
      let k := min (r / g) (full - 1)
      some (k * g, if k = full - 1 then g + rem else g)
    else
      let k := r / g
      some (k * g, if k = full then rem else g)
def State.kitty (s : State) : Option (Nat × Nat) := kittyOf s.jobN (kittyG s.cfg.kcfg) s.myRank
/-- Position in the Kitty. -/
def State.kpos (s : State) : Nat := match s.kitty with
  | none => 0
  | some (b, _) => s.myRank - b
def State.midOfRank (s : State) (r : Nat) : Option (BitVec 9) :=
  (s.ranks.find? fun e => e.rank.toNat == r).map ViewEntry.mid
/-- The member at a position of this Kitty. -/
def State.kittyMid (s : State) (j : Nat) : Option (BitVec 9) :=
  match s.kitty with
  | none => none
  | some (b, _) => s.midOfRank (b + j)

/-! ### Update records and shards, R206, R441 -/

/-- HR of an update record for n list entries (R326). -/
def recHalf (n : Nat) : Nat := 16 * ceilDiv (32 + 4 * n) 16
/-- Current half of an update record of half size hr: none when neither half is VALID. -/
def recCurrent (m : Memory) (hr : Nat) : Option Nat :=
  let v (h : Nat) : Bool := (memRead 0 m (h * hr)).getLsbD 1
  let t (h : Nat) : Nat := leNat (memReadN 0 m (h * hr + 8) 6)
  match v 0, v 1 with
  | true, true => some (if t 1 > t 0 then 1 else 0)
  | true, false => some 0
  | false, true => some 1
  | false, false => none
/-- SEL of the current half; 0 when none (R206). -/
def recSel (m : Memory) (hr : Nat) : Nat :=
  match recCurrent m hr with
  | none => 0
  | some h => (memRead 0 m (h * hr)).toNat % 2

/-- The member's state now (R435): the current halves of the state image and update record last named by an update. -/
def State.shardNow (s : State) : Shard :=
  let base : Shard := ⟨s.stat.sealedN, s.stat.cursor, s.fab.epoch, 0, 0, [], []⟩
  match s.job.recov.imgBufs with
  | none => base
  | some (bs, bu, hb, hr) =>
    match s.job.buf? bs, s.job.buf? bu with
    | some x, some u =>
      let h := (recCurrent u.mem hr).getD 0
      { base with hb := hb, hr := hr, record := memReadN 0 u.mem (h * hr) hr, img := memReadN 0 x.mem (recSel u.mem hr * hb) hb }
    | _, _ => base

/-- Bytes of a shard: header and record half padded to 4 KiB, then the image half (log entry 20 on the header). -/
def Shard.bytes (k : Shard) : List Byte :=
  let h := zerosTo (leBytes k.trick 8 ++ leBytes k.cursor 8 ++ leBytes k.epoch.toNat 4 ++ leBytes k.hb 8 ++ leBytes k.hr 4) 64
  let r := h ++ k.record
  zerosTo r (roundUp r.length 4096) ++ k.img
/-- A shard taken apart again (R449). -/
def shardOfBytes (b : List Byte) : Shard :=
  let hb := fieldAt b 20 8
  let hr := fieldAt b 28 4
  ⟨fieldAt b 0 6, fieldAt b 8 6, BitVec.ofNat 32 (fieldAt b 16 4), hb, hr, (b.drop 64).take hr,
    (b.drop (roundUp (64 + hr) 4096)).take hb⟩
/-- S of R441 for a Kitty of g; with no Kitty the shadow alone, in whole stripes. -/
def shardSize (len g : Nat) : Nat := if g ≤ 1 then roundUp len 4096 else roundUp len ((g - 1) * 4096)
/-- Chunk c of a shard cut into chunks of z bytes, padded with zeros. -/
def shardChunk (b : List Byte) (z c : Nat) : List Byte := ((zerosTo b ((c + 1) * z)).drop (c * z)).take z
def xorBytes : List Byte → List Byte → List Byte
  | [], b => b
  | a, [] => a
  | x :: a, y :: b => (x ^^^ y) :: xorBytes a b
/-- XOR data into a byte string at an offset. -/
def xorAt (b : List Byte) (off : Nat) (d : List Byte) : List Byte :=
  let b := zerosTo b (off + d.length)
  b.take off ++ xorBytes ((b.drop off).take d.length) d ++ b.drop (off + d.length)

/-! ### STATE messages: one layout of the model's own (log entry 21): a type byte, then fields, then data -/

def stateMsg (ty point p off : Nat) (data : List Byte) : List Byte :=
  leBytes ty 1 ++ leBytes point 6 ++ leBytes p 2 ++ leBytes off 8 ++ data
def State.sendState (s : State) (m : BitVec 9) (ty point p off : Nat) (data : List Byte) : State :=
  s.sendPeer m classSTATE 0 0 (stateMsg ty point p off data) true
/-- Send bytes in frames of at most 8,160 data bytes (whole log entries); the last frame carries LAST. -/
def State.sendPieces (s : State) (m : BitVec 9) (ty point p : Nat) : Nat → Nat → List Byte → State
  | 0, _, _ => s
  | n + 1, off, d =>
    if d.isEmpty then s
    else State.sendPieces (s.sendPeer m classSTATE 0 0 (stateMsg ty point p off (d.take 8160)) (d.length ≤ 8160)) m ty point p n
      (off + 8160) (d.drop 8160)
def State.sendBytes (s : State) (m : BitVec 9) (ty point p : Nat) (d : List Byte) : State :=
  s.sendPieces m ty point p (d.length / 8160 + 1) 0 d

/-! ### Checkpoint records, R455 and R456 -/

def Shard.dataSec (k : Shard) : List Byte := zerosTo k.record (roundUp k.record.length 4096) ++ k.img

/-- Header of Table 16-4. -/
def State.ckHeader (s : State) (k : Shard) (target : Nat) : List Byte :=
  let pr := s.job.recov.tlog.find? fun e => e.trick == k.trick
  let d := k.dataSec
  let h := leBytes 0x31435A4B 4 ++ leBytes 1 2 ++ leBytes s.job.feature.toNat 2 ++ leBytes s.job.jobid.toNat 4 ++
    leBytes s.fab.epoch.toNat 4 ++ leBytes k.trick 8 ++ leBytes k.cursor 8 ++ leBytes k.trick 8 ++ leBytes s.job.seed.toNat 8 ++
    leBytes s.myRank 2 ++ leBytes s.jobN 2 ++ leBytes (s.cfg.kcfg.toNat % 32) 1 ++ leBytes (target + 2 * pr.isSome.toNat) 1 ++
    leBytes s.job.recov.p 2 ++ leBytes s.job.recov.f 4 ++ leBytes 0 4 ++ leBytes k.hb 8 ++ leBytes k.hr 4 ++ leBytes 0 4 ++
    leBytes d.length 8 ++ leBytes (crc32c d).toNat 4 ++ leBytes 0 4 ++
    (match pr with
      | none => leBytes 0 32
      | some e => logBytes e)
  let h := zerosTo h 4092
  h ++ leBytes (crc32c h).toNat 4

/-- Region and offset of the target being written, as CKPTCFG had set it when the write began. -/
def CkWrite.place (w : CkWrite) : Nat × Nat := if w.target = 0 then w.a else w.b

def State.setRecov (s : State) (f : Recov → Recov) : State := { s with job := { s.job with recov := f s.job.recov } }

/-- The checkpoint write ends: SEAL.CK, and the CKPTNOW commands it answers (R457). -/
def State.ckFinish (s : State) (w : CkWrite) : State :=
  let s := { s.setRecov fun r => { r with ck := none } with
    stat := { s.stat with ckTrick := w.shard.trick, ckA := w.aOk, ckB := w.bOk, ckValid := true } }
  w.tags.foldl (fun s h =>
    if w.aOk || w.bOk then s.complete h 0x41 stOK (leBytes w.shard.trick 6) else s.complete h 0x41 stBUFFER []) s

/-- Issue the write of the current step; false when its region cannot take it, or has no room for it (R420). -/
def State.ckPut (s : State) (w : CkWrite) : Bool × State :=
  let (rn, off) := w.place
  match s.region? rn with
  | none => (false, s)
  | some r =>
    match r.carrier with
    | none => (false, s)
    | some q =>
      let (a, d) := if w.step = 0 then (off, List.replicate 4096 (0 : Byte))
        else if w.step = 1 then (off + 4096, w.shard.dataSec) else (off, s.ckHeader w.shard w.target)
      if r.orphaned || decide (a + d.length > r.length) then (false, s.lose .bytes)
      else (true, s.send (.write q rn (r.vaddr + a) d))

/-- The target is done or abandoned; the next one is begun (R454, R456). -/
def State.ckNextTarget (s : State) (w : CkWrite) : State :=
  if w.target = 0 ∧ w.b.1 ≠ 0 then
    let w1 := { w with target := 1, step := 0, awaitSeal := false, sent := s.aon.counter }
    let (ok, s) := s.ckPut w1
    if ok then s.setRecov fun r => { r with ck := some w1 } else s.ckFinish w1
  else s.ckFinish w

/-- Begin or continue a step; a header waits for trick R's seal, which may still come while an END drains (R456 step 3). -/
def State.ckStep (s : State) (w : CkWrite) : State :=
  if w.step = 2 ∧ s.stat.sealedN ≤ w.shard.trick ∧ (s.job.state = .running ∨ s.job.state = .ending) then
    s.setRecov fun r => { r with ck := some { w with awaitSeal := true } }
  else
    let (ok, s) := s.ckPut w
    if ok then s.setRecov fun r => { r with ck := some { w with awaitSeal := false, sent := s.aon.counter } } else s.ckNextTarget w

/-- A checkpoint of the shadow begins (R454); with no target any more, none is written (R457). -/
def State.ckBegin (s : State) (k : Shard) (tags : List HostCmd) : State :=
  let r := s.job.recov
  if r.ta = 0 then tags.foldl (fun s h => s.complete h 0x41 stBUFFER []) s
  else s.ckStep ⟨k, 0, 0, false, false, false, tags, (r.ta, r.aoff), (r.tb, r.boff), s.aon.counter⟩

/-- The job ends: a header that waits for its trick's seal is written without PROOF (R456). -/
def State.ckEnd (s : State) : State :=
  match s.job.recov.ck with
  | none => s
  | some w => if w.awaitSeal then s.ckStep w else s

/-- A write whose region has gone is abandoned (R456). -/
def State.ckAbandon (s : State) : State :=
  match s.job.recov.ck with
  | none => s
  | some w => (s.lose .bytes).ckNextTarget w

/-! ### Refresh, R443 to R446 -/

/-- A refresh ended: a CKPTCFG taken meanwhile takes effect (R439). -/
def State.endRefresh (s : State) : State :=
  s.setRecov fun r =>
    let r := { r with refresh := none }
    match r.pendCfg with
    | none => r
    | some (p, f, ta, tb, ao, bo) => { r with p := p, f := f, ta := ta, tb := tb, aoff := ao, boff := bo, pendCfg := none }

/-- R446. A refresh already committed here goes on. -/
def State.failRefresh (s : State) : State :=
  match s.job.recov.refresh with
  | none => s
  | some f =>
    if f.committed then s
    else
      let s := { s with stat := { s.stat with rfail := true } }
      (s.setRecov fun r =>
        let r := { r with nowReqs := f.tags ++ r.nowReqs, early := r.early.filter fun e => e.1 != f.point }
        if s.stat.gen then { r with par0 := none } else { r with par1 := none }).endRefresh

/-- Step 4 of R443, and the commit passed on to the children. -/
def State.commitRefresh (s : State) : State :=
  match s.job.recov.refresh with
  | none => s
  | some f =>
    let g := !s.stat.gen
    let s := s.setRecov fun r =>
      let r := { r with refresh := some { f with committed := true } }
      if g then { r with par1 := some ⟨f.point, f.building⟩ } else { r with par0 := some ⟨f.point, f.building⟩ }
    let s := { s with stat := { s.stat with gen := g, rp := some f.point, degraded := false } }
    s.children.foldl (fun s m => s.sendState m 3 f.point 0 0 []) s

/-- Step 3 of R443: done reports go up the tree; the root commits. -/
def State.checkDone (s : State) : State :=
  match s.job.recov.refresh with
  | none => s
  | some f =>
    let kids := s.children.map s.rankOf
    if f.doneSelf && !f.sentUp && kids.all (fun r => f.doneFrom.contains r) then
      let s := s.setRecov fun r => { r with refresh := some { f with sentUp := true } }
      match s.parent with
      | none => s.commitRefresh
      | some p => s.sendState p 2 f.point 0 0 []
    else s

/-- Bytes counted against a rank. -/
def addGot (l : List (Nat × Nat)) (r n : Nat) : List (Nat × Nat) := alSet l r ((alGet l r).getD 0 + n)
/-- The ranks of this Kitty other than mine. -/
def State.kittyOthers (s : State) : List Nat := match s.kitty with
  | none => []
  | some (b, g) => ((List.range g).map (b + ·)).filter (· ≠ s.myRank)
def State.kittySize (s : State) : Nat := match s.kitty with
  | none => 1
  | some (_, g) => g
/-- The refresh of a point fails on every member (R446): here, whether this member has reached the point, skipped it or makes no
point of it, and, told once, at the neighbours in the tree that have not told it. A refresh already committed goes on. -/
def State.refuseRefresh (s : State) (point : Nat) (from? : Option (BitVec 9)) : State :=
  let mine := s.job.recov.refresh.filter fun f => f.point == point
  if s.job.recov.failedAt = some point || mine.any Refresh.committed then s
  else
    let s := (if mine.isSome then s.failRefresh else { s with stat := { s.stat with rfail := true } }).setRecov fun r =>
      { r with failedAt := some point }
    ((s.children ++ s.parent.toList).filter fun m => some m != from?).foldl (fun s m => s.sendState m 4 point 0 0 []) s
/-- Every chunk for this member's group has come; the size of a chunk is known. -/
def State.refreshFull (s : State) (f : Refresh) : Bool :=
  decide (f.z ≠ 0) && s.kittyOthers.all fun r => decide ((alGet f.got r).getD 0 ≥ f.z)
/-- The holder reports done once its group is complete (step 3 of R443). -/
def State.refreshSettle (s : State) : State :=
  match s.job.recov.refresh with
  | none => s
  | some f =>
    if s.refreshFull f then (s.setRecov fun r => { r with refresh := some { f with doneSelf := true } }).checkDone else s
/-- A piece of another member's chunk for this member's group (step 2 of R443). -/
def State.refreshPiece (s : State) (rank off : Nat) (data : List Byte) : State :=
  match s.job.recov.refresh with
  | none => s
  | some f =>
    (s.setRecov fun r => { r with refresh := some { f with
      building := xorAt f.building off data
      got := addGot f.got rank data.length } }).refreshSettle
/-- A done report from a child. -/
def State.refreshDone (s : State) (rank : Nat) : State :=
  match s.job.recov.refresh with
  | none => s
  | some f => (s.setRecov fun r => { r with refresh := some { f with doneFrom := f.doneFrom ++ [rank] } }).checkDone
/-- This member's chunks go to the holders of their groups (step 2 of R443). -/
def State.sendChunks (s : State) (f : Refresh) (z : Nat) : State :=
  let g := s.kittySize
  (List.range (g - 1)).foldl (fun s c => match s.kittyMid ((c + s.kpos + 1) % g) with
    | none => s
    | some m => s.sendBytes m 0 f.point s.job.recov.p (shardChunk f.pinned.bytes z c)) s
/-- The length of a shard of the Kitty, 0 for one not told yet. With all of them S is known (R441): the area is reserved, or
enlarged, and the chunks are sent. An area the job's DRAM has no room for fails the refresh (R442, R446). -/
def State.refreshLength (s : State) (rank len : Nat) : State :=
  match s.job.recov.refresh with
  | none => s
  | some f =>
    let lens := alSet f.lens rank len
    let s := s.setRecov fun r => { r with refresh := some { f with lens := lens } }
    if f.z ≠ 0 ∨ f.doneSelf ∨ !((s.myRank :: s.kittyOthers).all fun r => (alGet lens r).isSome) then s
    else
      let g := s.kittySize
      let size := shardSize (lens.foldl (fun a x => max a x.2) 0) g
      let z := if g ≤ 1 then 0 else size / (g - 1)
      let need := size + 2 * z
      if s.job.dramUsed + (need - s.job.recov.room) > jobDram then
        { s with stat := { s.stat with noroom := true } }.refuseRefresh f.point none
      else
        let f := { f with
          lens := lens
          z := z
          building := zerosTo f.building z
          doneSelf := decide (g ≤ 1) }
        let s := s.setRecov fun r => { r with refresh := some f, room := max r.room need }
        (s.sendChunks f z).checkDone.refreshSettle
/-- What a member is told of the refresh it is in. -/
def State.refreshTake (s : State) (point rank : Nat) (src : Option (BitVec 9)) : RefreshMsg → State
  | .length n => s.refreshLength rank n
  | .piece off d => s.refreshPiece rank off d
  | .done => s.refreshDone rank
  | .refused => s.refuseRefresh point src
/-- A message of the refresh at a point: one of a point this member has not reached is kept until it does; the first refresh after
a restore is reached at the first TBEGIN (R458). A refusal is heeded at once. -/
def State.refreshMsg (s : State) (src : BitVec 9) (point : Nat) (m : RefreshMsg) : State :=
  if m = .refused then s.refuseRefresh point (some src)
  else match s.job.recov.refresh.filter fun f => f.point == point with
  | some f => if f.committed then s else s.refreshTake point (s.rankOf src) (some src) m
  | none =>
    if point > s.stat.sealedN ∨ (point = s.stat.sealedN ∧ s.job.recov.srcFirst) then
      s.setRecov fun r => { r with early := r.early ++ [(point, s.rankOf src, m)] }
    else s
/-- Messages of the point that came before this member reached it. -/
def State.takeEarly (s : State) : State :=
  match s.job.recov.refresh with
  | none => s
  | some f =>
    let now := s.job.recov.early.filter fun e => e.1 == f.point
    let s := s.setRecov fun r => { r with early := r.early.filter fun e => decide (e.1 > f.point) }
    now.foldl (fun s e => s.refreshTake e.1 e.2.1 (s.midOfRank e.2.1) e.2.2) s

/-- Begin a refresh at the sealed count (step 1 of R443), from the current halves or, for the first refresh after a restore,
from the shadow (R458). The members of the Kitty tell each other the lengths of their shards. -/
def State.startRefresh (s : State) (ckpt fromShadow : Bool) : State :=
  if s.job.recov.refresh.isSome then { s with stat := { s.stat with kskips := satAdd s.stat.kskips 1 sat16 } }
  else
    let k := if fromShadow then s.job.recov.shadow.getD s.shardNow else s.shardNow
    let point := s.stat.sealedN
    if s.job.recov.failedAt = some point then { s with stat := { s.stat with rfail := true } } else
    let len := k.bytes.length
    let f : Refresh := ⟨point, k, [], 0, [], [], false, [], false, false, ckpt, if ckpt then s.job.recov.nowReqs else []⟩
    let s := s.setRecov fun r => { r with refresh := some f, nowReqs := if ckpt then [] else r.nowReqs }
    let s := s.kittyOthers.foldl (fun s r => match s.midOfRank r with
      | none => s
      | some m => s.sendState m 14 point s.job.recov.p len []) s
    (s.refreshLength s.myRank len).takeEarly

/-- At each new sealed count: refresh and checkpoint points (R439), and a header that waited for this seal (R456). -/
def State.pointCheck (s : State) : State :=
  let r := s.job.recov
  let n := s.stat.sealedN
  let s := match r.ck with
    | none => s
    | some w => if w.awaitSeal && n > w.shard.trick then s.ckStep w else s
  let isR := decide (r.p ≠ 0 ∧ n % r.p = 0) || !r.nowReqs.isEmpty
  let isC := decide (r.p ≠ 0 ∧ n % r.p = 0 ∧ r.f ≠ 0 ∧ n % r.f = 0) || !r.nowReqs.isEmpty
  if isR then s.startRefresh isC false else s

/-- The shard a recovery goes back to: the shadow, or the pinned halves of a refresh that has committed and whose shadow copy
has not completed (R447). -/
def Recov.recoverable (r : Recov) : Option Shard := match r.refresh with
  | some f => if f.committed then some f.pinned else r.shadow
  | none => r.shadow

/-- Step 5 of R443: the pinned halves become the shadow and are unpinned; a checkpoint begins (R454). -/
def State.copyShadow (s : State) : State :=
  match s.job.recov.refresh with
  | none => s
  | some f =>
    let s := (s.setRecov fun r => { r with shadow := some f.pinned }).endRefresh
    if f.ckpt then s.ckBegin f.pinned f.tags else s

end Sys2Proof.Machine
end

