-- ==== Sys2Proof/Machine/Maps.lean ====
section
/-! DEFINITION. Where things lie and how they travel: stripe maps of DRAM buffers (R172, R173, R176, R177), replicated stripes
as bytes (R452), and paths over the ring (R21, R22). -/

namespace Sys2Proof.Machine

/-! ### Stripe maps, R176 and R177. A buffer's origin o is the Dealer's choice: 0 here (log entry 8). -/

/-- Die and channel slot of a stripe under the flat map. -/
def flatSlot (k o : Nat) : Nat × Nat := ((k + o) % 144 % 4, (k + o) % 144 / 4)
/-- Die and channel slot of stripe t of panel c under the panel map. -/
def panelSlot (c t o : Nat) : Nat × Nat := ((c + o) % 4, (t + c / 4) % 36)
/-- Package and logical channel of a slot. -/
def slotChannel (s : Nat × Nat) : Nat × Nat := (3 * s.1 + s.2 % 3, s.2 / 3)
/-- Sub-channel of byte i of a stripe: 0 A, 1 B (R172). -/
def subChannel (i : Nat) : Nat := i / 32 % 2
/-- The channel that carries a logical index: the former spare, CH12, for the one that moved (R173). -/
def ChMap.physical (m : ChMap) (l : Nat) : Nat := if m.moved.toNat = l then 12 else l
/-- The logical index a channel carries. -/
def ChMap.logical (m : ChMap) (ch : Nat) : Option Nat := (List.range 12).find? fun l => m.physical l == ch

/-- Rows of a panel's block in one stripe, the stripes of a block of 128 rows, and those of a panel (R177). -/
def Buffer.stripeRows (b : Buffer) : Nat := 32 / b.fmt.bytes
def Buffer.blockStripes (b : Buffer) : Nat := 4 * b.fmt.bytes
def Buffer.panelStripes (b : Buffer) : Nat := ceilDiv b.rows 128 * b.blockStripes
/-- The stripes of a STREAM buffer are numbered panel by panel; those of another DRAM buffer from its start, of an INPUT buffer
from the start of the input region. The spill regions of STASH buffers lie under the flat map (log entry 95). -/
def Buffer.stripeHome (b : Buffer) (k : Nat) : Nat × Nat := slotChannel (match b.cls with
  | .stream => panelSlot (k / max 1 b.panelStripes) (k % max 1 b.panelStripes) 0
  | _ => flatSlot k 0)
/-- The stripes a DRAM buffer has part in. -/
def Buffer.stripes (b : Buffer) : List Nat := match b.cls with
  | .stream => List.range (ceilDiv b.cols 128 * b.panelStripes)
  | .input => (List.range (ceilDiv (b.offset + b.bytes) 4096)).filter fun k => decide (b.offset / 4096 ≤ k)
  | _ => List.range (ceilDiv b.bytes 4096)
/-- The stripe of a STREAM buffer that holds a logical byte. -/
def Buffer.stripeOf (b : Buffer) (off : Nat) : Nat :=
  let e := off / b.fmt.bytes
  let r := e / max 1 b.cols
  let c := e % max 1 b.cols
  c / 128 * b.panelStripes + r / 128 * b.blockStripes + r % 128 / b.stripeRows
/-- Element rows of a stripe of a STREAM buffer that are no padding: row, first column, columns. -/
def Buffer.stripeRuns (b : Buffer) (k : Nat) : List (Nat × Nat × Nat) :=
  let c := k / max 1 b.panelStripes
  let t := k % max 1 b.panelStripes
  let r0 := t / b.blockStripes * 128 + t % b.blockStripes * b.stripeRows
  ((List.range b.stripeRows).map fun i => (r0 + i, 128 * c, min 128 (b.cols - 128 * c))).filter fun x => decide (x.1 < b.rows ∧ x.2.2 ≠ 0)
/-- Logical byte offset of the first element of a stripe that is no padding. -/
def Buffer.stripeFirst (b : Buffer) (k : Nat) : Nat := match b.cls with
  | .stream => ((b.stripeRuns k).head?.map fun x => (x.1 * b.cols + x.2.1) * b.fmt.bytes).getD 0
  | .input => 4096 * k - b.offset
  | _ => 4096 * k
/-- The stripes of a DRAM buffer on a logical channel of a package. -/
def Buffer.stripesOn (b : Buffer) (p l : Nat) : List Nat := b.stripes.filter fun k => b.stripeHome k == (p, l)

/-! ### A stripe as a replica sends it, R452: its 4,096 bytes, then the scale bytes of its elements in ascending number -/

def Buffer.stripeBytes (b : Buffer) (k : Nat) : List Byte :=
  zerosTo ((b.stripeRuns k).flatMap fun x => zerosTo (b.readBytes ((x.1 * b.cols + x.2.1) * b.fmt.bytes) (x.2.2 * b.fmt.bytes)) (128 * b.fmt.bytes)) 4096
/-- The numbers of the scale bytes of a stripe. -/
def Buffer.stripeScales (b : Buffer) (k : Nat) : List Nat := match b.scale with
  | .block n d _ _ => ((b.stripeRuns k).flatMap fun x => (List.range x.2.2).map fun i => scaleIdx b.cols n d x.1 (x.2.1 + i)).eraseDups
  | _ => []
def Job.stripeData (j : Job) (b : Buffer) (k : Nat) : List Byte :=
  b.stripeBytes k ++ (b.stripeScales k).map fun i => BitVec.ofNat 8 ((b.scaleBuf.map fun s => j.scaleByte s i).getD 0)
/-- A stripe and its scales are written in place. -/
def Job.putStripe (j : Job) (b : Buffer) (k : Nat) (d : List Byte) : Job :=
  let j := j.modBuf b.id fun y => (b.stripeRuns k).zipIdx.foldl (fun y x =>
    y.writeBytes ((x.1.1 * b.cols + x.1.2.1) * b.fmt.bytes) ((d.drop (x.2 * 128 * b.fmt.bytes)).take (x.1.2.2 * b.fmt.bytes))) y
  match b.scaleBuf with
  | none => j
  | some s => j.modBuf s fun y => (List.zip (b.stripeScales k) (d.drop 4096)).foldl (fun y x => y.writeBytes x.1 [x.2]) y

/-! ### Paths over the ring, R21 and R22 -/

/-- The link that leaves a die in the ascending direction, in the order L01, L12, L23, L30, and the die it leads to. -/
def upHop (d : Nat) : (Nat × Bool) × Nat := ((d % 4, true), (d + 1) % 4)
def downHop (d : Nat) : (Nat × Bool) × Nat := (((d + 3) % 4, false), (d + 3) % 4)
/-- The links crossed by n hops from a die in one direction; each with whether it is crossed in its ascending direction. -/
def ringWalk (up : Bool) : Nat → Nat → List (Nat × Bool)
  | 0, _ => []
  | n + 1, d => let h := if up then upHop d else downHop d
    h.1 :: ringWalk up n h.2
/-- The path of whole ring: the one link between adjacent dies, two hops ascending between opposite ones. -/
def ringPlain (a b : Nat) : List (Nat × Bool) := match (b + 4 - a) % 4 with
  | 0 => []
  | 1 => ringWalk true 1 a
  | 2 => ringWalk true 2 a
  | _ => ringWalk false 1 a
/-- The path from die a to die b with a link out of use: the only one along the other three, where the plain one would cross
it. -/
def ringPath (lost : Option Nat) (a b : Nat) : List (Nat × Bool) :=
  let p := ringPlain a b
  let blocked := match lost with
    | none => false
    | some l => p.any fun x => x.1 == l
  if !blocked then p
  else if p.any Prod.snd then ringWalk false ((a + 4 - b) % 4) a else ringWalk true ((b + 4 - a) % 4) a
/-- The path a transfer between two dies takes now: a lost link counts from the trick boundary after its loss. -/
def State.ringPath (s : State) (a b : Nat) : List (Nat × Bool) := Sys2Proof.Machine.ringPath s.hl.ringRoute a b

end Sys2Proof.Machine
end

