-- ==== Sys2Proof/Machine/Place.lean ====
section
/-! DEFINITION. Physical units and their numbers (Table 17-1, R16, R19), and where output tiles lie: the placement of a trick,
dealing by assigned time, slots, and the sums that follow a tile out of service (R29, R115, R121, R182, R185). -/

namespace Sys2Proof.Machine

/-! ### Physical units -/

def kindNum : UnitKind → Nat
  | .tile => 0 | .engine => 1 | .bank => 2 | .channel => 3 | .seat => 4 | .lane => 5
/-- Die of a unit, the package of a channel, the port of a lane; 0 for seats. -/
def unitDie (u : PUnit) : Nat := match u.kind with
  | .tile => u.idx / 56 | .engine => u.idx / 4 | .bank => u.idx / 132 | .channel => u.idx / 13 | .seat => 0 | .lane => u.idx / 9
/-- The voltage domain escalation steps (R466). -/
def unitDomain (u : PUnit) : Nat := match u.kind with
  | .tile => 16 * (u.idx / 56) + u.idx % 56 / 4 | .engine => 16 * (u.idx / 4) + 14 | .bank => 16 * (u.idx / 132) + 14
  | .channel => 68 + u.idx / 13 | .seat => 64 | .lane => 16 * (u.idx / 27) + 15
def Health.isRet (h : Health) (u : PUnit) : Bool := match u.kind with
  | .tile => h.tret.getLsbD u.idx | .engine => h.vret.getLsbD u.idx | .bank => h.bret.getLsbD u.idx
  | .channel => h.cret.getLsbD u.idx | .seat => h.sret.getLsbD u.idx | .lane => h.lret.getLsbD u.idx
def Health.isSpare (h : Health) (u : PUnit) : Bool := match u.kind with
  | .tile => h.tspr.getLsbD u.idx | .engine => false | .bank => h.bspr.getLsbD u.idx
  | .channel => h.cspr.getLsbD u.idx | .seat => h.sspr.getLsbD u.idx | .lane => h.lspr.getLsbD u.idx
def setBit {w : Nat} (v : BitVec w) (i : Nat) (b : Bool) : BitVec w :=
  if b then v ||| BitVec.ofNat w (2 ^ i) else v &&& ~~~(BitVec.ofNat w (2 ^ i))
def Health.setRet (h : Health) (u : PUnit) (b : Bool) : Health := match u.kind with
  | .tile => { h with tret := setBit h.tret u.idx b }
  | .engine => { h with vret := setBit h.vret u.idx b }
  | .bank => { h with bret := setBit h.bret u.idx b }
  | .channel => { h with cret := setBit h.cret u.idx b }
  | .seat => { h with sret := setBit h.sret u.idx b }
  | .lane => { h with lret := setBit h.lret u.idx b }
def Health.setSpare (h : Health) (u : PUnit) (b : Bool) : Health := match u.kind with
  | .tile => { h with tspr := setBit h.tspr u.idx b }
  | .engine => h
  | .bank => { h with bspr := setBit h.bspr u.idx b }
  | .channel => { h with cspr := setBit h.cspr u.idx b }
  | .seat => { h with sspr := setBit h.sspr u.idx b }
  | .lane => { h with lspr := setBit h.lspr u.idx b }
/-- In service: neither retired, nor a spare, nor out of service. -/
def Health.inService (h : Health) (u : PUnit) : Bool := !h.isRet u && !h.isSpare u && !h.off.contains u
/-- Units of a kind on a die (seats: the hub). -/
def unitsOf (k : UnitKind) (die : Nat) : List PUnit := match k with
  | .tile => (List.range 56).map fun i => ⟨k, 56 * die + i⟩
  | .engine => (List.range 4).map fun i => ⟨k, 4 * die + i⟩
  | .bank => (List.range 132).map fun i => ⟨k, 132 * die + i⟩
  | .channel => (List.range 13).map fun i => ⟨k, 13 * die + i⟩
  | .seat => (List.range 18).map fun i => ⟨k, i⟩
  | .lane => (List.range 9).map fun i => ⟨k, 9 * die + i⟩
def State.upCount (s : State) (k : UnitKind) (die : Nat) : Nat := ((unitsOf k die).filter s.hl.inService).length
def State.spareCount (s : State) (k : UnitKind) (die : Nat) : Nat :=
  ((unitsOf k die).filter fun u => s.hl.isSpare u && !s.hl.isRet u && !s.hl.off.contains u).length
/-- A vector engine in service for R164: not retired, not out. -/
def State.enginesUp (s : State) (die : Nat) : List Nat :=
  ((unitsOf .engine die).filter s.hl.inService).map fun u => u.idx % 4

/-! ### Placement, R182 and R185 -/

/-- The arithmetic clock of a tile in units of 100 MHz (Table 01-8). -/
def State.tileClock (s : State) (d t : Nat) : Nat := 33 - 2 * ((s.hl.fstep[16 * d + t / 4]?).getD 0).toNat
/-- The tiles in service, 56 × die + index, with their clocks: what the Dealer places a trick over (R182, R185, R186). -/
def State.tilesNow (s : State) : List (Nat × Nat) :=
  ((List.range 4).flatMap fun d => (unitsOf .tile d).filter s.hl.inService).map fun u => (u.idx, s.tileClock (u.idx / 56) (u.idx % 56))
/-- K-steps dealt to a physical tile in a trick. -/
def assigned (l : List Dealt) (d t : Nat) : Nat := (l.map fun x => if x.die = d ∧ x.tile = t then x.ksteps else 0).sum
/-- The tile of a die with the least assigned time, its K-steps over its clock; ties go to the higher clock, then to the lower
index (R185). -/
def pickTile (place : List (Nat × Nat)) (l : List Dealt) (d : Nat) : Nat :=
  ((place.filter fun p => p.1 / 56 == d).foldl (fun (b : Option (Nat × Nat)) p => match b with
    | none => some p
    | some q =>
      let a := assigned l d (p.1 % 56) * q.2
      let e := assigned l d (q.1 % 56) * p.2
      if a < e ∨ (a = e ∧ p.2 > q.2) then some p else b) none).elim 0 fun p => p.1 % 56
/-- The duration of a tile's test, 1.6 ms, as K-steps of its clock (R473, Table 17-2): it counts as time assigned to a tile
tested inside a trick. No buffer has number 0. -/
def State.testTime (s : State) (i : Nat) : Dealt := ⟨0, 0, 0, i / 56, i % 56, 1250 * s.tileClock (i / 56) (i % 56)⟩
/-- The tiles being tested inside a trick. -/
def State.inTest (s : State) : List Nat :=
  s.hl.rots.filterMap fun r => if r.kind = .tile ∧ r.stage = 5 then r.target else none
def State.testsIn (s : State) : List Dealt := s.inTest.map s.testTime
/-- Slots an output tile holds, the first being k (R115). -/
def slotList (pair : Bool) (k : Nat) : List Nat := if pair then [k, k + 1] else [k]
/-- Slots in use on a tile: by held sums in place, and by drained output tiles not yet read out (R116, R159). -/
def Job.slotsAt (j : Job) (d t : Nat) : List Nat :=
  (j.tiles.filter fun o => o.live && o.lies == .slot && o.die == d && o.tile == t).flatMap (fun o => slotList o.pair o.slot) ++
    (j.fins.filter fun f => f.die == d && f.tile == t).flatMap fun f => slotList f.pair f.slot
/-- The lowest free slot; for a pair the lowest two slots 2i and 2i + 1 (R115). -/
def freeSlot (pair : Bool) (used : List Nat) : Option Nat :=
  if pair then [0, 2, 4, 6].find? fun k => !used.contains k && !used.contains (k + 1)
  else (List.range 8).find? fun k => !used.contains k
/-! ### Sums of a tile that leaves service -/

/-- The tile is one of a placement. -/
def placed (place : List (Nat × Nat)) (d t : Nat) : Bool := place.any fun p => p.1 == 56 * d + t
/-- A held sum goes to another tile of its die, into a slot there or, with none free, to the working store; what trick n has
dealt to it goes with it. No context is charged (R183, Table 06-4; log entry 81). -/
def Job.moveSum (place : List (Nat × Nat)) (j : Job) (g : OutTile) : Job :=
  let t := pickTile place [] g.die
  let k := freeSlot g.pair (j.slotsAt g.die t)
  { j with
    tiles := j.tiles.map fun o => if o ≠ g then o
      else { o with tile := t, slot := k.getD 0, lies := if o.lies = .slot ∧ k.isNone then .store else o.lies }
    t0 := { j.t0 with dealt := j.t0.dealt.map fun x =>
      if x.buf = g.buf ∧ x.r = g.r ∧ x.c = g.c then { x with tile := t } else x } }
/-- Held sums whose tile is none of the placement move: at the boundary of a trick, or when the trick before it, which may still
add to them, has ended (R29, R121). -/
def State.relocSums (s : State) (place : List (Nat × Nat)) : State :=
  { s with job := (s.job.tiles.filter fun o => o.live && !placed place o.die o.tile).foldl (Job.moveSum place) s.job }

end Sys2Proof.Machine
end

