-- ==== Sys2Proof/Machine/Seal.lean ====
section
/-! DEFINITION. Votes, decisions, and what a seal, a void, a teardown and a fault do (R229 to R242, R267 to R271,
R563). -/

namespace Sys2Proof.Machine

/-! ### Applying a seal, R235 -/

/-- R214 on the record the trick's pass two wrote, and the update status of R210. -/
def State.sealUpdate (s : State) (t : Nat) (commit : Bool) : State :=
  match s.job.t0.upd with
  | none => s
  | some u =>
    let j := { s.job with updNf := u.nf, updNf2 := if u.p2done then u.nf2 else s.job.updNf2, updC := u.clipF }
    if !u.p2done then { s with job := j }
    else
      let hr := recHalf u.op.prm.tensors.length
      let rec' (b : Buffer) : Buffer :=
        let cur := recCurrent b.mem hr
        let alt := 1 - cur.getD 0
        let sel := recSel b.mem hr
        let sel' := if commit then 1 - sel else sel
        let skips := leNat (memReadN 0 b.mem (alt * hr + 24) 4)
        let b := if commit then b.writeBytes (alt * hr + 16) (leBytes t 6)
          else b.writeBytes (alt * hr + 24) (leBytes (satAdd skips 1 sat32) 4)
        let b := b.writeBytes (alt * hr) [BitVec.ofNat 8 (sel' + 2)]
        b.writeBytes ((1 - alt) * hr) [(memRead 0 b.mem ((1 - alt) * hr)) &&& 0xFD]
      let sel := match s.job.buf? u.p2bu with
        | none => false
        | some b => decide (recSel (rec' b).mem hr = 1)
      let j := (j.modBuf u.p2bu rec')
      let j := { j with updCommit := commit, updSel := sel, wdirty := j.wdirty || (!commit && u.wwrote) }
      let s := { s with job := j }
      if commit then s
      else
        let r : List Byte := zerosTo ([stSKIP, BitVec.ofNat 8 u.ctx.val, s.job.t0.att, 4, 0xFF, 0xFF, 0, 0] ++ leBytes t 8 ++
          leBytes u.p2pc.toNat 8) 48
        s.release (.ownerCompl (some t) ⟨3, stSKIP, 0, 0, r⟩)

/-- Flags of the trick go into SEALED; its snapshot is dropped; its provisional fault is cleared (R109, R269). -/
def Ctx.sealTrick (x : Ctx) (t : Nat) : Ctx :=
  let add := (x.flagTricks.find? fun f => f.trick == t)
  { x with
    sealedFl := match add with
      | none => x.sealedFl
      | some f => (x.sealedFl &&& f.keep) ||| f.add
    flagTricks := x.flagTricks.filter fun f => f.trick != t
    joined := x.joined.filter fun k => k.trick != t
    prov := match x.prov with
      | none => none
      | some p => if p.trick = t then none else some p
    spillTrick := if x.spillTrick = some t then none else x.spillTrick
    collK := x.collK.filter fun p => p.1 != t }

/-- A buffer at the seal of t: what was declared, exported or released under t stands (R236). -/
def Buffer.sealTrick (b : Buffer) (t : Nat) : Buffer :=
  let n := b.pubOpen.foldl (fun a p => if p.1 = t then a + p.2 else a) 0
  { b with
    declTrick := if b.declTrick = some t then none else b.declTrick
    relTrick := if b.relTrick = some t then none else b.relTrick
    released := b.released || decide (b.relTrick = some t)
    exp := b.exp.map fun (i, w, k) => (i, w, if k = some t then none else k)
    pubSealed := b.pubSealed + BitVec.ofNat 32 n
    pubOpen := b.pubOpen.filter fun p => p.1 != t
    exchanged := b.exchanged.filter fun p => p.1 != t }

/-- The counts and shares of a sealed trick (R112). -/
def State.sealCounts (s : State) (t : Nat) : State :=
  let k := s.job.t0.counts
  let sh (r : NumRow) : Word × Word :=
    if r.seen = 0 then (0, 0)
    else (BitVec.ofNat 32 (min (r.ovf * 2 ^ 32 / r.seen) sat32), BitVec.ofNat 32 (min (r.van * 2 ^ 32 / r.seen) sat32))
  { s with stat := { s.stat with
      num := s.stat.num.add k
      shares := [sh k.v8, sh k.g8, sh k.bf16, sh k.fp16, sh k.fp32]
      numTrick := t
      numValid := true } }

/-- The exponents of the buckets are fixed for the trick that follows a decision (R561). -/
def Job.fixBuckets (j : Job) : Job := { j with fixed := (j.bufs.filter fun b => b.cls == .state).map fun b => (b.id, b.mem) }

/-- Bytes of a pass-one message whose first six are given, and its contents: groups, buckets, NF, the groups' words, NFB and A of
each bucket (R209; a layout of the model's own, log entry 21). -/
def normLen (d : List Byte) : Nat := 7 + 16 * fieldAt d 0 2 + 5 * fieldAt d 2 4
def normOfBytes (d : List Byte) : List (Word × Word × Word × Word) × Bool × List Bool × List Word :=
  let g := fieldAt d 0 2
  let n := fieldAt d 2 4
  let w (o : Nat) : Word := BitVec.ofNat 32 (fieldAt d o 4)
  ((List.range g).map fun i => (w (7 + 16 * i), w (11 + 16 * i), w (15 + 16 * i), w (19 + 16 * i)), byteAt d 6 != 0,
    (List.range n).map (fun i => byteAt d (7 + 16 * g + i) != 0), (List.range n).map fun i => w (7 + 16 * g + n + 4 * i))

/-- Accept a DATA message of the current attempt: transfer bytes are placed by offset (R391), pass-one results kept
(R209). -/
def Job.acceptData (j : Job) (src : BitVec 9) (t : Nat) (a : Byte) : DataMsg → Job
  | .xfer c fn tag k fmt mode total first count len root off data =>
    let same (x : Xfer) : Bool := x.trick == t && x.att == a && x.src == src && x.ctx == c && x.func == fn.toNat &&
      x.tag == tag.toNat && x.k == k && x.root == root
    if j.xfers.any same then
      { j with xfers := j.xfers.map fun x =>
          if same x then { x with mem := memWriteN 0 x.mem off data, got := x.got + data.length } else x }
    else
      { j with xfers := j.xfers ++ [⟨t, a, src, c, fn.toNat, tag.toNat, k, fmt, mode, total, first, count, len, root,
          memWriteN 0 [] off data, data.length⟩] }
  | .norms c off data =>
    let same (x : Xfer) : Bool := x.trick == t && x.att == a && x.src == src && x.ctx == c && x.func == 6
    let x : Xfer := (j.xfers.find? same).getD ⟨t, a, src, c, 6, 0, 0, 0, 0, 0, 0, 0, 0, 0, [], 0⟩
    let y : Xfer := { x with mem := memWriteN 0 x.mem off data, got := x.got + data.length }
    let j := { j with xfers := j.xfers.filter (fun x => !same x) ++ [y] }
    let n := normLen (memReadN 0 y.mem 0 6)
    if y.got ≥ 6 ∧ y.got ≥ n then
      let (gs, nf, nfbs, amax) := normOfBytes (memReadN 0 y.mem 0 n)
      { j with norms := j.norms ++ [⟨t, a, src, gs, nf, nfbs, amax⟩] }
    else j

/-- Frames held for an attempt (R224) that has come. -/
def State.takeHeldData (s : State) : State :=
  let cur (t : Nat) (a : Byte) : Bool := match s.trick? t with
    | none => false
    | some r => r.att == a
  let now := s.fab.held.filter fun i => match i with
    | .dataFrameReceived h _ => h.epoch == s.fab.epoch && cur h.trick.toNat h.attempt
    | _ => false
  let s := { s with fab := { s.fab with held := s.fab.held.filter fun i => !now.contains i } }
  now.foldl (fun s i => match i with
    | .dataFrameReceived h m => { s with job := s.job.acceptData (h.src.setWidth 9) h.trick.toNat h.attempt m }
    | _ => s) s

/-- Steps 1 to 5 of R235, then what follows a seal: the buddy copy (R438), refresh and checkpoint points (R439), releases
(R257), and lag swaps (R356). -/
def State.applySeal (s : State) (commit : Bool) : State :=
  let t := s.stat.sealedN
  let r := s.job.t0
  let s := { s with job := { s.job with wdirty := s.job.wdirty && r.rebuilt.isEmpty } }
  let s := s.sealUpdate t commit
  let s := s.sealCounts t
  let e : LogE := ⟨t, r.loss, r.upd.isSome && !commit, s.job.recov.proofHeld, r.att, s.fab.epoch, s.stat.cursor⟩
  let s := s.setRecov fun k => { k with tlog := logAdd tlogCap k.tlog e, proofHeld := false }
  let j := (s.job.mapCtxs fun _ x => x.sealTrick t)
  let j : Job := { j with
    bufs := j.bufs.map fun b => b.sealTrick t
    tiles := (j.tiles.map fun o => { o with saved := o.saved.filter fun v => v.trick != t }).filter fun o => o.live || !o.saved.isEmpty
    xfers := j.xfers.filter fun x => x.trick != t
    norms := j.norms.filter fun x => x.trick != t
    t0 := j.t1, t1 := .empty }
  let s := { s with job := j.fixBuckets, stat := { s.stat with sealedN := t + 1, cursor := (s.stat.cursor + r.cursorBytes) % 2 ^ 48 } }
  let s := if s.job.t0.begun then s.relocSums s.job.t0.place else s
  let s := s.releaseStaged t
  let s := if s.cfg.sealCfg.getLsbD 8 then s.release (.ownerCompl (some t) (trickCompl stOK t r.att 0 0xFFFF)) else s
  let s := s.flushHeld
  let s := match s.kitty with
    | none => s
    | some (_, g) => match s.kittyMid ((s.kpos + 1) % g) with
      | none => s
      | some m => s.sendState m 1 t 0 0 (logBytes e)
  s.takeHeldData.pointCheck.settle.lagSwap.settle

/-! ### Applying a void, R236 -/

/-- LOCAL counters of a restored snapshot count the completions whose trick survives (R255). -/
def restoreArch (a : Arch) (incs : List (Nat × EReg)) (fl : Fl) : Arch :=
  let a := incs.foldl (fun a p =>
    let k := a.ctr p.2
    match k.bound with
    | none => a.setCtr p.2 { k with val := k.val + 1 }
    | some _ => a) a
  { a with cur := fl }

/-- Units of an entry are still to be granted. -/
def QE.toDo (q : QE) : Bool := !q.begun || !q.units.isEmpty
/-- A context at the void of t and above: work discarded, the snapshot of its oldest voided trick restored (R236; CURRENT
becomes SEALED, R109). The record of a provisional fault goes when the attempt now voided has raised none (R269). -/
def Ctx.voidTrick (x : Ctx) (t : Nat) (halt : Bool) (att : Nat → Byte) : Ctx :=
  let x := x.filterEntries fun q => q.trick < t
  let x : Ctx := { x with
    rdyM := x.rdyM && (x.qm.any QE.toDo || x.qv.any QE.toDo)
    rdyV := x.rdyV && (x.qv.any QE.toDo || !x.qm.isEmpty)
    rdyC := x.rdyC && x.qc.any QE.toDo
    prov := x.prov.filter fun p => decide (p.trick < t) || p.att == att p.trick
    flagTricks := x.flagTricks.filter fun f => f.trick < t
    collK := x.collK.filter fun p => p.1 < t
    arch := { x.arch with cur := x.sealedFl } }
  let gone := sortBy (fun a b : Joined => decide (a.trick < b.trick)) (x.joined.filter fun k => k.trick ≥ t)
  match gone with
  | [] => x
  | k :: _ =>
    let incs := k.incs.filter fun p => p.1 < t
    { x with
      arch := restoreArch k.snap incs x.sealedFl
      joined := x.joined.filter (fun y => y.trick < t) ++ [{ k with tsealed := false, incs := incs }]
      tag := some k.trick
      last := some k.trick
      stall := none
      faulted := false
      halted := halt }

/-- Bound handles to buffers whose export is withdrawn become invalid (R286). -/
def Ctx.unbind (x : Ctx) (lost : List Nat) : Ctx :=
  if lost.isEmpty then x
  else { x with arch := { x.arch with hnds := x.arch.hnds.map fun h => match h with
      | some k => if !k.owner && lost.contains k.buf then none else some k
      | none => none } }

/-- A buffer at the void of t and above: publishes, records, exports and releases made under them go (R236, R285). -/
def Buffer.voidTrick (b : Buffer) (t : Nat) : Buffer :=
  let back := match b.relTrick with
    | none => false
    | some k => decide (k ≥ t)
  { b with
    relTrick := if back then none else b.relTrick
    dead := if back then false else b.dead
    exp := match b.exp with
      | some (_, _, some k) => if k ≥ t then none else b.exp
      | e => e
    pubOpen := b.pubOpen.filter fun p => p.1 < t
    exchanged := b.exchanged.filter fun p => p.1 < t
    recs := b.recs.filter fun r => r.trick < t }

/-- The copy a void of t takes a held sum back to: that of the oldest voided trick that added to it (R560). -/
def OutTile.backTo (o : OutTile) (t : Nat) : Option SumCopy :=
  (sortBy (fun (a b : SumCopy) => decide (a.trick < b.trick)) (o.saved.filter fun v => v.trick ≥ t)).head?
/-- Sums begun under t or later are freed; others return to their saved copies (R560). One that has drained since lies in the
working store, where its copy was. -/
def OutTile.voidTrick (o : OutTile) (t : Nat) : Option OutTile :=
  if o.trick ≥ t then none
  else match o.backTo t with
    | none => some o
    | some v => some { o with
        acc := v.acc
        chk := v.chk
        lies := if o.live then o.lies else .store
        live := true
        saved := o.saved.filter fun v => v.trick < t }
/-- Copy bytes of the restorations into slots, charged to the owning context (R560, Table 06-4). -/
def Job.restoreBytes (j : Job) (t : Nat) (c : CtxId) : Nat :=
  (j.tiles.map fun o => if o.ctx = c ∧ o.live ∧ o.lies = .slot ∧ o.trick < t ∧ (o.backTo t).isSome then 2 * o.bytes else 0).sum

/-- Work whose instruction is gone leaves the module's queues. -/
def Job.dropGone (j : Job) : Job :=
  let uids := (allEntries j).map fun p => p.2.uid
  { j with
    potQ := j.potQ.filter fun p => uids.contains p.1
    stageQ := j.stageQ.filter fun p => uids.contains p.1
    fins := j.fins.filter fun f => uids.contains f.uid
    roomQ := j.roomQ.filter fun r => (j.bufs.any fun b => b.id == r.buf) && match r.kind with
      | .copy _ _ t => (allEntries j).any fun p => p.1 == r.ctx && p.2.trick == t
      | .slot _ _ => (allEntries j).any fun p => p.1 == r.ctx && !p.2.cells.isEmpty || p.1 == r.ctx && !p.2.begun
      | _ => true }

def State.freshTrick (r : TrickRec) (adv : Bool) : TrickRec :=
  { TrickRec.empty with att := if adv then r.att + 1 else r.att, abase := r.abase }

/-- Data of voided attempts is dropped; frames held for the attempt now current are accepted (R224). -/
def Job.dropXfers (j : Job) (t : Nat) : Job :=
  { j with xfers := j.xfers.filter (fun x => x.trick < t), norms := j.norms.filter fun x => x.trick < t }

/-- The last void (LASTVOID). DESIGN CHOICE (log entry 101): after a reconciled VOID, cause 8, every member counts as having found the
cause itself. -/
def State.noteVoid (s : State) (t : Nat) (cause : BitVec 4) (origin : BitVec 16) : State :=
  let r := (s.trick? t).getD .empty
  let mine := r.voted == some .void && origin.toNat == s.myRank || cause == 8
  { s with stat := { s.stat with
      voids := satAdd s.stat.voids 1 sat32
      lastVoid := ⟨if mine then cause else 9, mine, decide (t = s.stat.sealedN + 1), r.att, origin, true, t⟩ } }

/-- R236 and R241 for a VOID or HALT decision on trick t. -/
def State.applyVoid (s : State) (t : Nat) (halt : Bool) (cause : BitVec 4) (origin : BitVec 16) : State :=
  match s.trick? t with
  | none => s
  | some r0 =>
    let s := s.noteVoid t cause origin
    let oldest := decide (t = s.stat.sealedN)
    let wrote (r : TrickRec) : Bool := match r.upd with
      | none => false
      | some u => u.wwrote
    let dirty := wrote s.job.t1 || (oldest && wrote s.job.t0)
    let gone := (s.job.bufs.filter fun b => match b.declTrick with
      | none => false
      | some k => decide (k ≥ t)).map Buffer.id
    let spills := (s.job.ctxList.filter fun x => match x.2.spillTrick with
      | none => false
      | some k => decide (k ≥ t)).map Prod.fst
    let j := spills.foldl Job.withdrawSpill s.job
    let j := j.mapCtxs fun c x => (x.voidTrick t halt fun k => ((s.trick? k).getD .empty).att).chargeMove (s.job.restoreBytes t c)
    let lost := (s.job.bufs.filter fun b => match b.exp with
      | some (_, _, some k) => decide (k ≥ t)
      | _ => false).map Buffer.id
    let j := j.mapCtxs fun _ x => x.unbind lost
    let j : Job := { j with
      bufs := (j.bufs.filter fun b => !gone.contains b.id).map fun b => b.voidTrick t
      tiles := j.tiles.filterMap fun o => o.voidTrick t
      staged := j.staged.filter fun w => match w with
        | .host k _ _ _ _ => k < t
        | .emit k => k < t
      buckets := (j.buckets.filter fun p => p.trick < t).map fun (p : BktPass) =>
        { p with seen := p.seen.filter fun o => o.2.all fun l => decide (l < t) }
      wdirty := j.wdirty || dirty
      t0 := if oldest then State.freshTrick j.t0 true else j.t0
      t1 := if oldest then State.freshTrick j.t1 j.t1.begun else State.freshTrick j.t1 true
      halt := j.halt || halt
      haltCause := if halt then cause else j.haltCause }
    let s := { s with job := j.dropGone.dropXfers t }
    let s := (s.voidServe t).servePublish.takeHeldData
    let s := if s.cfg.sealCfg.getLsbD 8 then s.release (.ownerCompl (some t) (trickCompl stVOIDED t r0.att cause origin)) else s
    let s := if halt then s.release (.ownerCompl (some t) (s.eventCompl stVOIDED t cause.toNat 1)) else s
    s.settle.lagSwap.settle

/-! ### The tree, R233 and R234 -/

def State.sendVote (s : State) (t : Nat) (a : Byte) (v : Verdict) (commit : Bool) (cause : BitVec 4) (origin : BitVec 16) : State :=
  match s.parent with
  | none => s
  | some p => s.sendPeer p classSEAL t a (sealPayload false v commit cause origin) false
def State.sendDecision (s : State) (t : Nat) (a : Byte) (v : Verdict) (commit : Bool) (cause : BitVec 4) (origin : BitVec 16) :
    State :=
  s.children.foldl (fun s m => s.sendPeer m classSEAL t a (sealPayload true v commit cause origin) false) s

/-- Apply a decision (R235, R236). -/
def State.applied (s : State) (t : Nat) (v : Verdict) (commit : Bool) (cause : BitVec 4) (origin : BitVec 16) : State :=
  match v with
  | .ok => if t = s.stat.sealedN then s.applySeal commit else s
  | .void => s.applyVoid t false cause origin
  | .halt => s.applyVoid t true cause origin
/-- Apply a decision, then pass it to the children. -/
def State.decided (s : State) (t : Nat) (v : Verdict) (commit : Bool) (cause : BitVec 4) (origin : BitVec 16) : State :=
  let a := ((s.trick? t).getD .empty).att
  (s.applied t v commit cause origin).sendDecision t a v commit cause origin

/-- OK held from this member and every child. -/
def State.allOk (s : State) (r : TrickRec) : Bool :=
  let ok (k : Option Nat) : Bool := r.votes.any fun v => v.rank == k && v.verdict == .ok
  ok none && (s.children.map s.rankOf).all fun c => ok (some c)
def TrickRec.commits (r : TrickRec) : Bool := r.votes.all fun v => v.verdict != .ok || v.commit

/-- MAXATT (Table 08-4); 0 behaves as 8. -/
def State.maxAtt (s : State) : Nat := if s.cfg.sealCfg.toNat % 256 = 0 then 8 else s.cfg.sealCfg.toNat % 256

/-- The root's VOID or HALT (R234). -/
def State.rootVoid (s : State) (t : Nat) (r : TrickRec) (cause : BitVec 4) (origin : BitVec 16) : State :=
  let d := (r.att - r.abase).toNat
  s.decided t (if d < s.maxAtt - 1 then .void else .halt) false cause origin

/-- The root's SEAL of the oldest unsealed trick, once it holds OK from the whole tree (log entry 22). -/
def State.rootSeal (s : State) : State :=
  let r := s.job.t0
  if s.isRoot && r.fwdOk && !r.fwdVoid then s.decided s.stat.sealedN .ok r.commits 0 0xFFFF else s

/-- The decision of a trick's attempt has been received and waits for the decision of the trick before. -/
def State.heldDecision (s : State) (t : Nat) (a : Byte) : Bool := s.fab.held.any fun i => match i with
  | .sealDecisionReceived h _ _ _ _ => h.epoch == s.fab.epoch && h.trick.toNat == t && h.attempt == a
  | _ => false
/-- A vote reaches this node (R233). -/
def State.nodeVote (s : State) (t : Nat) (v : VoteR) : State :=
  match s.trick? t with
  | none => s
  | some r0 =>
    let r := { r0 with votes := r0.votes ++ [v] }
    if s.fab.reconciling then s.modTrick t fun _ => r
    else if v.verdict == .ok then
      if s.allOk r && !r.fwdOk && !r.fwdVoid then
        let s := s.modTrick t fun _ => { r with fwdOk := true }
        if s.isRoot then s.rootSeal.rootSeal
        else s.sendVote t r.att .ok r.commits 0 0xFFFF
      else s.modTrick t fun _ => r
    else if r.fwdVoid || (r.fwdOk && s.heldDecision t r.att) then s.modTrick t fun _ => r
    else
      let s := s.modTrick t fun _ => { r with fwdVoid := true }
      if s.isRoot then s.rootVoid t r v.cause v.origin
      else s.sendVote t r.att .void false v.cause v.origin

/-- Forward what the held votes give, once a reconciliation has redrawn the tree (R238). -/
def State.reVote (s : State) (t : Nat) : State :=
  match s.trick? t with
  | none => s
  | some r =>
    match r.votes.find? fun v => v.verdict != .ok with
    | some v =>
      if r.fwdVoid then s
      else
        let s := s.modTrick t fun _ => { r with fwdVoid := true }
        if s.isRoot then s.rootVoid t r v.cause v.origin else s.sendVote t r.att .void false v.cause v.origin
    | none =>
      if s.allOk r && !r.fwdOk then
        let s := s.modTrick t fun _ => { r with fwdOk := true }
        if s.isRoot then s.rootSeal.rootSeal else s.sendVote t r.att .ok r.commits 0 0xFFFF
      else s

/-- This member's VOID vote for trick t (R230, R231); recorded while the job is halted (R241). -/
def State.voteVoid (s : State) (t : Nat) (cause : BitVec 4) : State :=
  match s.trick? t with
  | none => s
  | some r =>
    let live := s.job.state == .running || s.job.state == .ending
    let may := match r.voted with
      | none => true
      | some .ok => cause == 6 || cause == 7
      | some _ => false
    if !live then s
    else if s.job.halt then
      s.modTrick t fun r => { r with recorded := r.recorded.orElse fun _ => some cause }
    else if !may then s
    else
      let s := s.modTrick t fun r => { r with voted := some .void }
      s.nodeVote t ⟨none, .void, false, cause, BitVec.ofNat 16 s.myRank⟩

/-- Contexts whose provisional fault outlives a seal of the trick before: the member votes VOID for the oldest trick such a
context has still joined (R230, R268). -/
def State.refault (s : State) : State :=
  s.job.ctxList.foldl (fun s p =>
    if !p.2.faulted then s
    else match sortBy (fun a b => decide (a < b)) (p.2.joined.map Joined.trick) with
      | [] => s
      | t :: _ => s.voteVoid t 7) s
/-- Undecided tricks that contexts of this module have joined. -/
def State.openTricks (s : State) : List Nat := [s.stat.sealedN, s.stat.sealedN + 1].filter s.joinedBy
/-- VOID votes for tricks in ascending order; when the decision on one has been applied at once, the next one has been
discarded with it and has no vote. -/
def State.voteEach (s : State) (cause : BitVec 4) : List Nat → State
  | [] => s
  | t :: r =>
    let s1 := s.voteVoid t cause
    if s1.job.t0.att ≠ s.job.t0.att then s1 else s1.voteEach cause r
/-- VOID for every undecided trick this module's contexts have joined. -/
def State.voidEach (s : State) (cause : BitVec 4) : State := s.voteEach cause s.openTricks
/-- Void every trick in flight for one cause (R22, R30, R34): each that this member may still vote VOID on, in ascending
order. -/
def State.voidOpen (s : State) (cause : BitVec 4) : State := s.voidEach cause

/-! ### Fault records and teardown, R270 and R271 -/

/-- Table 09-6. -/
def faultRecord (status : Byte) (c : CtxId) (att kind seat handle : Byte) (trick : Nat) (pc insn detail : Dword) : List Byte :=
  zerosTo ([status, BitVec.ofNat 8 c.val, att, kind, seat, handle, 0, 0] ++ leBytes trick 8 ++ leBytes pc.toNat 8 ++
    leBytes insn.toNat 8 ++ leBytes detail.toNat 8) 48
/-- CONTEXT completion (KIND 2), behind the writes of the tricks before the one it is of (R431). -/
def State.ctxCompl (s : State) (trick : Option Nat) (status : Byte) (record : List Byte) : State :=
  s.release (.ownerCompl trick ⟨2, status, 0, 0, record⟩)
/-- Record of a context torn down by a kill or an end: ABORTED, nothing else. -/
def abortRecord (status : Byte) (c : CtxId) : List Byte := faultRecord status c 0 0 0xFF 0xFF 0 0 0 0

/-- The owner's buffers are released at once; one another context still names lasts until it does not (R271 step 4). -/
def Buffer.orphan (b : Buffer) : Buffer := { b with dead := true, released := true, exp := none, relTrick := none }

/-- A release that cannot be voided: it takes effect, for handles bound elsewhere too, once no issued, incomplete instruction names
the buffer (R257, R281). -/
def Buffer.relNow (b : Buffer) : Buffer := { b with released := true, relTrick := none }

/-- A context goes, with its work, its slots, its queues' places and its seat; rel releases each buffer it owns. A Pot reservation is
withdrawn with every record of the context not yet whole. -/
def State.dropCtx (s : State) (c : CtxId) (rel : Buffer → Buffer) : State :=
  match s.job.ctx? c with
  | none => s
  | some x =>
    let j := s.job.setCtx c none
    let j : Job := { j with
      dead := j.dead.filter (fun p => p.1 != c) ++ [(c, { x with qm := [], qv := [], qc := [], seat := none, resid := .out })]
      fins := j.fins.filter fun f => f.ctx != c
      tiles := j.tiles.filter fun o => o.ctx != c
      roomQ := j.roomQ.filter fun r => r.ctx != c
      evict := if j.evict = some c then none else j.evict
      buckets := j.buckets.map fun (p : BktPass) => { p with seen := p.seen.filter fun o => o.1 != c }
      bufs := (j.bufs.map fun b => if b.owner = c then rel b else b).map fun b =>
        { b with recs := b.recs.filter fun r => r.ctx != c || r.done } }
    { s with job := j.dropGone.collect }
/-- Steps 1 to 5 of R271. -/
def State.teardownCore (s : State) (c : CtxId) : State := s.dropCtx c Buffer.orphan

/-- Step 6: VOID with cause TEARDOWN for every trick the context had joined that is undecided. -/
def State.teardownVotes (s : State) (ts : List Nat) : State := s.voteEach 7 ts

def Ctx.joinedTricks (x : Ctx) : List Nat := sortBy (fun a b => decide (a < b)) (x.joined.map Joined.trick)

/-- R271, whole. -/
def State.teardown (s : State) (c : CtxId) : State :=
  match s.job.ctx? c with
  | none => s
  | some x => ((s.teardownCore c).teardownVotes x.joinedTricks).settle

/-- Tear down every context with one status (R338, R447, R451): all are taken down before the votes are sent. -/
def State.teardownAll (s : State) (status : Byte) : State :=
  let l := s.job.ctxList
  let s1 := l.foldl (fun s x => (s.teardownCore x.1).ctxCompl none status (abortRecord status x.1)) s
  let ts := l.flatMap fun x => x.2.joinedTricks
  (s1.teardownVotes (sortBy (fun a b => decide (a < b)) ts.eraseDups)).settle

/-- Every context goes at the end of a job whose votes have been cast (R337, R338). -/
def State.teardownQuiet (s : State) (status : Byte) : State :=
  (s.job.ctxList.foldl (fun s x => (s.teardownCore x.1).ctxCompl none status (abortRecord status x.1)) s).settle

/-! ### Faults, R267 to R269 -/

/-- A fault of context c: at once with no open trick; with one, provisional, or confirmed when the replay repeats it.
inOpen is the trick of the faulting instruction's tag. DESIGN CHOICE (log entry 101): of several faults of one context before the
attempt is voided, the last is the provisional one. -/
def State.raiseFault (s : State) (c : CtxId) (inOpen : Option Nat) (status handle : Byte) (pc insn detail : Dword) : State :=
  match s.job.ctx? c with
  | none => s
  | some x =>
    match inOpen with
    | none =>
      let s1 := s.teardownCore c
      let s1 := s1.ctxCompl none status (faultRecord status c 0 1 0xFF handle 0 pc insn detail)
      (s1.teardownVotes x.joinedTricks).settle
    | some t =>
      let att := ((s.trick? t).getD .empty).att
      let same := match x.prov with
        | none => false
        | some p => p.trick == t && p.att != att && p.status == status && p.pc == pc
      if same then
        let s1 := s.teardownCore c
        let s1 := s1.ctxCompl (some t) status (faultRecord status c att 0 0xFF handle t pc insn detail)
        (s1.teardownVotes x.joinedTricks).settle
      else
        let s1 := { s with job := s.job.modCtx c fun x => { x with prov := some ⟨t, att, status, pc⟩, faulted := true } }
        (s1.voteVoid (x.joinedTricks.headD t) 7).settle

end Sys2Proof.Machine
end

