-- ==== Sys2Proof/Machine/Operands.lean ====
section
/-! DEFINITION. Instruction words and operands: the word of each seat command for a fault record's INSN (R274, Tables
10-2 to 10-13 and 11-2 to 11-15), reserved bits and encodings (R4, R275), operand words, handles, element access. -/

namespace Sys2Proof

/-! ### Instruction words -/

/-- Fields from the highest bit down, each (value, width). -/
def packFields : List (Nat × Nat) → Nat
  | [] => 0
  | (v, w) :: r => v % 2 ^ w * 2 ^ (r.map Prod.snd).sum + packFields r
/-- OP [63:58], PG [57:55], PN [54], then bits [53:0]. -/
def insnWord (op : Nat) (g : Guard) (body : List (Nat × Nat)) : Dword :=
  BitVec.ofNat 64 (packFields ((op, 6) :: (g.pg.toNat, 3) :: (g.pn.toNat, 1) :: body))

def b2n (b : Bool) : Nat := b.toNat

def AluF.word (f : AluF) : Dword := insnWord 0x00 f.g [(f.sd.toNat, 5), (f.sa.toNat, 5), (f.sb.toNat, 5), (f.funct.toNat, 4), (f.rsv.toNat, 35)]
def AluiF.word (f : AluiF) : Dword :=
  insnWord 0x01 f.g [(f.sd.toNat, 5), (f.sa.toNat, 5), (f.rsvB.toNat, 5), (f.funct.toNat, 4), (f.rsvC.toNat, 3), (f.imm.toNat, 32)]
def LiF.word (f : LiF) : Dword := insnWord 0x02 f.g [(f.sd.toNat, 5), (f.funct.toNat, 1), (f.rsv.toNat, 16), (f.imm.toNat, 32)]
def CmpF.word (f : CmpF) : Dword :=
  insnWord 0x03 f.g [(f.pd.toNat, 3), (f.sa.toNat, 5), (f.sb.toNat, 5), (f.funct.toNat, 4), (b2n f.useImm, 1), (f.rsv.toNat, 4), (f.imm.toNat, 32)]
def PlogF.word (f : PlogF) : Dword :=
  insnWord 0x04 f.g [(f.pd.toNat, 3), (f.pa.toNat, 3), (f.rsvA.toNat, 2), (f.pb.toNat, 3), (f.sd.toNat, 5), (f.funct.toNat, 3), (f.rsv.toNat, 35)]
def BrF.word (f : BrF) : Dword := insnWord 0x06 f.g [(f.rsv.toNat, 22), (f.off.toNat, 32)]
def JalF.word (f : JalF) : Dword := insnWord 0x07 f.g [(f.sd.toNat, 5), (f.sa.toNat, 5), (f.rsv.toNat, 12), (f.imm.toNat, 32)]
def SldF.word (f : SldF) : Dword :=
  insnWord 0x08 f.g [(f.sd.toNat, 5), (f.sa.toNat, 5), (f.bh.toNat, 6), (f.size.toNat, 2), (b2n f.sx, 1), (f.rsv.toNat, 3), (f.imm.toNat, 32)]
def SstF.word (f : SstF) : Dword :=
  insnWord 0x09 f.g [(f.ss.toNat, 5), (f.sa.toNat, 5), (f.bh.toNat, 6), (f.size.toNat, 2), (f.rsv.toNat, 4), (f.imm.toNat, 32)]
def BareF.word (f : BareF) (op : Nat) : Dword := insnWord op f.g [(f.rsv.toNat, 54)]
def DeclF.word (f : DeclF) : Dword :=
  insnWord 0x10 f.g [(f.bh.toNat, 6), (f.sS.toNat, 5), (f.sA.toNat, 5), (f.sT.toNat, 5), (f.rsv.toNat, 33)]
def SpillrF.word (f : SpillrF) : Dword := insnWord 0x11 f.g [(f.rsvA.toNat, 6), (f.sS.toNat, 5), (f.rsv.toNat, 43)]
def RelF.word (f : RelF) : Dword := insnWord 0x12 f.g [(f.bh.toNat, 6), (f.rsv.toNat, 48)]
def ShareF.word (f : ShareF) (funct : Nat) : Dword :=
  insnWord 0x13 f.g [(funct, 2), (f.bh.toNat, 6), (f.sI.toNat, 5), (b2n f.acc, 1), (f.rsv.toNat, 40)]
def CopyF.word (f : CopyF) : Dword :=
  insnWord 0x14 f.g [(f.bd.toNat, 6), (f.bs.toNat, 6), (f.sDO.toNat, 5), (f.sSO.toNat, 5), (f.sEXT.toNat, 5), (f.sRC.toNat, 5),
    (f.ec.toNat, 4), (b2n f.pub, 1), (b2n f.cnt, 1), (f.rsv.toNat, 16)]
def GatherF.word (f : GatherF) (op : Nat) : Dword :=
  insnWord op f.g [(f.bd.toNat, 6), (f.bs.toNat, 6), (f.bi.toNat, 6), (f.sIX.toNat, 5), (f.sROW.toNat, 5), (f.sRC.toNat, 5),
    (f.ec.toNat, 4), (b2n f.cnt, 1), (b2n f.pub, 1), (f.rsv.toNat, 15)]
def FillF.word (f : FillF) : Dword :=
  insnWord 0x17 f.g [(f.bd.toNat, 6), (f.sDO.toNat, 5), (f.sEXT.toNat, 5), (f.sV.toNat, 5), (f.rsvA.toNat, 11), (f.ec.toNat, 4),
    (b2n f.pub, 1), (b2n f.cnt, 1), (f.rsv.toNat, 16)]
def WaitF.word (f : WaitF) : Dword := insnWord 0x18 f.g [(f.e.toNat, 4), (f.sN.toNat, 5), (f.rsv.toNat, 13), (f.imm.toNat, 32)]
def EvtF.word (f : EvtF) (funct : Nat) : Dword :=
  insnWord 0x19 f.g [(f.e.toNat, 4), (funct, 3), (f.s.toNat, 5), (f.bh.toNat, 6), (f.rsv.toNat, 36)]
def FenceF.word (f : FenceF) : Dword := insnWord 0x1A f.g [(f.mask.toNat, 3), (f.rsv.toNat, 51)]
def TbeginF.word (f : TbeginF) : Dword := insnWord 0x1B f.g [(f.sd.toNat, 5), (f.rsv.toNat, 49)]
def QueryF.word (f : QueryF) (sel : Nat) : Dword :=
  insnWord 0x3F f.g [(f.sd.toNat, 5), (sel, 8), (f.sa.toNat, 5), (b2n f.clr, 1), (f.rsv.toNat, 35)]
def MmaF.word (f : MmaF) : Dword :=
  insnWord 0x20 f.g [(f.bd.toNat, 6), (f.ba.toNat, 6), (f.bb.toNat, 6), (f.sG.toNat, 5), (f.sK.toNat, 5), (f.sC.toNat, 5),
    (f.sRC.toNat, 5), (f.ec.toNat, 4), (b2n f.cnt, 1), (b2n f.pub, 1), (f.rsv.toNat, 10)]
def VewF.word (f : VewF) (op : Nat) : Dword :=
  insnWord op f.g [(f.bd.toNat, 6), (f.ba.toNat, 6), (f.bb.toNat, 6), (f.func.toNat, 6), (f.sha.toNat, 2), (f.shb.toNat, 2),
    (f.sX.toNat, 5), (f.sVC.toNat, 5), (f.sS.toNat, 5), (f.ec.toNat, 4), (b2n f.cnt, 1), (b2n f.pub, 1), (f.sW.toNat, 5)]
def VselF.word (f : VselF) : Dword :=
  insnWord 0x31 f.g [(f.bd.toNat, 6), (f.ba.toNat, 6), (f.bb.toNat, 6), (f.bc.toNat, 6), (f.sha.toNat, 2), (f.shb.toNat, 2),
    (f.sX.toNat, 5), (f.sVC.toNat, 5), (f.sS.toNat, 5), (f.ec.toNat, 4), (b2n f.cnt, 1), (b2n f.pub, 1), (f.sW.toNat, 5)]
def VlutF.word (f : VlutF) : Dword :=
  insnWord 0x33 f.g [(f.bd.toNat, 6), (f.ba.toNat, 6), (f.bt.toNat, 6), (f.rsvA.toNat, 6), (f.sha.toNat, 2), (f.rsvB.toNat, 7),
    (f.sVC.toNat, 5), (f.sS.toNat, 5), (f.ec.toNat, 4), (b2n f.cnt, 1), (b2n f.pub, 1), (f.sW.toNat, 5)]
def VredF.word (f : VredF) : Dword :=
  insnWord 0x34 f.g [(f.bd.toNat, 6), (f.ba.toNat, 6), (f.rsvA.toNat, 6), (f.opr.toNat, 4), (f.dir.toNat, 2), (b2n f.nod, 1),
    (f.rsvB.toNat, 8), (f.sVC.toNat, 5), (f.sS.toNat, 5), (f.ec.toNat, 4), (b2n f.cnt, 1), (b2n f.pub, 1), (f.sW.toNat, 5)]
def StsF.word (f : StsF) (func : Nat) : Dword :=
  insnWord 0x3C f.g [(func, 3), (f.bp.toNat, 6), (f.bs.toNat, 6), (f.bx.toNat, 6), (f.bw.toNat, 6), (f.bg.toNat, 6), (f.sW.toNat, 5),
    (f.sRC.toNat, 5), (b2n f.src, 1), (b2n f.endmb, 1), (f.ec.toNat, 4), (b2n f.cnt, 1), (b2n f.pub, 1), (f.rsv.toNat, 3)]
def UpdF.word (f : UpdF) (func : Nat) : Dword :=
  insnWord 0x3D f.g [(func, 2), (f.bc.toNat, 6), (f.bt.toNat, 6), (f.bs.toNat, 6), (f.bu.toNat, 6), (f.sH.toNat, 5), (f.ec.toNat, 4),
    (b2n f.cnt, 1), (b2n f.pub, 1), (f.rsv.toNat, 17)]
def CollF.word (f : CollF) (func : Nat) : Dword :=
  insnWord 0x3E f.g [(func, 3), (f.bd.toNat, 6), (f.bs.toNat, 6), (f.sA.toNat, 5), (f.sB.toNat, 5), (f.sRC.toNat, 5), (f.ec.toNat, 4),
    (b2n f.cnt, 1), (b2n f.pub, 1), (f.rsv.toNat, 18)]

/-! ### Reserved bits, reserved encodings and fields that must be zero: checked whatever the guard (R4, R275, R556) -/

def AluF.legal (f : AluF) : Bool := f.rsv == 0 && decide (f.funct.toNat ≤ 0xD)
def AluiF.legal (f : AluiF) : Bool := f.rsvB == 0 && f.rsvC == 0 && decide (f.funct.toNat ≤ 0xD)
def LiF.legal (f : LiF) : Bool := f.rsv == 0
def CmpF.legal (f : CmpF) : Bool :=
  f.rsv == 0 && decide (f.funct.toNat ≤ 9) && (if f.useImm then f.sb == 0 else f.imm == 0)
def PlogF.legal (f : PlogF) : Bool :=
  f.rsvA == 0 && f.rsv == 0 && decide (f.funct.toNat ≤ 5) &&
    (if f.funct.toNat ≤ 3 then f.sd == 0 else if f.funct = 4 then f.pa == 0 && f.pb == 0 else f.pd == 0 && f.pb == 0)
def BrF.legal (f : BrF) : Bool := f.rsv == 0
def JalF.legal (f : JalF) : Bool := f.rsv == 0
def SldF.legal (f : SldF) : Bool := f.rsv == 0
def SstF.legal (f : SstF) : Bool := f.rsv == 0
def BareF.legal (f : BareF) : Bool := f.rsv == 0
def DeclF.legal (f : DeclF) : Bool := f.rsv == 0
def SpillrF.legal (f : SpillrF) : Bool := f.rsvA == 0 && f.rsv == 0
def RelF.legal (f : RelF) : Bool := f.rsv == 0
def ShareF.legal (f : ShareF) : Bool := f.rsv == 0
def CopyF.legal (f : CopyF) : Bool := f.rsv == 0
def GatherF.legal (f : GatherF) : Bool := f.rsv == 0
def FillF.legal (f : FillF) : Bool := f.rsvA == 0 && f.rsv == 0
def WaitF.legal (f : WaitF) : Bool := f.rsv == 0
def EvtF.legal (f : EvtF) : Bool := f.rsv == 0
def FenceF.legal (f : FenceF) : Bool := f.rsv == 0
def TbeginF.legal (f : TbeginF) : Bool := f.rsv == 0
/-- CLR belongs to FLAGS alone (R300). -/
def QueryF.legal (f : QueryF) (sel : Nat) : Bool := f.rsv == 0 && (sel == 2 || !f.clr)
def MmaF.legal (f : MmaF) : Bool := f.rsv == 0
/-- Table 11-7: the codes, and the unary ones. -/
def vewUnary (n : Nat) : Bool := n == 0 || n == 6 || n == 7 || (0x0A ≤ n && n ≤ 0x0D)
def vewCode (n : Nat) : Bool := n ≤ 0x0D || (0x20 ≤ n && n ≤ 0x28)
def vewInt (n : Nat) : Bool := n ≥ 0x20
def VewF.legalEw (f : VewF) : Bool :=
  vewCode f.func.toNat && (!vewUnary f.func.toNat || (f.bb == 0 && f.shb == 0))
/-- R315: the codes, and the ones that read a alone. -/
def vcmpCode (n : Nat) : Bool := n ≤ 7 || (0x10 ≤ n && n ≤ 0x13)
def VewF.legalCmp (f : VewF) : Bool :=
  vcmpCode f.func.toNat && (!(f.func == 6 || f.func == 7) || (f.bb == 0 && f.shb == 0))
def VlutF.legal (f : VlutF) : Bool := f.rsvA == 0 && f.rsvB == 0
def VredF.legal (f : VredF) : Bool :=
  f.rsvA == 0 && f.rsvB == 0 && decide (f.opr.toNat ≤ 10) && f.dir != 3 && (!f.nod || f.bd == 0)
/-- Table 11-17. -/
def StsF.legal (f : StsF) (func : Nat) : Bool :=
  f.rsv == 0 && match func with
    | 0 => f.bg == 0 && f.sRC == 0 && !f.src && !f.endmb
    | 1 => f.bg == 0 && f.sRC == 0 && (!f.src || f.bw == 0)
    | 2 => f.bp == 0 && f.bx == 0 && f.bw == 0 && f.bg == 0 && f.sW == 0 && f.sRC == 0 && !f.src && !f.endmb
    | _ => !f.endmb && (!f.src || f.bw == 0)
def UpdF.legal (f : UpdF) : Bool := f.rsv == 0
/-- Table 11-15: the fields a function leaves zero. -/
def CollF.legal (f : CollF) (func : Nat) : Bool :=
  f.rsv == 0 && (func != 4 || f.bd == 0) && (func != 5 || f.bs == 0) && (func ≥ 3 || f.sA == 0) &&
    ((func != 0 && func != 3) || f.sB == 0) && (func == 5 || f.sRC == 0)

end Sys2Proof

namespace Sys2Proof.Machine

/-! ### Operand words -/

def lo32 (w : Dword) : Nat := w.toNat % 2 ^ 32
def hi32 (w : Dword) : Nat := w.toNat / 2 ^ 32
/-- Bits [h:l] of a word. -/
def bits (w : Dword) (h l : Nat) : Nat := w.toNat / 2 ^ l % 2 ^ (h + 1 - l)
/-- A rounding control word (Table 03-8); none when a reserved bit is set or a module stream is named (R95, R96). -/
def rcOf (w : Dword) : Option Rc :=
  let sr := w.getLsbD 48
  let stream := bits w 15 0
  if bits w 63 49 ≠ 0 then none
  else if sr ∧ stream ≥ 0xF000 then none
  else some ⟨sr, BitVec.ofNat 16 stream, BitVec.ofNat 32 (bits w 47 16)⟩

/-! ### Handles, Table 09-6 -/

/-- The handle fields of an instruction word, from bit 53 downward (Tables 10-2 to 10-13, 11-2 to 11-15). -/
def wordHandles (w : Dword) : List Nat := match bits w 63 58 with
  | 0x08 | 0x09 => [bits w 43 38]
  | 0x14 | 0x34 => [bits w 53 48, bits w 47 42]
  | 0x15 | 0x16 | 0x20 | 0x30 | 0x32 | 0x33 => [bits w 53 48, bits w 47 42, bits w 41 36]
  | 0x10 | 0x12 | 0x17 => [bits w 53 48]
  | 0x31 => [bits w 53 48, bits w 47 42, bits w 41 36, bits w 35 30]
  | 0x3C => [bits w 50 45, bits w 44 39, bits w 38 33, bits w 32 27, bits w 26 21]
  | 0x3D => [bits w 51 46, bits w 45 40, bits w 39 34, bits w 33 28]
  | 0x3E => [bits w 50 45, bits w 44 39]
  | _ => []
/-- The handle by which an instruction word of a context reaches a buffer: a field of the word, else the lowest handle that names
it (one given in an operand word or a buffer). -/
def Ctx.handleIn (x : Ctx) (j : Job) (w : Dword) (b : Nat) : Byte :=
  match (wordHandles w).find? fun h => (j.live (x.arch.hndN h)).any fun p => p.2.reach.contains b with
  | some h => BitVec.ofNat 8 h
  | none => x.handleOf b
/-- The handle by which a queue entry names a buffer. -/
def QE.handle (q : QE) (b : Nat) : Byte := ((q.hnds.find? fun p => p.1 == b).map Prod.snd).getD 0xFF
/-- The handle of the destination, the first of the word. -/
def QE.dstHandle (q : QE) : Byte := BitVec.ofNat 8 ((wordHandles q.insn).headD 0xFF)

/-! ### Checks at issue -/

/-- A failed check, when the condition holds. -/
def chk (c : Bool) (status handle : Byte) (detail : Dword) : Option Late := if c then some ⟨status, handle, detail⟩ else none
def illegal (c : Bool) : Option Late := chk c stILLEGAL 0xFF 0
/-- The failing check of greatest code; among equal codes the first (R12, Table 09-6). -/
def pickLate (l : List (Option Late)) : Option Late :=
  l.foldl (fun a x => match a, x with
    | none, y => y
    | y, none => y
    | some y, some z => if z.status > y.status then some z else some y) none

end Sys2Proof.Machine
end

