-- ==== Sys2Proof/Machine/Talon.lean ====
section
/-! DEFINITION. The Scoresheet's queue and records (R507 to R515), the end of a job (R337, R338, R341), escalation events
(R464 to R468), wakes of spares (R474 to R476), and what the first work of a trick does at its boundary (R29, R182). -/

namespace Sys2Proof.Machine

/-! ### Regions of the Scoresheet, Table 19-3 -/

def rgLMS : Nat := 1
def rgHSSLOW : Nat := 2
def rgTRUST : Nat := 3
def rgREPAIR : Nat := 4
def rgWEAR : Nat := 5
def rgEVLOG : Nat := 6
def rgPATSET : Nat := 7
def regBase : Nat → Nat
  | 1 => 0 | 2 => 0x20000 | 3 => 0x40000 | 4 => 0x60000 | 5 => 0x80000 | 6 => 0xA0000 | _ => 0x200000
def regSlot : Nat → Nat
  | 1 => 256 | 2 => 3072 | 3 => 512 | 4 => 512 | 5 => 3072 | 6 => 256 | _ => 9437184
def regSectors : Nat → Nat
  | 6 => 10 | 7 => 144 | _ => 2
def sectorLen : Nat := 65536
/-- Slots of one sector of a region. -/
def regPerSector (r : Nat) : Nat := sectorLen / regSlot r
/-- Offsets of a region's slots in a bank, ascending. -/
def regSlots (r : Nat) : List Nat :=
  if r = rgPATSET then [regBase r]
  else (List.range (regSectors r)).flatMap fun k =>
    (List.range (regPerSector r)).map fun i => regBase r + k * sectorLen + i * regSlot r

def State.flash (s : State) (d : Nat) : Memory := if d = 0 then s.score.f0 else s.score.f1
def State.setFlash (s : State) (d : Nat) (m : Memory) : State :=
  if d = 0 then { s with score := { s.score with f0 := m } } else { s with score := { s.score with f1 := m } }
def State.okDev (s : State) (d : Nat) : Bool := if d = 0 then s.score.ok0 else s.score.ok1
/-- Every byte of the range reads 0xFF. -/
def allFF (m : Memory) (lo n : Nat) : Bool := !(m.any fun c => decide (lo ≤ c.1 ∧ c.1 < lo + n))

/-! ### Records, R509 and R511 -/

/-- Header and payload of a record with its CRC, in whole pages (Table 19-4). -/
def recBytes (region seq : Nat) (payload : List Byte) : List Byte :=
  let pages := ceilDiv (16 + payload.length) 256
  let body (crc : Nat) : List Byte := zerosTo (leBytes seq 4 ++ leBytes region 1 ++ [0x01] ++ leBytes pages 2 ++
    leBytes payload.length 4 ++ leBytes crc 4 ++ payload) (256 * pages)
  body (crc32c (body 0)).toNat
/-- The record at an offset, if it checks: its SEQ and payload. -/
def recAt (m : Memory) (r o : Nat) : Option (Nat × List Byte) :=
  let h := memReadN 0xFF m o 16
  let seq := fieldAt h 0 4
  let pages := fieldAt h 6 2
  let len := fieldAt h 8 4
  if seq = 0xFFFFFFFF ∨ fieldAt h 4 1 ≠ r ∨ fieldAt h 5 1 ≠ 1 ∨ pages = 0 ∨ 256 * pages > regSlot r ∨ 16 + len > 256 * pages then none
  else
    let b := memReadN 0xFF m o (256 * pages)
    if (crc32c (b.take 12 ++ leBytes 0 4 ++ b.drop 16)).toNat = fieldAt h 12 4 then some (seq, (b.drop 16).take len) else none
/-- The record of highest SEQ in a bank: SEQ, offset, payload. -/
def topRec (m : Memory) (r : Nat) : Option (Nat × Nat × List Byte) :=
  (regSlots r).foldl (fun a o =>
    match recAt m r o with
    | none => a
    | some (q, p) => match a with
      | none => some (q, o, p)
      | some b => if q > b.1 then some (q, o, p) else a) none
def seqOf (x : Option (Nat × Nat × List Byte)) : Nat := match x with
  | none => 0
  | some y => y.1
/-- The valid copy of a region (R511). -/
def State.validRec (s : State) (r : Nat) : Option (List Byte) :=
  match topRec s.score.f0 r, topRec s.score.f1 r with
  | none, none => none
  | some a, none => some a.2.2
  | none, some b => some b.2.2
  | some a, some b => if b.1 > a.1 then some b.2.2 else some a.2.2

/-- The bank of the next write (R510 step 2, R515). -/
def State.chooseDev (s : State) (r : Nat) : Nat :=
  if !s.score.ok0 then 1 else if !s.score.ok1 then 0
  else if seqOf (topRec s.score.f0 r) > seqOf (topRec s.score.f1 r) then 1 else 0
/-- Slot of the next write in a bank, and the sectors to be erased before it (R512). -/
def nextSlot (m : Memory) (r : Nat) : Nat × List Nat :=
  if r = rgPATSET then
    (regBase r, ((List.range (regSectors r)).map fun k => regBase r + k * sectorLen).filter fun o => !allFF m o sectorLen)
  else
    let k := match topRec m r with
      | none => 0
      | some t => (t.2.1 - regBase r) / sectorLen
    let inK := (List.range (regPerSector r)).map fun i => regBase r + k * sectorLen + i * regSlot r
    match inK.find? fun o => allFF m o (regSlot r) with
    | some o => (o, [])
    | none =>
      let o := regBase r + (k + 1) % regSectors r * sectorLen
      (o, if allFF m o sectorLen then [] else [o])

/-- The sectors a record's slot lies in are not being erased. -/
def State.slotReady (s : State) (w : Writing) : Bool :=
  !(s.score.erases.any fun e => e.1 == w.dev && decide (e.2 < w.slot + w.bytes.length ∧ w.slot < e.2 + sectorLen))
/-- The slot that follows a spent one, in its sector if one is free there (R510 step 5). -/
def slotAfter (m : Memory) (r : Nat) (prev : Option Nat) : Nat × List Nat :=
  match prev with
  | none => nextSlot m r
  | some p =>
    let o := p + regSlot r
    if r ≠ rgPATSET ∧ (p - regBase r) % sectorLen / regSlot r + 1 < regPerSector r ∧ allFF m o (regSlot r) then (o, []) else nextSlot m r
/-- Begin a record on a device (R510 steps 1 to 3); prev is the slot a mismatch has just spent. -/
def State.beginRec (s : State) (req : WReq) (dev fails : Nat) (prev : Option Nat) : State :=
  let seq := max (seqOf (topRec s.score.f0 req.region)) (seqOf (topRec s.score.f1 req.region)) + 1
  if seq ≥ 0xFFFFFFFF then { s with score := { s.score with cur := none } }
  else
    let (o, er) := slotAfter (s.flash dev) req.region prev
    let w : Writing := ⟨req, seq, dev, o, recBytes req.region seq req.payload, 0, fails, false⟩
    let s := { s with score := { s.score with
      cur := some w
      erases := s.score.erases ++ ((er.map fun x => (dev, x)).filter fun e => !s.score.erases.contains e) } }
    let go := s.slotReady w && s.aon.braceAt.isNone
    { s with score := { s.score with cur := some { w with started := go } } }
/-- Take the next request of the queue; none is begun during brace (R484 step 4), nor with both devices failed. -/
def State.nextRec (s : State) : State :=
  if s.score.cur.isSome || s.aon.braceAt.isSome || !(s.score.ok0 || s.score.ok1) then s
  else match s.score.queue with
    | [] => s
    | q :: rest => ({ s with score := { s.score with queue := rest } }).beginRec q (s.chooseDev q.region) 0 none
/-- Request a record (R514). A snapshot or an image requested while the queue is full waits for a place in it, before what is
requested later: it stands behind the 64 in the list (log entry 98). -/
def State.requestRec (s : State) (region : Nat) (payload : List Byte) : State :=
  let q := s.score.queue
  if region ≠ rgEVLOG ∧ region ≠ rgPATSET ∧ q.any (fun w => w.region == region) then
    let q' : List WReq := q.map fun w => if w.region = region then ⟨region, payload⟩ else w
    { s with score := { s.score with queue := q' } }.nextRec
  else if region = rgEVLOG ∧ q.length ≥ 64 then { s with score := { s.score with evdrop := true } }
  else { s with score := { s.score with queue := q ++ [(⟨region, payload⟩ : WReq)] } }.nextRec

/-- Table 19-5. -/
def State.repairPayload (s : State) : List Byte :=
  let h := s.hl
  let dom (d : Nat) : List Byte :=
    leBytes (((h.vstep[d]?).getD 0).toNat + 16 * ((h.fstep[d]?).getD 0).toNat + (if h.keptOff.getLsbD d then 64 else 0)) 1
  leBytes h.tret.toNat 28 ++ leBytes h.tspr.toNat 28 ++ leBytes h.vret.toNat 2 ++ leBytes 0 2 ++ leBytes h.bret.toNat 66 ++
    leBytes h.bspr.toNat 66 ++ leBytes h.cret.toNat 20 ++ leBytes h.cspr.toNat 20 ++ leBytes h.sret.toNat 4 ++
    leBytes h.sspr.toNat 4 ++ leBytes h.lret.toNat 14 ++ leBytes h.lspr.toNat 14 ++ (List.range 80).flatMap dom ++
    leBytes ((!s.score.ok0).toNat + 2 * (!s.score.ok1).toNat) 2
def State.saveRepair (s : State) : State := s.requestRec rgREPAIR s.repairPayload

/-! ### Waking spares, R474 and R475 -/

/-- Wake the lowest spare of a kind on a die, if one sleeps. None is woken without a valid pattern set (R469). -/
def State.wakeOne (s : State) (k : UnitKind) (die : Nat) (forRetire : Bool) : State :=
  if s.hl.nopat then s
  else match (unitsOf k die).find? fun u => s.hl.isSpare u && !s.hl.isRet u && !s.hl.off.contains u &&
      !(s.hl.wakes.any fun w => w.u == u) with
    | none => s
    | some u => { s with hl := { s.hl with wakes := s.hl.wakes ++ [⟨u, forRetire, false⟩] } }
def rotKindOf : UnitKind → Option RotKind
  | .tile => some .tile | .bank => some .bank | .engine => some .engine | .seat => some .seat | _ => none
def State.modRot (s : State) (k : RotKind) (die : Nat) (f : Rot → Rot) : State :=
  { s with hl := { s.hl with rots := s.hl.rots.map fun r => if r.kind = k ∧ r.die = die then f r else r } }
def rotUnit : RotKind → UnitKind
  | .tile => .tile | .bank => .bank | .engine => .engine | .seat => .seat
/-- A rotation whose tested spare can enter service no more is without one again, and another is woken (R472). -/
def State.freshSpares (s : State) : State :=
  s.hl.rots.foldl (fun s r =>
    let lost := r.spare.any fun p =>
      let u : PUnit := ⟨rotUnit r.kind, p⟩
      !s.hl.isSpare u || s.hl.isRet u || s.hl.off.contains u
    if (r.stage = 2 ∨ r.stage = 6 ∨ r.stage = 7) ∧ lost then
      (s.modRot r.kind r.die fun x => { x with stage := 1, spare := none }).wakeOne (rotUnit r.kind) r.die false
    else s) s
/-- The PLL of a tile group runs while a tile of it is in service, being woken or under test (R493). -/
def State.groupNeeded (s : State) (d : Nat) : Bool :=
  let units := (List.range 4).map fun i => (⟨.tile, 56 * (d / 14) + 4 * (d % 14) + i⟩ : PUnit)
  units.any fun u => s.hl.inService u || (s.hl.off.contains u && !s.hl.isRet u) || (s.hl.wakes.any fun w => w.u == u)
def State.stopPlls (s : State) : State :=
  { s with aon := { s.aon with tgPll := s.aon.tgPll &&& bitsAt 56 ((List.range 56).filter s.groupNeeded) } }

/-! ### Seats and retirement -/

/-- The context on a seat leaves it and lies in the context store (Table 12-8); what its stalled instruction waits for, its saved state
waits for (R345). -/
def State.leaveSeat (s : State) (i : Nat) : State :=
  match s.job.ctxList.find? fun x => (x.2.seat.map Fin.val) == some i with
  | none => s
  | some (c, _) =>
    let j := s.job.modCtx c fun x =>
      { x with
        seat := none
        resid := .out }
    { s with job := { j with evict := if j.evict = some c then none else j.evict } }
/-- Retire a unit now (R468): its group's domain goes off with the fourth tile (R33). -/
def State.retireNow (s : State) (u : PUnit) : State :=
  if s.hl.isRet u then s
  else
    let h := (s.hl.setRet u true).setSpare u false
    let h := { h with
      off := h.off.filter (fun v => v != u)
      due := h.due.filter (fun d => d != .retire u && d != .leave u)
      wakes := h.wakes.filter (fun w => w.u != u) }
    let s := { s with hl := h }
    let s := if u.kind == .tile && ((List.range 4).all fun i => h.tret.getLsbD (u.idx / 4 * 4 + i)) then
        { s with aon := { s.aon with domOn := setBit s.aon.domOn (unitDomain u) false } }
      else s
    let s := if u.kind == .seat then s.leaveSeat u.idx else s
    let s := if u.kind == .lane && u.idx < 108 then s.setPPort (Fin.ofNat 12 (u.idx / 9)) fun p =>
        { p with
          retiredLane := BitVec.ofNat 4 (u.idx % 9)
          spare := if p.spare.toNat = u.idx % 9 then 15 else p.spare
          training := p.training && p.spare.toNat != u.idx % 9 }
      else s
    (if u.kind == .tile then s.stopPlls else s).freshSpares.saveRepair

/-- The retirements due take effect, in ascending number, and the units of faulted domains leave service. -/
def State.retireDue (s : State) : State :=
  let rets := sortBy (fun (a b : PUnit) => decide (a.idx < b.idx)) (s.hl.due.filterMap fun d => match d with
    | .retire u => some u
    | _ => none)
  let s := rets.foldl State.retireNow s
  let out := s.hl.due.filterMap fun d => match d with
    | .leave u => some u
    | _ => none
  { s with hl := { s.hl with
    off := s.hl.off ++ out.filter (fun u => !s.hl.off.contains u && !s.hl.isRet u)
    due := s.hl.due.filter fun d => match d with
      | .leave _ => false
      | _ => true } }

/-! ### The end of a job, R337, R338, R341 -/

/-- The drain of an END is over: without FORCE no trick is open or the job is halted; with it, the votes are decided. -/
def State.drained (s : State) : Bool :=
  if s.job.draining then s.openTricks.isEmpty || s.job.halt
  else s.job.t0.voted != some .void && s.job.t1.voted != some .void
/-- When drained, every context is torn down and the wipe begins. -/
def State.endIfDrained (s : State) : State :=
  if s.job.state == .ending && s.drained then
    let s := (s.teardownQuiet stABORTED).abortReqs
    -- a retirement due at the boundary where the job ends is applied (Table 17-5)
    let s := ({ s with job := { s.job with state := .wiping } }.flushHeld).retireDue
    -- a checkpoint header that waits for a seal is written without PROOF; FORCE abandons the write (R456, Table 16-6)
    match s.job.recov.ck with
    | none => s
    | some w => if !s.job.draining then s.ckFinish w else s.ckEnd
  else s
/-- Under FORCE the contexts go as soon as the decision has been applied. -/
def State.forceDone (s : State) : State := if s.job.draining then s else s.endIfDrained
/-- End the job as under FORCE (R337). -/
def State.endForce (s : State) : State :=
  let s := { s with job := { s.job with state := .ending, draining := false } }
  (s.voidEach 7).endIfDrained
/-- The votes of a module that fails: VOID with the cause for every undecided trick, or TEARDOWN where it has voted OK (R230, R231,
R341). -/
def State.voidEnd (s : State) (cause : BitVec 4) : State :=
  s.openTricks.foldl (fun s1 t =>
    if s1.job.t0.att ≠ s.job.t0.att then s1
    else s1.voteVoid t (if ((s1.trick? t).getD .empty).voted == some .ok then 7 else cause)) s
/-- The module declares itself failed: FAILED and its cause; a running job ends (R341, R429 EVENT 2). -/
def State.failModule (s : State) (fcause : Nat) (cause : BitVec 4) : State :=
  if s.hl.failed then s
  else
    let s := { s with hl := { s.hl with failed := true, fcause := fcause } }
    if s.job.state == .running || s.job.state == .ending then
      let s := s.voidEnd cause
      let s := s.jobEvent stABORTED s.stat.sealedN fcause 2
      ({ s with job := { s.job with state := .ending, draining := false } }).endIfDrained
    else s

/-! ### Spares for retirements, R476 -/

/-- The units of a kind a die has in service at shipment, seats on the hub (Table 01-1, R16, R19). -/
def nominalUnits : UnitKind → Nat
  | .tile => 52 | .bank => 128 | .seat => 16 | .engine => 4 | .channel => 12 | .lane => 8
/-- A spare for a retirement: one already woken for a rotation is taken, and that rotation starts again (R476). -/
def State.wakeFor (s : State) (k : UnitKind) (die : Nat) : State :=
  match s.hl.wakes.find? fun w => w.u.kind == k && unitDie w.u == die && !w.forRetire with
  | none => s.wakeOne k die true
  | some w =>
    let s := { s with hl := { s.hl with wakes := s.hl.wakes.map fun x => if x.u = w.u then { x with forRetire := true } else x } }
    match rotKindOf k with
    | none => s
    | some rk => (s.modRot rk die fun r => { r with stage := 1, spare := none }).wakeOne k die false

/-- The units of a kind a die will have after the next boundary: those in service that stay, and those woken for
retirements. -/
def State.coming (s : State) (k : UnitKind) (die : Nat) : Nat :=
  ((unitsOf k die).filter fun u => s.hl.inService u && !s.hl.due.contains (.retire u) && !s.hl.due.contains (.leave u)).length +
    (s.hl.wakes.filter fun w => w.u.kind == k && unitDie w.u == die && w.forRetire).length
/-- A die that runs short of a unit retired while no spare slept takes the spare that sleeps now (R16, R19, R273). -/
def State.refill (s : State) (k : UnitKind) (die : Nat) : State :=
  if s.coming k die < nominalUnits k then s.wakeFor k die else s

/-! ### Escalation events, R464 to R467 -/

def State.esc (s : State) (lo w : Nat) : Nat := s.cfg.esc.toNat / 2 ^ lo % 2 ^ w
/-- The escalation window in counts; 0 behaves as 1. -/
def State.escWindow (s : State) : Nat := max 1 (s.esc 0 16) * 2 ^ 30
def Health.suspOf (h : Health) (u : PUnit) : Susp := (h.susp.find? fun x => x.u == u).getD ⟨u, 0, none, 0⟩
def Health.setSusp (h : Health) (x : Susp) : Health := { h with susp := h.susp.filter (fun y => y.u != x.u) ++ [x] }

/-- Steps of a domain decided and not yet applied. -/
def Health.dueVolts (h : Health) (d : Nat) : Nat := (h.due.filter fun x => x == .volt d).length
def Health.dueClocks (h : Health) (d : Nat) : Nat := (h.due.filter fun x => x == .clock d).length
def srcSCAN : Nat := 3
def srcWSUE : Nat := 5
def srcSEATERR : Nat := 8
def srcSPAREFAIL : Nat := 0xA

/-- The step of R466: 0 LOG, 1 voltage, 2 clock, 3 retire. -/
def Health.ladder (h : Health) (source : Nat) (u : PUnit) (n : Nat) : Nat :=
  let d := unitDomain u
  let v := ((h.vstep[d]?).getD 0).toNat + h.dueVolts d
  let f := ((h.fstep[d]?).getD 0).toNat + h.dueClocks d
  let clk := u.kind == .tile
  if u.kind = .seat ∨ u.kind = .lane ∨ source = srcWSUE ∨ source = srcSPAREFAIL then 3
  else if u.kind = .channel then (if n ≥ 3 then 3 else 0)
  else if n = 1 then (if v < 8 then 1 else if clk ∧ f < 3 then 2 else 3)
  else if n = 2 then (if clk ∧ f < 3 then 2 else if !clk ∧ v < 8 then 1 else 3)
  else 3

/-- Table 17-6. -/
def State.eventRecord (s : State) (source : Nat) (u : PUnit) (step n trick : Nat) (detail : Word) : List Byte :=
  leBytes (kindNum u.kind) 1 ++ leBytes source 1 ++ leBytes u.idx 2 ++ leBytes step 1 ++ leBytes n 1 ++ leBytes 0 2 ++
    leBytes trick 6 ++ leBytes 0 2 ++ leBytes s.fab.epoch.toNat 4 ++ leBytes s.aon.counter.toNat 8 ++ leBytes detail.toNat 4

def State.setChMap (s : State) (p : Nat) (m : ChMap) : State :=
  { s with hl := { s.hl with chmaps := s.hl.chmaps.setIfInBounds p m } }
def State.chMap (s : State) (p : Nat) : ChMap := (s.hl.chmaps[p]?).getD .reset
/-- With no spare left for a further channel, the whole package's contents are lost (R174, R434). -/
def State.packageLost (s : State) (p : Nat) : State := (s.setChMap p { s.chMap p with lost := true }).failModule 5 0xA
/-- A channel retired while it can still be read: the package's spare is woken, and the copy follows its test (R174, R475).
Without a spare the package's contents are lost. The channel counts as retired from the event, tricks go on while its contents
are copied, and no trick is voided for it, although R30 names a retired channel: DESIGN CHOICE, log entry 84. -/
def State.retireChannel (s : State) (u : PUnit) : State :=
  let p := u.idx / 13
  let m := s.chMap p
  let spare := s.hl.isSpare u
  let s := s.retireNow u
  if spare then s.setChMap p { m with spare := 15 }
  else if m.spare = 15 ∨ m.retired ≠ 15 then s.packageLost p
  else (s.setChMap p { m with retired := BitVec.ofNat 4 (u.idx % 13) }).wakeOne .channel p true

/-- The undecided tricks a unit does work of: a seat those its context has joined, any other unit in service every trick in flight
(R30, R467). -/
def State.workOf (s : State) (u : PUnit) : List Nat :=
  if !s.hl.inService u then []
  else if u.kind = .seat then
    s.openTricks.filter fun t => s.job.ctxList.any fun x => (x.2.seat.map Fin.val) == some u.idx && (x.2.joinedAt t).isSome
  else s.openTricks
/-- The trick and attempt that work of a unit now belongs to, where a command names none: the oldest in flight of those it does work
of. -/
def State.workTrick (s : State) (u : PUnit) : Option (Nat × Byte) :=
  (s.workOf u).head?.map fun t => (t, ((s.trick? t).getD .empty).att)

/-- Record an event and decide its step. tk is the detecting work's trick and attempt. An event of a retired unit is logged only
(Table 17-5); one of a unit whose retirement is due already adds nothing to it. Retirements of seats, lanes, spares
and WSUE banks take effect at once; other steps fall due at the next boundary (R467). -/
def State.raiseEvent (s : State) (source : Nat) (u : PUnit) (tk : Option (Nat × Byte)) (detail : Word) : State :=
  let dup := match tk with
    | none => false
    | some (t, a) => s.hl.seen.contains (u, t, a)
  if dup then s
  else
    let now := s.aon.counter
    let x := s.hl.suspOf u
    let near := match x.last with
      | none => false
      | some l => decide ((now - l).toNat < s.escWindow)
    let n := if near then x.n + 1 else 1
    let dueR := s.hl.due.contains (.retire u)
    let step := if s.hl.isRet u then 0 else s.hl.ladder source u n
    let trick := match tk with
      | none => allOnes48
      | some (t, _) => t
    let h := s.hl.setSusp { x with n := n, last := some now }
    let h := { h with
      seen := (h.seen.filter fun e => decide (e.2.1 ≥ s.stat.sealedN)) ++ (match tk with
        | none => []
        | some (t, a) => [(u, t, a)])
      ev := ⟨kindNum u.kind, source, u.idx, step, true, trick⟩
      evCount := satAdd h.evCount 1 sat32 }
    let s := { s with hl := h }
    let s := s.requestRec rgEVLOG (s.eventRecord source u step (min n 255) trick detail)
    if step = 1 then { s with hl := { s.hl with due := s.hl.due ++ [.volt (unitDomain u)] } }
    else if step = 2 then { s with hl := { s.hl with due := s.hl.due ++ [.clock (unitDomain u)] } }
    else if step = 3 then
      if u.kind = .channel then s.retireChannel u
      else if u.kind = .lane ∨ source = srcSPAREFAIL then s.retireNow u
      else if source = srcSEATERR ∨ source = srcWSUE then
        if dueR || !s.hl.inService u then s.retireNow u else (s.retireNow u).wakeFor u.kind (unitDie u)
      else if dueR then s
      else
        let busy := s.hl.inService u
        let ts := s.workOf u
        let s := { s with hl := { s.hl with due := s.hl.due ++ [DueStep.retire u] } }
        let s := if u.kind = .engine || !busy then s else s.wakeFor u.kind (unitDie u)
        if source = srcSCAN then s else s.voteEach 5 ts
    else s

/-- A corrected error counted over the escalation window; at its threshold the count returns to zero and an event is
recorded, of the trick the unit works on (R464). Of a retired unit it is logged only. -/
def State.countCorrected (s : State) (source : Nat) (u : PUnit) (lo : Nat) : State :=
  let x := s.hl.suspOf u
  if x.ce + 1 ≥ 2 ^ s.esc lo 4 then
    { s with hl := s.hl.setSusp { x with ce := 0 } }.raiseEvent source u (s.workTrick u) 0
  else { s with hl := s.hl.setSusp { x with ce := x.ce + 1 } }

/-! ### The trick boundary -/

/-- The boundary of a trick waits: for brace to end, for stripes to be repaired (R452), for voltage and clock steps, and for
a spare that is to replace a retired tile or bank, or a channel that cannot be read (R174, R467, R475, R476, R484). -/
def State.boundaryHeld (s : State) : Bool :=
  s.aon.braceAt.isSome ||
    !s.hl.lost.isEmpty || (s.hl.chmaps.any fun m => m.unread) || (s.hl.due.any fun d => match d with
      | .volt _ => true
      | .clock _ => true
      | .retire _ => false
      | .leave _ => false) ||
    (s.hl.wakes.any fun w => w.forRetire && !w.passed && (w.u.kind == .tile || w.u.kind == .bank))

/-- No seat is left in service (R273). -/
def State.seatCheck (s : State) : State :=
  if s.upCount .seat 0 = 0 then s.failModule 4 5 else s

/-- A woken spare that has passed enters service. -/
def State.enterSpare (s : State) (u : PUnit) : State :=
  { s with hl := { s.hl.setSpare u false with wakes := s.hl.wakes.filter fun w => w.u != u } }

/-! ### Buffers moved at a boundary, R183 -/

/-- The buffers with data on a die: of the working store, each with blocks there, since its blocks are dealt over all of the
die's open banks; of the Pot, each with records there (log entry 96). -/
def State.onDie (s : State) (d : Nat) : List Nat :=
  (s.job.bufs.filter fun b => ((b.cls == .resident || b.cls == .stash) && decide (s.job.wsUnits b d ≠ 0)) ||
    (b.cls == .pot && b.recs.any fun r => r.die == d)).map Buffer.id
/-- Buffers are moved, and those kept from an earlier boundary with them. One that an incomplete instruction names, or that is
being spilled or filled, is considered again at the next boundary. -/
def State.relocate (s : State) (l : List Nat) : State :=
  let held := (s.job.stay ++ l).eraseDups.filter fun n => (s.job.buf? n).any fun b => b.place != .spilled && b.place != .waiting
  let free (n : Nat) : Bool := !s.job.named n && (s.job.buf? n).any fun b => b.place == .placed
  { s with job := { s.job with
    bufs := s.job.bufs.map fun b => if held.contains b.id && free b.id then { b with moving := true } else b
    stay := held.filter fun n => !free n } }

/-- The next in-service unit after the last one tested, cyclically (R471). -/
def State.nextUnit (s : State) (r : Rot) : Option Nat :=
  let l := ((Sys2Proof.Machine.unitsOf (rotUnit r.kind) r.die).filter s.hl.inService).map PUnit.idx
  match r.lastUnit with
  | none => l.head?
  | some k => (l.find? fun i => decide (i > k)).orElse fun _ => l.head?
/-- A rotation whose target has left service since it fell due takes the next unit in service. -/
def State.retarget (s : State) (r : Rot) : Rot :=
  match r.target with
  | none => r
  | some t =>
    let before := r.stage = 1 ∨ r.stage = 2 ∨ r.stage = 6 ∨ r.stage = 7
    if before ∧ !s.hl.inService ⟨rotUnit r.kind, t⟩ then
      { r with
        target := s.nextUnit r
        stage := if r.stage = 1 then 1 else 2 }
    else r
/-- The spare of a rotation enters service, and its target is out, to be tested (R472 step 3). -/
def State.exchange (s : State) (k : RotKind) (die t p : Nat) : State :=
  let uk := rotUnit k
  let s := s.enterSpare ⟨uk, p⟩
  ({ s with hl := { s.hl with off := s.hl.off ++ [(⟨uk, t⟩ : PUnit)] } }.modRot k die fun x => { x with stage := 3, due := false }).saveRepair
/-- A seat rotation past its boundary (R472): the target's context is swapped out for the spare seat once it is evictable, and the
spare takes the place of a target that no context holds. -/
def State.seatMove (s : State) : State :=
  match s.hl.rots.find? Rot.seatMoves with
  | none => s
  | some r => match r.target, r.spare with
    | some t, some p => match s.job.ctxList.find? fun x => (x.2.seat.map Fin.val) == some t with
      | none => s.exchange .seat r.die t p
      | some (c, x) =>
        if x.evictable && s.job.evict.isNone then (s.startOut c).modRot .seat r.die fun y => { y with stage := 7 } else s
    | _, _ => s

/-- Step 2 of R472 for one rotation: the spare takes the target's place; an engine leaves, or returns. -/
def State.rotateAt (s : State) (r : Rot) : State :=
  match r.target with
  | none => s
  | some t =>
    match r.kind with
    | .engine =>
      let u : PUnit := ⟨.engine, t⟩
      if r.stage = 1 then
        { s with hl := { s.hl with off := s.hl.off ++ [u] } }.modRot .engine r.die fun x => { x with stage := 3, due := false }
      else if r.stage = 4 then
        { s with hl := { s.hl with off := s.hl.off.filter fun v => v != u } }.modRot .engine r.die fun x =>
          { x with stage := 0, lastUnit := x.target, target := none }
      else s
    | .seat => if r.stage = 2 then s.modRot .seat r.die fun x => { x with stage := 6 } else s
    | k =>
      match r.spare with
      | none => s
      | some p =>
        if r.stage ≠ 2 then s
        else (if k = .bank then s.relocate (s.onDie r.die) else s).exchange k r.die t p

/-- The unit changes of a boundary: retirements first, then spares in their place, channel maps, rotations, capacities
(R16, R19, R174, R273, R476), with the buffers they move (R183), and the way round a lost ring link (R22). -/
def State.boundaryUnits (s : State) : State :=
  let banks := s.hl.due.filterMap fun d => match d with
    | .retire u => if u.kind == .bank && s.hl.inService u then some (unitDie u) else none
    | _ => none
  let s := s.retireDue.stopPlls
  let ready := s.hl.wakes.filter fun w => w.forRetire && w.passed
  let s := ready.foldl (fun s w => s.enterSpare w.u) s
  let s := { s with hl := { s.hl with chmaps := s.hl.chmaps.map fun (m : ChMap) =>
      if m.pendMove then { m with pendMove := false, moved := m.retired, spare := 15 } else m } }
  let s := s.relocate (banks.flatMap s.onDie)
  let s := { s with hl := { s.hl with
    rots := s.hl.rots.map s.retarget
    ringRoute := (List.range 4).find? fun l => s.hl.ringLost.getLsbD l } }
  let s := s.hl.rots.foldl State.rotateAt s
  -- the time that R473 counts runs from the last boundary
  let s := { s with hl := { s.hl with rots := s.hl.rots.map fun (r : Rot) => if r.due then { r with dueSince := s.aon.counter } else r } }
  { s with hl := { s.hl with wsMib := Vector.ofFn fun (d : Fin 4) => 2880 - 24 * (128 - min 128 (s.upCount .bank d)) } }

/-- The first work of a trick on this module: the boundary of R29 and R182, R17 checked last. What counts as a change of
placement for PLCHG (R194): a unit or a channel that entered or left; a clock step alone does not (log entry 82). -/
def State.boundary (s : State) (t : Nat) : State :=
  let old := s.hl
  let s := s.boundaryUnits
  let moved := decide (old.tret ≠ s.hl.tret ∨ old.tspr ≠ s.hl.tspr ∨ old.bret ≠ s.hl.bret ∨ old.bspr ≠ s.hl.bspr ∨
    old.off ≠ s.hl.off ∨ old.vret ≠ s.hl.vret ∨ old.chmaps ≠ s.hl.chmaps)
  let spares := decide (old.tspr ≠ s.hl.tspr ∨ old.bspr ≠ s.hl.bspr ∨ old.sspr ≠ s.hl.sspr)
  let s := if spares then s.saveRepair else s
  let s := if moved then { s with stat := { s.stat with plchg := t } } else s
  let s := if t ≠ s.stat.sealedN ∧ s.job.t0.begun then s else s.relocSums s.tilesNow
  let s := s.modTrick t fun r => { r with begun := true, place := s.tilesNow, dealt := s.testsIn }
  let s := s.seatCheck
  if (List.range 4).any fun d => decide (s.upCount .tile d < 48) then s.failModule 1 5 else s

/-- What is due when no trick follows: steps due at the end of a job are applied and persist (Table 17-5). -/
def State.applySteps (s : State) (p : Nat → Bool) : State :=
  let bump (v : Nat) (lim k : Nat) : Nat := min (v + k) lim
  let h := s.hl
  let changed := h.due.any fun d => match d with
    | .volt d => p d
    | .clock d => p d
    | .retire _ => false
    | .leave _ => false
  let s := { s with hl := { h with
      vstep := Vector.ofFn fun i => if p i then BitVec.ofNat 4 (bump (h.vstep.get i).toNat 8 (h.dueVolts i)) else h.vstep.get i
      fstep := Vector.ofFn fun i => if p i then BitVec.ofNat 2 (bump (h.fstep.get i).toNat 3 (h.dueClocks i)) else h.fstep.get i
      due := h.due.filter fun d => match d with
        | .volt d => !p d
        | .clock d => !p d
        | .retire _ => true
        | .leave _ => true } }
  if changed then s.saveRepair else s

end Sys2Proof.Machine
end

