-- ==== Sys2Proof/Machine/Seat.lean ====
section
/-! DEFINITION. Scalar and control instructions (R274 to R281): how a seat takes a word, and the arithmetic, compare,
predicate, branch and scalar memory families, EXIT. -/

namespace Sys2Proof.Machine

/-! ### How a seat takes an instruction -/

/-- The context can execute a seat command: resident, not stalled, not faulted, not held by a halt (R241, R248, R268). -/
def Ctx.canIssue (x : Ctx) : Bool := x.resid == .resident && x.stall.isNone && !x.faulted && !x.halted

/-- The trick of the context's tag has not begun its first work on this module since it opened or was voided (R182). -/
def State.waitsBoundary (s : State) (x : Ctx) : Bool :=
  match x.tag.bind s.trick? with
  | none => false
  | some r => !r.begun
/-- The first work of a trick passes its boundary, unless the boundary waits (R467, R476). -/
def State.enter (s : State) (c : CtxId) : State :=
  match s.job.ctx? c with
  | none => s
  | some x =>
    match x.tag with
    | none => s
    | some t => if x.canIssue && s.waitsBoundary x && !s.boundaryHeld then s.boundary t else s

def State.modArch (s : State) (c : CtxId) (f : Arch → Arch) : State :=
  { s with job := s.job.modCtx c fun x => { x with arch := f x.arch } }
/-- A fault of the instruction at the context's PC (R267, R268). -/
def State.seatFault (s : State) (c : CtxId) (x : Ctx) (status handle : Byte) (insn detail : Dword) : State :=
  s.raiseFault c x.tag status handle x.arch.pc insn detail

/-- Take one instruction word at the seat: R249 for the end of the code, R4 whatever the guard (R275), the guard, then a
stall while a register it reads or writes awaits a summary (R158), then its effect. -/
def seatRun (s : State) (c : CtxId) (g : Guard) (word : Dword) (legal : Bool) (uses : List SReg) (body : State → Ctx → State) :
    Host.Outcome State Fault Refusal :=
  let s := s.enter c
  match s.job.ctx? c with
  | none => .next s
  | some x =>
    if !x.canIssue || s.waitsBoundary x then .next s
    else if x.arch.pc.toNat ≥ s.job.code.length then .next (s.seatFault c x stILLEGAL 0xFF 0 0)
    else if !legal then .next (s.seatFault c x stILLEGAL 0xFF word 0)
    else if !x.arch.guard g then .next (s.modArch c Arch.next)
    else if uses.any x.pendingReg then .next s
    else .next (body s x)

/-- The same for a word whose other checks are made with those of R4 when its guard holds, so that the greatest code is
reported (R12, R302): the body is told nothing and tests the word's form itself. -/
def seatTake (s : State) (c : CtxId) (g : Guard) (word : Dword) (legal : Bool) (uses : List SReg) (body : State → Ctx → State) :
    Host.Outcome State Fault Refusal :=
  let s := s.enter c
  match s.job.ctx? c with
  | none => .next s
  | some x =>
    if !x.canIssue || s.waitsBoundary x then .next s
    else if x.arch.pc.toNat ≥ s.job.code.length then .next (s.seatFault c x stILLEGAL 0xFF 0 0)
    else if !x.arch.guard g then .next (if legal then s.modArch c Arch.next else s.seatFault c x stILLEGAL 0xFF word 0)
    else if uses.any x.pendingReg then .next s
    else .next (body s x)
/-- A fault found by a list of checks: the greatest code, the first of equal ones (R12). -/
def State.lateFault (s : State) (c : CtxId) (x : Ctx) (word : Dword) (b : Late) : State := s.seatFault c x b.status b.handle word b.detail

/-! ### Arithmetic, R277 -/

/-- Table 10-3. -/
def aluFn (f : Nat) (a b : Dword) : Dword :=
  match f with
  | 0x0 => a + b
  | 0x1 => a - b
  | 0x2 => a * b
  | 0x3 => BitVec.ofNat 64 (a.toNat * b.toNat / 2 ^ 64)
  | 0x4 => a &&& b
  | 0x5 => a ||| b
  | 0x6 => a ^^^ b
  | 0x7 => a <<< (b.toNat % 64)
  | 0x8 => a >>> (b.toNat % 64)
  | 0x9 => a.sshiftRight (b.toNat % 64)
  | 0xA => if b.slt a then b else a
  | 0xB => if a.slt b then b else a
  | 0xC => if b < a then b else a
  | _ => if a < b then b else a

def execAlu (c : CtxId) (f : AluF) (s : State) : Host.Outcome State Fault Refusal :=
  seatRun s c f.g f.word f.legal [f.sd, f.sa, f.sb] fun s _ =>
    s.modArch c fun a => (a.setReg f.sd (aluFn f.funct.toNat (a.reg f.sa) (a.reg f.sb))).next

def execAlui (c : CtxId) (f : AluiF) (s : State) : Host.Outcome State Fault Refusal :=
  seatRun s c f.g f.word f.legal [f.sd, f.sa] fun s _ =>
    s.modArch c fun a => (a.setReg f.sd (aluFn f.funct.toNat (a.reg f.sa) (f.imm.signExtend 64))).next

/-- LI: FUNCT 0 sign-extends, FUNCT 1 replaces the upper half. -/
def liFn (funct : BitVec 1) (old : Dword) (imm : Word) : Dword :=
  if funct = 0 then imm.signExtend 64 else imm ++ old.setWidth 32

def execLi (c : CtxId) (f : LiF) (s : State) : Host.Outcome State Fault Refusal :=
  seatRun s c f.g f.word f.legal [f.sd] fun s _ =>
    s.modArch c fun a => (a.setReg f.sd (liFn f.funct (a.reg f.sd) f.imm)).next

/-! ### Compares and predicates, R278 -/

def cmpFn (f : Nat) (a b : Dword) : Bool :=
  let fa := ofBits (a.setWidth 32)
  let fb := ofBits (b.setWidth 32)
  match f with
  | 0x0 => a == b
  | 0x1 => a != b
  | 0x2 => a.slt b
  | 0x3 => a < b
  | 0x4 => !(b.slt a)
  | 0x5 => !(b < a)
  | 0x6 => fpEq fa fb
  | 0x7 => fpLt fa fb
  | 0x8 => fpLe fa fb
  | _ => fa.isNan || fb.isNan

def execCmp (c : CtxId) (f : CmpF) (s : State) : Host.Outcome State Fault Refusal :=
  seatRun s c f.g f.word f.legal (if f.useImm then [f.sa] else [f.sa, f.sb]) fun s _ =>
    s.modArch c fun a =>
      (a.setPred f.pd (cmpFn f.funct.toNat (a.reg f.sa) (if f.useImm then f.imm.signExtend 64 else a.reg f.sb))).next

def plogFn (f : Nat) (a b : Bool) : Bool :=
  match f with
  | 0 => a && b
  | 1 => a || b
  | 2 => a != b
  | _ => a && !b

def execPlog (c : CtxId) (f : PlogF) (s : State) : Host.Outcome State Fault Refusal :=
  seatRun s c f.g f.word f.legal (if f.funct.toNat ≥ 4 then [f.sd] else []) fun s _ =>
    s.modArch c fun a =>
      (if f.funct = 4 then a.setPred f.pd (a.reg f.sd != 0)
       else if f.funct = 5 then a.setReg f.sd (if a.pred f.pa then 1 else 0)
       else a.setPred f.pd (plogFn f.funct.toNat (a.pred f.pa) (a.pred f.pb))).next

/-! ### Branches, R279 -/

/-- A branch target is a multiple of 8 below CODE_LEN. -/
def State.goodPc (s : State) (pc : Dword) : Bool := decide (pc.toNat % 8 = 0) && decide (pc.toNat < s.job.code.length)

def execBr (c : CtxId) (f : BrF) (s : State) : Host.Outcome State Fault Refusal :=
  seatRun s c f.g f.word f.legal [] fun s x =>
    let t := x.arch.pc + 8 * f.off.signExtend 64
    if s.goodPc t then s.modArch c fun a => { a with pc := t } else s.seatFault c x stILLEGAL 0xFF f.word 0

def execJal (c : CtxId) (f : JalF) (s : State) : Host.Outcome State Fault Refusal :=
  seatRun s c f.g f.word f.legal [f.sd, f.sa] fun s x =>
    let t := x.arch.reg f.sa + f.imm.signExtend 64
    if s.goodPc t then s.modArch c fun a => { a.setReg f.sd (a.pc + 8) with pc := t }
    else s.seatFault c x stILLEGAL 0xFF f.word 0

/-! ### Scalar memory, R280 -/

/-- What a scalar access finds: a fault (status, handle, DETAIL), a stall, or the buffer and byte offset. -/
inductive ScalarAcc where
  | bad (status handle : Byte) (detail : Dword)
  | stall (b : Buffer)
  | ok (b : Buffer) (off : Nat)
  deriving DecidableEq, Repr

/-- An earlier-issued instruction of the context has not finished with the buffer (R263). -/
def Ctx.busyOn (x : Ctx) (b : Buffer) (write : Bool) : Bool :=
  x.entries.any fun q => !q.settled && ((q.writes.any fun w => b.reach.contains w) || (write && q.reads.any fun r => b.reach.contains r))

/-- The checks of R280; the access is at (addr mod 2^64). -/
def State.scalarAccess (s : State) (x : Ctx) (bh : HReg) (addr : Dword) (n : Nat) (write : Bool) : ScalarAcc :=
  let hb : Byte := bh.setWidth 8
  match s.job.live (x.arch.hnd bh) with
  | none => .bad stBUFFER hb (BitVec.allOnes 64)
  | some (k, b) =>
    if !(b.cls == .resident || b.cls == .stash) || (write && !k.write) then .bad stBUFFER hb (BitVec.allOnes 64)
    else if addr.toNat + n > b.bytes then .bad stBUFFER hb (BitVec.ofNat 64 (max addr.toNat b.bytes))
    else if addr.toNat % n ≠ 0 then .bad stILLEGAL 0xFF 0
    else if !b.usable || x.busyOn b write then .stall b
    else .ok b addr.toNat

def loadFn (n : Nat) (sx : Bool) (v : Nat) : Dword :=
  if sx ∧ v ≥ 2 ^ (8 * n - 1) then BitVec.ofNat 64 (2 ^ 64 - 2 ^ (8 * n) + v) else BitVec.ofNat 64 v

/-- A spilled buffer is asked for, and the seat stalls until it is filled (R191, R280). -/
def State.stallFor (s : State) (c : CtxId) (x : Ctx) (word : Dword) (b : Buffer) : State :=
  if b.usable then s
  else { s with job := (s.job.askFill c x.tag x.arch.pc word (x.handleIn s.job word b.id) 0 b.id).modCtx c fun x => { x with stall := some .room } }.settle

/-- The fault of a scalar access with its word's form: the greatest code (R12, R280). -/
def ScalarAcc.fault (a : ScalarAcc) (legal : Bool) : Option Late :=
  pickLate [illegal (!legal), match a with
    | .bad st h d => some ⟨st, h, d⟩
    | .stall _ | .ok _ _ => none]

def execSld (c : CtxId) (f : SldF) (s : State) : Host.Outcome State Fault Refusal :=
  seatTake s c f.g f.word f.legal [f.sd, f.sa] fun s x =>
    let n := 2 ^ f.size.toNat
    let acc := s.scalarAccess x f.bh (x.arch.reg f.sa + f.imm.signExtend 64) n false
    match acc.fault f.legal, acc with
    | some l, _ => s.lateFault c x f.word l
    | none, .bad _ _ _ => s
    | none, .stall b => s.stallFor c x f.word b
    | none, .ok b off =>
      let s := { s with job := { s.job.touch [b.id] s.job.nextUid with nextUid := s.job.nextUid + 1 } }
      s.modArch c fun a => (a.setReg f.sd (loadFn n f.sx (leNat (b.readBytes off n)))).next

def execSst (c : CtxId) (f : SstF) (s : State) : Host.Outcome State Fault Refusal :=
  seatTake s c f.g f.word f.legal [f.ss, f.sa] fun s x =>
    let n := 2 ^ f.size.toNat
    let acc := s.scalarAccess x f.bh (x.arch.reg f.sa + f.imm.signExtend 64) n true
    match acc.fault f.legal, acc with
    | some l, _ => s.lateFault c x f.word l
    | none, .bad _ _ _ => s
    | none, .stall b => s.stallFor c x f.word b
    | none, .ok b off =>
      let j := s.job.modBuf b.id fun y => y.writeBytes off (leBytes (x.arch.reg f.ss).toNat n)
      ({ s with job := { j.touch [b.id] j.nextUid with nextUid := j.nextUid + 1 } }).modArch c Arch.next

/-! ### EXIT, R281 -/

/-- The context ends: its buffers are released, its spill region and seat freed, a completion with OK posted. -/
def State.endCtx (s : State) (c : CtxId) : State :=
  ((s.dropCtx c Buffer.relNow).ctxCompl ((s.job.ctx? c).bind Ctx.last) stOK (zerosTo [0, BitVec.ofNat 8 c.val] 48)).settle

def execExit (c : CtxId) (f : BareF) (s : State) : Host.Outcome State Fault Refusal :=
  seatRun s c f.g (f.word 0x0A) f.legal [] fun s x =>
    if x.tag.isSome then s.seatFault c x stILLEGAL 0xFF (f.word 0x0A) 0
    else if x.joined.isEmpty then s.endCtx c
    else { s with job := s.job.modCtx c fun x => { x with stall := some .exit } }.settle

def execExitComplete (c : CtxId) (s : State) : Host.Outcome State Fault Refusal :=
  match s.job.ctx? c with
  | none => .next s
  | some x => if x.resid = .resident ∧ x.stall = some .exit ∧ x.joined = [] then .next (s.endCtx c) else .next s

end Sys2Proof.Machine
end

