-- ==== Sys2Proof/Machine/Buffers.lean ====
section
/-! DEFINITION. Buffer declarations, spill regions, releases and shares (R282 to R286, R256, R257, R558). -/

namespace Sys2Proof.Machine

/-! ### DECL, R282 and R283 -/

/-- What the operand words of DECL ask for (Table 10-7). -/
structure DeclReq where
  (cls : Cls) (fmt : Fmt) (rows cols : Nat) (potP potK potTap : Nat) (mode b : Nat) (dir : Dir) (auto : Bool)
  (sbuf prio region : Nat) (sT : Dword)
  deriving DecidableEq, Repr

def fmtOf : Nat → Option Fmt
  | 0 => some .v8 | 1 => some .g8 | 2 => some .bf16 | 3 => some .fp16 | 4 => some .fp32 | 5 => some .u32 | 6 => some .byte
  | _ => none
def clsOf : Nat → Option Cls
  | 0 => some .stream | 1 => some .resident | 2 => some .stash | 3 => some .pot | 4 => some .state | 5 => some .input
  | 6 => some .host | _ => none
def dirOf : Nat → Option Dir
  | 0 => some .row | 1 => some .col | 2 => some .square | _ => none
/-- Classes that feed the matrix tiles (Table 06-3). -/
def Cls.feeds : Cls → Bool
  | .stream | .resident | .stash => true
  | .pot | .state | .input | .host => false

/-- The operand words read, and whether a bit or encoding is reserved, a field out of range, or one that must be zero is not;
none for a reserved CLASS. A reserved FMT gives the buffer no size, so it meets only the checks that need none (R12). -/
def declReq (sS sA sT : Dword) : Option (DeclReq × Bool) :=
  match clsOf (bits sA 2 0) with
  | none => none
  | some cls =>
    let fmt? := fmtOf (bits sA 5 3)
    let fmt := fmt?.getD .byte
    let dir := (dirOf (bits sA 11 10)).getD .row
    let sized := decide (cls ≠ .pot) && fmt?.isSome
    let mode := bits sA 7 6
    let q : DeclReq := {
      cls := cls
      fmt := fmt
      rows := if sized then bits sS 31 0 else 0
      cols := if sized then bits sS 63 32 else 0
      potP := if cls = .pot then bits sS 31 0 else 0
      potK := if cls = .pot then bits sS 40 32 else 0
      potTap := if cls = .pot then bits sS 63 41 else 0
      mode := mode
      b := 16 * 2 ^ bits sA 9 8
      dir := dir
      auto := sA.getLsbD 12
      sbuf := bits sA 19 14
      prio := bits sA 23 20
      region := bits sA 47 32
      sT := sT }
    let bad := fmt?.isNone || (dirOf (bits sA 11 10)).isNone || mode == 3 || bits sA 13 13 != 0 || bits sA 31 24 != 0 || bits sA 63 48 != 0
      || (mode != 2 && (bits sA 9 8 != 0 || bits sA 11 10 != 0 || q.auto || q.sbuf != 0))
      || (cls != .stash && q.prio != 0) || (cls != .host && q.region != 0)
      || (!fmt.isFloat && mode != 0) || (fmt == .fp32 && mode != 0 && cls.feeds)
      || (mode == 1 && (cls == .host || cls == .input))
      || (mode != 1 && cls != .host && cls != .input && sT != 0)
      || (if cls = .pot then fmt != .byte || q.potP == 0 || q.potK == 0 || decide (q.potK > 256) || decide (q.potTap > 65600)
          else q.rows == 0 || q.cols == 0)
    some (q, bad)

def DeclReq.buffer (q : DeclReq) (id : Nat) (c : CtxId) (h : HReg) (sbuf : Nat) (tag : Option Nat) (uid : Nat) : Buffer where
  id := id
  owner := c
  handle := h.toNat
  cls := q.cls
  fmt := q.fmt
  rows := q.rows
  cols := q.cols
  scale := if q.mode = 1 then .tensor (q.sT.setWidth 32) ((q.sT >>> 32).setWidth 32)
    else if q.mode = 2 then .block q.b q.dir q.auto sbuf else .none
  prio := q.prio
  potP := q.potP
  potK := q.potK
  potTap := q.potTap
  region := q.region
  offset := if q.cls = .host ∨ q.cls = .input then q.sT.toNat else 0
  mem := []
  place := .placed
  inAside := none
  moving := false
  lastAccess := uid
  declTrick := tag
  relTrick := none
  released := false
  dead := false
  exp := none
  pubSealed := 0
  pubOpen := []
  recs := []
  nfrecs := []
  exchanged := []

/-- The scale buffer a BLOCK declaration binds: owned, BYTE, of the same class, with a byte for every block. -/
def State.declScale (s : State) (x : Ctx) (q : DeclReq) : Option Nat :=
  if q.mode ≠ 2 then some 0
  else match s.job.live (x.arch.hndN q.sbuf) with
    | none => none
    | some (k, b) =>
      if k.owner && b.fmt == .byte && b.cls == q.cls && decide (scaleCount q.rows q.cols q.b q.dir ≤ b.bytes) then some b.id else none

/-- Capacity and region checks of R283: the DETAIL of a CTX_FAULT_BUFFER, if one applies. -/
def State.declRoom (s : State) (q : DeclReq) (b : Buffer) : Option Dword :=
  match q.cls with
  | .pot => if ceilDiv q.potP 4 * potRecBytes q.potK q.potTap > potDieBytes then some 0 else none
  | .host => match s.region? q.region with
    | none => some 0
    | some r =>
      if !r.read && !r.write then some 0
      else if q.sT.toNat + b.bytes > r.length then some (BitVec.ofNat 64 (r.length - q.sT.toNat)) else none
  | .input =>
    if q.sT.toNat + b.bytes > s.job.inpages * 4096 then some (BitVec.ofNat 64 (s.job.inpages * 4096 - q.sT.toNat)) else none
  | _ => if s.job.dramUsed + b.dram > jobDram then some 0 else none

/-- Enter a declared buffer: its handle, and a room request when it waits for room (R191). -/
def State.declPut (s : State) (c : CtxId) (x : Ctx) (f : DeclF) (b : Buffer) (write ask : Bool) : State :=
  let j := s.job
  let j : Job := { j with
    bufs := j.bufs ++ [b]
    nextBuf := j.nextBuf + 1
    nextUid := j.nextUid + 1
    roomQ := if ask then j.roomQ ++ [⟨c, b.id, .place, x.tag, x.arch.pc, f.word, f.bh.setWidth 8, 0⟩] else j.roomQ }
  ({ s with job := j }.modArch c fun a => (a.setHnd f.bh (some ⟨b.id, true, write⟩)).next).settle
/-- The checks of R283 on words that read: the form, the scale buffer, and capacity. -/
def State.declBad (s : State) (x : Ctx) (f : DeclF) (q : DeclReq) (bad : Bool) (b : Buffer) : List (Option Late) :=
  let hb : Byte := f.bh.setWidth 8
  [illegal bad, if (s.declScale x q).isNone then some ⟨stILLEGAL, BitVec.ofNat 8 q.sbuf, 0⟩ else none,
    (s.declRoom q b).map fun d => ⟨stBUFFER, hb, d⟩,
    if q.cls = .resident ∧ (s.makeRoom (s.job.units b)).isNone then some ⟨stBUFFER, hb, 0⟩ else none]
/-- A declaration that passes its checks: a RESIDENT one is placed at once or stalls while spills make room (R181), a STASH one
may wait for room (R191). -/
def State.declGo (s : State) (c : CtxId) (x : Ctx) (f : DeclF) (q : DeclReq) (b : Buffer) : State :=
  let wr := q.cls != .host || (match s.region? q.region with
    | none => false
    | some r => r.write)
  match q.cls with
  | .resident =>
    match s.makeRoom (s.job.units b) with
    | some (false, s) => { s with job := s.job.modCtx c fun y => { y with stall := some .room } }.settle
    | some (true, s) => s.declPut c x f b wr false
    | none => s
  | .stash =>
    if s.fits (s.job.units b) noUnits && s.job.roomQ.isEmpty then s.declPut c x f b wr false
    else s.declPut c x f { b with place := .waiting } wr true
  | _ => s.declPut c x f b wr false

def execDecl (c : CtxId) (f : DeclF) (s : State) : Host.Outcome State Fault Refusal :=
  seatTake s c f.g f.word f.legal [f.sS, f.sA, f.sT] fun s x =>
    let first := [illegal (!f.legal),
      if (s.job.live (x.arch.hnd f.bh)).isSome then some ⟨stILLEGAL, f.bh.setWidth 8, 0⟩ else none]
    match declReq (x.arch.reg f.sS) (x.arch.reg f.sA) (x.arch.reg f.sT) with
    | none => s.lateFault c x f.word ((pickLate first).getD ⟨stILLEGAL, 0xFF, 0⟩)
    | some (q, bad) =>
      let b := q.buffer s.job.nextBuf c f.bh ((s.declScale x q).getD 0) x.tag s.job.nextUid
      match pickLate (first ++ s.declBad x f q bad b) with
      | some l => s.lateFault c x f.word l
      | none => s.declGo c x f q b

/-! ### SPILLR, R284 and R558 -/

/-- Storage of a size kept aside comes back as the context's region, with its contents (R558). -/
def Job.reattach (j : Job) (c : CtxId) (z : Nat) : Job :=
  { j with
    bufs := j.bufs.map fun b => if b.owner = c ∧ b.inAside = some z then { b with inAside := none } else b
    tiles := j.tiles.map fun o => if o.ctx = c ∧ o.lies = .region (some z) then { o with lies := .region none } else o }
def execSpillr (c : CtxId) (f : SpillrF) (s : State) : Host.Outcome State Fault Refusal :=
  seatTake s c f.g f.word f.legal [f.sS] fun s x =>
    let z := (x.arch.reg f.sS).toNat
    let back := x.aside.contains z
    match pickLate [illegal (!f.legal || decide (z = 0) || decide (z % 4096 ≠ 0) || x.spill.isSome),
        if !back ∧ s.job.dramUsed + z > jobDram then some ⟨stBUFFER, 0xFF, 0⟩ else none] with
    | some l => s.lateFault c x f.word l
    | none =>
      let j := if back then s.job.reattach c z else s.job
      ({ s with job := j.modCtx c fun y =>
        { y with spill := some z, spillTrick := y.tag, aside := y.aside.erase z, arch := y.arch.next } }).settle

/-! ### REL, R285 -/

/-- Release through the owner's handle. A POT buffer's space is freed, and handles bound to it elsewhere become invalid, as soon
as no issued, incomplete instruction names it (Job.collect). -/
def Buffer.relOwner (b : Buffer) (tag : Option Nat) : Buffer :=
  { b with
    relTrick := tag
    released := b.released || tag.isNone }

def execRel (c : CtxId) (f : RelF) (s : State) : Host.Outcome State Fault Refusal :=
  seatTake s c f.g f.word f.legal [] fun s x =>
    match s.job.live (x.arch.hnd f.bh) with
    | none => s.seatFault c x stBUFFER (f.bh.setWidth 8) f.word (BitVec.allOnes 64)
    | some (k, b) =>
      if !f.legal then s.seatFault c x stILLEGAL 0xFF f.word 0 else
      let s := if k.owner then { s with job := s.job.modBuf b.id fun y => y.relOwner x.tag } else s
      (s.modArch c fun a => (a.setHnd f.bh none).next).settle

/-! ### SHARE, R286 -/

def Job.exported (j : Job) (n : Nat) : Option Buffer := j.bufs.find? fun b => match b.exp with
  | none => false
  | some (i, _, _) => i == n

/-- BUFID 0 or above 4,095, and the form of the word (Table 10-8). -/
def badBufid (legal : Bool) (v : Nat) : Option Late := illegal (!legal || decide (v = 0) || decide (v > 4095))
/-- The handle of an EXPORT is refused, or its buffer or BUFID is exported already (Table 10-8). -/
def Job.exportBad (j : Job) (x : Ctx) (bh : HReg) (v : Nat) : Option Late := match j.live (x.arch.hnd bh) with
  | none => some ⟨stBUFFER, bh.setWidth 8, BitVec.allOnes 64⟩
  | some (k, b) =>
    if !k.owner then some ⟨stBUFFER, bh.setWidth 8, BitVec.allOnes 64⟩
    else if b.exp.isSome || (j.exported v).isSome then some ⟨stBUFFER, bh.setWidth 8, 0⟩ else none
def execShareExport (c : CtxId) (f : ShareF) (s : State) : Host.Outcome State Fault Refusal :=
  seatTake s c f.g (f.word 0) f.legal [f.sI] fun s x =>
    let v := (x.arch.reg f.sI).toNat
    match pickLate [badBufid f.legal v, s.job.exportBad x f.bh v], s.job.live (x.arch.hnd f.bh) with
    | some l, _ => s.lateFault c x (f.word 0) l
    | none, none => s
    | none, some (_, b) =>
      let was := s.serveAttached
      let s := { s with job := s.job.modBuf b.id fun y => { y with exp := some (v, f.acc, x.tag) } }.modArch c Arch.next
      if was then s else s.serveAttach

/-- A BIND of a BUFID not exported, or with more access than granted (R256, Table 10-8). -/
def Job.bindBad (j : Job) (bh : HReg) (v : Nat) (acc : Bool) : Option Late :=
  let refused : Option Late := some ⟨stBUFFER, bh.setWidth 8, BitVec.allOnes 64⟩
  if v = 0 ∨ v > 4095 then none
  else match (j.exported v).bind Buffer.exp with
    | none => refused
    | some (_, a, _) => if acc && !a then refused else none
def execShareBind (c : CtxId) (f : ShareF) (s : State) : Host.Outcome State Fault Refusal :=
  seatTake s c f.g (f.word 1) f.legal [f.sI] fun s x =>
    let v := (x.arch.reg f.sI).toNat
    match pickLate [badBufid f.legal v, if (s.job.live (x.arch.hnd f.bh)).isSome then some ⟨stILLEGAL, f.bh.setWidth 8, 0⟩ else none,
        s.job.bindBad f.bh v f.acc], s.job.exported v with
    | some l, _ => s.lateFault c x (f.word 1) l
    | none, none => s
    | none, some b =>
      let wr := f.acc && (b.cls != .host || (match s.region? b.region with
        | none => false
        | some r => r.write))
      s.modArch c fun a => (a.setHnd f.bh (some ⟨b.id, false, wr⟩)).next

end Sys2Proof.Machine
end

