-- ==== Sys2Proof/Machine/Access.lean ====
section
/-! DEFINITION. Reaching buffers from an engine: views of host and input buffers, loads and stores with scales (R73 to
R83), the sets of buffers an access reaches (R263), checks made at issue (R12, R179, R302), staged writes (R227). -/

namespace Sys2Proof.Machine

/-! ### Handles at issue -/

/-- The buffer of a handle, or the refusal of R179: invalid, of a class the use forbids, or without WRITE. -/
def useHnd (j : Job) (x : Ctx) (h : Nat) (ok : Cls → Bool) (write : Bool) : Option Buffer × Option Late :=
  let no : Option Late := some ⟨stBUFFER, BitVec.ofNat 8 h, BitVec.allOnes 64⟩
  match j.live (x.arch.hndN h) with
  | none => (none, no)
  | some (k, b) => if !ok b.cls || (write && !k.write) then (none, no) else (some b, none)
/-- Use several handles in the order of Table 09-6. -/
def useHnds (j : Job) (x : Ctx) (l : List (Nat × (Cls → Bool) × Bool)) : List (Option Buffer × Option Late) :=
  l.map fun h => useHnd j x h.1 h.2.1 h.2.2

def Cls.matOp (c : Cls) : Bool := c.feeds
def Cls.matOut : Cls → Bool
  | .resident | .stash => true
  | _ => false
def Cls.vec : Cls → Bool
  | .resident | .stash | .state => true
  | _ => false
def Cls.work (c : Cls) : Bool := c.matOut
def Cls.copySrc (c : Cls) : Bool := c != .pot
def Cls.copyDst (c : Cls) : Bool := c != .pot && c != .input

/-! ### Buffers reached -/

def Buffer.auto (b : Buffer) : Bool := match b.scale with
  | .block _ _ a _ => a
  | _ => false
/-- Buffers written by a store into b, and read by it. -/
def Buffer.stores (b : Buffer) : List Nat := if b.auto then b.reach else [b.id]
def Buffer.storeReads (b : Buffer) : List Nat := if b.auto then [] else b.scaleBuf.toList

/-! ### Views of buffers that are not in the module's stores -/

/-- The bytes of an INPUT buffer are a window of the input region. -/
def inputView (m : Memory) (off n : Nat) : Memory :=
  (m.filter fun c => decide (off ≤ c.1 ∧ c.1 < off + n)).map fun c => (c.1 - off, c.2)
/-- The bytes of host memory a read of a HOST buffer meets: free values (log entry 16). -/
def hostView (fresh region off n : Nat) : Memory :=
  (List.range n).foldl (fun m i => memWrite 0 m i (Config.hostByte fresh region (off + i))) []
/-- A buffer as an engine reads it: its own bytes, the input window, or host memory; one fresh number per HOST read. -/
def State.view (s : State) (b : Buffer) : Buffer × State :=
  match b.cls with
  | .input => ({ b with mem := inputView s.job.input b.offset b.bytes }, s)
  | .host =>
    let (n, s) := s.takeFresh
    ({ b with mem := hostView n b.region b.offset b.bytes }, s)
  | _ => (b, s)
/-- Views of a buffer and its scale buffer, put in place for the time of one effect. -/
def State.withView (s : State) (b : Buffer) : State :=
  let see (s : State) (n : Nat) : State := match s.job.buf? n with
    | none => s
    | some y => if y.cls = .host ∨ y.cls = .input then
        let (v, s) := s.view y
        { s with job := s.job.modBuf n fun _ => v }
      else s
  b.reach.foldl see s
/-- HOST and INPUT buffers keep no bytes of their own. -/
def Job.dropViews (j : Job) : Job :=
  { j with bufs := j.bufs.map fun b => if b.cls = .host ∨ b.cls = .input then { b with mem := [] } else b }

/-! ### Loads -/

/-- What a load of element (r, c) applies (R79 to R81). -/
def Job.lscale (j : Job) (b : Buffer) (r c : Nat) : LScale := match b.scale with
  | .none => .none
  | .tensor t _ => .ten (unpackRaw .fp32 t.toNat)
  | .block n d _ sb => .blk (j.scaleByte sb (scaleIdx b.cols n d r c))
def Job.loadAt (j : Job) (b : Buffer) (r c : Nat) : FM Fp := loadEl b.fmt (j.lscale b r c) (b.rawEl (r * b.cols + c))

/-! ### Stores -/

/-- Block index of an element under a block scale; 0 otherwise. -/
def Buffer.blockOf (b : Buffer) (r c : Nat) : Nat := match b.scale with
  | .block n d _ _ => scaleIdx b.cols n d r c
  | _ => 0
/-- Largest finite magnitude of each block among the elements, in order of first appearance (R83). -/
def blockMax (b : Buffer) (els : List (Nat × Nat × Fp)) : List (Nat × Fp) :=
  els.foldl (fun l e =>
    let k := b.blockOf e.1 e.2.1
    let m := if e.2.2.isFinite then e.2.2.abs else fpZero
    match alGet l k with
    | none => alSet l k m
    | some v => if fpLt v m then alSet l k m else l) []

/-- Store elements (row, column, value) under the buffer's format and scale, choosing the scale bytes under AUTO; the
random values come from draw by flat index (R97). -/
def Job.storeEls (j : Job) (n : Nat) (els : List (Nat × Nat × Fp)) (draw : Nat → Option Nat) : FM Job := do
  match j.buf? n with
  | none => return j
  | some b =>
    let (j, es) : Job × List (Nat × Nat) := match b.scale with
      | .block _ _ true sb =>
        let es := (blockMax b els).map fun p => (p.1, autoE b.fmt p.2)
        (j.modBuf sb fun k => { k with mem := es.foldl (fun m e => memWrite 0 m e.1 (BitVec.ofNat 8 e.2)) k.mem }, es)
      | _ => (j, [])
    let sc (r c : Nat) : SScale := match b.scale with
      | .none => .none
      | .tensor _ t => .ten (unpackRaw .fp32 t.toNat)
      | .block n d true _ => .blk ((alGet es (scaleIdx b.cols n d r c)).getD 127)
      | .block n d false sb => .blk (j.scaleByte sb (scaleIdx b.cols n d r c))
    let b ← els.foldlM (fun b e => do
      let i := e.1 * b.cols + e.2.1
      let w ← storeEl b.fmt (sc e.1 e.2.1) (draw i) e.2.2
      return b.setRawEl i w) b
    return j.modBuf n fun _ => b

/-- Every block the elements touch is covered completely (R292). -/
def coversBlocks (b : Buffer) (cells : List (Nat × Nat)) : Bool :=
  match b.scale with
  | .block n d true _ =>
    let size (k : Nat) : Nat := match d with
      | .row =>
        let per := ceilDiv b.cols n
        min n (b.cols - k % per * n)
      | .col => min n (b.rows - k / b.cols * n)
      | .square =>
        let per := ceilDiv b.cols n
        min n (b.rows - k / per * n) * min n (b.cols - k % per * n)
    let ks := (cells.map fun p => b.blockOf p.1 p.2)
    ks.eraseDups.all fun k => decide ((ks.filter fun y => y == k).length = size k)
  | _ => true
/-- A block of rows and columns covers every block it touches. -/
def Buffer.rectCovers (b : Buffer) (r c h w : Nat) : Bool :=
  match b.scale with
  | .block n d true _ =>
    let fits (o l total : Nat) : Bool := decide (o % n = 0) && (decide ((o + l) % n = 0) || decide (o + l = total))
    match d with
    | .row => fits c w b.cols
    | .col => fits r h b.rows
    | .square => fits r h b.rows && fits c w b.cols
  | _ => true

/-- The rows and columns of a block, row-major. -/
def rect (r c h w : Nat) : List (Nat × Nat) := (List.range h).flatMap fun i => (List.range w).map fun k => (r + i, c + k)
/-- First byte offset outside the buffer's shape, for a block at (r, c) of h by w. -/
def Buffer.outside (b : Buffer) (r c h w : Nat) : Option Nat :=
  if r + h ≤ b.rows ∧ c + w ≤ b.cols then none
  else
    let i := if r ≥ b.rows then r * b.cols + c else if c + w > b.cols then r * b.cols + max c b.cols else b.rows * b.cols + c
    some (i * b.fmt.bytes)

/-! ### What an engine's effect leaves -/

/-- The outcome of an effect: the state, flags and counts, a fault found after issue, the summary, output tiles to drain. -/
structure FxR where
  (s : State) (acc : Acc) (late : Option Late) (sum : Dword) (fin : List FinTile)
  deriving DecidableEq, Repr

def fxOk (s : State) (a : Acc) : FxR := ⟨s, a, none, 0, []⟩
def fxLate (s : State) (l : Late) : FxR := ⟨s, .zero, some l, 0, []⟩

/-! ### Seal staging, R227 and R228 -/

def stageBytes : Nat := 255 * 2 ^ 20
def Staged.size : Staged → Nat
  | .host _ _ _ _ d => d.length
  | .emit _ => 0
def Job.stagedBytes (j : Job) : Nat := j.staged.foldl (fun a w => a + w.size) 0
/-- Bytes a store of a block into a HOST buffer stages, scale bytes included. -/
def hostRuns (b : Buffer) (cells : List (Nat × Nat)) : List (Nat × List Byte) :=
  cells.map fun p =>
    let i := p.1 * b.cols + p.2
    (i * b.fmt.bytes, memReadN 0 b.mem (i * b.fmt.bytes) b.fmt.bytes)
/-- Join neighbouring runs. -/
def joinRuns : List (Nat × List Byte) → List (Nat × List Byte)
  | [] => []
  | (o, d) :: r =>
    match joinRuns r with
    | [] => [(o, d)]
    | (p, e) :: t => if o + d.length = p then (o, d ++ e) :: t else (o, d) :: (p, e) :: t
/-- Move what an effect wrote into HOST buffer n to the staging area, as writes of its region. -/
def Job.stageHost (j : Job) (n : Nat) (cells : List (Nat × Nat)) (trick ctx : Nat) : Job :=
  match j.buf? n with
  | none => j
  | some b =>
    if b.cls ≠ .host then j
    else
      let data := (joinRuns (hostRuns b cells)).map fun r => Staged.host trick ctx b.region (b.offset + r.1) r.2
      let sc := match b.scale with
        | .block _ _ true sb => match j.buf? sb with
          | none => []
          | some k => (joinRuns (((cells.map fun p => b.blockOf p.1 p.2).eraseDups).map fun i => (i, [memRead 0 k.mem i]))).map fun r =>
              Staged.host trick ctx k.region (k.offset + r.1) r.2
        | _ => []
      { j with staged := j.staged ++ data ++ sc }
/-- Room for a host staging request of n bytes of trick t: none when it can never be met (R228). -/
def Job.stageRoom (j : Job) (t n : Nat) : Option Bool :=
  if n > stageBytes then none
  else if j.stagedBytes + n ≤ stageBytes then some true
  else if j.staged.any (fun w => match w with
    | .host k _ _ _ d => decide (k < t) && !d.isEmpty
    | .emit _ => false) then some false
  else none

/-- What issuing an engine instruction comes to: the check it fails, or the operation, the buffers it reads and writes,
and the buffer its PUB publishes. -/
structure Issue where
  (bad : Option Late) (op : Option EOp) (reads writes : List Nat) (dst : Option Nat)
  deriving DecidableEq, Repr
def Issue.fail (l : Option Late) : Issue := ⟨l, none, [], [], none⟩

/-! ### Work units -/

/-- Blocks of a scale that a rectangle touches. -/
def Buffer.blocksIn (b : Buffer) (r c h w : Nat) : Nat :=
  match b.scale with
  | .block n d _ _ =>
    let span (o l : Nat) : Nat := if l = 0 then 0 else (o + l - 1) / n - o / n + 1
    match d with
    | .row => h * span c w
    | .col => span r h * w
    | .square => span r h * span c w
  | _ => 0

/-- A charge over the dies' units of 65,536 destination bytes (R348): each unit's share of the bytes it writes, the last one's
what is left (log entry 80). -/
def copyUnits (dst charge : Nat) : List (Nat × Nat) :=
  let n := max 1 (ceilDiv dst 65536)
  let upto (i : Nat) : Nat := if i ≥ n then charge else charge * (65536 * i) / max 1 dst
  (List.range n).map fun i => (i % 4, upto (i + 1) - upto i)

end Sys2Proof.Machine
end

