-- ==== Sys2Proof/Machine/CopyFx.lean ====
section
/-! DEFINITION. Copies, gathers, scatters and fills: checks and effects (R287 to R292). -/

namespace Sys2Proof.Machine

/-- A copy whose bits move unchanged (R76, R288). -/
def rawPair (d b : Buffer) : Bool := d.fmt == b.fmt && (!d.fmt.isFloat || (d.scale == .none && b.scale == .none))
/-- A pairing R288 forbids: U32 or BYTE with another format. -/
def badPair (d b : Buffer) : Bool := d.fmt != b.fmt && (!d.fmt.isFloat || !b.fmt.isFloat)
/-- A source on a region registered with READ clear is refused (R557). -/
def State.hostRead (s : State) (b : Buffer) (h : Nat) : Option Late :=
  chk (b.cls == .host && !(match s.region? b.region with
    | none => false
    | some r => r.read)) stBUFFER (BitVec.ofNat 8 h) (BitVec.allOnes 64)
/-- A block outside a buffer. -/
def outChk (b : Buffer) (h r c n w : Nat) : Option Late := match b.outside r c n w with
  | none => none
  | some o => some ⟨stBUFFER, BitVec.ofNat 8 h, BitVec.ofNat 64 o⟩
/-- A rounding control word that is refused. -/
def rcChk (w : Dword) : Option Late := illegal (rcOf w).isNone
def rcGet (w : Dword) : Rc := (rcOf w).getD ⟨false, 0, 0⟩

/-! ### Checks at issue, Table 10-11 -/

def State.issueCopy (s : State) (x : Ctx) (f : CopyF) : Issue :=
  let a := x.arch
  let dO := a.reg f.sDO
  let so := a.reg f.sSO
  let ex := a.reg f.sEXT
  let h := lo32 ex
  let w := hi32 ex
  let d := useHnd s.job x f.bd.toNat Cls.copyDst true
  let b := useHnd s.job x f.bs.toNat Cls.copySrc false
  let base := [d.2, b.2, rcChk (a.reg f.sRC), illegal (decide (h = 0 ∨ w = 0))]
  match d.1, b.1 with
  | some bd, some bs =>
    let bad := pickLate (base ++ [s.hostRead bs f.bs.toNat, illegal (badPair bd bs), outChk bd f.bd.toNat (lo32 dO) (hi32 dO) h w,
      outChk bs f.bs.toNat (lo32 so) (hi32 so) h w, illegal (!bd.rectCovers (lo32 dO) (hi32 dO) h w)])
    ⟨bad, some (.copy bd.id bs.id (lo32 dO) (hi32 dO) (lo32 so) (hi32 so) h w (rcGet (a.reg f.sRC))),
      bs.reach ++ bd.storeReads, bd.stores, some bd.id⟩
  | _, _ => .fail (pickLate base)

/-- GATHER and SCATTER: the moved rows are sROW onward of the destination (GATHER) or of the source (SCATTER). -/
def State.issueRows (s : State) (x : Ctx) (f : GatherF) (gather : Bool) : Issue :=
  let a := x.arch
  let ix := a.reg f.sIX
  let row := a.reg f.sROW
  let n := hi32 ix
  let d := useHnd s.job x f.bd.toNat Cls.copyDst true
  let b := useHnd s.job x f.bs.toNat Cls.copySrc false
  let i := useHnd s.job x f.bi.toNat Cls.copySrc false
  let base := [d.2, b.2, i.2, rcChk (a.reg f.sRC), illegal (decide (n = 0 ∨ hi32 row ≠ 0))]
  match d.1, b.1, i.1 with
  | some bd, some bs, some bi =>
    let rc := rcGet (a.reg f.sRC)
    let bad := pickLate (base ++ [s.hostRead bs f.bs.toNat, s.hostRead bi f.bi.toNat, illegal (badPair bd bs),
      illegal (bd.cols != bs.cols || bi.fmt != .u32),
      chk (decide (lo32 ix + n > bi.elems)) stBUFFER (BitVec.ofNat 8 f.bi.toNat) (BitVec.ofNat 64 (max (lo32 ix) bi.elems * 4)),
      if gather then outChk bd f.bd.toNat (lo32 row) 0 n bd.cols else outChk bs f.bs.toNat (lo32 row) 0 n bs.cols,
      illegal (gather && !bd.rectCovers (lo32 row) 0 n bd.cols)])
    let op : EOp := if gather then .gather bd.id bs.id bi.id (lo32 ix) n (lo32 row) rc
      else .scatter bd.id bs.id bi.id (lo32 ix) n (lo32 row) rc
    ⟨bad, some op, bs.reach ++ bi.reach ++ bd.storeReads, bd.stores, some bd.id⟩
  | _, _, _ => .fail (pickLate base)

def State.issueFill (s : State) (x : Ctx) (f : FillF) : Issue :=
  let a := x.arch
  let dO := a.reg f.sDO
  let ex := a.reg f.sEXT
  let d := useHnd s.job x f.bd.toNat Cls.copyDst true
  let base := [d.2, illegal (decide (lo32 ex = 0 ∨ hi32 ex = 0 ∨ hi32 (a.reg f.sV) ≠ 0))]
  match d.1 with
  | some bd =>
    let bad := pickLate (base ++ [outChk bd f.bd.toNat (lo32 dO) (hi32 dO) (lo32 ex) (hi32 ex),
      illegal (!bd.rectCovers (lo32 dO) (hi32 dO) (lo32 ex) (hi32 ex))])
    ⟨bad, some (.fill bd.id (lo32 dO) (hi32 dO) (lo32 ex) (hi32 ex) ((a.reg f.sV).setWidth 32)), bd.storeReads, bd.stores,
      some bd.id⟩
  | none => .fail (pickLate base)

/-! ### Effects -/

/-- Move elements: every source element is read before any destination element is written (R289). pairs gives the
destination cell and the source cell, none for a zero. -/
def Job.moveEls (j : Job) (bd bs : Nat) (pairs : List ((Nat × Nat) × Option (Nat × Nat))) (draw : Nat → Option Nat) : FM Job := do
  match j.buf? bd, j.buf? bs with
  | some d, some b =>
    if rawPair d b then
      let ws := pairs.map fun p => (p.1, match p.2 with
        | none => 0
        | some (r, c) => b.rawEl (r * b.cols + c))
      return j.modBuf bd fun y => ws.foldl (fun y w => y.setRawEl (w.1.1 * d.cols + w.1.2) w.2) y
    else
      let vs ← pairs.mapM fun p => do
        match p.2 with
        | none => return (p.1.1, p.1.2, fpZero)
        | some (r, c) => return (p.1.1, p.1.2, ← j.loadAt b r c)
      -- a zero is +0 of the format whatever scale the buffer declares (R290); under AUTO it is one of its block's values
      let zeros := (pairs.filter fun p => p.2.isNone).map fun p => p.1.1 * d.cols + p.1.2
      if d.auto then j.storeEls bd vs draw
      else
        let j ← j.storeEls bd (((pairs.zip vs).filter fun p => p.1.2.isSome).map Prod.snd) draw
        zeros.forM fun _ => if d.fmt = .fp32 then pure () else count d.fmt true false false
        return j.modBuf bd fun y => zeros.foldl (fun y i => y.setRawEl i 0) y
  | _, _ => return j

/-- Run a move under views of its sources, stage what it wrote to host memory. -/
def State.runMove (s : State) (q : QE) (c : CtxId) (bd : Nat) (cells : List (Nat × Nat)) (f : Job → FM Job) : FxR :=
  let (j, a) := f s.job .zero
  fxOk { s with job := (j.stageHost bd cells q.trick c.val).dropViews } a
def State.viewAll (s : State) (l : List Nat) : State := l.foldl (fun s n => match s.job.buf? n with
  | none => s
  | some b => s.withView b) s

/-- Index values of a gather or scatter, from the index buffer. -/
def Job.indices (j : Job) (bi ix n : Nat) : List Nat := match j.buf? bi with
  | none => []
  | some b => (List.range n).map fun k => b.rawEl (ix + k)
/-- The first index that names a row outside the buffer, as its byte offset. -/
def badIndex (b : Buffer) (l : List Nat) : Option Nat :=
  (l.find? fun v => decide (v ≠ 0xFFFFFFFF ∧ v ≥ b.rows)).map fun v => v * b.cols * b.fmt.bytes
/-- Rows each written once: the source row of the greatest j (R290). -/
def lastWins : List (Nat × Nat) → List (Nat × Nat)
  | [] => []
  | (d, r) :: t => if t.any fun p => p.1 == d then lastWins t else (d, r) :: lastWins t

def State.fxCopy (s : State) (c : CtxId) (q : QE) : FxR :=
  match q.op with
  | .copy bd bs dr dc sr sc rows cols rc =>
    let s := s.viewAll [bs, bd]
    let cells := rect dr dc rows cols
    let pairs := cells.map fun p => (p, some (p.1 - dr + sr, p.2 - dc + sc))
    s.runMove q c bd cells fun j => j.moveEls bd bs pairs (drawOf j.seed q.trick rc)
  | .gather bd bs bi ix n row rc =>
    let s := s.viewAll [bs, bi, bd]
    match s.job.buf? bd, s.job.buf? bs with
    | some d, some b =>
      let l := s.job.indices bi ix n
      match badIndex b l with
      | some o => fxLate { s with job := s.job.dropViews } ⟨stBUFFER, BitVec.ofNat 8 (bits q.insn 47 42), BitVec.ofNat 64 o⟩
      | none =>
        let pairs := ((List.range n).zip l).flatMap fun (k, v) => (List.range d.cols).map fun e =>
          ((row + k, e), if v = 0xFFFFFFFF then none else some (v, e))
        s.runMove q c bd (pairs.map Prod.fst) fun j => j.moveEls bd bs pairs (drawOf j.seed q.trick rc)
    | _, _ => fxOk s .zero
  | .scatter bd bs bi ix n row rc =>
    let s := s.viewAll [bs, bi, bd]
    match s.job.buf? bd with
    | some d =>
      let l := s.job.indices bi ix n
      match badIndex d l with
      | some o => fxLate { s with job := s.job.dropViews } ⟨stBUFFER, BitVec.ofNat 8 (bits q.insn 53 48), BitVec.ofNat 64 o⟩
      | none =>
        let rows := lastWins (((List.range n).zip l).filterMap fun (k, v) => if v = 0xFFFFFFFF then none else some (v, row + k))
        let pairs := rows.flatMap fun (v, r) => (List.range d.cols).map fun e => ((v, e), some (r, e))
        if !coversBlocks d (pairs.map Prod.fst) then fxLate { s with job := s.job.dropViews } ⟨stILLEGAL, 0xFF, 0⟩
        else s.runMove q c bd (pairs.map Prod.fst) fun j => j.moveEls bd bs pairs (drawOf j.seed q.trick rc)
    | none => fxOk s .zero
  | .fill bd dr dc rows cols v =>
    let s := s.viewAll [bd]
    let cells := rect dr dc rows cols
    s.runMove q c bd cells fun j => do
      match j.buf? bd with
      | none => return j
      | some d =>
        if d.fmt.isFloat then j.storeEls bd (cells.map fun p => (p.1, p.2, ofBits v)) fun _ => none
        else return j.modBuf bd fun y => cells.foldl (fun y p => y.setRawEl (p.1 * d.cols + p.2) v.toNat) y
  | _ => fxOk s .zero

/-- Destination bytes and charge of a copy (Table 12-7): source and destination bytes, scale bytes, index bytes. -/
def State.copyCharge (s : State) (q : QE) : Nat × Nat :=
  let s := match q.op with
    | .gather _ _ bi _ _ _ _ => s.viewAll [bi]
    | .scatter _ _ bi _ _ _ _ => s.viewAll [bi]
    | _ => s
  let size (n r c h w : Nat) : Nat := match s.job.buf? n with
    | none => 0
    | some b => h * w * b.fmt.bytes + b.blocksIn r c h w
  let cols (n : Nat) : Nat := match s.job.buf? n with
    | none => 0
    | some b => b.cols
  -- rows moved by an index list, the scale bytes of the blocks they touch counted once each
  let rows (n : Nat) (l : List Nat) : Nat := match s.job.buf? n with
    | none => 0
    | some b => l.length * b.cols * b.fmt.bytes + (match b.scale with
      | .block _ _ _ _ => ((l.flatMap fun r => (List.range b.cols).map fun e => b.blockOf r e).eraseDups).length
      | _ => 0)
  match q.op with
  | .copy bd bs dr dc sr sc h w _ => (size bd dr dc h w, size bd dr dc h w + size bs sr sc h w)
  | .gather bd bs bi ix n row _ =>
    let l := (s.job.indices bi ix n).filter fun v => v != 0xFFFFFFFF
    (size bd row 0 n (cols bd), size bd row 0 n (cols bd) + rows bs l + 4 * n)
  | .scatter bd bs bi ix n row _ =>
    let l := lastWins (((List.range n).zip (s.job.indices bi ix n)).filterMap fun (k, v) => if v = 0xFFFFFFFF then none else some (v, row + k))
    let d := rows bd (l.map Prod.fst)
    (d, d + rows bs (l.map Prod.snd) + 4 * n)
  | .fill bd dr dc h w _ => (size bd dr dc h w, size bd dr dc h w)
  | _ => (0, 0)

end Sys2Proof.Machine
end

