-- ==== Sys2Proof/Machine/VectorFx.lean ====
section
/-! DEFINITION. Vector instructions: checks, elementwise functions, look-ups, masks, reductions, summaries (R140 to R158,
R310 to R317, R559). -/

namespace Sys2Proof.Machine

/-! ### Elementwise functions -/

/-- An FP32 result of an arithmetic operation, counted once under FP32 (Table 03-11): as an overflow when the operation
overflowed and the result is infinite, as vanished when it flushed and the result is zero (log entry 74). -/
def countedBy {α : Type} (val : α → Fp) (x : FM α) : FM α := fun a =>
  let r := x ⟨0, a.num⟩
  let van := r.2.fl &&& flUF != 0 && (val r.1).isZero
  let ovf := r.2.fl &&& flOF != 0 && ((val r.1) == .inf false || (val r.1) == .inf true)
  (r.1, ⟨a.fl ||| r.2.fl, r.2.num.bump .fp32 ⟨1, ovf.toNat, van.toNat⟩⟩)
def counted (x : FM Fp) : FM Fp := countedBy id x
/-- Run a computation keeping neither flags nor counts (R559). -/
def quiet {α : Type} (x : FM α) : FM α := fun a => ((x .zero).1, a)

/-- FP32 functions of Table 11-7. -/
def vewFp (f : Nat) (a b : Fp) : FM Fp :=
  match f with
  | 0x00 => return a
  | 0x01 => fadd a b
  | 0x02 => fsub a b
  | 0x03 => fmul a b
  | 0x04 => return fmin a b
  | 0x05 => return fmax a b
  | 0x06 => return a.abs
  | 0x07 => return a.neg
  | 0x08 => return match a, b with
    | .nan, _ => .nan
    | _, .nan => .nan
    | .inf _, _ => .inf b.sign
    | .fin _ m e, _ => .fin b.sign m e
  | 0x09 => fdiv a b
  | 0x0A => fsqrt a
  | 0x0B => do fdiv fpOne (← fsqrt a)
  | 0x0C => fexp a
  | _ => fln a
/-- MOV performs no arithmetic (R111). -/
def vewCounted (f : Nat) (a b : Fp) : FM Fp := if f = 0 then vewFp f a b else counted (vewFp f a b)
/-- Integer functions of Table 11-7. -/
def vewI (f : Nat) (a b : Word) : Word :=
  match f with
  | 0x20 => a + b
  | 0x21 => a - b
  | 0x22 => a &&& b
  | 0x23 => a ||| b
  | 0x24 => a ^^^ b
  | 0x25 => a <<< (b.toNat % 32)
  | 0x26 => a >>> (b.toNat % 32)
  | 0x27 => if b < a then b else a
  | _ => if a < b then b else a
/-- Lane rate of Table 05-1. -/
def vewRate (f : Nat) : Nat := if f = 9 ∨ f = 0xA ∨ f = 0xB then 4 else if f = 0xC ∨ f = 0xD then 2 else 1
/-- Compares of R315. -/
def vcmpFp (f : Nat) (a b : Fp) : Bool :=
  match f with
  | 0 => fpEq a b
  | 1 => !fpEq a b
  | 2 => fpLt a b
  | 3 => fpLe a b
  | 4 => fpLt b a
  | 5 => fpLe b a
  | 6 => a.isNan
  | _ => !a.isNan && !a.isFinite
def vcmpI (f : Nat) (a b : Word) : Bool :=
  match f with
  | 0x10 => a == b
  | 0x11 => a != b
  | 0x12 => a < b
  | _ => !(b < a)

/-! ### Look-up tables, R150 and R151 -/

/-- The table's fields in range, X0 finite, reserved bytes zero (R150). -/
def lutOk (t : List Byte) : Bool :=
  let n := (byteAt t 0).toNat
  let o := (byteAt t 1).toNat
  let h := (byteAt t 4).toInt
  decide (4 ≤ n ∧ n ≤ 10) && decide (o = 1 ∨ o = 2) && decide ((byteAt t 2).toNat ≤ 3 ∧ (byteAt t 3).toNat ≤ 3) &&
    decide (-24 ≤ h ∧ h ≤ 24) && allZero ((t.drop 5).take 3) && allZero ((t.drop 20).take 12) &&
    (unpack .fp32 (fieldAt t 8 4)).isFinite && decide (32 + 16 * 2 ^ n ≤ t.length) &&
    (List.range (2 ^ n)).all fun s => allZero ((t.drop (32 + 16 * s + 12)).take 4)
def lutF (t : List Byte) (o : Nat) : Fp := unpack .fp32 (fieldAt t o 4)
/-- floor of a non-negative finite value. -/
def Fp.floorNat : Fp → Nat
  | .fin _ m e => if e ≥ 0 then m <<< e.toNat else m >>> (-e).toNat
  | _ => 0
/-- LUT(x). -/
def lutEval (t : List Byte) (x : Fp) : FM Fp := do
  if x.isNan then return .nan
  let n := 2 ^ (byteAt t 0).toNat
  let u ← fsub x (lutF t 8)
  let v ← rnd (u.scale (-(byteAt t 4).toInt))
  let seg (s : Nat) (z : Fp) : FM Fp := do
    let c (k : Nat) : Fp := lutF t (32 + 16 * s + 4 * k)
    if byteAt t 1 = 1 then fadd (c 0) (← fmul (c 1) z)
    else fadd (c 0) (← fmul z (← fadd (c 1) (← fmul (c 2) z)))
  if fpLt v fpZero then
    match (byteAt t 2).toNat with
    | 0 => return lutF t 12
    | 1 => seg 0 fpZero
    | 2 => return x
    | _ => seg 0 v
  else if !v.isFinite || decide (v.floorNat ≥ n) then
    match (byteAt t 3).toNat with
    | 0 => return lutF t 16
    | 1 => seg (n - 1) fpOne
    | 2 => return x
    | _ => do seg (n - 1) (← fsub v (Fp.ofInt ((n : Int) - 1)))
  else
    let s := v.floorNat
    seg s (if s = 0 then v else (addX v (Fp.ofInt s).neg).1)
/-- 1 for a linear table, 2 for a quadratic one (Table 05-1). -/
def lutRate (t : List Byte) : Nat := if byteAt t 1 = 2 then 2 else 1

/-! ### Masks and operands -/

/-- Bit j of row i of a bit buffer (R313). -/
def Buffer.bit (b : Buffer) (i j : Nat) : Bool := (memRead 0 b.mem (i * b.cols + j / 8)).getLsbD (j % 8)
/-- Whether element (i, j) is live (R147). -/
def Job.alive (j : Job) (m : Mask) (r c : Nat) : Bool :=
  if m.kind = 0 then true
  else match m.buf.bind j.buf? with
    | none => true
    | some b =>
      if m.kind = 2 then decide (c < b.rawEl r)
      else b.bit (if b.rows = 1 then 0 else r) c == m.pol
/-- The mask has a shape that fits a destination of rows by cols (R313). -/
def maskFits (b : Buffer) (kind rows cols : Nat) : Bool :=
  if kind = 2 then b.fmt == .u32 && b.cols == 1 && b.rows == rows
  else b.fmt == .byte && (b.rows == rows || b.rows == 1) && b.cols == ceilDiv cols 8

/-- A source operand against a destination of rows by cols (R145); none of format checks. -/
def srcFits (b : Buffer) (sh rows cols : Nat) : Bool :=
  match sh with
  | 0 => b.rows == rows && b.cols == cols
  | 1 => b.rows == 1 && b.cols == cols
  | 2 => b.rows == rows && b.cols == 1
  | _ => true

/-- The values of an operand over live cells, each element loaded once: indexed by flat destination index for FULL, by
column for ROWB, by row for COLB. -/
def Job.operand (j : Job) (v : VSrc) (cells : List (Nat × Nat)) : FM (List (Nat × Fp)) := do
  match v.sh with
  | 3 => return [(0, ofBits v.sx)]
  | sh => match v.buf.bind j.buf? with
    | none => return []
    | some b =>
      let keys : List Nat := match sh with
        | 0 => cells.map fun p => p.1 * b.cols + p.2
        | 1 => (cells.map Prod.snd).eraseDups
        | _ => (cells.map Prod.fst).eraseDups
      keys.mapM fun k => do
        let x ← if sh = 0 then j.loadAt b (k / b.cols) (k % b.cols) else if sh = 1 then j.loadAt b 0 k else j.loadAt b k 0
        return (k, x)
/-- The operand's value for a cell of a destination of cols columns. -/
def VSrc.at (v : VSrc) (vals : List (Nat × Fp)) (cols r c : Nat) : Fp :=
  let k := match v.sh with
    | 0 => r * cols + c
    | 1 => c
    | 2 => r
    | _ => 0
  (alGet vals k).getD fpZero
/-- An integer operand's word. -/
def Job.operandI (j : Job) (v : VSrc) (r c : Nat) : Word :=
  if v.sh = 3 then v.sx
  else match v.buf.bind j.buf? with
    | none => 0
    | some b =>
      BitVec.ofNat 32 (b.rawEl (if v.sh = 0 then r * b.cols + c else if v.sh = 1 then c else r * b.cols))

/-! ### Stores of part of a block, R559 -/

/-- Cells of a block scale's block. -/
def Buffer.cellsOf (b : Buffer) (k : Nat) : List (Nat × Nat) :=
  match b.scale with
  | .block n d _ _ =>
    match d with
    | .row =>
      let per := ceilDiv b.cols n
      rect (k / per) (k % per * n) 1 (min n (b.cols - k % per * n))
    | .col => rect (k / b.cols * n) (k % b.cols) (min n (b.rows - k / b.cols * n)) 1
    | .square =>
      let per := ceilDiv b.cols n
      rect (k / per * n) (k % per * n) (min n (b.rows - k / per * n)) (min n (b.cols - k % per * n))
  | _ => []
/-- Store live elements and the zeros of zero mode. Under AUTO a block keeps the elements it is not given, stored again
when its E changes. -/
def Job.storeVec (j : Job) (n : Nat) (els : List (Nat × Nat × Fp)) (zeros : List (Nat × Nat)) (draw : Nat → Option Nat) :
    FM Job := do
  let zero (j : Job) : Job := j.modBuf n fun b => zeros.foldl (fun b p => b.setRawEl (p.1 * b.cols + p.2) 0) b
  match j.buf? n with
  | none => return j
  | some b =>
    if !b.auto then return zero (← j.storeEls n els draw)
    else
      let put := els.map (fun e => (e.1, e.2.1)) ++ zeros
      let ks := (put.map fun p => b.blockOf p.1 p.2).eraseDups
      let left := (ks.flatMap b.cellsOf).filter fun p => !put.contains p
      let keep ← quiet (left.mapM fun p => do return (p.1, p.2, ← j.loadAt b p.1 p.2))
      let zs := zeros.map fun p => (p.1, p.2, fpZero)
      let es : List (Nat × Nat) := (blockMax b (els ++ keep ++ zs)).map fun p => (p.1, autoE b.fmt p.2)
      let old (k : Nat) : Nat := match b.scaleBuf with
        | none => 127
        | some sb => j.scaleByte sb k
      let new (k : Nat) : Nat := (alGet es k).getD 127
      let sc (r c : Nat) : SScale := .blk (new (b.blockOf r c))
      let j := match b.scaleBuf with
        | none => j
        | some sb => j.modBuf sb fun y => { y with mem := es.foldl (fun (m : Memory) (e : Nat × Nat) => memWrite 0 m e.1 (BitVec.ofNat 8 e.2)) y.mem }
      let b ← els.foldlM (fun (b : Buffer) (e : Nat × Nat × Fp) => do
        let i := e.1 * b.cols + e.2.1
        return b.setRawEl i (← storeEl b.fmt (sc e.1 e.2.1) (draw i) e.2.2)) b
      let again := keep.filter fun (e : Nat × Nat × Fp) => old (b.blockOf e.1 e.2.1) != new (b.blockOf e.1 e.2.1)
      let b ← quiet (again.foldlM (fun (b : Buffer) (e : Nat × Nat × Fp) => do
        return b.setRawEl (e.1 * b.cols + e.2.1) (← storeEl b.fmt (sc e.1 e.2.1) none e.2.2)) b)
      return zero (j.modBuf n fun _ => b)

/-! ### Summary words, Table 05-6 -/

def sumWord (value : Nat) (fl : Fl) (anynf alltrue : Bool) (cnt : Nat) : Dword :=
  BitVec.ofNat 64 (value % 2 ^ 32 + 2 ^ 32 * fl.toNat + 2 ^ 37 * anynf.toNat + 2 ^ 38 * alltrue.toNat +
    2 ^ 39 * min cnt (2 ^ 25 - 1))
def noIdx : Nat := 0xFFFFFFFF

/-! ### Reductions, R152 to R156 -/

/-- The result of one reduction: its values (hi and lo for a pair), or an index; the value R157 judges. -/
structure RedR where
  (vals : List Fp) (idx : Option Nat) (look : Fp) (live : Nat)
  deriving DecidableEq, Repr

/-- PSUMSQ's leaf: (RNE32(x × x), +0). The spec says that a pair reduction uses both halves of a pair (R161) and not how the
square of one whose lo is not zero is formed: a free value (log entry 85). -/
def pairSq (p : Pair) : FM Pair := do
  if p.2.isZero then return (← fmul p.1 p.1, fpZero)
  else
    let w := Config.pairSquare (toBits p.1) (toBits p.2)
    return (ofBits (w.extractLsb' 0 32), ofBits (w.extractLsb' 32 32))
/-- Reduce a vector of optional live values by OPR (R317's numbering). The pair operations take both halves of each (R161). -/
def reducePairs (opr : Nat) (ps : List (Option Pair)) : FM RedR := do
  let xs := ps.map fun p => p.map Prod.fst
  let n := (xs.filter Option.isSome).length
  if n = 0 then flag flEMPTY
  let single (f : Fp → FM Fp) (ident : Fp) (comb : Fp → Fp → FM Fp) : FM Fp := do
    let ls ← xs.mapM fun x => match x with
      | none => return ident
      | some v => f v
    reduce128 comb ident ls
  let pair (f : Pair → FM Pair) : FM Pair := do
    let ls ← ps.mapM fun x => match x with
      | none => return pairZero
      | some v => f v
    reduce128 pairAdd pairZero ls
  let one (v : Fp) : RedR := ⟨[v], none, v, n⟩
  let two (p : Pair) : RedR := ⟨[p.1, p.2], none, p.1, n⟩
  let keyed (mx : Bool) : FM (Fp × Nat) :=
    let ident : Fp × Nat := (.inf mx, noIdx)
    reduce128 (fun a b => return (if mx then takeMax a b else takeMin a b)) ident
      ((List.range xs.length).zip xs |>.map fun (k, x) => match x with
        | none => ident
        | some v => (v, k))
  let sq (v : Fp) : FM Fp := fmul v v
  match opr with
  | 0 => return one (← single pure fpZero fadd)
  | 1 => return two (← pair fun p => return p)
  | 2 => return one (← single sq fpZero fadd)
  | 3 => return two (← pair pairSq)
  | 4 => return one (← single pure fpOne fmul)
  | 5 => return one (← keyed true).1
  | 6 => return one (← keyed false).1
  | 7 =>
    let s ← single pure fpZero fadd
    if n = 0 then
      flag flNV
      return one .nan
    return one (← fdiv s (Fp.ofInt n))
  | 10 =>
    let s ← pair fun p => return p
    if n = 0 then
      flag flNV
      return one .nan
    return one (← fadd (← fdiv s.1 (Fp.ofInt n)) (← fdiv s.2 (Fp.ofInt n)))
  | o =>
    let k ← keyed (o == 8)
    return ⟨[], some k.2, k.1, n⟩
/-- A reduction of single values. -/
def reduceVec (opr : Nat) (xs : List (Option Fp)) : FM RedR := reducePairs opr (xs.map fun x => x.map fun v => (v, fpZero))
def redArg (opr : Nat) : Bool := opr == 8 || opr == 9
def redPair (opr : Nat) : Bool := opr == 1 || opr == 3

/-! ### Checks at issue, Table 11-8 -/

/-- The window of R312: first row and count, none when it does not lie in rows rows. -/
def window (w : Dword) (rows : Nat) : Option (Nat × Nat) :=
  let r := lo32 w
  let n := if hi32 w = 0 then rows - r else hi32 w
  if r ≥ rows ∨ r + n > rows then none else some (r, n)
/-- The control word's reserved bits, MK and stream (R311, R96). -/
def vcBad (w : Dword) : Bool :=
  bits w 15 11 != 0 || bits w 7 6 == 3 || (w.getLsbD 10 && decide (bits w 31 16 ≥ 0xF000))
def vcRc (w : Dword) : Rc := ⟨w.getLsbD 10, BitVec.ofNat 16 (bits w 31 16), BitVec.ofNat 32 (bits w 63 32)⟩
def vcMask (w : Dword) (b : Option Buffer) : Mask := ⟨bits w 7 6, b.map Buffer.id, w.getLsbD 8, w.getLsbD 9⟩
/-- The mask's handle, if the control word names one. -/
def vcMaskUse (j : Job) (x : Ctx) (w : Dword) : Option Buffer × Option Late :=
  if bits w 7 6 % 3 = 0 then (none, none) else useHnd j x (bits w 5 0) Cls.vec false
/-- A source operand's handle, unless it is the scalar. -/
def vsrcUse (j : Job) (x : Ctx) (h : HReg) (sh : Nat) : Option Buffer × Option Late :=
  if sh = 3 then (none, none) else useHnd j x h.toNat Cls.vec false
def optReach (b : Option Buffer) : List Nat := match b with
  | none => []
  | some y => y.reach
/-- A present buffer satisfies a test. -/
def optOk (b : Option Buffer) (f : Buffer → Bool) : Bool := match b with
  | none => true
  | some y => f y

/-- VEW and VLUT and VSEL share this: destination bd, sources, mask, window, format class. -/
def State.issueEw (s : State) (x : Ctx) (kind : VKind) (bdh : HReg) (a b : HReg × Nat × Bool) (bc : Option HReg) (sxv vc sw : Dword)
    (int : Bool) (extra : List (Option Late)) : Issue :=
  let j := s.job
  let d := useHnd j x bdh.toNat Cls.vec true
  let ua := vsrcUse j x a.1 a.2.1
  let ub := if b.2.2 then vsrcUse j x b.1 b.2.1 else (none, none)
  let uc : Option Buffer × Option Late := match bc with
    | none => (none, none)
    | some h => useHnd j x h.toNat Cls.vec false
  let um := vcMaskUse j x vc
  let base := [d.2, ua.2, ub.2, uc.2, um.2, illegal (vcBad vc)] ++ extra
  match d.1 with
  | none => .fail (pickLate base)
  | some bd =>
    let fmtOk (y : Buffer) : Bool := if int then y.fmt == .u32 else y.fmt.isFloat
    let win := window sw bd.rows
    let bad := pickLate (base ++ [illegal (!fmtOk bd || !optOk ua.1 fmtOk || !optOk ub.1 fmtOk),
      illegal (!optOk ua.1 fun y => srcFits y a.2.1 bd.rows bd.cols), illegal (!optOk ub.1 fun y => srcFits y b.2.1 bd.rows bd.cols),
      illegal (!optOk uc.1 fun y => y.fmt == .byte && y.rows == bd.rows && y.cols == ceilDiv bd.cols 8),
      illegal (!optOk um.1 fun y => maskFits y (bits vc 7 6) bd.rows bd.cols), illegal win.isNone])
    let (r0, n) := win.getD (0, 0)
    let sx : Word := sxv.setWidth 32
    let op : VecOp := ⟨kind, some bd.id, ⟨a.2.1, ua.1.map Buffer.id, sx⟩,
      ⟨if b.2.2 then b.2.1 else 3, ub.1.map Buffer.id, if b.2.2 then sx else 0⟩, uc.1.map Buffer.id, vcMask vc um.1, vcRc vc, r0, n,
      bd.rows, bd.cols⟩
    ⟨bad, some (.vec op), optReach ua.1 ++ optReach ub.1 ++ optReach uc.1 ++ optReach um.1 ++ bd.storeReads, bd.stores,
      some bd.id⟩

def State.issueVew (s : State) (x : Ctx) (f : VewF) : Issue :=
  let n := f.func.toNat
  s.issueEw x (.ew n) f.bd (f.ba, f.sha.toNat, true) (f.bb, f.shb.toNat, !vewUnary n) none (x.arch.reg f.sX) (x.arch.reg f.sVC)
    (x.arch.reg f.sW) (vewInt n) []
def State.issueVsel (s : State) (x : Ctx) (f : VselF) : Issue :=
  s.issueEw x .sel f.bd (f.ba, f.sha.toNat, true) (f.bb, f.shb.toNat, true) (some f.bc) (x.arch.reg f.sX) (x.arch.reg f.sVC)
    (x.arch.reg f.sW) false []
def State.issueVlut (s : State) (x : Ctx) (f : VlutF) : Issue :=
  let t := useHnd s.job x f.bt.toNat Cls.vec false
  let tab : List Byte := match t.1 with
    | none => []
    | some b => b.readBytes 0 b.bytes
  s.issueEw x (.lut tab) f.bd (f.ba, f.sha.toNat, true) (0, 3, false) none 0 (x.arch.reg f.sVC) (x.arch.reg f.sW) false
    [t.2, illegal (f.sha == 3), illegal (match t.1 with
      | none => false
      | some b => b.fmt != .byte || !lutOk tab)]

/-- VCMP: the compared shape is fixed by the operands (R315). -/
def State.issueVcmp (s : State) (x : Ctx) (f : VewF) : Issue :=
  let j := s.job
  let n := f.func.toNat
  let vc := x.arch.reg f.sVC
  let two := !(n == 6 || n == 7)
  let d := useHnd j x f.bd.toNat Cls.vec true
  let ua := vsrcUse j x f.ba f.sha.toNat
  let ub := if two then vsrcUse j x f.bb f.shb.toNat else (none, none)
  let um := vcMaskUse j x vc
  let base := [d.2, ua.2, ub.2, um.2, illegal (vcBad vc || vc.getLsbD 10)]
  match d.1 with
  | none => .fail (pickLate base)
  | some bd =>
    let int := n ≥ 0x10
    let fmtOk (y : Buffer) : Bool := if int then y.fmt == .u32 else y.fmt.isFloat
    let wide (b : Option Buffer) (sh : Nat) : Option Nat := match b with
      | none => none
      | some y => if sh ≤ 1 then some y.cols else none
    let cols := (wide ua.1 f.sha.toNat).orElse fun _ => wide ub.1 f.shb.toNat
    let c := cols.getD 0
    let win := window (x.arch.reg f.sW) bd.rows
    let bad := pickLate (base ++ [illegal (!optOk ua.1 fmtOk || !optOk ub.1 fmtOk), illegal (cols.isNone && ua.2.isNone && ub.2.isNone),
      illegal (!optOk ua.1 fun y => srcFits y f.sha.toNat bd.rows c), illegal (!optOk ub.1 fun y => srcFits y f.shb.toNat bd.rows c),
      illegal (bd.fmt != .byte || (cols.isSome && bd.cols != ceilDiv c 8)),
      illegal (!optOk um.1 fun y => maskFits y (bits vc 7 6) bd.rows c), illegal win.isNone])
    let (r0, k) := win.getD (0, 0)
    let sx : Word := (x.arch.reg f.sX).setWidth 32
    let op : VecOp := ⟨.cmp n, some bd.id, ⟨f.sha.toNat, ua.1.map Buffer.id, sx⟩,
      ⟨if two then f.shb.toNat else 3, ub.1.map Buffer.id, if two then sx else 0⟩, none, vcMask vc um.1, vcRc vc, r0, k, bd.rows, c⟩
    ⟨bad, some (.vec op), optReach ua.1 ++ optReach ub.1 ++ optReach um.1, [bd.id], some bd.id⟩

def State.issueVred (s : State) (x : Ctx) (f : VredF) : Issue :=
  let j := s.job
  let vc := x.arch.reg f.sVC
  let o := f.opr.toNat
  let dir := f.dir.toNat
  let d : Option Buffer × Option Late := if f.nod then (none, none) else useHnd j x f.bd.toNat Cls.vec true
  let ua := useHnd j x f.ba.toNat Cls.vec false
  let um := vcMaskUse j x vc
  let base := [d.2, ua.2, um.2, illegal (vcBad vc)]
  match ua.1 with
  | none => .fail (pickLate base)
  | some b =>
    let win := window (x.arch.reg f.sW) b.rows
    let (r0, k) := win.getD (0, 0)
    let per := if dir = 0 then b.cols else if dir = 1 then k else k * b.cols
    let wide := if redPair o then 2 else 1
    let shape : Nat × Nat := if dir = 0 then (b.rows, wide) else if dir = 1 then (1, b.cols * wide) else (1, wide)
    let bad := pickLate (base ++ [illegal (!b.fmt.isFloat), illegal win.isNone, illegal (decide (per > 2 ^ 24)),
      illegal (!optOk d.1 fun y => y.rows == shape.1 && y.cols == shape.2 && y.fmt == (if redArg o then Fmt.u32 else .fp32)),
      illegal (!optOk um.1 fun y => maskFits y (bits vc 7 6) b.rows b.cols)])
    let op : VecOp := ⟨.red o dir f.nod, d.1.map Buffer.id, ⟨0, some b.id, 0⟩, ⟨3, none, 0⟩, none, vcMask vc um.1, vcRc vc, r0, k,
      b.rows, b.cols⟩
    ⟨bad, some (.vec op), b.reach ++ optReach um.1 ++ (match d.1 with
      | none => []
      | some y => y.storeReads), (match d.1 with
      | none => []
      | some y => y.stores), d.1.map Buffer.id⟩

/-! ### Effects -/

/-- Live cells of the window, in row-major order. -/
def Job.liveCells (j : Job) (v : VecOp) : List (Nat × Nat) := (rect v.row0 0 v.nrow v.cols).filter fun p => j.alive v.mask p.1 p.2
def Job.deadCells (j : Job) (v : VecOp) : List (Nat × Nat) := (rect v.row0 0 v.nrow v.cols).filter fun p => !j.alive v.mask p.1 p.2

/-- The result of an elementwise FP32 kind for one cell. -/
def VKind.cell (k : VKind) (selBit : Bool) (a b : Fp) : FM Fp :=
  match k with
  | .ew f => vewCounted f a b
  | .lut t => counted (lutEval t a)
  | .sel => return if selBit then a else b
  | _ => return a

/-- An elementwise FP32 operation: its results by cell, then the store. DESIGN CHOICE (log entry 100): whether a result is finite is
judged on the FP32 result, before the store converts it. -/
def Job.runEw (j : Job) (v : VecOp) (trick : Nat) : FM (Job × Option (Nat × Nat)) := do
  let live := j.liveCells v
  let zeros := if v.mask.mz then j.deadCells v else []
  let as ← j.operand v.a live
  let bs ← if v.b.buf.isSome || v.kind == .sel then j.operand v.b live else pure [(0, ofBits v.b.sx)]
  let bcb := v.bc.bind j.buf?
  let els ← live.mapM fun p => do
    let sb := match bcb with
      | none => false
      | some c => c.bit p.1 p.2
    return (p.1, p.2, ← v.kind.cell sb (v.a.at as v.cols p.1 p.2) (v.b.at bs v.cols p.1 p.2))
  let nf := (els.find? fun e => !e.2.2.isFinite).map fun e => (e.1, e.2.1)
  let j ← j.storeVec (v.bd.getD 0) els zeros (drawOf j.seed trick v.rc)
  return (j, nf)

/-- An integer operation: words stored as they stand. -/
def Job.runInt (j : Job) (v : VecOp) (f : Nat) : Job :=
  let els := (j.liveCells v).map fun p => (p, (vewI f (j.operandI v.a p.1 p.2) (j.operandI v.b p.1 p.2)).toNat)
  let zs := if v.mask.mz then (j.deadCells v).map fun p => (p, 0) else []
  j.modBuf (v.bd.getD 0) fun b => (els ++ zs).foldl (fun b e => b.setRawEl (e.1.1 * b.cols + e.1.2) e.2) b

/-- A compare: the true cells, and the destination's bits. -/
def Job.runCmp (j : Job) (v : VecOp) (f : Nat) : FM (Job × List (Nat × Nat) × Nat) := do
  let live := j.liveCells v
  let trues ← if f ≥ 0x10 then pure (live.filter fun p => vcmpI f (j.operandI v.a p.1 p.2) (j.operandI v.b p.1 p.2))
    else do
      let as ← j.operand v.a live
      let bs ← j.operand v.b live
      pure (live.filter fun p => vcmpFp f (v.a.at as v.cols p.1 p.2) (v.b.at bs v.cols p.1 p.2))
  let setB (b : Buffer) (p : Nat × Nat) (on : Bool) : Buffer :=
    let i := p.1 * b.cols + p.2 / 8
    { b with mem := memWrite 0 b.mem i (setBit (memRead 0 b.mem i) (p.2 % 8) on) }
  let clear (b : Buffer) : Buffer :=
    let tail := (rect v.row0 v.cols v.nrow (8 * ceilDiv v.cols 8 - v.cols))
    let off := live ++ (if v.mask.mz then j.deadCells v else []) ++ tail
    off.foldl (fun b p => setB b p false) b
  return (j.modBuf (v.bd.getD 0) fun b => trues.foldl (fun b p => setB b p true) (clear b), trues, live.length)

/-- A reduction: results in logical order of their vectors. -/
def Job.runRed (j : Job) (v : VecOp) (opr dir : Nat) (trick : Nat) : FM (Job × List RedR) := do
  match v.a.buf.bind j.buf? with
  | none => return (j, [])
  | some b =>
    let vecs : List (Nat × List (Nat × Nat)) := match dir with
      | 0 => (List.range v.nrow).map fun i => (v.row0 + i, rect (v.row0 + i) 0 1 v.cols)
      | 1 => (List.range v.cols).map fun c => (c, rect v.row0 c v.nrow 1)
      | _ => [(0, rect v.row0 0 v.nrow v.cols)]
    let rs ← vecs.mapM fun (k, cells) => do
      let xs ← cells.mapM fun p => do
        if j.alive v.mask p.1 p.2 then return some (← j.loadAt b p.1 p.2) else return none
      let r ← if redArg opr then reduceVec opr xs else countedBy (fun r => r.vals.headD fpZero) (reduceVec opr xs)
      return (k, r)
    let w := if redPair opr then 2 else 1
    let j ← match v.bd with
      | none => pure j
      | some n =>
        if redArg opr then
          pure (j.modBuf n fun y => rs.foldl (fun y r => y.setRawEl r.1 (r.2.idx.getD noIdx)) y)
        else
          j.storeVec n (rs.flatMap fun (k, r) => (List.range r.vals.length).map fun e =>
            let i := k * w + e
            if dir = 0 then (k, e, r.vals.getD e fpZero) else (0, i, r.vals.getD e fpZero)) [] (drawOf j.seed trick v.rc)
    return (j, rs.map Prod.snd)

def State.fxVec (s : State) (q : QE) : FxR :=
  match q.op with
  | .vec v =>
    let j := s.job
    let live := (j.liveCells v).length
    match v.kind with
    | .cmp f =>
      let ((j, ts, n), a) := j.runCmp v f .zero
      let first := match ts with
        | [] => noIdx
        | p :: _ => p.1 * v.cols + p.2
      ⟨{ s with job := j }, a, none, sumWord first a.fl false (ts.length == n) ts.length, []⟩
    | .red o dir _ =>
      let ((j, rs), a) := j.runRed v o dir q.trick .zero
      let n := (rs.map RedR.live).sum
      let (val, nf) := match rs with
        | [] => (0, false)
        | r :: _ => (match r.idx with
          | some i => i
          | none => (toBits r.look).toNat, !r.look.isFinite)
      ⟨{ s with job := j }, a, none, sumWord val a.fl nf false n, []⟩
    | .ew f =>
      if vewInt f then ⟨{ s with job := j.runInt v f }, .zero, none, sumWord noIdx 0 false false live, []⟩
      else
        let ((j, nf), a) := j.runEw v q.trick .zero
        ⟨{ s with job := j }, a, none, sumWord (match nf with
          | none => noIdx
          | some p => p.1 * v.cols + p.2) a.fl nf.isSome false live, []⟩
    | _ =>
      let ((j, nf), a) := j.runEw v q.trick .zero
      ⟨{ s with job := j }, a, none, sumWord (match nf with
        | none => noIdx
        | some p => p.1 * v.cols + p.2) a.fl nf.isSome false live, []⟩
  | _ => fxOk s .zero

/-- Lane cycles per element (Table 12-7). -/
def VKind.rate : VKind → Nat
  | .ew f => vewRate f
  | .lut t => lutRate t
  | _ => 1
/-- Work units of a vector operation: blocks of up to 128 by 128 elements of the window. -/
def vecUnits (v : VecOp) : List (Nat × Nat) :=
  let r1 := v.row0 + v.nrow
  (List.range (ceilDiv r1 128)).flatMap fun br =>
    let h := min r1 (128 * br + 128) - max v.row0 (128 * br)
    if 128 * br + 128 ≤ v.row0 then []
    else (List.range (ceilDiv v.cols 128)).map fun bc => (bc % 4, h * min 128 (v.cols - 128 * bc) * v.kind.rate)

end Sys2Proof.Machine
end

