-- ==== Sys2Proof/Machine/Checksum.lean ====
section
/-! DEFINITION. The checksum rows and columns of a matrix tile (R134 to R138). Sums run in ascending index, each step rounded to
24 bits; no exponent of the internal format is ever left (log entry 70). -/

namespace Sys2Proof.Machine

/-! ### The internal format: 24-bit significand, to nearest even -/

def ckRnd : Fp → Fp
  | .fin s m e =>
    let d := m.log2 - 23
    let q := m >>> d
    let rem := m % 2 ^ d
    let up := decide (2 * rem > 2 ^ d) || (decide (2 * rem = 2 ^ d) && decide (rem ≠ 0) && decide (q % 2 = 1))
    .fin s (if up then q + 1 else q) (e + d)
  | x => x
def ckAdd (a b : Fp) : Fp := ckRnd (addX a b).1
def ckMul (a b : Fp) : Fp := ckRnd (mulX a b).1
def ckSum (l : List Fp) : Fp := l.foldl ckAdd fpZero

/-! ### Running state -/

/-- The value of an accumulated element: hi + lo in pair mode. -/
def ckVal (p : Fp × Fp) : Fp := ckAdd p.1 p.2
/-- Elements of a column or row of a row-major tile of width w. -/
def tileCol {α : Type} (l : List α) (w j : Nat) : List α := (List.range (l.length / max 1 w)).flatMap fun i => (l[i * w + j]?).toList
def tileRow {α : Type} (l : List α) (w i : Nat) : List α := (l.drop (i * w)).take w

/-- A line over its starting values. -/
def ChkLine.start (l : List Fp) : ChkLine := ⟨ckSum l, ckSum (l.map Fp.abs), l.any fun v => !v.isFinite⟩
/-- The checksum state of an output tile that begins at the values st. -/
def Chk.start (h w : Nat) (st : List (Fp × Fp)) : Chk :=
  let v := st.map ckVal
  ⟨0, (List.range w).map fun j => .start (tileCol v w j), (List.range h).map fun i => .start (tileRow v w i)⟩
/-- Products enter a line: the sums over the other operand for each k, and the line's own operand elements. -/
def ChkLine.add (x : ChkLine) (sums mags own : List Fp) (bad : Bool) : ChkLine :=
  ⟨(sums.zip own).foldl (fun a p => ckAdd a (ckMul p.1 p.2)) x.ref,
    (mags.zip own).foldl (fun a p => ckAdd a (ckMul p.1 p.2.abs)) x.mag, x.skip || bad || own.any fun v => !v.isFinite⟩
/-- An operand element after block scaling (R84): the scale is exact. -/
def ckEl (p : Fp × Nat) : Fp := p.1.scale ((p.2 : Int) - 127)
/-- The products of an instruction enter the checksum state: as holds the rows of op(A), bcols the columns of op(B). -/
def Chk.add (x : Chk) (as bcols : List (List (Fp × Nat))) (kc : Nat) : Chk :=
  let a := as.map fun r => r.map ckEl
  let b := bcols.map fun r => r.map ckEl
  let at_ (l : List (List Fp)) (k : Nat) : List Fp := l.map fun r => r.getD k fpZero
  let ks := List.range kc
  let sA := ks.map fun k => ckSum (at_ a k)
  let mA := ks.map fun k => ckSum ((at_ a k).map Fp.abs)
  let sB := ks.map fun k => ckSum (at_ b k)
  let mB := ks.map fun k => ckSum ((at_ b k).map Fp.abs)
  let badA := a.any fun r => r.any fun v => !v.isFinite
  let badB := b.any fun r => r.any fun v => !v.isFinite
  ⟨x.k + kc, (x.cols.zip b).map fun p => p.1.add sA mA p.2 badA, (x.rows.zip a).map fun p => p.1.add sB mB p.2 badB⟩

/-! ### The comparison -/

/-- TOL of a line of magnitude mag: (K + 132) × 2^−22 × MAG + (K + 1) × 2^−118. DESIGN CHOICE (log entry 100): TOL, and the
difference it is compared with, are formed exactly, not in the checksum cells' format. -/
def ckTol (k : Nat) (mag : Fp) : Fp := (addX (mulX (.fin false (k + 132) (-22)) mag).1 (.fin false (k + 1) (-118))).1
/-- A line is checked: nothing infinite or NaN has entered it, and MAG is at most 2^127 (R135). -/
def ChkLine.checked (x : ChkLine) : Bool := !x.skip && fpLe x.mag (.fin false 1 127)
/-- A checked line fails when its sum is not finite or differs from the reference by more than TOL. -/
def ChkLine.fails (x : ChkLine) (k : Nat) (sum : Fp) : Bool :=
  x.checked && (!sum.isFinite || fpLt (ckTol k x.mag) (addX sum x.ref.neg).1.abs)
/-- The lowest failing column and row of a tile of width w whose accumulated elements are acc. -/
def Chk.failing (x : Chk) (w : Nat) (acc : List (Fp × Fp)) : Option Nat × Option Nat :=
  let v := acc.map ckVal
  let low (l : List ChkLine) (sum : Nat → Fp) : Option Nat := (l.zipIdx.find? fun p => p.1.fails x.k (sum p.2)).map Prod.snd
  (low x.cols fun j => ckSum (tileCol v w j), low x.rows fun i => ckSum (tileRow v w i))

/-! ### What goes wrong in a tile -/

/-- The elements as accumulated, row-major of width w; what lies outside the logical edge is not there (R120). -/
def errValues (e : TileErr) (h w : Nat) (acc : List (Word × Word)) : List (Word × Word) :=
  e.els.foldl (fun l x => if x.1.val < h ∧ x.2.1.val < w then l.set (x.1.val * w + x.2.1.val) (x.2.2.1, x.2.2.2) else l) acc
/-- The checksum cells as they stand: true names a row. -/
def errRefs (e : TileErr) (x : Chk) : Chk :=
  let put (l : List ChkLine) (i : Nat) (w : Word) : List ChkLine := l.modify i fun y => { y with ref := ofBits w }
  e.cells.foldl (fun x c => if c.1 then { x with rows := put x.rows c.2.1.val c.2.2 } else { x with cols := put x.cols c.2.1.val c.2.2 }) x

/-- The check of a drained output tile (R134, R136): none when it passes or is unchecked. -/
def FinTile.check (f : FinTile) : Option CheckFail :=
  match f.chk.failing f.w (f.acc.map fun p => (ofBits p.1, ofBits p.2)) with
  | (none, none) => none
  | (c, r) => some ⟨f.die, f.tile, r.getD 0, c.getD 0, r.isSome, c.isSome⟩

end Sys2Proof.Machine
end

