-- ==== Sys2Proof/Machine/MatrixFx.lean ====
section
/-! DEFINITION. Matrix products: checks, products, held sums, drains and epilogues (R118 to R136, R303 to R309, R560). -/

namespace Sys2Proof.Machine

/-! ### Buckets, R201 and R561 -/

/-- The bucket a buffer is for an instruction a context issues now: by the latest update pass that precedes it. -/
def Job.bucketOf (j : Job) (c : CtxId) (b : Nat) : Option Bkt := match j.buckets.find? fun p => p.before c with
  | none => none
  | some p => p.bkts.find? fun k => k.buf == b
/-- Signed value of a byte. -/
def sbyte (b : Byte) : Int := b.toInt
/-- The bucket's exponent, fixed at the last decision: E of its entry in the half then current, or E_INIT. -/
def Job.bktE (j : Job) (k : Bkt) : Int := match alGet j.fixed k.bu with
  | none => k.einit
  | some u => match recCurrent u k.hr with
    | none => k.einit
    | some h => sbyte (memRead 0 u (h * k.hr + 32 + 4 * k.idx))
/-- 2^e. -/
def pow2 (e : Int) : Fp := .fin false 1 e
/-- The buffers that are buckets for an instruction. Every load takes scale 2^-e in place of the declared one; drains and the
stores of collectives take factor 2^e (R201, R329, R561), other stores the declared factor (log entry 34). -/
def Job.asBuckets (j : Job) (ks : List Bkt) (drain : Bool) : Job :=
  { j with bufs := j.bufs.map fun b => match ks.find? fun k => k.buf == b.id with
    | none => b
    | some k => { b with scale := .tensor (toBits (pow2 (-(j.bktE k)))) (if drain then toBits (pow2 (j.bktE k)) else
        match b.scale with
        | .tensor _ t => t
        | _ => toBits fpOne) } }
/-- The declared scales again, as j0 holds them. -/
def Job.offBuckets (j0 : Job) (ks : List Bkt) (j : Job) : Job :=
  { j with bufs := j.bufs.map fun b => match ks.find? fun k => k.buf == b.id, j0.buf? b.id with
    | some _, some o => { b with scale := o.scale }
    | _, _ => b }
/-- A drain, whose buffers may be buckets for it. -/
def Job.onBuckets (j : Job) (ks : List Bkt) (f : Job → Job × Acc) : Job × Acc :=
  if ks.isEmpty then f j
  else
    let r := f (j.asBuckets ks true)
    (j.offBuckets ks r.1, r.2)

/-! ### Epilogue descriptors, Table 11-4 -/

/-- Buffers an epilogue reads and writes, with the checks that fail. -/
structure EpiUse where
  (epi : Option Epi) (bad : List (Option Late)) (reads writes : List Nat)
  deriving DecidableEq, Repr

/-- One entry of the chain, at offset o of the descriptor, for a product of rows by cols. -/
def epiEntry (j : Job) (x : Ctx) (d : List Byte) (o rows cols : Nat) : EpiOp × List (Option Late) × List Nat :=
  let f := (byteAt d o).toNat
  let sh := (byteAt d (o + 1)).toNat
  let h := (byteAt d (o + 2)).toNat
  let sw := (byteAt d (o + 3)).toNat
  let isLut := f == 0x30
  let form := illegal (!(isLut || decide (f ≤ 0xD)) || decide (sh > 4) || decide (sw > 1) || decide (h > 63) ||
    !allZero ((d.drop (o + 8)).take 8) || (if isLut || vewUnary f then sh != 0 else sh == 0))
  let need := decide (1 ≤ sh ∧ sh ≤ 3) || isLut
  let u := if need && decide (h ≤ 63) then useHnd j x h Cls.vec false else (none, none)
  let fit := illegal (!optOk u.1 fun b => if isLut then b.fmt == .byte && lutOk (b.readBytes 0 b.bytes)
    else b.fmt.isFloat && srcFits b (sh - 1) rows cols)
  let tab : List Byte := match u.1 with
    | none => []
    | some b => if isLut then b.readBytes 0 b.bytes else []
  (⟨f, sh, if isLut then none else u.1.map Buffer.id, sw == 1, BitVec.ofNat 32 (fieldAt d (o + 4) 4), tab⟩, [form, u.2, fit],
    if isLut then [] else optReach u.1)

/-- Read and check a descriptor for a product of rows by cols. With NOPS out of its range, or a buffer shorter than its entries, the
handles that it holds are still checked (R12, R302). A buffer longer than 16 + 16 × NOPS is accepted, and a MASK, OPND or PART byte above
63, which names no handle, is ILLEGAL here: DESIGN CHOICE, log entry 103. -/
def epiUse (j : Job) (x : Ctx) (b : Buffer) (rows cols : Nat) : EpiUse :=
  let d := b.readBytes 0 b.bytes
  let nops := (byteAt d 0).toNat
  let n := min (min 8 nops) ((b.bytes - 16) / 16)
  let short := nops == 0 || decide (nops > 8) || decide (b.bytes < 16 + 16 * nops)
  if b.fmt ≠ .byte ∨ b.bytes < 16 then ⟨none, [illegal true], [], []⟩
  else
    let mh := (byteAt d 1).toNat
    let mc := byteAt d 2
    let mk := mc.toNat % 4
    let red := (byteAt d 3).toNat
    let rd := (byteAt d 4).toNat
    let ph := (byteAt d 5).toNat
    let form := illegal (short || decide (mc.toNat ≥ 16) || mk == 3 || (mk == 0 && mh != 0) || decide (red > 6) || decide (rd > 1) ||
      (red == 0 && ph != 0) || decide (mh > 63 ∨ ph > 63) || !allZero ((d.drop 6).take 10))
    let um := if mk % 3 = 0 ∨ mh > 63 then (none, none) else useHnd j x mh Cls.vec false
    let up := if red = 0 ∨ ph > 63 then (none, none) else useHnd j x ph Cls.vec true
    let w := if red = 2 ∨ red = 4 then 2 else 1
    let fits := [illegal (!optOk um.1 fun y => maskFits y mk rows cols),
      illegal (!optOk up.1 fun y => y.fmt == .fp32 && (if rd = 0 then y.rows == rows && y.cols == w * ceilDiv cols 128
        else y.rows == w * ceilDiv rows 128 && y.cols == cols))]
    let es := (List.range n).map fun i => epiEntry j x d (16 + 16 * i) rows cols
    ⟨some ⟨es.map Prod.fst, ⟨mk, um.1.map Buffer.id, mc.getLsbD 2, mc.getLsbD 3⟩, red, rd, up.1.map Buffer.id⟩,
      [form, um.2, up.2] ++ fits ++ es.flatMap fun e => e.2.1,
      optReach um.1 ++ es.flatMap fun e => e.2.2, match up.1 with
        | none => []
        | some y => y.reach⟩

/-! ### Checks at issue, Table 11-5 -/

/-- Output tiles an instruction names. -/
def MmaOp.tilesOf (m : MmaOp) : List (Nat × Nat) := rect m.row0 m.col0 m.nrow m.ncol
/-- The work of an entry has been done. -/
def QE.ran (q : QE) : Bool := q.begun && q.units.isEmpty
/-- What a context holds of an output tile once what it has issued has run: none, or the mode of the held sum. -/
def Job.holds (j : Job) (x : Ctx) (c : CtxId) (b r k : Nat) : Option Bool :=
  let now := (j.tiles.find? fun o => o.live && o.ctx == c && o.buf == b && o.r == r && o.c == k).map OutTile.pair
  x.qm.foldl (fun h q => if q.ran then h else match q.op with
    | .mma m => if m.bd = b ∧ m.tilesOf.contains (r, k) then (if m.drain then none else some m.pair) else h
    | _ => h) now
/-- Another context holds, or has issued work on, the output tile (R122). -/
def Job.heldElse (j : Job) (c : CtxId) (b r k : Nat) : Bool :=
  j.tiles.any (fun o => o.live && o.ctx != c && o.buf == b && o.r == r && o.c == k) ||
    j.ctxList.any fun p => p.1 != c && p.2.qm.any fun q => match q.op with
      | .mma m => m.bd == b && m.tilesOf.contains (r, k) && (!q.ran || !q.settled)
      | _ => false

/-- R129 and R132: the fault, if the buffer is recorded with other sites. -/
def siteChk (a2 : Bool) (sites : List (Nat × List Nat)) (b site : Nat) : Option Late :=
  match (alGet sites b).getD [] with
  | [] => none
  | l =>
    if l.contains site ∨ (a2 ∧ l.length < 8) then none
    else some ⟨stTIED, 0xFF, BitVec.ofNat 64 (l.headD 0 + 65536 * site)⟩
/-- Record a site. -/
def addSite (sites : List (Nat × List Nat)) (b site : Nat) : List (Nat × List Nat) :=
  let l := (alGet sites b).getD []
  if l.contains site then sites else alSet sites b (l ++ [site])

/-- Logical columns of the product. -/
def prodCols (b : Buffer) (pairst : Bool) : Nat := if pairst then b.cols / 2 else b.cols
def opRows (b : Buffer) (t : Bool) : Nat := if t then b.cols else b.rows
def opCols (b : Buffer) (t : Bool) : Nat := if t then b.rows else b.cols

def State.issueMma (s : State) (c : CtxId) (x : Ctx) (f : MmaF) : Issue :=
  let j := s.job
  let a := x.arch
  let sG := a.reg f.sG
  let sK := a.reg f.sK
  let sC := a.reg f.sC
  let nrow := bits sG 31 16
  let ncol := bits sG 63 48
  let bgn := bits sC 1 0
  let drain := sC.getLsbD 2
  let pair := sC.getLsbD 5
  let pairst := sC.getLsbD 6
  let wrole := bits sC 9 8
  let site := bits sC 21 10
  let lbh := bits sC 27 22
  let eh := bits sC 33 28
  let epi := sC.getLsbD 34
  let ta := sC.getLsbD 3
  let tb := sC.getLsbD 4
  let k0 := lo32 sK
  let kn := hi32 sK
  let d := useHnd j x f.bd.toNat Cls.matOut true
  let ua := useHnd j x f.ba.toNat Cls.matOp false
  let ub := useHnd j x f.bb.toNat Cls.matOp false
  let ul := if bgn = 2 then useHnd j x lbh Cls.matOp false else (none, none)
  let ue := if epi then useHnd j x eh Cls.work false else (none, none)
  let base := [d.2, ua.2, ub.2, ul.2, ue.2, rcChk (a.reg f.sRC),
    illegal (bgn == 3 || sC.getLsbD 7 || wrole == 3 || (wrole != 1 && site != 0) || (bgn != 2 && lbh != 0) || (!epi && eh != 0) ||
      bits sC 63 35 != 0 || nrow == 0 || ncol == 0 || kn == 0 || decide (k0 + kn > 2 ^ 32) || (epi && !drain) ||
      (pairst && (!pair || !drain)))]
  let sites (bb : Buffer) : Option Late := match x.tag.bind s.trick? with
    | none => none
    | some r => if wrole = 1 then siteChk j.a2 r.sites bb.id site else none
  match d.1, ua.1, ub.1 with
  | some bd, some ba, some bb =>
    let pc := prodCols bd pairst
    let m : MmaOp := ⟨bd.id, ba.id, bb.id, bits sG 15 0, nrow, bits sG 47 32, ncol, k0, kn, bgn, drain, ta, tb, pair, pairst, wrole,
      site, ul.1.map Buffer.id, none, rcGet (a.reg f.sRC)⟩
    let shapes := illegal (!ba.fmt.isMul || !bb.fmt.isMul || !(bd.fmt.isMul || bd.fmt == .fp32) ||
      (pairst && (bd.fmt != .fp32 || bd.cols % 2 != 0)) || opRows ba ta != bd.rows || opCols bb tb != pc || opCols ba ta != opRows bb tb ||
      decide (m.row0 + nrow > ceilDiv bd.rows 128 ∨ m.col0 + ncol > ceilDiv pc 128))
    let lbOk (y : Buffer) : Bool := y.fmt.isFloat && y.rows == bd.rows &&
      (y.cols == pc || (pair && y.fmt == .fp32 && y.cols == 2 * pc))
    let eu : EpiUse := match ue.1 with
      | none => ⟨none, [], [], []⟩
      | some y => epiUse j x y bd.rows pc
    let hold (t : Nat × Nat) : Option Late :=
      if j.heldElse c bd.id t.1 t.2 then some ⟨stBUFFER, BitVec.ofNat 8 f.bd.toNat, 0⟩
      else match j.holds x c bd.id t.1 t.2 with
        | none => illegal (bgn == 1)
        | some p => illegal (bgn != 1 || p != pair)
    -- output tiles of the range that the buffer has
    let tiles := (rect 0 0 (ceilDiv bd.rows 128) (ceilDiv pc 128)).filter fun t =>
      decide (m.row0 ≤ t.1 ∧ t.1 < m.row0 + nrow ∧ m.col0 ≤ t.2 ∧ t.2 < m.col0 + ncol)
    let bad := pickLate (base ++ eu.bad ++ [shapes, illegal (!optOk ul.1 lbOk), sites bb] ++ tiles.map hold)
    ⟨bad, some (.mma { m with epi := eu.epi }),
      ba.reach ++ bb.reach ++ optReach ul.1 ++ eu.reads ++ bd.storeReads, bd.stores ++ eu.writes, some bd.id⟩
  | _, _, bb => .fail (pickLate (base ++ [bb.bind sites]))

/-! ### Products, R118 -/

/-- A matrix operand element as the tile takes it: its value and block exponent (R73, R79, R84). -/
def Job.matEl (j : Job) (b : Buffer) (t : Bool) (r c : Nat) : FM (Fp × Nat) := do
  let (r, c) := if t then (c, r) else (r, c)
  let w := b.rawEl (r * b.cols + c)
  match b.scale with
  | .block n d _ sb =>
    let e := j.scaleByte sb (scaleIdx b.cols n d r c)
    let v ← loadEl b.fmt (if e = 255 then .blk 255 else .none) w
    return (v, if e = 255 then 127 else e)
  | _ => return (← loadEl b.fmt .none w, 127)
/-- Rows r to r + h - 1, each with its elements c to c + w - 1. -/
def Job.matLoad (j : Job) (b : Buffer) (t : Bool) (r h c w : Nat) : FM (List (List (Fp × Nat))) :=
  (List.range h).mapM fun i => (List.range w).mapM fun k => j.matEl b t (r + i) (c + k)

/-- One product into a sum. -/
def addProd (pair : Bool) (acc p : Fp × Fp) : FM (Fp × Fp) := do
  if pair then pairAdd acc p else return (← fadd acc.1 p.1, fpZero)
/-- A sum over rows of A and columns of B (a column given as a list). -/
def dot (pair : Bool) (acc : Fp × Fp) (as bs : List (Fp × Nat)) : FM (Fp × Fp) :=
  (as.zip bs).foldlM (fun acc (x : (Fp × Nat) × (Fp × Nat)) => do
    addProd pair acc (← product x.1.1 x.2.1 x.1.2 x.2.2, fpZero)) acc

def wordPair (p : Fp × Fp) : Word × Word := (toBits p.1, toBits p.2)
def pairWord (w : Word × Word) : Fp × Fp := (ofBits w.1, ofBits w.2)

/-- Logical height and width of an output tile. -/
def MmaOp.dims (m : MmaOp) (bd : Buffer) (t : Nat × Nat) : Nat × Nat :=
  (min 128 (bd.rows - 128 * t.1), min 128 (prodCols bd m.pairst - 128 * t.2))

/-- The starting values of an output tile. -/
def Job.startTile (j : Job) (m : MmaOp) (bd : Buffer) (t : Nat × Nat) (h w : Nat) : FM (List (Fp × Fp)) := do
  match m.bgn with
  | 0 => return List.replicate (h * w) (fpNegZero, fpZero)
  | 2 =>
    match m.lb.bind j.buf? with
    | none => return []
    | some l =>
      let stored := m.pair && l.fmt == .fp32 && l.cols == 2 * prodCols bd m.pairst
      (rect (128 * t.1) (128 * t.2) h w).mapM fun p => do
        if stored then return (← j.loadAt l p.1 (2 * p.2), ← j.loadAt l p.1 (2 * p.2 + 1))
        else return (← j.loadAt l p.1 p.2, fpZero)
  | _ =>
    match j.tiles.find? fun o => o.live && o.buf == m.bd && o.r == t.1 && o.c == t.2 with
    | none => return []
    | some o => return o.acc.map pairWord

/-- Products added by one instruction to one output tile; rows of A from m.row0, columns of B from m.col0. -/
def tileSum (pair : Bool) (h w : Nat) (as bcols : List (List (Fp × Nat))) (start : List (Fp × Fp)) : FM (List (Fp × Fp)) :=
  (List.range (h * w)).mapM fun i =>
    dot pair (start.getD i (fpZero, fpZero)) (as.getD (i / w) []) (bcols.getD (i % w) [])

/-- The live output tile of a buffer at block coordinates. -/
def OutTile.is (o : OutTile) (b r c : Nat) : Bool := o.live && o.buf == b && o.r == r && o.c == c
def Job.heldTile (j : Job) (b r c : Nat) : Option OutTile := j.tiles.find? fun o => o.is b r c
def Job.modTile (j : Job) (b r c : Nat) (f : OutTile → OutTile) : Job :=
  { j with tiles := j.tiles.map fun o => if o.is b r c then f o else o }
/-- Put a sum into the slot of an output tile on a physical tile; a drained tile leaves it, and stays only for a void. -/
def Job.putTile (j : Job) (m : MmaOp) (c : CtxId) (trick : Nat) (t : Nat × Nat) (die tile slot : Nat) (acc : List (Word × Word))
    (chk : Chk) : Job :=
  match j.heldTile m.bd t.1 t.2 with
  | none => if m.drain then j else
      { j with tiles := j.tiles ++ [⟨m.bd, t.1, t.2, c, trick, m.pair, die, tile, slot, acc, chk, .slot, true, []⟩] }
  | some _ =>
    let j := j.modTile m.bd t.1 t.2 fun o => { o with acc := acc, chk := chk, live := !m.drain }
    { j with tiles := j.tiles.filter fun y => y.live || !y.saved.isEmpty }
/-- The copy R560 keeps of a held sum before the first product of a trick enters it; charged to its context (Table 06-4). -/
def Job.saveTile (j : Job) (b r c trick : Nat) : Job := match j.heldTile b r c with
  | none => j
  | some o => (j.modTile b r c fun o => { o with saved := ⟨trick, o.acc, o.chk⟩ :: o.saved }).modCtx o.ctx fun x => x.chargeMove (2 * o.bytes)
/-- A copy is due before products of the trick enter the sum. -/
def OutTile.copyDue (o : OutTile) (trick : Nat) : Bool := decide (o.trick < trick) && !(o.saved.any fun v => v.trick == trick)

/-- The products one instruction adds to one output tile: its sum and checksum state after them. The operand elements of the
whole instruction are counted with its first tile (R111). -/
def Job.mmaTile (j : Job) (m : MmaOp) (bd ba bb : Buffer) (t : Nat × Nat) (first : Bool) : FM (List (Fp × Fp) × Chk) := do
  let kc := min (m.k0 + m.kn) (opCols ba m.ta) - m.k0
  let (h, w) := m.dims bd t
  if first then
    let r0 := 128 * m.row0
    let c0 := 128 * m.col0
    let _ ← j.matLoad ba m.ta r0 (min bd.rows (128 * (m.row0 + m.nrow)) - r0) m.k0 kc
    let _ ← j.matLoad bb (!m.tb) c0 (min (prodCols bd m.pairst) (128 * (m.col0 + m.ncol)) - c0) m.k0 kc
  let as ← uncounted (j.matLoad ba m.ta (128 * t.1) h m.k0 kc)
  let bs ← uncounted (j.matLoad bb (!m.tb) (128 * t.2) w m.k0 kc)
  let st ← j.startTile m bd t h w
  let acc ← tileSum m.pair h w as bs st
  let chk := match m.bgn, j.heldTile m.bd t.1 t.2 with
    | 1, some o => o.chk
    | _, _ => .start h w st
  return (acc, chk.add as bs kc)

/-- One work unit of an MMA on its physical tile and slot: the output tile receives the instruction's products; under DRAIN it
becomes a tile to drain, which keeps the slot (R159). -/
def State.fxMma (s : State) (c : CtxId) (q : QE) (m : MmaOp) (t : Nat × Nat) (die tile slot : Nat) : FxR :=
  match s.job.buf? m.bd, s.job.buf? m.ba, s.job.buf? m.bb with
  | some bd, some ba, some bb =>
    let (r, a) := s.job.mmaTile m bd ba bb t (!q.begun) .zero
    let acc := r.1.map wordPair
    let (h, w) := m.dims bd t
    let fins := if m.drain then
        [(⟨q.uid, c, q.trick, m.bd, t.1, t.2, h, w, m.pair, acc, r.2, die, tile, slot, 0, false, none⟩ : FinTile)]
      else []
    ⟨{ s with job := s.job.putTile m c q.trick t die tile slot acc r.2 }, a, none, 0, fins⟩
  | _, _, _ => fxOk s .zero

/-- Die of an output tile at block column c: that of panel or block column c of the B operand when it is STREAM or RESIDENT,
else of the output buffer's (R184); every origin is 0 (log entry 8). -/
def mmaDie (c : Nat) : Nat := c % 4
/-- K-steps of 128 an instruction adds to each of its output tiles (R185). -/
def MmaOp.ksteps (m : MmaOp) (ba : Buffer) : Nat := ceilDiv (min (m.k0 + m.kn) (opCols ba m.ta) - m.k0) 128
/-- Bytes of activation blocks sent over the ring: each block of op(A), of the row blocks given of that many rows and of the columns
from k0 to kEnd, once to every other die that takes it for the block columns given, read there and written here (Table 06-4; log
entry 80). -/
def ringBytes (ba : Buffer) (ta : Bool) (rows : Nat) (rbs : List Nat) (k0 kEnd : Nat) (cols : List Nat) : Nat :=
  let dies := (cols.map mmaDie).eraseDups
  (rbs.map fun r =>
    let h := min 128 (rows - 128 * r)
    ((List.range (ceilDiv kEnd 128 - k0 / 128)).map fun n =>
      let kb := k0 / 128 + n
      let w := min kEnd (128 * (kb + 1)) - max k0 (128 * kb)
      2 * h * w * ba.fmt.bytes * (dies.filter fun d => d != (if ta then r else kb) % 4).length).sum).sum
def MmaOp.actBytes (m : MmaOp) (bd ba : Buffer) : Nat :=
  ringBytes ba m.ta bd.rows ((List.range m.nrow).map (m.row0 + ·)) m.k0 (min (m.k0 + m.kn) (opCols ba m.ta))
    ((List.range m.ncol).map (m.col0 + ·))

/-- Tile cycles (Table 12-7): KN for each output tile. -/
def mmaUnits (m : MmaOp) : List (Nat × Nat) := m.tilesOf.map fun t => (mmaDie t.2, m.kn)

/-! ### Drains, R85 and R306 -/

def Job.tensorOf (j : Job) (b : Nat) : Fp := match (j.buf? b).map Buffer.scale with
  | some (.tensor t _) => unpackRaw .fp32 t.toNat
  | _ => fpOne
/-- The sums of a drained tile after R85. -/
def Job.scaledTile (j : Job) (m : MmaOp) (f : FinTile) : FM (List (Fp × Fp)) := do
  let t ← fmul (j.tensorOf m.ba) (j.tensorOf m.bb)
  f.acc.mapM fun w => do
    let p := pairWord w
    if f.pair then pairScale t p else return (← fmul p.1 t, fpZero)
/-- Coordinates of the tile's elements in the product, row-major. -/
def FinTile.cells (f : FinTile) : List (Nat × Nat) := rect (128 * f.r) (128 * f.c) f.h f.w
/-- The destination elements of a drained tile: hi alone, or both halves under PAIRST. -/
def drainEls (pairst : Bool) (cells : List (Nat × Nat)) (vals : List (Fp × Fp)) : List (Nat × Nat × Fp) :=
  (cells.zip vals).flatMap fun (p, v) =>
    if pairst then [(p.1, 2 * p.2, v.1), (p.1, 2 * p.2 + 1, v.2)] else [(p.1, p.2, v.1)]
/-- NFREC of an output tile as a buffer holds it (R92, R93); of a pair, its hi. -/
def Buffer.nfrecAt (b : Buffer) (pairst : Bool) (r c h w : Nat) : Word :=
  nfrecOf ((rect 0 0 h w).map fun p =>
    let k := 128 * c + p.2
    (p.1, p.2, unpack b.fmt (b.rawEl ((128 * r + p.1) * b.cols + if pairst then 2 * k else k))))
/-- Number of an output tile of a buffer. -/
def tileNo (r c : Nat) : Nat := r * 2 ^ 32 + c
/-- An output tile's record is made anew from its values as stored. -/
def Job.noteTile (j : Job) (n : Nat) (pairst : Bool) (r c h w : Nat) : Job :=
  j.modBuf n fun b => { b with nfrecs := alSet b.nfrecs (tileNo r c) (b.nfrecAt pairst r c h w) }
/-- Store a tile drained without an epilogue. -/
def Job.drainTile (j : Job) (m : MmaOp) (f : FinTile) : FM Job := do
  let vs ← j.scaledTile m f
  let j ← j.storeEls m.bd (drainEls m.pairst f.cells vs) (drawOf j.seed f.trick m.rc)
  return j.noteTile m.bd m.pairst f.r f.c f.h f.w
/-- Records of the tiles of a buffer that hold any of the cells. -/
def Job.noteTiles (j : Job) (n : Nat) (cells : List (Nat × Nat)) : Job := match j.buf? n with
  | none => j
  | some b =>
    if !b.fmt.isFloat then j
    else (cells.map fun p => (p.1 / 128, p.2 / 128)).eraseDups.foldl (fun j t =>
      j.noteTile n false t.1 t.2 (min 128 (b.rows - 128 * t.1)) (min 128 (b.cols - 128 * t.2))) j
/-- NFREC of the values as drained (Table 05-7). -/
def Job.tileNfrec (j : Job) (m : MmaOp) (f : FinTile) : Word :=
  let vs := ((j.scaledTile m f) .zero).1
  nfrecOf (((rect 0 0 f.h f.w).zip vs).map fun (p, v) => (p.1, p.2, v.1))

/-! ### Epilogues, R308 and R309 -/

/-- One operation of the chain on value v at a cell. -/
def EpiOp.apply (o : EpiOp) (vals : List (Nat × Fp)) (cols r c : Nat) (v : Fp) : FM Fp := do
  if o.func = 0x30 then counted (lutEval o.table v)
  else
    let x := if o.sh = 4 then ofBits o.imm else (VSrc.mk (o.sh - 1) o.opnd 0).at vals cols r c
    let (a, b) := if o.sh = 0 then (v, fpZero) else if o.swap then (x, v) else (v, x)
    vewCounted o.func a b
/-- OPR of a per-tile reduction code. -/
def epiOpr : Nat → Nat
  | 1 => 0 | 2 => 1 | 3 => 2 | 4 => 3 | 5 => 5 | _ => 6

/-- The epilogue of one output tile: the chain, the masked store, the per-tile reduction. Over a pair-mode tile the chain takes hi;
lo, as R85 scaled it, goes with the chain's result into the pair reductions and, under PAIRST, into the store (R161; log
entry 85). DESIGN CHOICE (log entry 100): a position the mask excludes under merging counts in NFREC by what the buffer holds there,
and an element of a row or column operand counts as loaded once for each output tile. -/
def Job.runEpi (j : Job) (m : MmaOp) (e : Epi) (f : FinTile) : FM Job := do
  match j.buf? m.bd with
  | none => return j
  | some bd =>
    let pc := prodCols bd m.pairst
    let vs ← j.scaledTile m f
    let all := f.cells.zip vs
    let live := all.filter fun p => j.alive e.mask p.1.1 p.1.2
    let dead := all.filter fun p => !j.alive e.mask p.1.1 p.1.2
    let cells := live.map Prod.fst
    let ops ← e.ops.mapM fun o => do
      if 1 ≤ o.sh ∧ o.sh ≤ 3 then return (o, ← j.operand ⟨o.sh - 1, o.opnd, 0⟩ cells) else return (o, [])
    let outs ← live.mapM fun p => do
      let v ← ops.foldlM (fun v o => o.1.apply o.2 pc p.1.1 p.1.2 v) p.2.1
      return (p.1, (v, p.2.2))
    let els := drainEls m.pairst (outs.map Prod.fst) (outs.map Prod.snd)
    let zeros := if e.mask.mz then (drainEls m.pairst (dead.map Prod.fst) (dead.map Prod.snd)).map fun x => (x.1, x.2.1) else []
    let j ← j.storeVec m.bd els zeros (drawOf j.seed f.trick m.rc)
    let j := j.noteTile m.bd m.pairst f.r f.c f.h f.w
    match e.part with
    | none => return j
    | some n =>
      let val (p : Nat × Nat) : Option Pair := (outs.find? fun o => o.1 == p).map fun o => o.2
      let vecs : List (List (Nat × Nat)) := if e.rdir = 0 then (List.range f.h).map fun i => rect (128 * f.r + i) (128 * f.c) 1 f.w
        else (List.range f.w).map fun k => rect (128 * f.r) (128 * f.c + k) f.h 1
      let rs ← vecs.mapM fun cs => countedBy (fun r => r.vals.headD fpZero) (reducePairs (epiOpr e.red) (cs.map val))
      let els := ((List.range rs.length).zip rs).flatMap fun (i, r) => (List.range r.vals.length).map fun k =>
        let v := r.vals.getD k fpZero
        if e.rdir = 0 then (128 * f.r + i, r.vals.length * f.c + k, v) else (r.vals.length * f.r + k, 128 * f.c + i, v)
      j.storeVec n els [] fun _ => none

/-- Lane cycles of an epilogue: each operation at its rate, and the reduction, over the tile's elements. -/
def Epi.charge (e : Epi) (n : Nat) : Nat :=
  n * ((e.ops.map fun o => if o.func = 0x30 then lutRate o.table else vewRate o.func).sum + (if e.red = 0 then 0 else 1))

end Sys2Proof.Machine
end

