-- ==== Sys2Proof/Machine/SoftFx.lean ====
section
/-! DEFINITION. Soft targets: the fold and its record, the loss, its finish, the logit gradient (R41 to R69, R318 to
R325, R556). -/

namespace Sys2Proof.Machine

/-! ### Checks at issue, Tables 02-2, 11-10, 11-12 -/

/-- Read a handle held in a buffer: a value above 63 names none. -/
def useBlk (j : Job) (x : Ctx) (h : Byte) (ok : Cls → Bool) (write : Bool) : Option Buffer × Option Late :=
  if h.toNat > 63 then (none, some ⟨stBUFFER, h, BitVec.allOnes 64⟩) else useHnd j x h.toNat ok write
/-- Use a handle only when the condition holds. -/
def useIf (c : Bool) (u : Option Buffer × Option Late) : Option Buffer × Option Late := if c then u else (none, none)
/-- A handle that must name a BYTE buffer (the parameter block and LACC, as Table 11-14 has it for the update tables). -/
def byteOnly (h : Nat) (u : Option Buffer × Option Late) : Option Buffer × Option Late :=
  if optOk u.1 fun b => b.fmt == .byte then u else (none, some ⟨stBUFFER, BitVec.ofNat 8 h, BitVec.allOnes 64⟩)
def isWeights : Cls → Bool
  | .resident | .stream => true
  | _ => false
/-- lo ≤ x ≤ hi; false for a NaN. -/
def fpIn (lo x hi : Fp) : Bool := fpLe lo x && fpLe x hi

/-- A tap of the block with the buffers it names, and the checks that fail. func is the instruction's. -/
structure TapUse where
  (prm : TapPrm) (bad : List (Option Late)) (reads writes : List Nat) (bytes : Nat)
  deriving DecidableEq, Repr
def tapUse (j : Job) (x : Ctx) (d : List Byte) (func n t : Nat) : TapUse :=
  let o := 32 + 16 * t
  let w := fieldAt d (o + 4) 2
  let g := unpack .fp32 (fieldAt d (o + 12) 4)
  let hs := useIf (func == 0) (useBlk j x (byteAt d (o + 6)) Cls.matOp false)
  let pr := useIf (func == 0) (useBlk j x (byteAt d (o + 2)) isWeights false)
  let sv := useIf (func == 1 || func == 3) (useBlk j x (byteAt d (o + 7)) Cls.vec false)
  let tg := useIf (func == 3) (useBlk j x (byteAt d (o + 8)) Cls.vec true)
  let id (b : Option Buffer) : Nat := (b.map Buffer.id).getD 0
  let form := illegal (decide ((byteAt d (o + 3)).toNat > 1) || decide (w < 16 ∨ w > 8192 ∨ w % 16 ≠ 0) ||
    !allZero ((d.drop (o + 9)).take 3) || !fpIn fpZero g (.fin false 65504 0))
  let fit := illegal (!optOk pr.1 (fun b => b.fmt.isMul && b.cols == w && optOk hs.1 fun h => h.fmt.isMul && h.cols == b.rows &&
    decide (n ≤ h.rows)) || !optOk sv.1 (fun b => b.fmt == .fp32 && b.cols == w && decide (n ≤ b.rows)) ||
    !optOk tg.1 fun b => b.fmt.isFloat && b.cols == w && decide (n ≤ b.rows))
  ⟨⟨fieldAt d o 2, id pr.1, byteAt d (o + 3) == 1, w, id hs.1, id sv.1, id tg.1, BitVec.ofNat 32 (fieldAt d (o + 12) 4)⟩,
    [form, pr.2, hs.2, sv.2, tg.2, fit], optReach hs.1 ++ optReach pr.1 ++ optReach sv.1 ++ (match tg.1 with
      | none => []
      | some b => b.storeReads), (match tg.1 with
      | none => []
      | some b => b.stores), 16 + 2 * w⟩

/-- The parameter block's own fields within their ranges (R41, R318). -/
def stsPrmOk (d : List Byte) : Bool :=
  let v := fieldAt d 0 4
  let k := fieldAt d 4 2
  decide (2 ≤ v ∧ v ≤ 16777214 ∧ 1 ≤ k ∧ k ≤ 256 ∧ (byteAt d 6).toNat ≤ 4 ∧ (byteAt d 7).toNat ≤ 2) &&
    fpIn (.fin false 1 (-4)) (unpack .fp32 (fieldAt d 8 4)) (.fin false 16 0) &&
    fpIn fpZero (unpack .fp32 (fieldAt d 12 4)) fpOne && allZero ((d.drop 20).take 12)

/-- Table 11-10 and Table 11-12 at issue. A parameter block or LACC shorter than its 96 or 256 bytes is ILLEGAL, a longer one is
accepted, and a handle byte above 63 names no handle and is BUFFER: DESIGN CHOICE, log entry 103. -/
def State.issueSts (s : State) (x : Ctx) (func : Nat) (f : StsF) : Issue :=
  let j := s.job
  let a := x.arch
  let notFin := func != 2
  let p0 := lo32 (a.reg f.sW)
  let n := hi32 (a.reg f.sW)
  let up := useIf notFin (useHnd j x f.bp.toNat (· == .pot) (func == 0))
  let us := byteOnly f.bs.toNat (useHnd j x f.bs.toNat (· == .resident) false)
  let ux := useIf notFin (useHnd j x f.bx.toNat (if f.src then Cls.vec else Cls.matOp) false)
  let uw := useIf (notFin && !f.src) (useHnd j x f.bw.toNat isWeights false)
  let ug := useIf (func == 3) (useHnd j x f.bg.toNat Cls.vec true)
  let base := [up.2, us.2, ux.2, uw.2, ug.2, illegal (func == 3 && (rcOf (a.reg f.sRC)).isNone),
    illegal (notFin && decide (n = 0 ∨ (func = 0 ∧ n > 2048))),
    illegal (func == 1 && !f.endmb && decide (n % 128 ≠ 0))]
  match us.1 with
  | none => .fail (pickLate base)
  | some bs =>
    -- the handles that a short block holds are checked (R12, R302)
    let d := bs.readBytes 0 (min bs.bytes 96)
    let has (k : Nat) : Bool := decide (k < d.length)
    let v := fieldAt d 0 4
    let k := fieldAt d 4 2
    let mk := (byteAt d 7).toNat
    let ntap := (byteAt d 6).toNat
    let um := useIf (notFin && mk != 0 && has 16) (useBlk j x (byteAt d 16) Cls.vec false)
    let uk := useIf (notFin && has 17) (useBlk j x (byteAt d 17) Cls.vec false)
    let ul := useIf ((func == 1 || func == 3) && has 18) (useBlk j x (byteAt d 18) Cls.vec false)
    let ua := useIf (func != 0 && has 19) (byteOnly (byteAt d 19).toNat (useBlk j x (byteAt d 19) (· == .resident) (func != 3)))
    let taps := if ntap > 4 then [] else ((List.range ntap).filter fun t => has (47 + 16 * t)).map (tapUse j x d func n)
    let col (b : Buffer) : Bool := b.fmt == .u32 && b.cols == 1
    let wide (b : Buffer) : Bool := b.cols == v && decide (n ≤ b.rows)
    let shapes := illegal (
      !optOk up.1 (fun b => b.potK == k && b.potTap == (taps.map TapUse.bytes).sum) ||
      !optOk ux.1 (fun b => if f.src then b.fmt == .fp32 && wide b
        else b.fmt.isMul && decide (n ≤ b.rows) && optOk uw.1 fun w => w.fmt.isMul && w.cols == v && w.rows == b.cols) ||
      !optOk ug.1 (fun b => b.fmt.isFloat && wide b) || !optOk um.1 (fun b => b.fmt == .byte && b.cols == ceilDiv v 8) ||
      !optOk uk.1 col || !optOk ul.1 col || !optOk ua.1 fun b => decide (256 ≤ b.bytes))
    let fin := (x.tag.bind s.trick?).map TrickRec.finIssued
    let order := illegal (fin == some (func == 2) && (func == 2 || func == 3))
    let bad := pickLate (base ++ [illegal (decide (bs.bytes < 96) || !stsPrmOk d), um.2, uk.2, ul.2, ua.2] ++ taps.flatMap TapUse.bad ++ [shapes, order])
    let id (b : Option Buffer) : Nat := (b.map Buffer.id).getD 0
    let prm : StsPrm := ⟨v, k, mk, byteAt d 16, BitVec.ofNat 32 (fieldAt d 8 4), BitVec.ofNat 32 (fieldAt d 12 4), id um.1, id uk.1, id ul.1,
      id ua.1, taps.map TapUse.prm⟩
    let op : StsOp := ⟨func, id up.1, bs.id, id ux.1, uw.1.map Buffer.id, ug.1.map Buffer.id, p0, n, rcGet (a.reg f.sRC), f.src,
      f.endmb, prm⟩
    let rd := optReach ux.1 ++ optReach uw.1 ++ optReach um.1 ++ optReach uk.1 ++ optReach ul.1 ++ taps.flatMap TapUse.reads
    let pot := optReach up.1
    let la := optReach ua.1
    let (rs, ws) : List Nat × List Nat := match func with
      | 0 => (rd, pot)
      | 1 => (rd ++ pot, la)
      | 2 => ([], la)
      | _ => (rd ++ pot ++ la ++ (match ug.1 with
        | none => []
        | some b => b.storeReads), (match ug.1 with
        | none => []
        | some b => b.stores) ++ taps.flatMap TapUse.writes)
    ⟨bad, some (.sts op), rs, ws, if func = 0 then up.1.map Buffer.id else ua.1.map Buffer.id⟩

/-! ### Checks found after issue -/

def Job.potRec? (j : Job) (b p : Nat) : Option PotRec := (j.buf? b).bind fun y => y.recs.find? fun r => r.pos == p
def StsOp.positions (t : StsOp) : List Nat := (List.range t.n).map (t.p0 + ·)
/-- POSKEY of a position, bits [30:0] of its KEYS value. -/
def Job.key (j : Job) (t : StsOp) (p : Nat) : Nat := match j.buf? t.prm.keys with
  | none => 0
  | some b => b.rawEl p % 2 ^ 31
/-- Mask row of a key. -/
def StsOp.maskRow (t : StsOp) (key : Nat) : Nat := if t.prm.mkind = 2 then key / 2 ^ 20 else 0
def risesIn : List Nat → Bool
  | a :: b :: r => decide (a < b) && risesIn (b :: r)
  | _ => true
/-- The fault of an instruction about to begin, its FOLDs of earlier issue aside; foldHas says a FOLD that has been issued
will write the position's record. -/
def State.stsLate (s : State) (q : QE) (foldHas : Nat → Bool) : Option Late :=
  match q.op with
  | .sts t =>
    let j := s.job
    if t.func = 2 then
      match j.buf? t.prm.lacc with
      | none => none
      | some b => illegal (decide (leNat (b.readBytes 200 4) ≠ 0xFFFFFFFF) || b.readBytes 204 1 != [0])
    else
      let p := (j.buf? t.bp).map Buffer.potP |>.getD 0
      let rows (n : Nat) : Nat := match j.buf? n with
        | none => 0
        | some b => b.rows
      let last := t.p0 + t.n
      if last > p ∨ last > rows t.prm.keys ∨ ((t.func = 1 ∨ t.func = 3) ∧ last > rows t.prm.labels) then illegal true
      else
        let keys := t.positions.map (j.key t)
        let noRow := match j.buf? t.prm.mask with
          | none => none
          | some m => if t.prm.mkind = 0 then none
            else (keys.find? fun k => decide (t.maskRow k ≥ m.rows)).map fun k =>
              (⟨stBUFFER, t.prm.maskH, BitVec.ofNat 64 (t.maskRow k * m.cols)⟩ : Late)
        let hb : Byte := BitVec.ofNat 8 (bits q.insn 50 45)
        let recs := if t.func = 0 then chk (t.positions.any fun p => (j.potRec? t.bp p).isSome) stBUFFER hb 0
          else chk (t.positions.any fun p => (j.potRec? t.bp p).isNone && !foldHas p) stBUFFER hb 0
        let next := if t.func ≠ 1 then none
          else match j.buf? t.prm.lacc with
            | none => none
            | some b =>
              let n := leNat (b.readBytes 200 4)
              illegal (decide (n ≠ 0xFFFFFFFF ∧ n ≠ t.p0))
        pickLate [illegal (!risesIn keys), noRow, recs, next]
  | _ => none
/-- Some record the instruction reads is not complete yet (R50). -/
def State.stsWaits (s : State) (t : StsOp) : Bool :=
  (t.func == 1 || t.func == 3) && t.positions.any fun p => match s.job.potRec? t.bp p with
    | none => true
    | some r => !r.done

/-! ### The fold, R43 to R47 -/

/-- The fold's running values: m, S, the ranked entries, live columns, NF. -/
structure FoldSt where
  (m : Fp) (s : Pair) (h : List (Fp × Nat)) (u : Nat) (nf : Bool)
  deriving DecidableEq, Repr
/-- RANK order (R45). -/
def rankLt (a b : Fp × Nat) : Bool := fpLt b.1 a.1 || (fpEq a.1 b.1 && decide (a.2 < b.2))
/-- One vocabulary tile; zs holds the tile's (id, logit) pairs that are below V. -/
def foldTile (tinv : Fp) (k : Nat) (live : Nat → Bool) (f : FoldSt) (cols : List (Nat × Fp)) : FM FoldSt := do
  let on := cols.filter fun p => live p.1 && p.2 != .inf true
  let nf := f.nf || on.any fun p => p.2.isNan || p.2 == .inf false
  let zs ← on.mapM fun p => do return (p.1, ← fmul p.2 tinv)
  let f := { f with nf := nf, u := f.u + on.length }
  match zs with
  | [] => return f
  | z0 :: rest =>
    if nf then return f
    let t := rest.foldl (fun a z => fmax a z.2) z0.2
    let (m, s) ← if fpLt f.m t then
        if f.m == .inf true then pure (t, f.s)
        else do
          let r ← fexp (← fsub f.m t)
          pure (t, ← fastTwoSum (← fmul f.s.1 r) (← fmul f.s.2 r))
      else pure (f.m, f.s)
    let base := match cols with
      | [] => 0
      | p :: _ => p.1
    let es ← zs.mapM fun z => do return (z.1 - base, ← fexp (← fsub z.2 m))
    let leaf (c : Nat) : Pair := ((alGet es c).getD fpZero, fpZero)
    let s ← pairAdd s (← tree128 pairAdd pairZero ((List.range 128).map leaf))
    return { f with m := m, s := s, h := (on.foldl (fun h p => (insertBy rankLt (p.2, p.1) h).take k) f.h) }
/-- The fold of a row of logits (ids in ascending order) at temperature t; live gives the mask. -/
def foldRow (t : Fp) (k : Nat) (live : Nat → Bool) (z : List Fp) : FM (Fp × FoldSt) := do
  let tinv ← fdiv fpOne t
  let f ← (chunks128 ((List.range z.length).zip z)).foldlM (foldTile tinv k live) ⟨.inf true, pairZero, [], 0, false⟩
  return (tinv, f)
/-- L of the finishing step. -/
def foldL (s : Pair) : FM Fp := do fadd (← fln s.1) (← fdiv s.2 s.1)
/-- RNE32(RNE32(S.hi − Q.hi) + RNE32(S.lo − Q.lo)) / S.hi, not below zero. -/
def tailOf (s q : Pair) : FM Fp := do
  return fmax fpZero (← fdiv (← fadd (← fsub s.1 q.1) (← fsub s.2 q.2)) s.1)

/-- A record taken apart (Table 02-4): entries as (LP encoding, id). -/
structure SoftRec where
  (logz tail : Fp) (flags : Nat) (ents : List (Nat × Nat))
  deriving DecidableEq, Repr
def flagEmptyRec : Nat := 1
def flagNonfin : Nat := 2
/-- Finish a record (R47, Table 02-3, R48). -/
def finishRec (tinv : Fp) (k : Nat) (f : FoldSt) : FM SoftRec := do
  if f.nf then
    flag flOF
    count .fp32 false true false
    return ⟨.nan, .nan, 2, []⟩
  if f.u = 0 then return ⟨.inf true, fpZero, 1, []⟩
  let l ← foldL f.s
  let logz ← fadd f.m l
  let n := min k f.u
  let ds ← (f.h.take n).mapM fun e => do fsub (← fmul e.1 tinv) f.m
  let stop ← ds.foldlM (fun (q : Pair) d => do pairAdd q (← fexp d, fpZero)) pairZero
  let lps ← ds.mapM fun d => do storeEl .fp16 .none none (← fsub d l)
  let tail ← if n = f.u then pure fpZero else tailOf f.s stop
  return ⟨logz, tail, if f.u < k then 4 else 0, lps.zip ((f.h.take n).map Prod.snd)⟩
/-- The record's bytes (R49); tapped sets FLAGS.TAPPED. -/
def SoftRec.bytes (r : SoftRec) (key k : Nat) (tapped : Bool) : List Byte :=
  let es := r.ents ++ List.replicate (k - r.ents.length) (0xFC00, 0xFFFFFF)
  zerosTo (leBytes (toBits r.logz).toNat 4 ++ leBytes (toBits r.tail).toNat 4 ++ leBytes key 4 ++ leBytes r.ents.length 2 ++
    leBytes (r.flags + 8 * tapped.toNat) 1 ++ [0] ++ es.flatMap (fun e => leBytes e.1 2) ++ es.flatMap fun e => leBytes e.2 3)
    (16 * ceilDiv (16 + 5 * k) 16)
def SoftRec.ofBytes (d : List Byte) (k : Nat) : SoftRec :=
  ⟨unpack .fp32 (fieldAt d 0 4), unpack .fp32 (fieldAt d 4 4), (byteAt d 14).toNat,
    (List.range (fieldAt d 12 2)).map fun i => (fieldAt d (16 + 2 * i) 2, fieldAt d (16 + 2 * k + 3 * i) 3)⟩

/-! ### Logits and taps -/

/-- The logits of the window's rows: loads once for the instruction, products as R118, tensor scales as R85; or the rows of
bx themselves. -/
def Job.logits (j : Job) (t : StsOp) : FM (List (List Fp)) := do
  match j.buf? t.bx with
  | none => return []
  | some bx =>
    match t.bw.bind j.buf? with
    | none => uncounted ((List.range t.n).mapM fun i => (List.range t.prm.v).mapM fun v => j.loadAt bx i v)
    | some bw =>
      let as ← j.matLoad bx false 0 t.n 0 bx.cols
      let bs ← j.matLoad bw true 0 t.prm.v 0 bx.cols
      let ts ← fmul (j.tensorOf bx.id) (j.tensorOf bw.id)
      as.mapM fun a => bs.mapM fun b => do fmul (← dot false (fpNegZero, fpZero) a b).1 ts
/-- Live under the mask alone. -/
def Job.unmasked (j : Job) (t : StsOp) (key v : Nat) : Bool := match j.buf? t.prm.mask with
  | none => true
  | some b => t.prm.mkind == 0 || !b.bit (t.maskRow key) v
/-- The tap records of a window, by position: R60, R61. -/
def Job.tapRows (j : Job) (t : StsOp) (p : TapPrm) (idx : Nat) : FM (List (List Byte)) := do
  match j.buf? p.hsrc, j.buf? p.proj with
  | some h, some w =>
    let as ← j.matLoad h false 0 t.n 0 h.cols
    let bs ← j.matLoad w true 0 p.dtap 0 h.cols
    let ts ← fmul (j.tensorOf h.id) (j.tensorOf w.id)
    let f : Fmt := if p.bf16 then .bf16 else .fp16
    ((List.range t.n).zip as).mapM fun (i, a) => do
      let vs ← bs.mapM fun b => do storeEl f .none none (← fmul (← dot false (fpNegZero, fpZero) a b).1 ts)
      return leBytes (j.key t (t.p0 + i)) 4 ++ leBytes idx 1 ++ leBytes p.bf16.toNat 1 ++ leBytes p.dtap 2 ++ leBytes 0 8 ++
        vs.flatMap fun w => leBytes w 2
  | _, _ => return []
/-- Values of a tap record. -/
def tapVals (d : List Byte) (n : Nat) : List Fp :=
  let f : Fmt := if byteAt d 5 = 1 then .bf16 else .fp16
  (List.range n).map fun i => unpack f (fieldAt d (16 + 2 * i) 2)

/-! ### FOLD, R320 -/

def Job.runFold (j : Job) (t : StsOp) : FM Job := do
  let ys ← j.logits t
  let taps ← ((List.range t.prm.taps.length).zip t.prm.taps).mapM fun (i, p) => j.tapRows t p i
  let recs ← ((List.range t.n).zip ys).mapM fun (i, y) => do
    let p := t.p0 + i
    let key := j.key t p
    let (tinv, f) ← foldRow (ofBits t.prm.t) t.prm.k (j.unmasked t key) y
    let r ← finishRec tinv t.prm.k f
    return (p, r.bytes key t.prm.k !taps.isEmpty, taps.map fun l => l.getD i [])
  return j.modBuf t.bp fun b => { b with recs := b.recs.map fun (r : PotRec) => match alGet recs r.pos with
    | none => r
    | some (d, tp) => { r with data := d, taps := tp, done := true } }

/-! ### The student's quantities, R62 to R65 -/

structure Student where
  (y : List Fp) (sinv ms ls m1 l1 : Fp) (ds : List Fp) (tausf : Fp) (sr : SoftRec) (label : Nat) (inKl inCe : Bool)
  deriving DecidableEq, Repr
/-- Live in a row of logits: unmasked, and not −∞, which is treated exactly as masked (R43). -/
def Job.liveIn (j : Job) (t : StsOp) (key : Nat) (y : List Fp) (v : Nat) : Bool := j.unmasked t key v && y.getD v fpZero != .inf true
/-- L of a fold, or a free value where the fold has no live or no finite logit (log entry 23). -/
def studentL (f : FoldSt) (free : Nat) : FM Fp :=
  if f.nf || f.u == 0 then return ofBits ((Config.freeValue free).setWidth 32) else foldL f.s
/-- The student's quantities at a position. A record may name an id that the block's V does not reach, when its FOLD ran with a
larger V: the spec gives no logit there, and +0 is read (log entry 86). -/
def Job.student (j : Job) (t : StsOp) (p : Nat) (y : List Fp) (free : Nat) : FM Student := do
  let live := j.liveIn t (j.key t p) y
  let sr := SoftRec.ofBytes (((j.potRec? t.bp p).map PotRec.data).getD []) t.prm.k
  let label := match j.buf? t.prm.labels with
    | none => 0xFFFFFF
    | some b => b.rawEl p
  let (sinv, f) ← foldRow (ofBits t.prm.t) 0 live y
  let ls ← studentL f free
  let (_, f1) ← foldRow fpOne 0 live y
  let l1 ← studentL f1 (free + 1)
  let inKl := !sr.ents.isEmpty || sr.flags / 2 % 2 == 1
  let ds ← sr.ents.mapM fun e => do fsub (← fmul (y.getD e.2 fpZero) sinv) f.m
  let tausf ← if sr.ents.isEmpty then pure fpMinNormal
    else do
      let qtop ← ds.foldlM (fun (q : Pair) d => do pairAdd q (← fexp d, fpZero)) pairZero
      pure (fmax (← tailOf f.s qtop) fpMinNormal)
  return ⟨y, sinv, f.m, ls, f1.m, l1, ds, tausf, sr, label, inKl, decide (label < t.prm.v) && live label⟩
/-- p_j of a record's entries, by id. -/
def SoftRec.probs (r : SoftRec) : FM (List (Nat × Fp)) := r.ents.mapM fun e => do return (e.2, ← fexp (unpack .fp16 e.1))
/-- R63, R64. -/
def Student.kl (q : Student) : FM Pair := do
  if q.sr.flags / 2 % 2 = 1 then return (.nan, .nan)
  let k ← (q.sr.ents.zip q.ds).foldlM (fun (k : Pair) (e : (Nat × Nat) × Fp) => do
    let lp := unpack .fp16 e.1.1
    let lq ← fsub e.2 q.ls
    pairAdd k (← fmul (← fexp lp) (← fsub lp lq), fpZero)) pairZero
  if fpLt fpZero q.sr.tail then pairAdd k (← fmul q.sr.tail (← fsub (← fln q.sr.tail) (← fln q.tausf)), fpZero) else return k
/-- CE of R64. -/
def Student.ce (q : Student) : FM Pair := do
  let lq1 ← fsub (← fsub (q.y.getD q.label fpZero) q.m1) q.l1
  return (lq1.neg, fpZero)
/-- Differences of student and tap values at a position (R65). -/
def Job.tapDiffs (j : Job) (t : StsOp) (p : TapPrm) (idx pos : Nat) : FM (List Fp) := do
  match j.buf? p.sval, (j.potRec? t.bp pos).bind fun r => r.taps[idx]? with
  | some b, some d =>
    ((List.range p.dtap).zip (tapVals d p.dtap)).mapM fun (k, v) => do fsub (← uncounted (j.loadAt b (pos - t.p0) k)) v
  | _, _ => return []

/-! ### LOSS, R321 and R322 -/

def getPair (b : Buffer) (o : Nat) : Pair := (ofBits (BitVec.ofNat 32 (leNat (b.readBytes o 4))), ofBits (BitVec.ofNat 32 (leNat (b.readBytes (o + 4) 4))))
def putPair (b : Buffer) (o : Nat) (p : Pair) : Buffer := b.writeBytes o (leBytes (toBits p.1).toNat 4 ++ leBytes (toBits p.2).toNat 4)
def getCnt (b : Buffer) (o : Nat) : Nat := leNat (b.readBytes o 8)

/-- A term of every position: none where it does not count. Index 0 KL, 1 CE, 2 to 5 taps. -/
def Job.lossTerms (j : Job) (t : StsOp) (ys : List (List Fp)) (free : Nat) : FM (List (List (Option Pair))) := do
  let qs ← ((List.range t.n).zip ys).mapM fun (i, y) => j.student t (t.p0 + i) y (free + 2 * i)
  let kl ← qs.mapM fun q => do if q.inKl then return some (← q.kl) else return none
  let ce ← qs.mapM fun q => do if q.inCe then return some (← q.ce) else return none
  let taps ← ((List.range t.prm.taps.length).zip t.prm.taps).mapM fun (k, p) => (List.range t.n).mapM fun i => do
    let ds ← j.tapDiffs t p k (t.p0 + i)
    if ds.isEmpty then return none
    let leaves ← ds.mapM fun d => do return (← fmul d d, fpZero)
    return some (← reduce128 pairAdd pairZero leaves)
  return kl :: ce :: taps
/-- Add a window's terms into LACC. -/
def Job.runLoss (j : Job) (t : StsOp) (free : Nat) : FM Job := do
  let ys ← j.logits t
  let terms ← j.lossTerms t ys free
  match j.buf? t.prm.lacc with
  | none => return j
  | some b =>
    let b ← ((List.range terms.length).zip terms).foldlM (fun (b : Buffer) (e : Nat × List (Option Pair)) => do
      let mb ← (chunks128 (e.2.map fun x => x.getD pairZero)).foldlM (fun (m : Pair) g => do
        pairAdd m (← tree128 pairAdd pairZero g)) (getPair b (8 * e.1))
      let n := getCnt b (96 + 8 * e.1) + (e.2.filter Option.isSome).length
      return (putPair b (8 * e.1) mb).writeBytes (96 + 8 * e.1) (leBytes n 8)) b
    let b ← if !t.endmb then pure b
      else (List.range 6).foldlM (fun (b : Buffer) (i : Nat) => do
        let tot ← pairAdd (getPair b (48 + 8 * i)) (getPair b (8 * i))
        let n := getCnt b (144 + 8 * i) + getCnt b (96 + 8 * i)
        let b := (putPair b (48 + 8 * i) tot).writeBytes (144 + 8 * i) (leBytes n 8)
        return (b.writeBytes (8 * i) (leBytes 0 8)).writeBytes (96 + 8 * i) (leBytes 0 8)) b
    let b := b.writeBytes 200 (leBytes (if t.endmb then 0xFFFFFFFF else t.p0 + t.n) 4)
    return j.modBuf b.id fun _ => b

/-! ### FINISH, R67 and R324 -/

def cntFp (n : Nat) : FM Fp := rnd (Fp.ofInt n)
/-- RNE32(1 − α) times a factor, over N: c_kl with T·T, g_kl with T. -/
def klCoef (alpha factor : Fp) (n : Nat) : FM Fp := do fdiv (← fmul (← fsub fpOne alpha) factor) (← cntFp n)
def tapCoef (p : TapPrm) (n : Nat) : FM Fp := do fdiv (ofBits p.gamma) (← fmul (← cntFp n) (Fp.ofInt p.dtap))
def Job.runFinish (j : Job) (t : StsOp) : FM (Job × Pair) := do
  match j.buf? t.prm.lacc with
  | none => return (j, pairZero)
  | some b =>
    let n (i : Nat) : Nat := getCnt b (144 + 8 * i)
    let tt := ofBits t.prm.t
    let al := ofBits t.prm.alpha
    let term (i : Nat) (c : FM Fp) : FM Pair := do if n i = 0 then return pairZero else pairScale (← c) (getPair b (48 + 8 * i))
    let kl ← term 0 (do klCoef al (← fmul tt tt) (n 0))
    let ce ← term 1 (do fdiv al (← cntFp (n 1)))
    let l ← pairAdd kl ce
    let l ← ((List.range t.prm.taps.length).zip t.prm.taps).foldlM (fun (l : Pair) (e : Nat × TapPrm) => do
      pairAdd l (← term (2 + e.1) (tapCoef e.2 (n (2 + e.1))))) l
    return (j.modBuf b.id fun b => (putPair b 192 l).writeBytes 204 [1], l)

/-! ### GRAD, R69 and R325 -/

/-- g_v of one position. -/
def Student.grad (q : Student) (live : Nat → Bool) (gkl gce : Fp) : FM (List Fp) := do
  let nonfin := q.sr.flags / 2 % 2 == 1
  let (ps, pp, rest) ← if q.inKl && !nonfin then do
      let ps ← q.sr.probs
      let pr ← ps.foldlM (fun (a : Pair) (e : Nat × Fp) => pairAdd a (e.2, fpZero)) pairZero
      let pp := (← pairAdd pr (q.sr.tail, fpZero)).1
      pure (ps, pp, ← fsub pp (← fdiv q.sr.tail q.tausf))
    else pure ([], fpZero, fpZero)
  ((List.range q.y.length).zip q.y).mapM fun (v, y) => do
    if !live v then return fpZero
    let a ← if !q.inKl then pure none
      else if nonfin then do pure (some (← fmul gkl .nan))
      else do
        let qv ← fexp (← fsub (← fsub (← fmul y q.sinv) q.ms) q.ls)
        let d ← match ps.find? fun e => e.1 == v with
          | some e => do fsub (← fmul pp qv) e.2
          | none => fmul qv rest
        pure (some (← fmul gkl d))
    let b ← if !q.inCe then pure none
      else do
        let q1 ← fexp (← fsub (← fsub y q.m1) q.l1)
        pure (some (← fmul gce (← if v = q.label then fsub q1 fpOne else pure q1)))
    match a, b with
    | some a, some b => fadd a b
    | some a, none => return a
    | none, some b => return b
    | none, none => return fpZero
def Job.runGrad (j : Job) (t : StsOp) (trick free : Nat) : FM Job := do
  match j.buf? t.prm.lacc, t.bg.bind j.buf? with
  | some la, some _ =>
    let ys ← j.logits t
    let qs ← ((List.range t.n).zip ys).mapM fun (i, y) => j.student t (t.p0 + i) y (free + 2 * i)
    let tt := ofBits t.prm.t
    let al := ofBits t.prm.alpha
    let gkl ← if qs.any Student.inKl then klCoef al tt (getCnt la 144) else pure fpZero
    let gce ← if qs.any Student.inCe then do fdiv al (← cntFp (getCnt la 152)) else pure fpZero
    let rows ← ((List.range t.n).zip qs).mapM fun (i, q) => do
      let g ← q.grad (j.liveIn t (j.key t (t.p0 + i)) q.y) gkl gce
      return ((List.range g.length).zip g).map fun (v, x) => (i, v, x)
    let j ← j.storeVec (t.bg.getD 0) rows.flatten [] (drawOf j.seed trick t.rc)
    ((List.range t.prm.taps.length).zip t.prm.taps).foldlM (fun (j : Job) (e : Nat × TapPrm) => do
      let els ← (List.range t.n).mapM fun i => do
        let ds ← j.tapDiffs t e.2 e.1 (t.p0 + i)
        if ds.isEmpty then return []
        let c ← fmul (.fin false 2 0) (← tapCoef e.2 (getCnt la (144 + 8 * (2 + e.1))))
        ((List.range ds.length).zip ds).mapM fun (k, d) => do return (i, k, ← fmul c d)
      uncounted (j.storeVec e.2.tgrad els.flatten [] fun _ => none)) j
  | _, _ => return j

/-! ### The effect -/

def State.fxSts (s : State) (q : QE) : FxR :=
  match q.op with
  | .sts t =>
    let free := s.fresh
    let s := if t.func = 1 ∨ t.func = 3 then { s with fresh := s.fresh + 2 * t.n } else s
    let put (r : Job × Acc) : FxR := fxOk { s with job := r.1 } r.2
    match t.func with
    | 0 => put (s.job.runFold t .zero)
    | 1 => put (s.job.runLoss t free .zero)
    | 2 =>
      let ((j, l), a) := s.job.runFinish t .zero
      fxOk (({ s with job := j }).modTrick q.trick fun r => { r with loss := some (toBits l.1, toBits l.2) }) a
    | _ => put (s.job.runGrad t q.trick free .zero)
  | _ => fxOk s .zero

/-- The positions of row block i of a window that live on a die (R25). -/
def StsOp.homes (t : StsOp) (i die : Nat) : Nat := ((t.positions.drop (128 * i)).take 128).countP fun p => homeDie p == die
/-- Bytes of logit tiles carried to their positions' home dies, read there and written here (R184, Table 06-4; log entry 80). -/
def StsOp.logitMoves (t : StsOp) : Nat :=
  if t.func = 2 then 0
  else ((rect 0 0 (ceilDiv t.n 128) (ceilDiv t.prm.v 128)).map fun p =>
    8 * min 128 (t.prm.v - 128 * p.2) * (min 128 (t.n - 128 * p.1) - t.homes p.1 (mmaDie p.2))).sum
/-- The activation blocks of its products that go over the ring: rows of bx to the dies of the vocabulary tiles and, for a FOLD, rows of
each tap's HSRC to the dies of PROJ's blocks (R320, Table 06-4). -/
def Job.stsActs (j : Job) (t : StsOp) : Nat :=
  let blocks (n : Nat) : List Nat := List.range (ceilDiv n 128)
  let send (a cols : Nat) : Nat := match j.buf? a with
    | none => 0
    | some b => ringBytes b false t.n (blocks t.n) 0 b.cols (blocks cols)
  (if t.func = 2 ∨ t.src then 0 else send t.bx t.prm.v) + (if t.func = 0 then (t.prm.taps.map fun p => send p.hsrc p.dtap).sum else 0)
def Job.stsMoves (j : Job) (t : StsOp) : Nat := t.logitMoves + j.stsActs t
/-- Work units of an STS (Table 12-7): MATRIX units of its products (their die plus 4), then its VECTOR units, each a logit
tile's rows on their positions' home die (R25). -/
def State.stsUnits (s : State) (t : StsOp) : List (Nat × Nat) :=
  if t.func = 2 then [(0, 0)]
  else
    let rate := if t.func = 3 then 6 else 4
    let kx := (s.job.buf? t.bx).map Buffer.cols |>.getD 0
    let tiles := rect 0 0 (ceilDiv t.n 128) (ceilDiv t.prm.v 128)
    (if t.src then [] else tiles.map fun p => (mmaDie p.2 + 4, kx)) ++
      tiles.flatMap fun p => ((List.range 4).filter fun d => t.homes p.1 d != 0).map fun d =>
        (d, rate * t.homes p.1 d * min 128 (t.prm.v - 128 * p.2))

end Sys2Proof.Machine
end

