-- ==== Sys2Proof/Machine/UpdateFx.lean ====
section
/-! DEFINITION. The parameter update: coefficients and schedules, pass one and its combination across members, pass two,
REBUILD (R195 to R217, R326, R327, R561). -/

namespace Sys2Proof.Machine

/-! ### The coefficient table, R196, R197, R200 -/

def coefOf (d : List Byte) (o : Nat) : Coef :=
  let k := fieldAt d (o + 4) 2
  ⟨BitVec.ofNat 32 (fieldAt d o 4), if k = 0xFFFF then none else some k⟩
/-- Reserved bytes and schedule index of an entry. -/
def coefForm (d : List Byte) (o ns : Nat) : Bool :=
  let k := fieldAt d (o + 4) 2
  allZero ((d.drop (o + 6)).take 2) && (k == 0xFFFF || decide (k < ns))
/-- Range of the i-th group coefficient, in the order β1, α1, β2, α2, k1, k0, k2, ε, η, λ, ρ, TC, TMAX. -/
def coefRange (i : Nat) (w : Word) : Bool :=
  let v := ofBits w
  v.isFinite && (if i = 0 ∨ i = 2 then fpIn fpZero v fpOne
    else if i = 7 ∨ i = 9 ∨ i = 12 then fpLe fpZero v
    else if i = 11 then fpLt fpZero v else true)
def groupOff (q : Nat) : Nat := 64 + 128 * q
def groupOf (d : List Byte) (q : Nat) (full : Bool) : Group :=
  let o := groupOff q
  let f := fieldAt d o 2
  ⟨f % 4, f / 4 % 4, f.testBit 4, f.testBit 5, f.testBit 6, f / 128 % 8, fieldAt d (o + 2) 2,
    if full then (List.range 13).map fun i => coefOf d (o + 16 + 8 * i) else []⟩
/-- FLAGS within its encodings. -/
def groupFlagsOk (d : List Byte) (q : Nat) : Bool :=
  let f := fieldAt d (groupOff q) 2
  f / 4 % 4 != 3 && decide (f / 128 % 8 ≤ 3) && decide (f < 1024)
def groupOk (d : List Byte) (q ns : Nat) : Bool :=
  let o := groupOff q
  groupFlagsOk d q && fieldAt d (o + 2) 2 != 0 && allZero ((d.drop (o + 4)).take 12) && allZero ((d.drop (o + 120)).take 8) &&
    (List.range 13).all fun i => coefForm d (o + 16 + 8 * i) ns && coefRange i (coefOf d (o + 16 + 8 * i)).v0
def schedOf (d : List Byte) (o : Nat) : Sched :=
  ⟨(byteAt d o).toNat, (byteAt d (o + 1)).toNat, fieldAt d (o + 8) 6,
    (List.range (byteAt d (o + 1)).toNat).map fun i => (fieldAt d (o + 16 + 8 * i) 4, BitVec.ofNat 32 (fieldAt d (o + 20 + 8 * i) 4))⟩
def schedOk (d : List Byte) (o : Nat) : Bool :=
  let k := (byteAt d o).toNat
  let n := (byteAt d (o + 1)).toNat
  let xs := (List.range n).map fun i => fieldAt d (o + 16 + 8 * i) 4
  decide (1 ≤ k ∧ k ≤ 4) && decide (1 ≤ n ∧ n ≤ 6) && (decide (k ≤ 2) || n == 1) && allZero ((d.drop (o + 2)).take 6) &&
    fieldAt d (o + 14) 2 == 0 && xs.headD 0 == 0 && risesIn xs

/-- WFMT of Table 07-1. -/
def wfmtOf : Nat → Option Fmt
  | 1 => some .v8 | 2 => some .bf16 | 3 => some .fp16 | _ => none

/-- A shard lies on block boundaries of a block-scaled WORK buffer at both ends (R213). Under COL and SQUARE a block spans rows,
and a row-major shard ends on its boundary only with whole rows: its first column 0, its last the buffer's (log entry 87). -/
def Buffer.shardAligned (b : Buffer) (first last : Nat) : Bool :=
  match b.scale with
  | .block n d _ _ =>
    let c0 := first % b.cols
    let c1 := last % b.cols
    let r0 := first / b.cols
    let r1 := last / b.cols
    match d with
    | .row => c0 % n == 0 && ((c1 + 1) % n == 0 || c1 + 1 == b.cols)
    | _ => c0 == 0 && r0 % n == 0 && c1 + 1 == b.cols && ((r1 + 1) % n == 0 || r1 + 1 == b.rows)
  | _ => true

/-! ### Checks at issue, Table 11-14 -/

/-- A tensor list entry with the checks it fails and the buffers it names. -/
structure TensUse where
  (e : TensorE) (bad : List (Option Late)) (bucket work : Option Buffer) (eh wh : Nat)
  deriving DecidableEq, Repr
/-- A WORK handle without WRITE is refused at the issue of pass one already, whose tables pass two takes over (log entry 88). -/
def tensUse (j : Job) (x : Ctx) (groups : List Group) (d : List Byte) (o hb prev : Nat) (wr : Bool) : TensUse :=
  let q := (byteAt d (o + 3)).toNat
  let count := fieldAt d (o + 4) 4
  let boff := fieldAt d (o + 8) 4
  let soff := fieldAt d (o + 16) 8
  let ei := (byteAt d (o + 2)).toInt
  let g := groups[q]?
  let wf := (g.map Group.wfmt).bind wfmtOf
  let mom := (g.map Group.moments).getD 0
  let ub := useBlk j x (byteAt d o) (· == .stash) false
  let uw := useIf wf.isSome (useBlk j x (byteAt d (o + 1)) (· == .resident) wr)
  let refuse (u : Option Buffer × Option Late) (f : Fmt) (h : Byte) : Option Late := match u.1 with
    | none => u.2
    | some b => chk (b.fmt != f) stBUFFER h (BitVec.allOnes 64)
  let past (b : Option Buffer) (h : Byte) : Option Late := match b with
    | none => none
    | some y => chk (decide (boff + count > y.elems)) stBUFFER h (BitVec.ofNat 64 (max boff y.elems * y.fmt.bytes))
  let form := illegal (!allZero ((d.drop (o + 12)).take 4) || !allZero ((d.drop (o + 24)).take 8) || decide (ei < -64 ∨ ei > 63) ||
    count == 0 || soff % 16 != 0 || decide (q < prev) || g.isNone || (wf.isNone && byteAt d (o + 1) != 0xFF) ||
    decide (soff + 4 * (1 + mom % 2 + mom / 2) * count > hb))
  let al := illegal (!optOk uw.1 fun y => decide (boff + count > y.elems) || y.shardAligned boff (boff + count - 1))
  ⟨⟨(ub.1.map Buffer.id).getD 0, uw.1.map Buffer.id, ei, q, count, boff, soff⟩,
    [form, refuse ub .fp16 (byteAt d o), if wf.isSome then refuse uw (wf.getD .v8) (byteAt d (o + 1)) else none,
      past ub.1 (byteAt d o), past uw.1 (byteAt d (o + 1)), al], ub.1, uw.1, (byteAt d o).toNat, (byteAt d (o + 1)).toNat⟩

/-- The tables as pass one (full) or REBUILD reads them: what they hold, and the failing checks. -/
structure TabUse where
  (prm : UpdPrm) (bad : List (Option Late)) (tens : List TensUse)
  deriving DecidableEq, Repr
def readTables (j : Job) (x : Ctx) (bc bt : Buffer) (bch hb : Nat) (full : Bool) : TabUse :=
  let c := bc.readBytes 0 bc.bytes
  let ng := fieldAt c 0 2
  let ns := fieldAt c 2 2
  let short : Option Late := some ⟨stBUFFER, BitVec.ofNat 8 bch, BitVec.ofNat 64 c.length⟩
  let need := if full then groupOff ng + 64 * ns else groupOff (ng - 1) + 2
  let isShort := decide (c.length < 64 ∨ c.length < need)
  let okNg := decide (1 ≤ ng ∧ ng ≤ 256)
  let head := illegal (!okNg || (full && decide (ns > 1024)) || !allZero ((c.drop 4).take 4) || !allZero ((c.drop 16).take 48) ||
    (full && (!coefForm c 8 ns || !(ofBits (coefOf c 8).v0).isFinite || !fpLe fpZero (ofBits (coefOf c 8).v0))))
  let go := okNg && !isShort && (!full || decide (ns ≤ 1024))
  let gs := if go then (List.range ng).map fun q => groupOf c q full else []
  let gbad := illegal (go && !(List.range ng).all fun q => if full then groupOk c q ns else groupFlagsOk c q)
  let sbase := groupOff ng
  let ss := if go && full then (List.range ns).map fun i => schedOf c (sbase + 64 * i) else []
  let sbad := illegal (go && full && !(List.range ns).all fun i => schedOk c (sbase + 64 * i))
  let d := bt.readBytes 0 bt.bytes
  let n := d.length / 32
  let sizeOk := decide (d.length % 32 = 0 ∧ 1 ≤ n ∧ n ≤ 65536)
  -- the handles of the tensor list are checked whatever else fails (R12, R302)
  let tens := (List.range (min n 65536)).map fun i =>
    tensUse j x gs d (32 * i) hb (if i = 0 then 0 else (byteAt d (32 * (i - 1) + 3)).toNat) true
  ⟨⟨coefOf c 8, gs, ss, tens.map TensUse.e⟩, [if isShort then short else none, if c.length < 64 then none else head, gbad, sbad,
    illegal (!sizeOk)] ++ tens.flatMap TensUse.bad, tens⟩

/-- The buckets a pass names (R561). -/
def UpdOp.bkts (u : UpdOp) : List Bkt :=
  let n := u.prm.tensors.length
  ((List.range n).zip u.prm.tensors).map fun (i, e) => ⟨e.bucket, u.bu, recHalf n, i, e.einit⟩
/-- Buffers an update pass reads, and those it writes (R263). -/
def Job.updReads (j : Job) (u : UpdOp) : List Nat :=
  let sc (b : Nat) (f : Buffer → List Nat) : List Nat := match j.buf? b with
    | none => []
    | some y => f y
  [u.bc, u.bt, u.bs, u.bu] ++ u.prm.tensors.flatMap fun e => sc e.bucket Buffer.reach ++ (match e.work with
    | none => []
    | some w => sc w Buffer.storeReads)
def Job.updWrites (j : Job) (u : UpdOp) : List Nat :=
  (if u.func = 1 then [u.bs, u.bu] else []) ++ (if u.func = 0 then [] else u.prm.tensors.flatMap fun e =>
    match e.work.bind j.buf? with
    | none => []
    | some y => y.stores)

def State.issueUpd (s : State) (c : CtxId) (x : Ctx) (func : Nat) (f : UpdF) : Issue :=
  let j := s.job
  let hb := (x.arch.reg f.sH).toNat
  let hs := [f.bc.toNat, f.bt.toNat, f.bs.toNat, f.bu.toNat]
  let byteBuf (h : HReg) (u : Option Buffer × Option Late) : Option Buffer × Option Late :=
    if optOk u.1 fun b => b.fmt == .byte then u else (none, some ⟨stBUFFER, BitVec.ofNat 8 h.toNat, BitVec.allOnes 64⟩)
  let uc := byteBuf f.bc (useHnd j x f.bc.toNat (· == .resident) false)
  let ut := byteBuf f.bt (useHnd j x f.bt.toNat (· == .resident) false)
  let us := useHnd j x f.bs.toNat (· == .state) (func == 1)
  let uu := useHnd j x f.bu.toNat (· == .state) (func == 1)
  let base := [uc.2, ut.2, us.2, uu.2, illegal (hb == 0 || hb % 4096 != 0 || !optOk us.1 fun b => decide (2 * hb ≤ b.bytes)),
    illegal (match j.recov.pend with
      | none => false
      | some k => k.hb != hb || !optOk uu.1 fun b => decide (2 * k.hr ≤ b.bytes))]
  match uc.1, ut.1, us.1, uu.1 with
  | some bc, some bt, some bs, some bu =>
    let one := (x.tag.bind s.trick?).bind TrickRec.upd
    if func = 1 then
      match one with
      | none => .fail (pickLate (base ++ [illegal true]))
      | some u =>
        let ok := u.ctx == c && !u.p2issued && u.op.hs == hs && u.op.hb == hb
        let op : UpdOp := { u.op with
          func := 1
          bc := bc.id
          bt := bt.id
          bs := bs.id
          bu := bu.id }
        let small := decide (bu.bytes < 2 * recHalf u.op.prm.tensors.length)
        ⟨pickLate (base ++ [illegal (!ok), illegal small]), some (.upd op), j.updReads op, j.updWrites op, some bs.id⟩
    else
      let t := readTables j x bc bt f.bc.toNat hb (func == 0)
      let op : UpdOp := ⟨func, bc.id, bt.id, bs.id, bu.id, hb, hs, t.prm⟩
      let bad := pickLate (base ++ [illegal (func == 0 && one.isSome),
        illegal (decide (bu.bytes < 2 * recHalf (bt.bytes / 32)))] ++ t.bad)
      ⟨bad, some (.upd op), j.updReads op, j.updWrites op, some bs.id⟩
  | _, _, _, _ => .fail (pickLate base)

/-- What issuing an update pass records: its buckets, and pass one's or pass two's part in the trick (R195, R561). -/
def State.noteUpd (s : State) (c : CtxId) (uid trick : Nat) (pc : Dword) (u : UpdOp) : State :=
  let s := { s with job := { s.job with buckets := ⟨uid, trick, none, [(c, (s.job.ctx? c).bind Ctx.last)], u.bkts⟩ :: s.job.buckets } }
  match u.func with
  | 0 => s.modTrick trick fun r => { r with upd := some ⟨c, uid, u, [], false, false, 0, [], [], [], [], false, false, false, false, false,
      0, 0, 0, []⟩ }
  | 1 => s.modTrick trick fun r => { r with upd := r.upd.map fun k => { k with p2issued := true, p2pc := pc, p2uid := uid, p2bu := u.bu } }
  | _ => s

/-! ### Schedules, R200 -/

/-- POWI from bit i of j upward, n bits. -/
def powiGo (j : Nat) : Nat → Nat → Fp → Fp → FM Fp
  | 0, _, r, _ => return r
  | n + 1, i, r, b => do
    let r ← if j.testBit i then fmul r b else pure r
    powiGo j n (i + 1) r (← fmul b b)
/-- Each bit of j from bit 0 up to its highest set bit. -/
def powi (b : Fp) (j : Nat) : FM Fp := if j = 0 then return fpOne else powiGo j (j.log2 + 1) 0 fpOne b
/-- The factor f of a schedule at trick t. -/
def schedFactor (k : Sched) (t : Nat) : FM Fp := do
  if t < k.t0 then return fpOne
  let x := min (t - k.t0) (2 ^ 32 - 1)
  let v (i : Nat) : Fp := ofBits ((k.pts[i]?).map Prod.snd |>.getD 0)
  let xi (i : Nat) : Nat := (k.pts[i]?).map Prod.fst |>.getD 0
  match k.kind with
  | 3 => fdiv fpOne (← fsub fpOne (← powi (v 0) (x + 1)))
  | 4 => powi (v 0) x
  | kd =>
    let i := (k.pts.filter fun p => decide (p.1 ≤ x)).length - 1
    if kd = 1 ∨ i + 1 = k.npt then return v i
    let d ← fsub (v (i + 1)) (v i)
    let r ← fdiv (← cntFp (x - xi i)) (← cntFp (xi (i + 1) - xi i))
    fadd (v i) (← fmul d r)
/-- An evaluated coefficient; a non-finite one sets NV (R197). -/
def evalCoef (ss : List Sched) (t : Nat) (c : Coef) : FM Word := do
  match c.sched.bind fun i => ss[i]? with
  | none => return c.v0
  | some k =>
    let v ← fmul (ofBits c.v0) (← schedFactor k t)
    if !v.isFinite then flag flNV
    return toBits v
/-- Every group's coefficients, then CLIP alone. -/
def evalAll (p : UpdPrm) (t : Nat) : FM (List (List Word)) := do
  let gs ← p.groups.mapM fun g => g.coefs.mapM (evalCoef p.scheds t)
  return gs ++ [[← evalCoef p.scheds t p.clip]]
def coefAt (ev : List (List Word)) (q i : Nat) : Fp := ofBits ((ev.getD q []).getD i 0)

/-! ### State image and update record, R205 and R206 -/

/-- A load of an FP32 element of the state image: a subnormal is flushed, and it counts (R107, R111). -/
def f32At (b : Buffer) (o : Nat) : FM Fp := loadEl .fp32 .none (leNat (b.readBytes o 4))
/-- Byte offset of moment m (0 w, 1 s1, 2 s2) of shard element i of an entry, within a half; none when absent. -/
def stateOff (e : TensorE) (mom m i : Nat) : Option Nat :=
  match m with
  | 0 => some (e.soff + 4 * i)
  | 1 => if mom % 2 = 1 then some (e.soff + 4 * e.count + 4 * i) else none
  | _ => if mom / 2 = 1 then some (e.soff + 4 * e.count * (1 + mom % 2) + 4 * i) else none
/-- An absent moment reads as +0 (R211). -/
def stateVal (b : Buffer) (base : Nat) (e : TensorE) (mom m i : Nat) : FM Fp := match stateOff e mom m i with
  | none => return fpZero
  | some o => f32At b (base + o)
/-! Arithmetic of a shard element, each rounding an FP32 result that counts; PAIR_ADD and a run's reduction count once (R111; log
entry 74). -/

def cadd (a b : Fp) : FM Fp := counted (fadd a b)
def csub (a b : Fp) : FM Fp := counted (fsub a b)
def cmul (a b : Fp) : FM Fp := counted (fmul a b)
def cdiv (a b : Fp) : FM Fp := counted (fdiv a b)
def csqrt (a : Fp) : FM Fp := counted (fsqrt a)

/-- The gradient of a shard element: h × 2^−e × ρ. -/
def gradAt (bk : Buffer) (e : Int) (rho : Fp) (i : Nat) : FM Fp := do
  cmul (← loadEl .fp16 (.ten (pow2 (-e))) (bk.rawEl i)) rho
def runsOf (n : Nat) : List (List Nat) :=
  (List.range (ceilDiv n (2 ^ 24))).map fun k => (List.range (min (2 ^ 24) (n - 2 ^ 24 * k))).map (2 ^ 24 * k + ·)

/-! ### Pass one, R208 -/

/-- The largest finite magnitude of the elements that exchanges of a trick gave a bucket, and whether one is not finite (R204); of a
bucket no collective has written in it, every element counts (log entry 99). -/
def bucketScan (b : Buffer) (t : Nat) : Fp × Bool :=
  let parts := b.exchanged.filter fun p => p.1 == t
  let parts := if parts.isEmpty then [(t, 0, b.elems)] else parts
  (parts.flatMap fun p => (List.range p.2.2).map (p.2.1 + ·)).foldl (fun (a : Fp × Bool) i =>
    let v := unpack .fp16 (b.rawEl i)
    if v.isFinite then (if fpLt a.1 v.abs then (v.abs, a.2) else a) else (a.1, true)) (fpZero, false)
/-- NFREC.ANY of some bucket tile the shard is read from. A tile that no product and no collective has stored carries no record
and counts by its values as they stand (log entry 89). -/
def tileAny (b : Buffer) (boff count : Nat) : Bool :=
  let hit := ((List.range count).map fun i => ((boff + i) / b.cols / 128, (boff + i) % b.cols / 128)).eraseDups
  hit.any fun t => ((alGet b.nfrecs (tileNo t.1 t.2)).getD
    (b.nfrecAt false t.1 t.2 (min 128 (b.rows - 128 * t.1)) (min 128 (b.cols - 128 * t.2)))).getLsbD 0

/-- One group's pairs G and W, and NF. -/
def Job.groupNorms (j : Job) (u : UpdOp) (ev : List (List Word)) (base q : Nat) (g : Group) (bs : Buffer) : FM (Pair × Pair × Bool) :=
  (((List.range u.prm.tensors.length).zip u.prm.tensors).filter fun p => p.2.group == q).foldlM
    (fun (a : Pair × Pair × Bool) (p : Nat × TensorE) => do
      let e := p.2
      match j.buf? e.bucket with
      | none => return a
      | some bk =>
        let k := j.bktE ⟨e.bucket, u.bu, recHalf u.prm.tensors.length, p.1, e.einit⟩
        let a ← (runsOf e.count).foldlM (fun (a : Pair × Pair × Bool) (run : List Nat) => do
          let gs ← run.mapM fun i => gradAt bk k (coefAt ev q 10) (e.boff + i)
          let ws ← run.mapM fun i => stateVal bs base e g.moments 0 i
          let s1 ← run.mapM fun i => stateVal bs base e g.moments 1 i
          let s2 ← run.mapM fun i => stateVal bs base e g.moments 2 i
          let nf := (gs ++ ws ++ s1 ++ s2).any fun v => !v.isFinite
          let sq (l : List Fp) : FM Pair := countedBy Prod.fst do
            let ls ← l.mapM fun v => do return (← fmul v v, fpZero)
            reduce128 pairAdd pairZero ls
          let add (p q : Pair) : FM Pair := countedBy Prod.fst (pairAdd p q)
          let gq ← add a.1 (← sq gs)
          let wq ← if g.trust then do add a.2.1 (← sq ws) else pure a.2.1
          return (gq, wq, a.2.2 || nf)) a
        return (a.1, a.2.1, a.2.2 || tileAny bk e.boff e.count)) (pairZero, pairZero, false)

/-- Words of a group's pairs, for R209's messages. -/
def normWords (g w : Pair) : Word × Word × Word × Word := (toBits g.1, toBits g.2, toBits w.1, toBits w.2)
/-- The module's own results of pass one. -/
def Job.runPass1 (j : Job) (u : UpdOp) (trick : Nat) (r : UpdRec) : FM UpdRec := do
  match j.buf? u.bs, j.buf? u.bu with
  | some bs, some bu =>
    let ev ← evalAll u.prm trick
    let base := recSel bu.mem (recHalf u.prm.tensors.length) * u.hb
    let gs ← ((List.range u.prm.groups.length).zip u.prm.groups).mapM fun (q, g) => j.groupNorms u ev base q g bs
    let scans := u.prm.tensors.map fun e => match j.buf? e.bucket with
      | none => (fpZero, false)
      | some b => bucketScan b trick
    return { r with evald := ev, nf := gs.any (fun g => g.2.2), mods := gs.map (fun g => normWords g.1 g.2.1),
                    nfbs := scans.map Prod.snd, amax := scans.map fun p => toBits p.1 }
  | _, _ => return r

/-! ### Combination across members, R209 -/

def addNorms (a b : Word × Word × Word × Word) : FM (Word × Word × Word × Word) := do
  let g ← pairAdd (ofBits a.1, ofBits a.2.1) (ofBits b.1, ofBits b.2.1)
  let w ← pairAdd (ofBits a.2.2.1, ofBits a.2.2.2) (ofBits b.2.2.1, ofBits b.2.2.2)
  return normWords g w
def zipOr (a b : List Bool) : List Bool := (List.range (max a.length b.length)).map fun i => a.getD i false || b.getD i false
def zipMax (a b : List Word) : List Word := (List.range (max a.length b.length)).map fun i =>
  let x := a.getD i 0
  let y := b.getD i 0
  if fpLt (ofBits x) (ofBits y) then y else x
/-- A node adds one child's results to its own. -/
def UpdRec.addChild (r : UpdRec) (m : NormMsg) : FM UpdRec := do
  let gs ← (r.mods.zip m.groups).mapM fun (a, b) => addNorms a b
  return { r with mods := gs, nf := r.nf || m.nf, nfbs := zipOr r.nfbs m.nfbs, amax := zipMax r.amax m.amax }
/-- What every member computes from the combined results. -/
def UpdRec.conclude (r : UpdRec) : FM UpdRec := do
  let gp (w : Word × Word × Word × Word) : Pair := (ofBits w.1, ofBits w.2.1)
  let wp (w : Word × Word × Word × Word) : Pair := (ofBits w.2.2.1, ofBits w.2.2.2)
  let gn2 ← r.mods.foldlM (fun (a : Pair) w => pairAdd a (gp w)) pairZero
  let gn ← fsqrt gn2.1
  let bad := r.evald.any fun l => l.any fun w => !(ofBits w).isFinite
  let nf := r.nf || !gn.isFinite || bad
  let clip := coefAt r.evald r.op.prm.groups.length 0
  let c ← if clip.isZero || fpLe gn clip then pure fpOne else fdiv clip gn
  let etas ← ((List.range r.op.prm.groups.length).zip r.op.prm.groups).mapM fun (q, g) => do
    let co (i : Nat) : Fp := coefAt r.evald q i
    let w := r.mods.getD q (0, 0, 0, 0)
    let tau ← if !g.trust then pure fpOne
      else do
        let wn ← fsqrt (wp w).1
        let gq ← fmul c (← fsqrt (gp w).1)
        let den ← fadd gq (← fmul (co 9) wn)
        let t ← if wn.isZero || den.isZero then pure fpOne else do fdiv (← fmul (co 11) wn) den
        pure (if fpLt fpZero (co 12) then fmin t (co 12) else t)
    return toBits (← fmul (co 8) tau)
  return { r with nf := nf, clipF := toBits c, etas := etas, held := true }

/-- Payload of a pass-one message: a layout of the model's own (log entry 21). -/
def normBytes (r : UpdRec) : List Byte :=
  leBytes r.mods.length 2 ++ leBytes r.nfbs.length 4 ++ [if r.nf then 1 else 0] ++ (r.mods.flatMap fun w =>
    leBytes w.1.toNat 4 ++ leBytes w.2.1.toNat 4 ++ leBytes w.2.2.1.toNat 4 ++ leBytes w.2.2.2.toNat 4) ++
    (r.nfbs.map fun b => if b then (1 : Byte) else 0) ++ r.amax.flatMap fun w => leBytes w.toNat 4
/-- Send a pass-one message: a transfer of the updating context under a FUNC no COLL uses (R391; log entry 21). -/
def State.sendNorms (s : State) (m : BitVec 9) (t : Nat) (a : Byte) (r : UpdRec) : State :=
  let b := normBytes r
  s.sendXferGo m t a ([BitVec.ofNat 8 r.ctx.val, 6] ++ leBytes 0 2 ++ leBytes 0 4) (b.length / 8176 + 1) 0 b
/-- The combination goes on: children's results come in, the sum goes up, the root's comes down, as it was combined: each member
adds what its own tables give NF (R209). Flags of the arithmetic
are returned for the pass one waiting here. ownDone: this member's own results are there. -/
def State.normStep (s : State) (t : Nat) : State × Fl :=
  match s.trick? t with
  | none => (s, 0)
  | some k =>
    match k.upd with
    | none => (s, 0)
    | some r =>
      if r.evald.isEmpty || r.held then (s, 0)
      else
        let msgOf (m : BitVec 9) : Option NormMsg := s.job.norms.find? fun n => n.trick == t && n.att == k.att && n.src == m
        let kids := s.children
        let next := (kids.map s.rankOf).find? fun c => !r.got.contains c
        let put (s : State) (r : UpdRec) : State := s.modTrick t fun k => { k with upd := some r }
        let down (s : State) (r : UpdRec) : State := kids.foldl (fun s m => s.sendNorms m t k.att r) s
        match next with
        | some _ =>
          -- children are added in ascending rank, as far as they have come
          let (r1, a) := (kids.foldlM (fun (r : UpdRec) (m : BitVec 9) => do
            let c := s.rankOf m
            let before := (kids.map s.rankOf).filter fun d => decide (d < c)
            if r.got.contains c || !before.all (fun d => r.got.contains d) then return r
            match msgOf m with
            | none => return r
            | some n => return { ← r.addChild n with got := r.got ++ [c] }) r : FM UpdRec) .zero
          let all := (kids.map s.rankOf).all fun c => r1.got.contains c
          if !all then (put s r1, a.fl)
          else match s.parent with
            | none =>
              let (r2, a) := r1.conclude a
              (down (put s r2) r1, a.fl)
            | some p => ((put s r1).sendNorms p t k.att r1, a.fl)
        | none =>
          match s.parent with
          | none =>
            let (r2, a) := r.conclude .zero
            (down (put s r2) r, a.fl)
          | some p =>
            if kids.isEmpty && !r.got.contains 65535 then
              ((put s { r with got := r.got ++ [65535] }).sendNorms p t k.att r, 0)
            else match msgOf p with
              | none => (s, 0)
              | some n =>
                let r := { r with mods := n.groups, nf := n.nf, nfbs := n.nfbs, amax := n.amax }
                let (r2, a) := r.conclude .zero
                (down (put s r2) r, a.fl)

/-! ### Pass two, R211 to R213 -/

/-- The new values of one shard element: wn, s1n, s2n. -/
def updEl (g : Group) (co : Nat → Fp) (c eta gr w s1 s2 : Fp) : FM (Fp × Fp × Fp) := do
  let gt ← cmul c gr
  let s1n ← cadd (← cmul (co 0) s1) (← cmul (co 1) gt)
  let s2n ← cadd (← cmul (co 2) s2) (← cmul (co 3) (← cmul gt gt))
  let n ← cadd (← cmul (co 4) s1n) (← cmul (co 5) gt)
  let u ← if g.sign then
      pure (if n.isNan then Fp.nan else if n.isZero then fpZero else if n.sign then fpOne.neg else fpOne)
    else do
      let q ← cmul (co 6) s2n
      let d ← match g.p with
        | 0 => pure fpOne
        | 2 => cadd q (co 7)
        | _ => if g.epsOut then do cadd (← csqrt q) (co 7) else do csqrt (← cadd q (co 7))
      cdiv n d
  let wn ← csub w (← cmul eta (← cadd u (← cmul (co 9) w)))
  return (wn, s1n, s2n)
def putF32 (b : Buffer) (o : Option Nat) (base : Nat) (v : Fp) : Buffer := match o with
  | none => b
  | some k => b.writeBytes (base + k) (leBytes (toBits v).toNat 4)
/-- Store master values of a shard into its WORK buffer (R213). -/
def Job.storeWork (j : Job) (e : TensorE) (ws : List Fp) : FM Job := do
  match e.work.bind j.buf? with
  | none => return j
  | some b => j.storeEls b.id (((List.range ws.length).zip ws).map fun (i, v) => ((e.boff + i) / b.cols, (e.boff + i) % b.cols, v)) fun _ => none
/-- One entry: its new state in the alternate half, its working weights, whether it stored a non-finite value. -/
def Job.updEntry (j : Job) (u : UpdOp) (r : UpdRec) (cur alt idx : Nat) (e : TensorE) : FM (Job × Bool) := do
  match j.buf? u.bs, j.buf? e.bucket with
  | some bs, some bk =>
    let g := r.op.prm.groups.getD e.group ⟨0, 0, false, false, false, 0, 0, []⟩
    let k := j.bktE ⟨e.bucket, u.bu, recHalf u.prm.tensors.length, idx, e.einit⟩
    let co (i : Nat) : Fp := coefAt r.evald e.group i
    let vs ← (List.range e.count).mapM fun i => do
      let gr ← gradAt bk k (co 10) (e.boff + i)
      updEl g co (ofBits r.clipF) (ofBits (r.etas.getD e.group 0)) gr (← stateVal bs cur e g.moments 0 i)
        (← stateVal bs cur e g.moments 1 i) (← stateVal bs cur e g.moments 2 i)
    let b := ((List.range vs.length).zip vs).foldl (fun (b : Buffer) (p : Nat × Fp × Fp × Fp) =>
      putF32 (putF32 (putF32 b (stateOff e g.moments 0 p.1) alt p.2.1) (stateOff e g.moments 1 p.1) alt p.2.2.1)
        (stateOff e g.moments 2 p.1) alt p.2.2.2) bs
    let bad := vs.any fun v => !v.1.isFinite || (g.moments % 2 == 1 && !v.2.1.isFinite) || (g.moments / 2 == 1 && !v.2.2.isFinite)
    let j ← (j.modBuf u.bs fun _ => b).storeWork e (vs.map Prod.fst)
    return (j, bad)
  | _, _ => return (j, false)
/-- R204. -/
def nextScale (e : Int) (n grow : Nat) (nfb : Bool) (a : Fp) : Int × Nat :=
  if nfb || fpLe (.fin false 16384 0) a then (max (e - 1) (-64), 0)
  else if fpLt a (.fin false 4096 0) then (if n + 1 ≥ grow then (min (e + 1) 63, 0) else (e, n + 1))
  else (e, 0)
/-- The alternate update-record half (R211): VALID clear, TRICK, LAST_COMMIT and SKIPS of the current half, the new
exponents. -/
def writeRecord (ex : Nat → Int) (b : Buffer) (r : UpdRec) (trick : Nat) : Buffer :=
  let ts := r.op.prm.tensors
  let hr := recHalf ts.length
  let cur := recCurrent b.mem hr
  let alt := 1 - cur.getD 0
  let old (o n : Nat) : Option Nat := cur.map fun h => leNat (b.readBytes (h * hr + o) n)
  let es := ((List.range ts.length).zip ts).flatMap fun (i, t) =>
    let e := ex i
    let n := (old (32 + 4 * i + 2) 2).getD 0
    let (e', n') := nextScale e n ((r.op.prm.groups[t.group]?).map Group.grow |>.getD 1) (r.nfbs.getD i false) (ofBits (r.amax.getD i 0))
    [BitVec.ofInt 8 e', 0] ++ leBytes n' 2
  let head := [memRead 0 b.mem (alt * hr) &&& 1] ++ leBytes 0 7 ++ leBytes trick 8 ++ leBytes ((old 16 6).getD allOnes48) 8 ++
    leBytes ((old 24 4).getD 0) 4 ++ leBytes 0 4
  b.writeBytes (alt * hr) (head ++ es)
def Job.runPass2 (j : Job) (u : UpdOp) (r : UpdRec) (trick : Nat) : FM (Job × UpdRec) := do
  let ts := u.prm.tensors
  let sel := match j.buf? u.bu with
    | none => 0
    | some b => recSel b.mem (recHalf ts.length)
  let (j, nf2) ← if r.nf then pure (j, false)
    else ((List.range ts.length).zip ts).foldlM (fun (a : Job × Bool) (p : Nat × TensorE) => do
      let x ← a.1.updEntry u r (sel * u.hb) ((1 - sel) * u.hb) p.1 p.2
      return (x.1, a.2 || x.2)) (j, false)
  let hr := recHalf r.op.prm.tensors.length
  let ex (i : Nat) : Int := match r.op.prm.tensors[i]? with
    | none => 0
    | some t => j.bktE ⟨t.bucket, u.bu, hr, i, t.einit⟩
  let j := j.modBuf u.bu fun b => writeRecord ex b r trick
  return (j, { r with p2begun := true, p2done := true, nf2 := nf2, wwrote := !r.nf && ts.any fun e => e.work.isSome })

/-! ### REBUILD, R217 -/

def Job.runRebuild (j : Job) (u : UpdOp) : FM Job := do
  let ts := u.prm.tensors
  let sel := match j.buf? u.bu with
    | none => 0
    | some b => recSel b.mem (recHalf ts.length)
  ts.foldlM (fun (j : Job) (e : TensorE) => do
    match j.buf? u.bs with
    | none => return j
    | some bs => do j.storeWork e (← (List.range e.count).mapM fun i => stateVal bs (sel * u.hb) e 0 0 i)) j

/-! ### The effect -/

/-- A pending restore goes into half 0 of bs and bu before the first update pass reads them (R448). -/
def Job.applyPend (j : Job) (u : UpdOp) : Job :=
  match j.recov.pend with
  | none => j
  | some k =>
    let j := j.modBuf u.bs fun b => b.writeBytes 0 k.img
    let j := j.modBuf u.bu fun b =>
      let b := (b.writeBytes 0 k.record).writeBytes 0 [2]
      b.writeBytes k.hr [memRead 0 b.mem k.hr &&& 0xFD]
    { j with
      fixed := alSet j.fixed u.bu (((j.buf? u.bu).map Buffer.mem).getD [])
      recov := { j.recov with
        pend := none
        imgBufs := some (u.bs, u.bu, k.hb, k.hr) } }

/-- Run an update pass. Pass one then waits for the combined results of R209. -/
def State.fxUpd (s : State) (q : QE) : FxR :=
  match q.op with
  | .upd u =>
    let s := { s with job := s.job.applyPend u }
    let putRec (s : State) (r : UpdRec) : State := s.modTrick q.trick fun k => { k with upd := some r }
    match u.func, (s.trick? q.trick).bind TrickRec.upd with
    | 0, some r =>
      let (r, a) := s.job.runPass1 u q.trick r .zero
      let (s, fl) := (putRec s r).normStep q.trick
      fxOk s { a with fl := a.fl ||| fl }
    | 1, some r =>
      let ((j, r), a) := s.job.runPass2 u r q.trick .zero
      let j := { j with recov := { j.recov with imgBufs := some (u.bs, u.bu, u.hb, recHalf u.prm.tensors.length) } }
      fxOk (putRec { s with job := j } r) a
    | 2, _ =>
      let (j, a) := s.job.runRebuild u .zero
      fxOk ({ s with job := j }.modTrick q.trick fun k => { k with rebuilt := k.rebuilt ++ [q.uid] }) a
    | _, _ => fxOk s .zero
  | _ => fxOk s .zero

/-- Lane cycles by shard element (Table 12-7), in blocks of 128 × 128 elements. -/
def updUnits (u : UpdOp) : List (Nat × Nat) :=
  let rate := if u.func = 0 then 3 else if u.func = 1 then 12 else 1
  let l := u.prm.tensors.flatMap fun e =>
    (List.range (ceilDiv e.count 16384)).map fun i => (i % 4, rate * min 16384 (e.count - 16384 * i))
  if l.isEmpty then [(0, 0)] else l

end Sys2Proof.Machine
end

