-- ==== Sys2Proof/Machine/CollFx.lean ====
section
/-! DEFINITION. Collectives and peer transfers (R328 to R333, R391, R406): their checks, what a member sends along the
tree, and the effect once the members' data has come. -/

namespace Sys2Proof.Machine

/-! ### Checks at issue, Tables 11-15 and 11-16 -/

def Fmt.code : Fmt → Nat
  | .v8 => 0 | .g8 => 1 | .bf16 => 2 | .fp16 => 3 | .fp32 => 4 | .u32 => 5 | .byte => 6
def Fmt.ofCode : Nat → Fmt
  | 0 => .v8 | 1 => .g8 | 2 => .bf16 | 3 => .fp16 | 4 => .fp32 | 5 => .u32 | _ => .byte
def Scale.code : Scale → Nat
  | .none => 0 | .tensor _ _ => 1 | .block _ _ _ _ => 2
/-- The match index of the next collective of a context in a trick (R328). -/
def Ctx.nextColl (x : Ctx) (t : Nat) : Nat := ((x.collK.find? fun p => p.1 == t).map Prod.snd).getD 0 + 1
/-- The match index of the next SEND or RECV (R332). -/
def TrickRec.nextXfer (r : TrickRec) (snd : Bool) (peer tag : Nat) : Nat :=
  ((r.xfers.find? fun p => p.1 == snd && p.2.1 == peer && p.2.2.1 == tag).map fun p => p.2.2.2).getD 0 + 1

def State.issueColl (s : State) (x : Ctx) (func : Nat) (f : CollF) : Issue :=
  let j := s.job
  let sA := x.arch.reg f.sA
  let sB := x.arch.reg f.sB
  let rank := bits sA 15 0
  let tag := bits sA 31 16
  let first := lo32 sB
  let count := hi32 sB
  let n := s.memberCount
  let root := func == 3 && rank == s.myRank
  let ranged := func == 1 || func == 2 || func ≥ 4
  let d := useIf (func != 4) (useHnd j x f.bd.toNat Cls.copyDst true)
  let b := useIf (func != 5 && (func != 3 || root)) (useHnd j x f.bs.toNat Cls.copySrc false)
  let base := [d.2, b.2, illegal (func == 3 && bits sA 63 16 != 0), illegal (func ≥ 4 && bits sA 63 32 != 0),
    illegal (func ≥ 3 && decide (rank ≥ n)), illegal (func ≥ 4 && rank == s.myRank), illegal (ranged && count == 0),
    illegal (func == 3 && !root && f.bs != 0), if func = 5 then rcChk (x.arch.reg f.sRC) else none]
  let agree := match d.1, b.1 with
    | some y, some z =>
      let same := y.rows == z.rows && y.cols == z.cols && y.fmt == z.fmt
      if func ≤ 1 then same && (y.fmt == .fp32 || y.fmt == .bf16 || y.fmt == .fp16) && y.scale == .none && z.scale == .none
      else same && y.scale.code == z.scale.code
    | _, _ => true
  let beyond (y : Option Buffer) : Bool := ranged && !optOk y fun y => decide (first + count ≤ y.elems)
  let host := match b.1 with
    | none => none
    | some y => s.hostRead y f.bs.toNat
  let bad := pickLate (base ++ [illegal (!agree), illegal (beyond d.1 || beyond b.1), host])
  let k := if func ≤ 3 then (match x.tag with
      | none => 0
      | some t => x.nextColl t)
    else match x.tag.bind s.trick? with
      | none => 0
      | some r => r.nextXfer (func == 4) rank tag
  let op : CollOp := ⟨func, d.1.map Buffer.id, b.1.map Buffer.id, rank, tag, first, count, rcGet (x.arch.reg f.sRC), f.sRC == 0, k⟩
  ⟨bad, some (.coll op), optReach b.1 ++ (match d.1 with
    | none => []
    | some y => y.storeReads), (match d.1 with
    | none => []
    | some y => y.stores), d.1.map Buffer.id⟩

/-- Issuing counts the instruction for matching. -/
def State.noteColl (s : State) (c : CtxId) (t : Nat) (o : CollOp) : State :=
  if o.func ≤ 3 then
    { s with job := s.job.modCtx c fun x => { x with collK := (t, o.k) :: (x.collK.filter fun (p : Nat × Nat) => p.1 != t) } }
  else
    let me (p : Bool × Nat × Nat × Nat) : Bool := p.1 == (o.func == 4) && p.2.1 == o.rank && p.2.2.1 == o.tag
    s.modTrick t fun r => { r with xfers := (o.func == 4, o.rank, o.tag, o.k) :: (r.xfers.filter fun p => !me p) }

/-! ### What goes over the tree -/

/-- What a transfer says of itself. -/
structure Desc where
  (func tag k fmt mode total first count : Nat) (root : Nat)
  deriving DecidableEq, Repr
/-- Send one transfer: a frame that describes it (a layout of the model's own, log entry 21), then its data (R391). -/
def State.sendXfer (s : State) (m : BitVec 9) (t : Nat) (a : Byte) (c : CtxId) (e : Desc) (d : List Byte) : State :=
  let head := [BitVec.ofNat 8 c.val, BitVec.ofNat 8 e.func] ++ leBytes e.tag 2 ++ leBytes e.k 4
  let s := s.sendPeer m classDATA t a (head ++ leBytes (2 ^ 64 - 1) 8 ++ leBytes e.fmt 1 ++ leBytes e.mode 1 ++ leBytes e.root 2 ++
    leBytes e.total 8 ++ leBytes e.first 4 ++ leBytes e.count 4 ++ leBytes d.length 8) d.isEmpty
  s.sendXferGo m t a head (d.length / 8176 + 1) 0 d

/-- Members of a subtree of the collective tree, by position: n levels below position p. -/
def subtree (fan size : Nat) : Nat → Nat → List Nat
  | 0, _ => []
  | n + 1, p => if p < size then p :: (List.range fan).flatMap fun i => subtree fan size n (fan * p + 1 + i) else []
/-- Ranks in the subtree of the member at a position. -/
def State.ranksBelow (s : State) (p : Nat) : List Nat :=
  (subtree s.fanout s.ranks.length s.ranks.length p).filterMap fun i => (s.ranks[i]?).map fun e => e.rank.toNat
def State.posOf (s : State) (m : BitVec 9) : Nat := (s.ranks.findIdx? fun e => e.mid == m).getD 0
def State.subRanks (s : State) (m : BitVec 9) : List Nat := s.ranksBelow (s.posOf m)
def State.neighbours (s : State) : List (BitVec 9) := s.parent.toList ++ s.children

def Xfer.whole (x : Xfer) : Bool := decide (x.got ≥ x.len)
def Xfer.bytes (x : Xfer) : List Byte := memReadN 0 x.mem 0 x.len
/-- Element i of a transfer. -/
def Xfer.el (x : Xfer) (i : Nat) : Nat :=
  let w := (Fmt.ofCode x.fmt.toNat).bytes
  leNat (memReadN 0 x.mem (i * w) w)

/-- What this member's instruction says of its collective. -/
def Job.collDesc (j : Job) (o : CollOp) (rank : Nat) : Desc :=
  match (o.bd.bind j.buf?).orElse fun _ => o.bs.bind j.buf? with
  | none => ⟨o.func, 0, o.k, 0, 0, 0, 0, 0, 0⟩
  | some b => ⟨o.func, 0, o.k, b.fmt.code, b.scale.code, b.elems, if o.func = 2 then o.first else 0,
      if o.func = 2 then o.count else b.elems, if o.func = 3 then o.rank else if o.func = 2 then rank else 0⟩
/-- A received transfer belongs to the collective. -/
def Xfer.forColl (x : Xfer) (t : Nat) (a : Byte) (c : CtxId) (k : Nat) : Bool :=
  x.trick == t && x.att == a && x.ctx == c && decide (x.func ≤ 3) && x.k == k
/-- It agrees with this member's instruction (R328). -/
def Xfer.agrees (x : Xfer) (e : Desc) : Bool :=
  x.func == e.func && x.total == e.total && x.fmt.toNat == e.fmt && x.mode.toNat == e.mode && (e.func == 2 || x.root.toNat == e.root)

/-- A description that no instruction agrees with: a disagreement travels on as it (log entry 21). -/
def Desc.clash (e : Desc) : Desc := { e with fmt := 7, mode := 3, count := 0 }
/-- A match without data, which tells the neighbours of the tree what this member's instruction is: its tag is 1. -/
def Desc.header (e : Desc) : Desc := { e with tag := 1, count := 0 }

/-- The outcome of an attempt to go on with a collective or transfer: the state, whether the member's own part has been
sent, and the effect once it is complete. -/
structure CollR where
  (s : State) (up : Bool) (fx : Option FxR)
  deriving DecidableEq, Repr

/-- The raw elements of a buffer. -/
def Buffer.words (b : Buffer) : List Nat := (List.range b.elems).map b.rawEl
def wordsBytes (f : Fmt) (l : List Nat) : List Byte := l.flatMap fun w => leBytes w f.bytes
def bytesWords (f : Fmt) (n : Nat) (d : List Byte) : List Nat := (List.range n).map fun i => fieldAt d (i * f.bytes) f.bytes

/-- R203 and R329 at a node: the own values and those of the children in ascending rank, element by element. -/
def nodeSum (f : Fmt) (own : List Nat) (kids : List (List Nat)) : FM (List Nat) :=
  ((List.range own.length).zip own).mapM fun (i, w) => do
    let v ← loadEl f .none w
    let v ← kids.foldlM (fun v (k : List Nat) => fadd v (unpack f (k.getD i 0))) v
    storeEl f .none none v
/-- Write words at flat indices of the destination; the NFREC of each tile is made anew (R329). -/
def State.putWords (s : State) (c : CtxId) (trick : Nat) (bd : Nat) (l : List (Nat × Nat)) (a : Acc) : FxR :=
  let s := s.viewAll [bd]
  match s.job.buf? bd with
  | none => fxOk s a
  | some b =>
    let cells := l.map fun p => (p.1 / b.cols, p.1 % b.cols)
    let j := (s.job.modBuf bd fun y => l.foldl (fun y p => y.setRawEl p.1 p.2) y).noteTiles bd cells
    fxOk { s with job := (j.stageHost bd cells trick c.val).dropViews } a

/-! ### ARED, RSCAT, AGATH, BCAST -/

/-- Go on with a collective of entry q; up says the own part went up already. Its first attempt tells the tree's neighbours what the
instruction is, so that whichever way the data goes a disagreement is met between some two of them. -/
def State.collTry (s : State) (c : CtxId) (q : QE) (o : CollOp) (up : Bool) : CollR :=
  let t := q.trick
  let a := ((s.trick? t).getD .empty).att
  let me := s.myRank
  let e := s.job.collDesc o me
  let mine (x : Xfer) : Bool := x.forColl t a c o.k
  let s := if q.wait = some .coll then s else s.neighbours.foldl (fun s m => s.sendXfer m t a c e.header []) s
  match s.job.xfers.find? fun x => mine x && !x.agrees e with
  | some _ =>
    -- the disagreement travels on, so that every matched context meets it
    let s := s.neighbours.foldl (fun s m => s.sendXfer m t a c e.clash []) s
    ⟨s, up, some (fxLate s ⟨stILLEGAL, 0xFF, 0⟩)⟩
  | none =>
    let from? (m : BitVec 9) (root : Nat) : Option Xfer :=
      s.job.xfers.find? fun x => mine x && x.src == m && x.tag == 0 && x.whole && (o.func != 2 || x.root.toNat == root)
    let bs := o.bs.bind s.job.buf?
    let bd := o.bd.getD 0
    let f : Fmt := Fmt.ofCode e.fmt
    let view := s.viewAll (o.bs.toList)
    let s0 : State := { view with job := view.job.dropViews }
    let own : List Nat := match o.bs.bind view.job.buf? with
      | none => []
      | some b => b.words
    let later : CollR := ⟨s, up, none⟩
    let wrote (s : State) (ws : List Nat) (acc : Acc) : FxR :=
      let l := (List.range ws.length).zip ws
      let part := if o.func = 1 then (o.first, o.count) else (0, ws.length)
      let s := if o.func ≤ 1 then { s with job := s.job.modBuf bd fun y => { y with exchanged := y.exchanged ++ [(t, part)] } } else s
      s.putWords c t bd (l.filter fun p => decide (part.1 ≤ p.1 ∧ p.1 < part.1 + part.2)) acc
    match o.func with
    | 3 =>
      -- BCAST: each member's match goes towards the root; once all have come there, the data goes the other way
      let src := if o.rank = me then none
        else (s.children.find? fun m => (s.subRanks m).contains o.rank).orElse fun _ => s.parent
      let away := s.neighbours.filter fun m => some m != src
      match away.mapM fun m => from? m o.rank with
      | none => later
      | some _ =>
        match src with
        | none =>
          -- the root; alone in its job it stores as R329 does where R329 may (R328)
          let (ws, acc) := if away.isEmpty && e.mode == 0 && (f == .fp32 || f == .bf16 || f == .fp16) then nodeSum f own [] .zero
            else (own, .zero)
          let s := away.foldl (fun s m => s.sendXfer m t a c e (wordsBytes f ws)) s0
          ⟨s, true, some (wrote s ws acc)⟩
        | some m =>
          let s := if up then s else s.sendXfer m t a c { e with count := 0 } []
          match from? m o.rank with
          | none => ⟨s, true, none⟩
          | some x =>
            let s := away.foldl (fun s k => s.sendXfer k t a c e x.bytes) s
            ⟨s, true, some (wrote s (bytesWords f e.total x.bytes) .zero)⟩
    | 2 =>
      -- AGATH: ranges by origin, up from the subtrees, then down
      let need (m : BitVec 9) (l : List Nat) : Option (List Xfer) := l.mapM fun r => from? m r
      let below := s.children.mapM fun m => need m (s.subRanks m)
      match below with
      | none => later
      | some l =>
        let kids := l.flatten
        -- the own range is read once, and what was sent is what every member receives
        let ownD := match s.job.xfers.find? fun x => mine x && x.src == s.fab.mid && x.tag == 0 with
          | some x => x.bytes
          | none => wordsBytes f ((own.drop o.first).take o.count)
        let re (x : Xfer) : Desc := { e with first := x.first, count := x.count, root := x.root.toNat }
        let (s, up) : State × Bool := if up then (s, up) else match s.parent with
          | none => (s, true)
          | some p =>
            let s := s0.sendXfer p t a c e ownD
            let s := { s with job := s.job.acceptData s.fab.mid t a (.xfer c (BitVec.ofNat 3 o.func) 0 o.k (BitVec.ofNat 3 e.fmt)
              (BitVec.ofNat 2 e.mode) e.total e.first e.count ownD.length (BitVec.ofNat 16 me) 0 ownD) }
            (kids.foldl (fun s x => s.sendXfer p t a c (re x) x.bytes) s, true)
        let mineRanks := me :: kids.map fun x => x.root.toNat
        let rest := match s.parent with
          | none => some []
          | some p => need p ((s.ranks.map fun (v : ViewEntry) => v.rank.toNat).filter fun r => !mineRanks.contains r)
        match rest with
        | none => ⟨s, up, none⟩
        | some r =>
          let all := kids ++ r
          let s := s.children.foldl (fun s m =>
            let sub := s.subRanks m
            let s := s.sendXfer m t a c e ownD
            (all.filter fun x => !sub.contains x.root.toNat).foldl (fun s x => s.sendXfer m t a c (re x) x.bytes) s) s
          let parts : List (Nat × List (Nat × Nat)) :=
            (me, ((List.range o.count).map (o.first + ·)).zip (bytesWords f o.count ownD)) ::
              all.map fun x => (x.root.toNat, (List.range x.count).map fun i => (x.first + i, x.el i))
          let sorted := sortBy (fun (p q : Nat × List (Nat × Nat)) => decide (p.1 < q.1)) parts
          ⟨s, up, some (s.putWords c t bd (sorted.flatMap Prod.snd) .zero)⟩
    | _ =>
      -- ARED and RSCAT
      if up then
        match s.parent with
        | none => later
        | some p => match from? p 0 with
          | none => later
          | some x =>
            let s := s.children.foldl (fun s m => s.sendXfer m t a c e x.bytes) s
            ⟨s, true, some (wrote s (bytesWords f e.total x.bytes) .zero)⟩
      else
        match s.children.mapM fun m => from? m 0 with
        | none => later
        | some kids =>
          match bs with
          | none => later
          | some _ =>
            let (ws, acc) := nodeSum f own (kids.map fun x => bytesWords f e.total x.bytes) .zero
            let d := wordsBytes f ws
            match s.parent with
            | none =>
              let s := s.children.foldl (fun s m => s.sendXfer m t a c e d) s0
              ⟨s, true, some (wrote s ws acc)⟩
            | some p =>
              let fl (s : State) : State := { s with job := s.job.modCtx c fun x => x.mapEntries fun y =>
                if y.uid = q.uid then { y with flags := y.flags ||| acc.fl } else y }
              let s := (s0.sendXfer p t a c e d).modTrick t fun r => { r with counts := r.counts.add acc.num }
              ⟨fl s, true, none⟩

/-! ### SEND and RECV, R332 -/

/-- Bytes of a SEND: the elements as they stand, then what a load applies: a byte per element, or the tensor factor. -/
def Job.sendBytes (j : Job) (b : Buffer) (first count : Nat) : List Byte :=
  let is := (List.range count).map (first + ·)
  (is.flatMap fun i => leBytes (b.rawEl i) b.fmt.bytes) ++ (match b.scale with
    | .none => []
    | .tensor t _ => leBytes t.toNat 4
    | .block n d _ sb => is.map fun i => BitVec.ofNat 8 (j.scaleByte sb (scaleIdx b.cols n d (i / b.cols) (i % b.cols))))
/-- The load of element i of a received transfer. -/
def Xfer.loadEl (x : Xfer) (i : Nat) : FM Fp :=
  let f := Fmt.ofCode x.fmt.toNat
  let o := x.count * f.bytes
  let sc : LScale := match x.mode.toNat with
    | 0 => .none
    | 1 => .ten (unpackRaw .fp32 (leNat (memReadN 0 x.mem o 4)))
    | _ => .blk (memRead 0 x.mem (o + i)).toNat
  Sys2Proof.Machine.loadEl f sc (x.el i)

def State.xferTry (s : State) (c : CtxId) (q : QE) (o : CollOp) (up : Bool) : CollR :=
  let t := q.trick
  let a := ((s.trick? t).getD .empty).att
  let peer := (s.midOfRank o.rank).getD 0
  let came (fn : Nat) : Option Xfer :=
    s.job.xfers.find? fun x => x.trick == t && x.att == a && x.src == peer && x.func == fn && x.tag == o.tag && x.k == o.k
  if o.func = 4 then
    let s := if up then s
      else
        let v := s.viewAll o.bs.toList
        match o.bs.bind v.job.buf? with
        | none => s
        | some b =>
          let d := v.job.sendBytes b o.first o.count
          { v with job := v.job.dropViews }.sendXfer peer t a c ⟨4, o.tag, o.k, b.fmt.code, b.scale.code, b.elems, o.first, o.count, 0⟩ d
    ⟨s, true, (came 5).map fun _ => fxOk s .zero⟩
  else
    -- the RECV tells its partner that it is there
    let s := if up then s else s.sendXfer peer t a c ⟨5, o.tag, o.k, 0, 0, 0, o.first, o.count, 0⟩ []
    match came 4, o.bd with
    | some x, some bd =>
      if !x.whole then ⟨s, true, none⟩
      else match s.job.buf? bd with
        | none => ⟨s, true, some (fxOk s .zero)⟩
        | some b =>
          let f := Fmt.ofCode x.fmt.toNat
          if x.count ≠ o.count ∨ (f ≠ b.fmt ∧ (!f.isFloat ∨ !b.fmt.isFloat)) then ⟨s, true, some (fxLate s ⟨stILLEGAL, 0xFF, 0⟩)⟩
          else if f = b.fmt ∧ ((x.mode = 0 ∧ b.scale = .none ∧ o.raw) ∨ !f.isFloat) then
            ⟨s, true, some (s.putWords c t bd ((List.range o.count).map fun i => (o.first + i, x.el i)) .zero)⟩
          else
            let s := s.viewAll [bd]
            let (j, acc) := (do
              let els ← (List.range o.count).mapM fun i => do
                let k := o.first + i
                return (k / b.cols, k % b.cols, ← x.loadEl i)
              s.job.storeVec bd els [] (drawOf s.job.seed t o.rc) : FM Job) .zero
            let cells := (List.range o.count).map fun i => ((o.first + i) / b.cols, (o.first + i) % b.cols)
            ⟨s, true, some (fxOk { s with job := (j.stageHost bd cells t c.val).dropViews } acc)⟩
    | _, _ => ⟨s, true, none⟩

def State.goColl (s : State) (c : CtxId) (q : QE) (o : CollOp) (up : Bool) : CollR :=
  if o.func ≤ 3 then s.collTry c q o up else s.xferTry c q o up

/-- Destination bytes and charge (Table 12-7): this member's bs bytes plus bd bytes, ranges as moved, scale bytes included. -/
def Job.collCharge (j : Job) (o : CollOp) : Nat × Nat :=
  let size (b : Option Nat) : Nat := match b.bind j.buf? with
    | none => 0
    | some y =>
      let n := if o.func ≥ 4 then o.count else y.elems
      let first := if o.func ≥ 4 then o.first else 0
      n * y.fmt.bytes + (match y.scale with
        | .block _ _ _ _ => (((List.range n).map fun i => y.blockOf ((first + i) / y.cols) ((first + i) % y.cols)).eraseDups).length
        | _ => 0)
  (size o.bd, size o.bs + size o.bd)

end Sys2Proof.Machine
end

