-- ==== Sys2Proof/Machine/Tricks.lean ====
section
/-! DEFINITION. Waits, event counters, fences, tricks and queries (R294 to R301, R219 to R222, R252 to R255). -/

namespace Sys2Proof.Machine

def State.stallAt (s : State) (c : CtxId) (k : Stall) : State :=
  { s with job := s.job.modCtx c fun x => { x with stall := some k } }.settle
/-- The stalled instruction ends: the stall clears and the effect on the architectural state is made. -/
def State.unstall (s : State) (c : CtxId) (f : Arch → Arch) : State :=
  { s with job := s.job.modCtx c fun x => { x with stall := none, arch := f x.arch } }.settle

/-! ### WAIT, R252 and R294 -/

/-- A WAIT of a context on a buffer's counter has observed the publishes of it that it counts (R254, R264): those of update passes
among them (R561). -/
def State.observe (s : State) (c : CtxId) (x : Ctx) (b : Option Nat) : State :=
  { s with job := { s.job with buckets := s.job.buckets.map fun (p : BktPass) =>
      if p.pub.isSome && p.pub == b && (decide (p.trick < s.stat.sealedN) || x.tag.any fun t => decide (p.trick ≤ t)) &&
          !(p.seen.any fun o => o.1 == c) then { p with seen := p.seen ++ [(c, x.last)] }
      else p } }

def execWait (c : CtxId) (f : WaitF) (s : State) : Host.Outcome State Fault Refusal :=
  seatTake s c f.g f.word f.legal [f.sN] fun s x =>
    let k : Stall := .wait f.e ((x.arch.reg f.sN).setWidth 32 + f.imm) f.word
    if s.job.boundGone (x.arch.ctr f.e) then s.seatFault c x stBUFFER 0xFF f.word 0
    else if !f.legal then s.seatFault c x stILLEGAL 0xFF f.word 0
    else if s.stallHolds x k then s.stallAt c k else (s.observe c x (x.arch.ctr f.e).bound).modArch c Arch.next

def execWaitSatisfied (c : CtxId) (s : State) : Host.Outcome State Fault Refusal :=
  match s.job.ctx? c with
  | none => .next s
  | some x =>
    match x.stall with
    | some (.wait e n w) =>
      if x.resid ≠ .resident || s.stallHolds x (.wait e n w) then .next s
      else if s.job.boundGone (x.arch.ctr e) then
        .next ({ s with job := s.job.modCtx c fun y => { y with stall := none } }.seatFault c x stBUFFER 0xFF w 0)
      else .next ((s.observe c x (x.arch.ctr e).bound).unstall c Arch.next)
    | _ => .next s

/-! ### EVT, R295 -/

def execEvtRead (c : CtxId) (f : EvtF) (s : State) : Host.Outcome State Fault Refusal :=
  seatRun s c f.g (f.word 0) f.legal [f.s] fun s x =>
    if s.job.boundGone (x.arch.ctr f.e) then
      let (n, s) := s.takeFresh
      s.modArch c fun a => (a.setReg f.s ((Config.freeValue n).setWidth 32 |>.setWidth 64)).next
    else s.modArch c fun a => (a.setReg f.s ((s.job.ctrVal x f.e).setWidth 64)).next

def execEvtSet (c : CtxId) (f : EvtF) (s : State) : Host.Outcome State Fault Refusal :=
  seatRun s c f.g (f.word 1) f.legal [f.s] fun s x =>
    if (x.arch.ctr f.e).bound.isSome then s.seatFault c x stILLEGAL 0xFF (f.word 1) 0
    else s.modArch c fun a => (a.setCtr f.e ⟨(a.reg f.s).setWidth 32, none⟩).next

def execEvtAdd (c : CtxId) (f : EvtF) (s : State) : Host.Outcome State Fault Refusal :=
  seatRun s c f.g (f.word 2) f.legal [f.s] fun s x =>
    if (x.arch.ctr f.e).bound.isSome then s.seatFault c x stILLEGAL 0xFF (f.word 2) 0
    else s.modArch c fun a => (a.setCtr f.e ⟨(a.ctr f.e).val + (a.reg f.s).setWidth 32, none⟩).next

def execEvtBind (c : CtxId) (f : EvtF) (s : State) : Host.Outcome State Fault Refusal :=
  seatTake s c f.g (f.word 3) f.legal [] fun s x =>
    match s.job.live (x.arch.hnd f.bh) with
    | none => s.seatFault c x stBUFFER (f.bh.setWidth 8) (f.word 3) (BitVec.allOnes 64)
    | some (_, b) => if !f.legal then s.seatFault c x stILLEGAL 0xFF (f.word 3) 0 else s.modArch c fun a => (a.setCtr f.e ⟨0, some b.id⟩).next

def execEvtLocal (c : CtxId) (f : EvtF) (s : State) : Host.Outcome State Fault Refusal :=
  seatRun s c f.g (f.word 4) f.legal [] fun s _ =>
    s.modArch c fun a => (a.setCtr f.e ⟨0, none⟩).next

/-! ### FENCE, R296 -/

def execFence (c : CtxId) (f : FenceF) (s : State) : Host.Outcome State Fault Refusal :=
  seatRun s c f.g f.word f.legal [] fun s x =>
    if f.mask = 0 then s.seatFault c x stILLEGAL 0xFF f.word 0
    else if x.fenceHeld f.mask then s.stallAt c (.fence f.mask) else s.modArch c Arch.next

/-! ### The FLAGS query, R300 and R301 -/

/-- CURRENT in [4:0], SEALED in [12:8]. -/
def Ctx.flagsWord (x : Ctx) : Dword := BitVec.ofNat 64 (x.arch.cur.toNat + 256 * x.sealedFl.toNat)
/-- Add to what an open trick does to SEALED. -/
def Ctx.noteFlags (x : Ctx) (t : Nat) (clr set : Fl) : Ctx :=
  if x.flagTricks.any fun f => f.trick == t then
    { x with flagTricks := x.flagTricks.map fun f =>
        if f.trick = t then { f with keep := f.keep &&& ~~~clr, add := (f.add &&& ~~~clr) ||| set } else f }
  else { x with flagTricks := x.flagTricks ++ [⟨t, ~~~clr, set⟩] }
/-- Clear flags: CURRENT at once, SEALED at once with no open tag and else at the seal. -/
def Ctx.clearFlags (x : Ctx) (m : Fl) : Ctx :=
  let y : Ctx := { x with arch := { x.arch with cur := x.arch.cur &&& ~~~m } }
  match x.tag with
  | none => { y with sealedFl := x.sealedFl &&& ~~~m }
  | some t => y.noteFlags t m 0
/-- The FLAGS query once the queues are empty. -/
def Ctx.doFlags (x : Ctx) (sd sa : SReg) (clr : Bool) : Ctx :=
  let m : Fl := (x.arch.reg sa).setWidth 5
  let v := x.flagsWord
  let y := if clr then x.clearFlags m else x
  { y with
    stall := none
    arch := (y.arch.setReg sd v).next }

def execQueryFlags (c : CtxId) (f : QueryF) (s : State) : Host.Outcome State Fault Refusal :=
  seatRun s c f.g (f.word 2) (f.legal 2) [f.sd, f.sa] fun s x =>
    if x.fenceHeld 7 then s.stallAt c (.qflags f.sd f.sa f.clr)
    else { s with job := s.job.modCtx c fun x => x.doFlags f.sd f.sa f.clr }

def execFenceDrained (c : CtxId) (s : State) : Host.Outcome State Fault Refusal :=
  match s.job.ctx? c with
  | none => .next s
  | some x =>
    if x.resid ≠ .resident then .next s
    else match x.stall with
      | some (.fence m) => if x.fenceHeld m then .next s else .next (s.unstall c Arch.next)
      | some (.qflags sd sa clr) =>
        if x.fenceHeld 7 then .next s
        else .next { s with job := s.job.modCtx c fun x => x.doFlags sd sa clr }.settle
      | _ => .next s

/-! ### TBEGIN and TSEAL, R219 to R222, R297, R298 -/

/-- At the job's first TBEGIN on this member its trick number goes up the tree, to be compared (R460). -/
def State.reportFirst (s : State) : State :=
  if s.job.recov.begunT then s
  else
    let s := s.setRecov fun r => { r with begunT := true }
    match s.parent with
    | none => s
    | some p => s.sendState p 9 s.stat.sealedN 0 0 []

/-- Join the trick: tag, snapshot with the PC after the TBEGIN, and after a restore the first refresh (R458). -/
def State.join (s : State) (c : CtxId) (t : Nat) (sd : SReg) : State :=
  let j := s.job.modCtx c fun x =>
    let a := (x.arch.setReg sd (BitVec.ofNat 64 t)).next
    { x with
      arch := a
      tag := some t
      last := some t
      stall := none
      joined := x.joined ++ [⟨t, false, a, []⟩] }
  let s := { s with job := j }.reportFirst
  let s := if s.job.recov.srcFirst then (s.setRecov fun r => { r with srcFirst := false }).startRefresh false true else s
  s.servePublish.settle

def execTbegin (c : CtxId) (f : TbeginF) (s : State) : Host.Outcome State Fault Refusal :=
  seatRun s c f.g f.word f.legal [f.sd] fun s x =>
    let t := s.joinTarget x
    if x.tag.isSome ∨ t > trickMax then s.seatFault c x stILLEGAL 0xFF f.word 0
    else
      -- a RESTORE comes too late once a context has issued TBEGIN, stalled or not (R458)
      let s := s.setRecov fun r => { r with issuedT := true }
      if s.stallHolds x (.tbegin f.sd f.word) then s.stallAt c (.tbegin f.sd f.word)
      else s.join c t f.sd

/-- A stalled TBEGIN whose condition has cleared joins (R220, R241, R337, R407, R484), or faults (R221). -/
def execStalledTbeginResume (c : CtxId) (s : State) : Host.Outcome State Fault Refusal :=
  match s.job.ctx? c with
  | none => .next s
  | some x =>
    match x.stall with
    | some (.tbegin sd w) =>
      if x.resid ≠ .resident || s.stallHolds x (.tbegin sd w) then .next s
      else if s.joinTarget x > trickMax then .next (s.seatFault c x stILLEGAL 0xFF w 0)
      else .next (s.join c (s.joinTarget x) sd)
    | _ => .next s

def execTseal (c : CtxId) (f : BareF) (s : State) : Host.Outcome State Fault Refusal :=
  seatRun s c f.g (f.word 0x1C) f.legal [] fun s x =>
    match x.tag with
    | none => s.seatFault c x stILLEGAL 0xFF (f.word 0x1C) 0
    | some t =>
      { s with job := s.job.modCtx c fun x =>
          { x with
            tag := none
            arch := x.arch.next
            joined := x.joined.map fun (k : Joined) => if k.trick = t then { k with tsealed := true } else k } }.settle

/-! ### QUERY, R300 -/

def execQueryTag (c : CtxId) (f : QueryF) (s : State) : Host.Outcome State Fault Refusal :=
  seatRun s c f.g (f.word 0) (f.legal 0) [f.sd] fun s x =>
    s.modArch c fun a => (a.setReg f.sd (BitVec.ofNat 64 (x.tag.getD allOnes48))).next

def execQueryLastjoin (c : CtxId) (f : QueryF) (s : State) : Host.Outcome State Fault Refusal :=
  seatRun s c f.g (f.word 1) (f.legal 1) [f.sd] fun s x =>
    s.modArch c fun a => (a.setReg f.sd (BitVec.ofNat 64 (x.last.getD allOnes48))).next

def execQueryFeature (c : CtxId) (f : QueryF) (s : State) : Host.Outcome State Fault Refusal :=
  seatRun s c f.g (f.word 4) (f.legal 4) [f.sd] fun s _ =>
    s.modArch c fun a => (a.setReg f.sd (s.job.feature.setWidth 64)).next

def execQueryMembers (c : CtxId) (f : QueryF) (s : State) : Host.Outcome State Fault Refusal :=
  seatRun s c f.g (f.word 5) (f.legal 5) [f.sd] fun s _ =>
    s.modArch c fun a => (a.setReg f.sd (BitVec.ofNat 64 (s.jobN + 65536 * s.myRank))).next

/-- An update pass precedes what the context does now (R263, R264). -/
def Job.passBefore (j : Job) (c : CtxId) (uid : Nat) : Bool := j.buckets.any fun p => p.uid == uid && p.before c
/-- Table 07-5: the newest sealed trick's update (R300), and beside it the passes of the context's own open trick that it issued or
whose publish it has observed, as summaries carry the speculation of their trick (R210). What another context has issued
meanwhile does not show (R299; log entry 73). -/
def State.updStat (s : State) (c : CtxId) (x : Ctx) : Dword :=
  let j := s.job
  let here := decide (x.tag = some s.stat.sealedN)
  let own := if here then j.t0.upd else none
  let (nf, cl) := match own.filter fun u => j.passBefore c u.uid with
    | none => (j.updNf, j.updC)
    | some u => (u.nf, u.clipF)
  let nf2 := match own.filter fun u => u.p2done && j.passBefore c u.p2uid with
    | none => j.updNf2
    | some u => u.nf2
  let wd := j.wdirty && !(here && j.t0.rebuilt.any (j.passBefore c))
  BitVec.ofNat 64 (nf.toNat + 2 * nf2.toNat + 4 * j.updCommit.toNat + 8 * wd.toNat + 16 * j.updSel.toNat + 2 ^ 32 * cl.toNat)
/-- The share NUMSHARE names. -/
def State.numShare (s : State) (a : Dword) : Dword :=
  let p := s.stat.shares.getD (bits a 2 0) (0, 0)
  ((if a.getLsbD 3 then p.2 else p.1) : Word).setWidth 64
/-- A sealed-state query, once what it waits for is decided: selector 3 or 6. -/
def State.doQuery (s : State) (c : CtxId) (x : Ctx) (sel : Nat) (sd sa : SReg) : State :=
  let v := if sel = 3 then s.updStat c x else s.numShare (x.arch.reg sa)
  s.unstall c fun a => (a.setReg sd v).next

def execQueryUpdstat (c : CtxId) (f : QueryF) (s : State) : Host.Outcome State Fault Refusal :=
  seatRun s c f.g (f.word 3) (f.legal 3) [f.sd] fun s x =>
    if s.stallHolds x (.sealedQuery 3 f.sd f.sa) then s.stallAt c (.sealedQuery 3 f.sd f.sa) else s.doQuery c x 3 f.sd f.sa

def execQueryNumshare (c : CtxId) (f : QueryF) (s : State) : Host.Outcome State Fault Refusal :=
  seatRun s c f.g (f.word 6) (f.legal 6) [f.sd, f.sa] fun s x =>
    if bits (x.arch.reg f.sa) 2 0 > 4 then s.seatFault c x stILLEGAL 0xFF (f.word 6) 0
    else if s.queryHeld x then s.stallAt c (.sealedQuery 6 f.sd f.sa) else s.doQuery c x 6 f.sd f.sa

def execSealedQueryResume (c : CtxId) (s : State) : Host.Outcome State Fault Refusal :=
  match s.job.ctx? c with
  | none => .next s
  | some x =>
    match x.stall with
    | some (.sealedQuery sel sd sa) =>
      if x.resid ≠ .resident || s.stallHolds x (.sealedQuery sel sd sa) then .next s else .next (s.doQuery c x sel sd sa)
    | _ => .next s

end Sys2Proof.Machine
end

