-- ==== Sys2Proof/Machine/Tiles.lean ====
section
/-! DEFINITION. The accumulator slots of the matrix tiles: how output tiles are dealt to physical tiles (R121, R185), and how a
slot is found, freed and filled again (R115 to R117, R159, R189, R560). -/

namespace Sys2Proof.Machine

/-! ### Dealing, R185 -/

/-- The physical tile of an output tile in a trick: the one it already has there (R121), the one that holds its sum, or the
one with the least assigned time. -/
def Job.tileFor (j : Job) (r : TrickRec) (b : Nat) (t : Nat × Nat) : Nat × Nat :=
  match r.dealt.find? (fun x => x.buf == b && x.r == t.1 && x.c == t.2), j.heldTile b t.1 t.2 with
  | some x, _ => (x.die, x.tile)
  | none, some o => (o.die, o.tile)
  | none, none => (mmaDie t.2, pickTile r.place r.dealt (mmaDie t.2))
/-- Deal the output tiles of an instruction, in ascending (r, c). -/
def Job.deal (j : Job) (m : MmaOp) (n : Nat) (r : TrickRec) : TrickRec :=
  m.tilesOf.foldl (fun r t =>
    let p := j.tileFor r m.bd t
    { r with dealt := r.dealt ++ [⟨m.bd, t.1, t.2, p.1, p.2, n⟩] }) r
/-- Deal the logit tiles of a soft-target instruction's products, which are placed the same way (R184, R320). They have no output
buffer: number 0. -/
def Job.dealSts (j : Job) (t : StsOp) (r : TrickRec) : TrickRec :=
  if t.func = 2 ∨ t.src then r
  else
    let n := ceilDiv (((j.buf? t.bx).map Buffer.cols).getD 0) 128
    (rect 0 0 (ceilDiv t.n 128) (ceilDiv t.prm.v 128)).foldl (fun (r : TrickRec) p =>
      let d := mmaDie p.2
      { r with dealt := r.dealt ++ [⟨0, p.1, p.2, d, pickTile r.place r.dealt d, n⟩] }) r
/-- The dealt place of an output tile. -/
def State.placeOf (s : State) (trick b : Nat) (t : Nat × Nat) : Nat × Nat := s.job.tileFor ((s.trick? trick).getD .empty) b t

/-! ### Finding a slot -/

/-- The held sums, oldest first, that must leave a tile's slots before an output tile has room there; none when drained tiles
hold the slots it needs (R159). The choice of the oldest is log entry 25. -/
def spillsFor (pair : Bool) : List OutTile → List Nat → Option (List OutTile)
  | [], used => if (freeSlot pair used).isSome then some [] else none
  | o :: r, used =>
    if (freeSlot pair used).isSome then some []
    else (spillsFor pair r (used.filter fun k => !(slotList o.pair o.slot).contains k)).map fun l => o :: l
/-- The sums held in the slots of a tile. -/
def Job.slotSums (j : Job) (d t : Nat) : List OutTile := j.tiles.filter fun o => o.live && o.lies == .slot && o.die == d && o.tile == t
/-- Units on one die alone. -/
def unitsAt (d n : Nat) : List Nat := (List.range 4).map fun k => if k = d then n else 0

/-- The test of a tile inside a trick runs: its slots are empty (R473). -/
def State.testRuns (s : State) (d t : Nat) : Bool := s.inTest.contains (56 * d + t) && (s.job.slotsAt d t).isEmpty

/-- What the products of an instruction wait for at an output tile: nothing, with the sums that leave first; a slot that a
drained tile holds, or the end of the tile's test; its sum, which is out of its slot; room in the working store. -/
inductive TileNeed where
  | ready (spills : List OutTile)
  | slot
  | reload
  | room (buf : Nat) (k : RoomKind)
  deriving DecidableEq, Repr

/-- Room for sums to leave their slots, or for a copy, is there now: no earlier request waits (R191). -/
def State.roomNow (s : State) (d n : Nat) : Bool := s.job.roomQ.isEmpty && s.fits (unitsAt d n) noUnits
/-- Sums leave slots of a die when the working store has room for them. -/
def State.spillNeed (s : State) (d : Nat) (l : List OutTile) : TileNeed := match l with
  | [] => .ready []
  | o :: _ => if s.roomNow d (l.map fun o => 2 * o.slots).sum then .ready l else .room o.buf (.slot o.r o.c)
def State.tileNeed (s : State) (q : QE) (m : MmaOp) (t : Nat × Nat) : TileNeed :=
  match s.job.heldTile m.bd t.1 t.2 with
  | some o =>
    -- a sum of a tile that has left service stays there while the trick before may add to it
    if q.trick ≠ s.stat.sealedN ∧ s.job.t0.begun ∧ !placed s.job.t1.place o.die o.tile then .slot
    else if o.lies ≠ .slot then match spillsFor o.pair (s.job.slotSums o.die o.tile) (s.job.slotsAt o.die o.tile) with
      | some (y :: l) => match s.spillNeed o.die (y :: l) with
        | .ready _ => .reload
        | n => n
      | _ => .reload
    else if o.copyDue q.trick && !s.roomNow o.die (2 * o.slots) then .room m.bd (.copy t.1 t.2 q.trick)
    else .ready []
  | none =>
    let p := s.placeOf q.trick m.bd t
    if s.testRuns p.1 p.2 then .slot
    else match spillsFor m.pair (s.job.slotSums p.1 p.2) (s.job.slotsAt p.1 p.2) with
    | none => .slot
    | some l => s.spillNeed p.1 l

/-! ### Movements, Table 06-4 -/

/-- A held sum goes to the working store as STASH data of its context, and is charged to it (R117, R189). -/
def Job.spillSum (j : Job) (o : OutTile) : Job :=
  (j.modTile o.buf o.r o.c fun y => { y with lies := .store }).modCtx o.ctx fun x => x.chargeMove (2 * o.bytes)
/-- Sums of a context leave their slots at its swap-out, each for which the working store has room that no earlier request waits
for (R117, R191). -/
def State.swapSums (s : State) (c : CtxId) : List OutTile → State
  | [] => s
  | o :: r =>
    if o.ctx == c && o.live && o.lies == .slot && s.roomNow o.die (2 * o.slots) then
      State.swapSums { s with job := s.job.spillSum o } c r
    else State.swapSums s c r
/-- Before products enter: sums leave their slots, and the copy R560 asks for is kept. The physical tile and slot. -/
def State.readyTile (s : State) (q : QE) (m : MmaOp) (t : Nat × Nat) (spills : List OutTile) : State × Nat × Nat × Nat :=
  match s.job.heldTile m.bd t.1 t.2 with
  | some o => ({ s with job := if o.copyDue q.trick then s.job.saveTile m.bd t.1 t.2 q.trick else s.job }, o.die, o.tile, o.slot)
  | none =>
    let p := s.placeOf q.trick m.bd t
    let j := spills.foldl Job.spillSum s.job
    ({ s with job := j }, p.1, p.2, (freeSlot m.pair (j.slotsAt p.1 p.2)).getD 0)

/-- Room requests of an MMA that has begun or may begin, each made once, in the order of its output tiles (R191). -/
def State.askTiles (s : State) (c : CtxId) (q : QE) (m : MmaOp) (cells : List (Nat × Nat)) : State :=
  cells.foldl (fun s t => match s.tileNeed q m t with
    | .room b k =>
      if s.job.roomQ.any fun r => r.buf == b && r.kind == k then s
      else { s with job := { s.job with roomQ := s.job.roomQ ++
          [⟨c, b, k, some q.trick, q.pc, q.insn, q.handle m.bd, q.uid⟩] } }
    | _ => s) s
/-- An MMA waits for room: each of its remaining output tiles does. -/
def State.mmaRoom (s : State) (q : QE) (m : MmaOp) (cells : List (Nat × Nat)) : Bool :=
  !cells.isEmpty && cells.all fun t => match s.tileNeed q m t with
    | .room _ _ => true
    | _ => false

end Sys2Proof.Machine
end

