-- ==== Sys2Proof/Machine/Engine.lean ====
section
/-! DEFINITION. How engine instructions are issued, wait, begin, are granted work, take effect and complete (R262 to R265,
R287, R302, R345 to R349), and the events of room, staging, the Pot, accumulator slots and spot duplication. -/

namespace Sys2Proof.Machine

/-! ### Order and waits -/

/-- Two instructions of a context reach one buffer, at least one of them writing it (R263). -/
def QE.clash (y q : QE) : Bool :=
  y.writes.any (fun b => q.reads.contains b || q.writes.contains b) || y.reads.any q.writes.contains
/-- An earlier instruction's effects must precede this one's. -/
def Ctx.heldBack (x : Ctx) (q : QE) : Bool := x.entries.any fun y => decide (y.uid < q.uid) && !y.settled && y.clash q

/-- Bytes a begun instruction will stage for a HOST destination (R227). -/
def Job.hostNeed (j : Job) (q : QE) : Nat :=
  let host (n : Nat) : Option Buffer := (j.buf? n).filter fun b => b.cls == .host
  let rectB (n r c h w : Nat) : Nat := match host n with
    | none => 0
    | some b => h * w * b.fmt.bytes + (if b.auto then b.blocksIn r c h w else 0)
  let all (n k : Nat) : Nat := match host n with
    | none => 0
    | some b => rectB n 0 0 k b.cols
  match q.op with
  | .copy bd _ dr dc _ _ h w _ => rectB bd dr dc h w
  | .fill bd dr dc h w _ => rectB bd dr dc h w
  | .gather bd _ _ _ n _ _ => all bd n
  | .scatter bd _ _ _ n _ _ => all bd n
  | .coll o => match o.bd.bind host with
    | none => 0
    | some b => (if o.func = 1 ∨ o.func = 5 then o.count else b.elems) * b.fmt.bytes
  | _ => 0
/-- Staging space granted and not yet filled: the trick and bytes of each such instruction. -/
def Job.stageHeld (j : Job) : List (Nat × Nat) :=
  (allEntries j).filterMap fun p => if (p.2.granted || p.2.begun) && !p.2.settled then some (p.2.trick, j.hostNeed p.2) else none
/-- R228: some true when the space is there, some false when a staged older trick will free some, none when it can never be. -/
def Job.stageAsk (j : Job) (t n : Nat) : Option Bool :=
  let held := j.stageHeld
  if n > stageBytes then none
  else if j.stagedBytes + (held.map Prod.snd).sum + n ≤ stageBytes then some true
  else if held.any (fun p => decide (p.1 < t ∧ p.2 ≠ 0)) || j.staged.any (fun w => match w with
    | .host k _ _ _ d => decide (k < t) && !d.isEmpty
    | .emit _ => false) then some false
  else none

/-- A pass two would write a half that a refresh has pinned (R444): an update was sealed since the refresh's point. -/
def State.pinned (s : State) (u : UpdOp) : Bool :=
  match s.job.recov.refresh, s.job.buf? u.bu with
  | some f, some b =>
    let hr := recHalf u.prm.tensors.length
    (match recCurrent b.mem hr with
      | none => false
      | some h => decide (leNat (b.readBytes (h * hr + 8) 6) ≥ f.point)) && s.job.recov.imgBufs.isSome
  | _, _ => false

/-- What an instruction that may otherwise begin waits for; granted says its reservation is held. -/
def State.waitOf (s : State) (q : QE) : Option EWait :=
  let j := s.job
  let bufs := (q.reads ++ q.writes).filterMap j.buf?
  let young := q.trick != s.stat.sealedN
  if bufs.any Buffer.moving then some .moving
  else if bufs.any fun b => !b.usable then some .room
  else if young && !q.bkts.isEmpty then some .bucket
  else match q.op with
    | .mma m => if s.mmaRoom q m (if q.begun then q.cells else m.tilesOf) then some .room else none
    | .upd u => if young && u.func != 2 then some .bucket else if u.func == 1 && s.pinned u then some .pin else none
    | .sts t => if t.func == 0 && !q.granted then some .pot else if s.stsWaits t then some .record else none
    | _ => if !q.granted && j.hostNeed q != 0 then some .stage else none

/-! ### Changing an entry -/

def State.modQE (s : State) (c : CtxId) (uid : Nat) (f : QE → QE) : State :=
  { s with job := s.job.modCtx c fun x => x.mapEntries fun q => if q.uid = uid then f q else q }
def State.dropQE (s : State) (c : CtxId) (uid : Nat) : State :=
  { s with job := s.job.modCtx c fun x => x.filterEntries fun q => q.uid != uid }
/-- A fault found after issue: the instruction writes nothing, and the fault is raised at its PC (R268, R302). -/
def State.engineFault (s : State) (c : CtxId) (q : QE) (l : Late) : State :=
  (s.dropQE c q.uid).raiseFault c (some q.trick) l.status l.handle q.pc q.insn l.detail

/-- Reserve Pot space for a FOLD's positions (R53). -/
def Job.potReserve (j : Job) (c : CtxId) (t : StsOp) (trick : Nat) : Job :=
  j.modBuf t.bp fun b =>
    let z := potRecBytes b.potK b.potTap
    { b with recs := b.recs ++ t.positions.map fun p => (⟨c, p, homeDie p, z, trick, [], [], false⟩ : PotRec) }
/-- The space of a FOLD is there on every die. -/
def Job.foldFits (j : Job) (t : StsOp) : Bool := match j.buf? t.bp with
  | none => false
  | some b => j.potFits (potNeed t.positions (potRecBytes b.potK b.potTap))
/-- A FOLD of earlier issue will write the record of a position. -/
def Job.foldComing (j : Job) (bp uid p : Nat) : Bool :=
  (allEntries j).any fun e => decide (e.2.uid < uid) && match e.2.op with
    | .sts t => t.func == 0 && t.bp == bp && decide (t.p0 ≤ p ∧ p < t.p0 + t.n)
    | _ => false

/-- The first instruction of a queue that has not begun. -/
def firstWaiting (l : List QE) : Option QE := l.find? fun q => !q.begun
def allKinds : List EngKind := [.matrix, .vector, .copy]

/-- The room requests of an MMA (R191). -/
def State.askMma (s : State) (c : CtxId) (q : QE) : State := match q.op with
  | .mma m => s.askTiles c q m (if q.begun then q.cells else m.tilesOf)
  | _ => s
/-- Look at the first unstarted instruction of one queue: its wait, and the requests it makes. That of a swapped-out context
goes on waiting in its saved state (R345, R358). -/
def State.pumpOne (s : State) (c : CtxId) (k : EngKind) : State :=
  match (s.job.ctx? c).bind fun x => (firstWaiting (x.queue k)).map fun q => (x, q) with
  | none => s
  | some (x, q) =>
    let set (s : State) (w : Option EWait) : State := if q.wait = w then s else s.modQE c q.uid fun q => { q with wait := w }
    if x.heldBack q then set s none
    else
      let w := s.waitOf q
      let late := if w = some .moving ∨ w = some .room then none
        else match q.op with
          | .sts t => if q.granted then none else s.stsLate q fun p => s.job.foldComing t.bp q.uid p
          | _ => none
      match late with
      | some l => s.engineFault c q l
      | none =>
        match w with
        | some .room =>
          let s := (set s w).askMma c q
          let l := (q.reads ++ q.writes).filter fun b => (s.job.buf? b).any fun y => y.place == .spilled
          { s with job := l.foldl (fun j b => j.askFill c (some q.trick) q.pc q.insn (q.handle b) q.uid b) s.job }
        | some .pot =>
          match q.op with
          | .sts t =>
            if s.job.potQ.any fun p => p.1 == q.uid then set s w
            else if s.job.potQ.isEmpty && s.job.foldFits t then
              { s with job := s.job.potReserve c t q.trick }.modQE c q.uid fun q => { q with granted := true, wait := none }
            else { set s w with job := { (set s w).job with potQ := (set s w).job.potQ ++ [(q.uid, c)] } }
          | _ => s
        | some .stage =>
          if s.job.stageQ.any fun p => p.1 == q.uid then set s w
          else match s.job.stageAsk q.trick (s.job.hostNeed q) with
            | none => s.engineFault c q ⟨stBUFFER, q.dstHandle, 0⟩
            | some true => s.modQE c q.uid fun q => { q with granted := true, wait := none }
            | some false => { set s w with job := { (set s w).job with stageQ := (set s w).job.stageQ ++ [(q.uid, c)] } }
        | _ => (set s w).askMma c q
/-- Begun matrix products whose remaining output tiles wait for room ask for it, and block their context meanwhile. -/
def State.pumpBegun (s : State) (c : CtxId) : State :=
  match s.job.ctx? c with
  | none => s
  | some x => x.qm.foldl (fun s q => match q.op with
    | .mma m =>
      if !q.begun || q.cells.isEmpty then s
      else
        let w := if s.mmaRoom q m q.cells then some EWait.room else none
        let s := if q.wait = w then s else s.modQE c q.uid fun q => { q with wait := w }
        s.askMma c q
    | _ => s) s

/-! ### Issue -/

/-- The completion fields of a word, and the summary's register. -/
structure Fin3 where
  (ec : EReg) (cnt pub : Bool) (sum : Option SReg)
  deriving DecidableEq, Repr

/-- Buffers an instruction reads at issue are in place, and no earlier instruction of the context still writes them. -/
def Job.earlyOk (j : Job) (x : Ctx) (l : List Nat) : Bool :=
  l.all fun n => (match j.buf? n with
    | none => true
    | some b => b.usable) && !x.entries.any fun y => !y.settled && y.writes.contains n
/-- The buffers read at issue are in place. -/
def Job.earlyIn (j : Job) (l : List Nat) : Bool := l.all fun n => match j.buf? n with
  | none => true
  | some b => b.usable
/-- What issuing records beside the queue entry. -/
def State.noteIssue (s : State) (c : CtxId) (uid trick : Nat) (pc : Dword) : EOp → State
  | .mma m => s.modTrick trick fun r =>
      let r := if m.wrole = 1 then { r with sites := addSite r.sites m.bb m.site } else r
      s.job.deal m ((s.job.buf? m.ba).elim 0 m.ksteps) r
  | .sts t => if t.func = 2 then s.modTrick trick fun r => { r with finIssued := true } else s.modTrick trick (s.job.dealSts t)
  | .upd u => s.noteUpd c uid trick pc u
  | .coll o => s.noteColl c trick o
  | _ => s

/-- The buffers an instruction issued now names that are buckets for it; an update pass goes by its own tensor list. -/
def EOp.drains : EOp → Bool
  | .mma _ | .coll _ => true
  | _ => false
def Job.bucketsOf (j : Job) (c : CtxId) (op : EOp) (reads writes : List Nat) : List Bkt := match op with
  | .upd _ => []
  | _ => (reads ++ if op.drains then writes else []).eraseDups.filterMap (j.bucketOf c)
/-- Enter an instruction into its queue. -/
def State.enqueue (s : State) (c : CtxId) (x : Ctx) (k : EngKind) (word : Dword) (f : Fin3) (i : Issue) (op : EOp) (t : Nat) : State :=
  let uid := s.job.nextUid
  let q : QE := ⟨uid, op, t, x.arch.pc, word, if f.cnt then some f.ec else none, if f.pub then i.dst else none, f.sum, 0, i.reads,
    i.writes, [], [], false, none, false, false, 0, none, s.job.bucketsOf c op i.reads i.writes,
    (i.reads ++ i.writes).eraseDups.map fun b => (b, x.handleIn s.job word b)⟩
  let y := { x.setQueue k (x.queue k ++ [q]) with arch := x.arch.next }
  let j := (s.job.setCtx c (some y)).touch (i.reads ++ i.writes) uid
  ({ s with job := { j with nextUid := uid + 1 } }).noteIssue c uid t x.arch.pc op

/-! ### Work units and effects -/

def State.unitsOf (s : State) (q : QE) : List (Nat × Nat) :=
  match q.op with
  | .mma m => mmaUnits m
  | .vec v => vecUnits v
  | .sts t => s.stsUnits t
  | .upd u => updUnits u
  | .coll o =>
    let (d, n) := s.job.collCharge o
    copyUnits d n
  | _ =>
    let (d, n) := s.copyCharge q
    copyUnits d n

/-- Counts of an instruction go to its trick (R111, R112). -/
def State.addCounts (s : State) (t : Nat) (n : NumCnt) : State := s.modTrick t fun r => { r with counts := r.counts.add n }
/-- The outcome of an effect goes into the entry, the trick's counts and the finished tiles. -/
def State.takeFx (_ : State) (c : CtxId) (q : QE) (r : FxR) : State :=
  match r.late with
  | some l => r.s.engineFault c q l
  | none =>
    let s := r.s.addCounts q.trick r.acc.num
    let s := s.modQE c q.uid fun q => { q with
      flags := q.flags ||| r.acc.fl
      sumVal := r.sum
      wait := none
      settled := r.fin.isEmpty }
    { s with job := { s.job with fins := s.job.fins ++ r.fin } }
/-- Go on with a collective or a transfer whose own work is done. -/
def State.collStep (s : State) (c : CtxId) (q : QE) (o : CollOp) : State :=
  let r := s.goColl c q o q.granted
  match r.fx with
  | some f => f.s.takeFx c q f
  | none => r.s.modQE c q.uid fun q => { q with granted := r.up, wait := some .coll }
/-- The first FINISH of a proof trick compares its loss pair with the entry (R451). -/
def State.proofCheck (s : State) (t : Nat) : State :=
  match s.job.recov.proof, (s.trick? t).bind TrickRec.loss with
  | some e, some l =>
    if e.trick ≠ t then s
    else
      let s := s.setRecov fun r => { r with proof := none }
      if e.loss = some l then { s.setRecov fun r => { r with proofHeld := true } with stat := { s.stat with proofOk := true } }
      else
        let s := { s with stat := { s.stat with proofBad := true } }
        (s.teardownAll stMISMATCH).jobEvent stMISMATCH t 0 4
  | _, _ => s
/-- The same over a whole state. -/
def State.onBuckets (s : State) (q : QE) (f : State → State) : State :=
  if q.bkts.isEmpty then f s
  else
    let t := f { s with job := s.job.asBuckets q.bkts q.op.drains }
    { t with job := s.job.offBuckets q.bkts t.job }
/-- A copy that reads an orphaned host region faults after issue (R424). -/
def State.orphanRead (s : State) (q : QE) : Option Late :=
  let src (n h : Nat) : Option Late := match s.job.buf? n with
    | none => none
    | some b => chk (b.cls == .host && !((s.region? b.region).any fun r => r.read && !r.orphaned)) stBUFFER (BitVec.ofNat 8 h) (BitVec.allOnes 64)
  match q.op with
  | .copy _ b _ _ _ _ _ _ _ => src b (bits q.insn 47 42)
  | .gather _ b i _ _ _ _ => pickLate [src b (bits q.insn 47 42), src i (bits q.insn 41 36)]
  | .scatter _ b i _ _ _ _ => pickLate [src b (bits q.insn 47 42), src i (bits q.insn 41 36)]
  | .coll o => (o.bs.bind fun b => src b (bits q.insn 44 39))
  | _ => none
/-- Source bytes a copy reads from INPUT buffers (R436). -/
def State.inputRead (s : State) (q : QE) : Nat :=
  let size (n rows cols : Nat) : Nat := match s.job.buf? n with
    | none => 0
    | some b => if b.cls == .input then rows * (if cols = 0 then b.cols else cols) * b.fmt.bytes else 0
  let isInput (n : Nat) : Bool := (s.job.buf? n).any fun b => b.cls == .input
  let rows (i ix n : Nat) : Nat := (((s.viewAll [i]).job.indices i ix n).filter fun v => v != 0xFFFFFFFF).length
  let index (i n : Nat) : Nat := if isInput i then 4 * n else 0
  match q.op with
  | .copy _ b _ _ _ _ h w _ => size b h w
  | .gather _ b i ix n _ _ => size b (rows i ix n) 0 + index i n
  | .scatter _ b i ix n _ _ => size b (rows i ix n) 0 + index i n
  | _ => 0
/-- The effect of an instruction. -/
def State.fxGo (s : State) (c : CtxId) (q : QE) : State :=
  match q.op with
  | .mma _ => s
  | .vec _ => s.takeFx c q (s.fxVec q)
  | .sts t =>
    let s := s.takeFx c q (s.fxSts q)
    if t.func = 2 then s.proofCheck q.trick else s
  | .upd u =>
    let s := s.takeFx c q (s.fxUpd q)
    -- pass one settles when the combined results are held here (R327)
    if u.func = 0 ∧ !(((s.trick? q.trick).bind TrickRec.upd).any UpdRec.held) then s.modQE c q.uid fun q => { q with settled := false }
    else s
  | .coll o => match s.orphanRead q with
    | some l => s.engineFault c q l
    | none => s.collStep c q o
  | _ => match s.orphanRead q with
    | some l => s.engineFault c q l
    | none =>
      let r := s.fxCopy c q
      let n := if r.late.isSome then 0 else s.inputRead q
      (s.takeFx c q r).modTrick q.trick fun t => { t with cursorBytes := t.cursorBytes + n }

/-- Every unit of the instruction has been granted: its effect. An MMA has had its effect unit by unit. -/
def State.runFx (s : State) (c : CtxId) (q : QE) : State := s.onBuckets q fun s => s.fxGo c q

/-- One unit of an MMA is granted: room is made for the output tile on its physical tile, and the products enter (R116, R118).
The instruction is settled when no output tile of it is left to receive products or to drain. -/
def State.runTile (s : State) (c : CtxId) (q : QE) (m : MmaOp) (t : Nat × Nat) (spills : List OutTile) (last : Bool) : State :=
  let (s, die, tile, slot) := s.readyTile q m t spills
  let s := s.onBuckets q fun s =>
    let r := s.fxMma c q m t die tile slot
    let s := r.s.addCounts q.trick r.acc.num
    { (s.modQE c q.uid fun y => { y with flags := y.flags ||| r.acc.fl }) with
      job := { (s.modQE c q.uid fun y => { y with flags := y.flags ||| r.acc.fl }).job with fins := s.job.fins ++ r.fin } }
  s.modQE c q.uid fun y => { y with settled := last && !(s.job.fins.any fun f => f.uid == q.uid) }
/-- Copy bytes of the movements Table 06-4 charges to an instruction when its work begins: activation blocks sent over the
ring to a product's dies, and logit tiles carried to their positions' home dies. -/
def State.moveBytes (s : State) (q : QE) : Nat := match q.op with
  | .mma m => match s.job.buf? m.bd, s.job.buf? m.ba with
    | some bd, some ba => m.actBytes bd ba
    | _, _ => 0
  | .sts t => s.job.stsMoves t
  | _ => 0

/-! ### Spot duplication, R163 to R167 -/

def ringNext (d : Nat) : Nat := (d + 1) % 4
/-- The engines in service after e on a die, in ascending index modulo 4, other than e. -/
def State.nextEngs (s : State) (d e : Nat) : List Nat :=
  let up := s.enginesUp d
  ((List.range 3).map fun i => (e + 1 + i) % 4).filter up.contains
/-- Count a vector operation of a trick on a die; each whose count modulo N is N − 1 is duplicated. Which engine of the die runs
an operation is not the program's to see and the spec leaves it open: the operations go round the engines in service, in the
order of their counts (log entry 91). DESIGN CHOICE (log entry 100): an operation's count is that of the operations begun before it,
so the first to be duplicated is the Nth. -/
def State.spotOp (s : State) (d : Fin 4) (trick : Nat) : State :=
  let n := s.cfg.spot.toNat % 65536
  let k := s.job.spotCnt.get d
  let up := s.enginesUp d
  let eng := up.getD (k % max 1 up.length) 0
  { s with job := { s.job with
      spotCnt := s.job.spotCnt.set d.val (k + 1) d.isLt
      spotWait := if n ≠ 0 ∧ k % n = n - 1 then s.job.spotWait ++ [⟨d.val, eng, trick, ((s.trick? trick).getD .empty).att⟩] else s.job.spotWait } }
/-- The duplicate's die and engine; of the next die's engines the lowest in service (log entry 91). -/
def State.dupEng (s : State) (d a : Nat) : Nat × Nat :=
  match s.nextEngs d a with
  | b :: _ => (d, b)
  | [] => (ringNext d, (s.enginesUp (ringNext d)).headD 0)
/-- The third copy's die and engine, by the same rule starting after the duplicate's, the original's left out; none when no third
engine is in service. -/
def State.thirdEng (s : State) (d a bd b : Nat) : Option (Nat × Nat) :=
  let other (k e : Nat) : Bool := !(k == d && e == a)
  match (s.nextEngs bd b).filter (other bd) with
  | e :: _ => some (bd, e)
  | [] => ((s.enginesUp (ringNext bd)).find? (other (ringNext bd))).map fun e => (ringNext bd, e)
/-- The verdict is recorded, and each engine it names receives its event (R165, R464). -/
def State.spotVerdict (s : State) (t : Third) (v : Nat) : State :=
  let s := { s with stat := { s.stat with spotLast := ⟨t.die, t.a, t.b, t.c, v, t.bdie != t.die || t.cdie != t.die, true⟩ } }
  let detail : Word := BitVec.ofNat 32 (t.die + 4 * t.a + 16 * t.b + 64 * t.c + 256 * v)
  let ev (s : State) (d e : Nat) : State := s.raiseEvent 2 ⟨.engine, 4 * d + e⟩ (some (t.trick, t.att)) detail
  let s := if v = 0 ∨ v = 2 then ev s t.die t.a else s
  if v = 1 ∨ v = 2 then ev s t.bdie t.b else s

def bump4 (v : Vector Nat 4) (d : Fin 4) : Vector Nat 4 := v.set d.val (satAdd (v.get d) 1 sat32) d.isLt

/-- The oldest duplicate of a die is compared. It counts whatever has become of its trick meanwhile, which a mismatch voids only in
the attempt it ran in. ENG_C is 0 where no third copy runs (log entry 91). -/
def execSpotDuplicateCompare (die : Fin 4) (mismatch : Bool) (s : State) : Host.Outcome State Fault Refusal :=
  match s.job.spotWait.find? fun w => w.die == die.val with
  | none => .next s
  | some w =>
    let s := { s with job := { s.job with spotWait := s.job.spotWait.erase w }, stat := { s.stat with spotRun := bump4 s.stat.spotRun die } }
    if !mismatch then .next s
    else
      let (bd, b) := s.dupEng die.val w.eng
      let third := s.thirdEng die.val w.eng bd b
      let k := third.getD (bd, 0)
      let t : Third := ⟨die.val, w.eng, bd, b, k.1, k.2, w.trick, w.att⟩
      let s := { s with stat := { s.stat with spotMis := bump4 s.stat.spotMis die } }
      let s := if ((s.trick? w.trick).map TrickRec.att) = some w.att then s.voteVoid w.trick 2 else s
      match third with
      | none => .next (s.spotVerdict t 2).settle
      | some _ => .next { s with job := { s.job with spotThird := s.job.spotThird ++ [t] } }.settle

def execThirdCopyVerdict (die : Fin 4) (v : SpotVerdict) (s : State) : Host.Outcome State Fault Refusal :=
  match s.job.spotThird.find? fun t => t.die == die.val with
  | none => .next s
  | some t =>
    let s := { s with job := { s.job with spotThird := s.job.spotThird.erase t } }
    .next (s.spotVerdict t (match v with
      | .aSuspect => 0
      | .bSuspect => 1
      | .both => 2)).settle

/-! ### Grants of engine work, R346 to R348 -/

/-- The unit of kind k on a die that an entry offers: its position in the unit list. MATRIX units of an STS stand at die
plus 4 and go before its VECTOR units. -/
def offers (k : EngKind) (own : EngKind) (die : Nat) (us : List (Nat × Nat)) : Option Nat :=
  if own = k then
    if own = .vector ∧ us.any (fun u => decide (u.1 ≥ 4)) then none else us.findIdx? fun u => u.1 == die
  else if own = .vector ∧ k = .matrix then us.findIdx? fun u => u.1 == die + 4
  else none
/-- The unit an entry offers on a die; for an MMA the first whose output tile may receive its products. -/
def State.offerOf (s : State) (k own : EngKind) (die : Nat) (q : QE) (us cells : List (Nat × Nat)) : Option Nat := match q.op with
  | .mma m =>
    if k ≠ .matrix then none
    else (List.range us.length).find? fun i => (us.getD i (0, 0)).1 == die && match s.tileNeed q m (cells.getD i (0, 0)) with
      | .ready _ => true
      | _ => false
  | _ => offers k own die us
/-- The output tiles of an entry's units. -/
def EOp.cells : EOp → List (Nat × Nat)
  | .mma m => m.tilesOf
  | _ => []
/-- The first instruction of a queue that offers a unit: begun ones, then the first unstarted one if it may begin. -/
def State.offerIn (s : State) (x : Ctx) (k own : EngKind) (die : Nat) : List QE → Option (QE × List (Nat × Nat) × Nat)
  | [] => none
  | q :: r =>
    if q.begun then
      match s.offerOf k own die q q.units q.cells with
      | some i => some (q, q.units, i)
      | none => s.offerIn x k own die r
    else if x.resid != .resident || x.heldBack q || (s.waitOf q).isSome then none
    else
      let us := s.unitsOf q
      (s.offerOf k own die q us q.op.cells).map fun i => ({ q with cells := q.op.cells }, us, i)
def State.offer (s : State) (x : Ctx) (k : EngKind) (die : Nat) : Option (QE × List (Nat × Nat) × Nat) :=
  match s.offerIn x k k die (x.queue k) with
  | some o => some o
  | none => if k = .matrix then s.offerIn x k .vector die x.qv else none
/-- A finished-tile queue entry of a context on a die (R159). -/
def Job.epiEntry (j : Job) (c : CtxId) (die : Nat) : Option FinTile := j.fins.find? fun f => f.ctx == c && f.epi && f.die == die
/-- A context has ready work of a kind on a die: a unit, or an epilogue. -/
def State.readyOn (s : State) (c : CtxId) (x : Ctx) (k : EngKind) (die : Nat) : Bool :=
  (s.offer x k die).isSome || (k == .vector && (s.job.epiEntry c die).isSome)
/-- The context whose unit of kind k a die begins next: least PASS, ties to the lower number (R348). -/
def State.grantee (s : State) (k : EngKind) (die : Nat) : Option (CtxId × Ctx) :=
  (s.job.ctxList.filter fun p => s.readyOn p.1 p.2 k die).foldl (fun a p => match a with
    | none => some p
    | some b => if passLt (p.2.pass k) (b.2.pass k) then some p else some b) none
/-- Contexts that gain ready work of a kind anywhere on the module are raised to GVT_k (R349). -/
def State.noteReady (s : State) : State :=
  allKinds.foldl (fun s k =>
    { s with job := s.job.mapCtxs fun c x => s.job.noteReady k ((List.range 4).any fun d => s.readyOn c x k d) x }) s
/-- Look at every queue, contexts in ascending number, then let the Table decide. -/
def State.pump (s : State) : State :=
  (ctxIds.foldl (fun s c => (allKinds.foldl (fun s k => s.pumpOne c k) s).pumpBegun c) s).noteReady.seatMove.settle

/-- Issue an engine instruction or a copy: R262, then the checks of R302 at one moment, then the queue. A word that reads a
spilled buffer at issue waits for its room (R191). -/
def engineRun (s : State) (c : CtxId) (g : Guard) (word : Dword) (legal : Bool) (uses : List SReg) (k : EngKind) (f : Fin3)
    (early : Job → Ctx → List Nat) (issue : State → Ctx → Issue) : Host.Outcome State Fault Refusal :=
  seatTake s c g word legal (uses ++ f.sum.toList) fun s x =>
    let l := early s.job x
    if (x.queue k).length ≥ 64 then s
    else if legal && !s.job.earlyOk x l then
      let s := { s with job := l.foldl (fun j b => j.askFill c x.tag x.arch.pc word (x.handleIn s.job word b) 0 b) s.job }
      if s.job.earlyIn l then s.settle else s.stallAt c .room
    else
      let i := issue s x
      match pickLate [illegal (!legal || x.tag.isNone || (f.cnt && (x.arch.ctr f.ec).bound.isSome)), i.bad] with
      | some b => s.seatFault c x b.status b.handle word b.detail
      | none =>
        match i.op, x.tag with
        | some op, some t => (s.enqueue c x k word f i op t).pump
        | _, _ => s

/-- The die begins the unit granted (R348). An MMA's unit has its effect at once; any other instruction has its effect with its
last unit. -/
def State.grantUnit (s : State) (die : Fin 4) (kind : EngKind) (c : CtxId) (q : QE) (us : List (Nat × Nat)) (i : Nat) : State :=
  let left := us.eraseIdx i
  let charge := (us.getD i (0, 0)).2
  let t := q.cells.getD i (0, 0)
  let need := match q.op with
    | .mma m => s.tileNeed q m t
    | _ => .slot
  let move := if q.begun then 0 else s.moveBytes q
  let s := { s with job := s.job.modCtx c fun x => (x.charge kind charge).chargeMove move }
  let s := s.modQE c q.uid fun y =>
    { y with begun := true, units := left, cells := q.cells.eraseIdx i, granted := false, wait := none }
  let s := if kind = .vector then s.spotOp die q.trick else s
  match q.op, need with
  | .mma m, .ready l => s.runTile c q m t l left.isEmpty
  | _, _ => if left.isEmpty then s.runFx c { q with begun := true, units := [], granted := false, wait := none } else s

def execEngineWorkGrant (die : Fin 4) (kind : EngKind) (s : State) : Host.Outcome State Fault Refusal :=
  match s.grantee kind die.val with
  | none => .next s
  | some (c, x) =>
    match s.offer x kind die.val with
    | none => .next s
    | some (q, us, i) => .next (s.grantUnit die kind c q us i).pump

/-! ### Drains and epilogues -/

/-- The MMA of a finished tile. -/
def Ctx.mmaOf (x : Ctx) (uid : Nat) : Option (QE × MmaOp) :=
  (x.qm.find? fun q => q.uid == uid).bind fun q => match q.op with
    | .mma m => some (q, m)
    | _ => none
/-- One tile's store is done: the tile leaves; the instruction is settled when none is left. -/
def State.tileDone (s : State) (f : FinTile) (r : Job × Acc) : State :=
  let s := ({ s with job := { r.1 with fins := r.1.fins.erase f } }).addCounts f.trick r.2.num
  let left := s.job.fins.any fun g => g.uid == f.uid
  s.modQE f.ctx f.uid fun q => { q with flags := q.flags ||| r.2.fl, settled := q.ran && !left }
/-- The event word of Table 04-6. -/
def abftWord (k : CheckFail) : Word :=
  BitVec.ofNat 32 (k.die + 4 * k.tile + 256 * k.row + 32768 * k.col + 2 ^ 22 * k.rowValid.toNat + 2 ^ 23 * k.colValid.toNat)
/-- A failed check: the tile is suspect and the trick voided, cause ABFT (R136). -/
def State.abft (s : State) (trick : Nat) (k : CheckFail) : State :=
  let att := ((s.trick? trick).getD .empty).att
  (s.voteVoid trick 1).raiseEvent 1 ⟨.tile, 56 * k.die + k.tile⟩ (some (trick, att)) (abftWord k)

/-- The context's next output tile with all its products drains: to its destination, or into the finished-tile queue when
it has an epilogue (R159, R306). The tile checks every logical row and column of the sum as it accumulated it (R134 to R136);
the values go on whatever the check finds. -/
def execOutputTileDrain (c : CtxId) (err : TileErr) (s : State) : Host.Outcome State Fault Refusal :=
  match s.job.fins.find? fun f => f.ctx == c && !f.epi, s.job.ctx? c with
  | some f, some x =>
    match x.mmaOf f.uid with
    | none => .next s
    | some (q, m) =>
      let g := { f with acc := errValues err f.h f.w f.acc, chk := errRefs err f.chk }
      let failed := g.check
      let fail := failed.filter fun _ => err.late
      let s := { s with job := { s.job with fins := s.job.fins.map fun y => if y = f then g else y } }
      if m.epi.isSome then
        let s := { s with job := { s.job with fins := s.job.fins.erase g ++
          [{ g with epi := true, nfrec := (s.job.asBuckets q.bkts true).tileNfrec m g, fail := fail }] } }
        .next (match failed with
          | some k => if err.late then s else s.abft f.trick k
          | none => s).pump
      else
        let s := s.tileDone g (s.job.onBuckets q.bkts fun j => j.drainTile m g .zero)
        .next (match failed with
          | some k => s.abft f.trick k
          | none => s).pump
  | _, _ => .next s

/-- A vector engine of a die takes the next entry of the finished-tile queue of the context whose turn it is (R159 to R161,
R348); a check that failed meanwhile voids the trick once the epilogue has run (Table 05-8). -/
def execEpilogue (die : Fin 4) (s : State) : Host.Outcome State Fault Refusal :=
  match s.grantee .vector die.val with
  | none => .next s
  | some (c, x) =>
    match s.job.epiEntry c die.val with
    | none => .next s
    | some f =>
      match x.mmaOf f.uid with
      | none => .next s
      | some (q, m) =>
        match m.epi with
        | none => .next s
        | some e =>
          let s := { s with job := s.job.modCtx c fun x => x.charge .vector (e.charge (f.h * f.w)) }
          let s := s.spotOp (Fin.ofNat 4 f.die) f.trick
          let s := s.tileDone f (s.job.onBuckets q.bkts fun j => j.runEpi m e f .zero)
          .next (match f.fail with
            | some k => s.abft f.trick k
            | none => s).pump

/-! ### Completion, R265 and R287 -/

/-- The context at the completion of an entry: counter, flags, summary. -/
def Ctx.finish (x : Ctx) (k : EngKind) (q : QE) : Ctx :=
  let a := { x.arch with cur := x.arch.cur ||| q.flags }
  let a := match q.ec with
    | none => a
    | some e => let r := a.ctr e
      if r.bound.isNone then a.setCtr e { r with val := r.val + 1 } else a
  let a := match q.sum with
    | none => a
    | some r => a.setReg r q.sumVal
  let x := x.setQueue k ((x.queue k).filter fun y => y.uid != q.uid)
  let x := { x with
    arch := a
    joined := match q.ec with
      | none => x.joined
      | some e => x.joined.map fun (j : Joined) => { j with incs := j.incs ++ [(q.trick, e)] } }
  if q.flags = 0 then x else x.noteFlags q.trick 0 q.flags

/-- An instruction all of whose effects on buffers are in place completes. -/
def execInstructionComplete (c : CtxId) (kind : EngKind) (s : State) : Host.Outcome State Fault Refusal :=
  match s.job.ctx? c with
  | none => .next s
  | some x =>
    match (x.queue kind).find? QE.settled with
    | none => .next s
    | some q =>
      let j := s.job.setCtx c (some (x.finish kind q))
      let j := match q.pub with
        | none => j
        | some b => j.modBuf b fun y => y.publish q.trick
      let s := { s with job := { j with buckets := j.buckets.map fun (p : BktPass) => if p.uid = q.uid then { p with pub := q.pub } else p } }
      let s := match q.pub with
        | none => s
        | some b => s.emitPublished b q.trick
      .next s.pump

/-! ### Movements and grants of the module's own -/

/-- A spilled sum returns to a slot of its tile (R117), sums that must leave it going out first into room that no earlier request
waits for (R191); the movement is charged to
the sum's owner (Table 06-4). -/
def execAccumulatorSlotReload (c : CtxId) (buf r col : Nat) (s : State) : Host.Outcome State Fault Refusal :=
  match s.job.heldTile buf r col with
  | none => .next s
  | some o =>
    if o.ctx ≠ c ∨ o.lies = .slot then .next s
    else
      let j := s.job.modTile buf r col fun y => { y with lies := .region none }
      match spillsFor o.pair (j.slotSums o.die o.tile) (j.slotsAt o.die o.tile) with
      | none => .next s
      | some l =>
        if !l.isEmpty && !({ s with job := j }).roomNow o.die (l.map fun (y : OutTile) => 2 * y.slots).sum then .next s
        else
          let j := l.foldl Job.spillSum s.job
          let k := (freeSlot o.pair (j.slotsAt o.die o.tile)).getD 0
          let j := (j.modTile buf r col fun y => { y with lies := .slot, slot := k }).modCtx c fun x => x.chargeMove (2 * o.bytes)
          .next { s with job := j.collect }.pump

def execPotReservationGrant (s : State) : Host.Outcome State Fault Refusal :=
  match s.job.potQ with
  | [] => .next s
  | (uid, c) :: rest =>
    match (s.job.ctx? c).bind fun x => x.qv.find? fun q => q.uid == uid with
    | none => .next { s with job := { s.job with potQ := rest } }.pump
    | some q =>
      match q.op with
      | .sts t =>
        if !s.job.foldFits t then .next s
        else
          let s := { s with job := { s.job.potReserve c t q.trick with potQ := rest } }
          .next (s.modQE c uid fun q => { q with granted := true, wait := none }).pump
      | _ => .next s

def execHostStagingGrant (s : State) : Host.Outcome State Fault Refusal :=
  match s.job.stageQ with
  | [] => .next s
  | (uid, c) :: rest =>
    match (s.job.ctx? c).bind fun x => x.qc.find? fun q => q.uid == uid with
    | none => .next { s with job := { s.job with stageQ := rest } }.pump
    | some q =>
      match s.job.stageAsk q.trick (s.job.hostNeed q) with
      | some true =>
        let s := { s with job := { s.job with stageQ := rest } }
        .next (s.modQE c uid fun q => { q with granted := true, wait := none }).pump
      | some false => .next s
      | none => .next (({ s with job := { s.job with stageQ := rest } }).engineFault c q ⟨stBUFFER, q.dstHandle, 0⟩).pump

/-- A seat whose RESIDENT declaration waits for spills presents it again. -/
def Job.wakeRoom (j : Job) : Job :=
  j.mapCtxs fun _ x => if x.stall = some .room then { x with stall := none } else x

/-- Units a room request asks for; none when it is no longer wanted. -/
def Job.roomNeed (j : Job) (r : RoomReq) : Option (List Nat) := match r.kind with
  | .place => (j.buf? r.buf).map j.units
  | .fill => (j.buf? r.buf).map j.units
  | .slot a b => (j.heldTile r.buf a b).bind fun o => if o.lies = .slot then some (unitsAt o.die (2 * o.slots)) else none
  | .copy a b t => (j.heldTile r.buf a b).bind fun o => if o.lies = .slot ∧ o.copyDue t then some (unitsAt o.die (2 * o.slots)) else none
/-- A request is met. -/
def Job.meetRoom (j : Job) (r : RoomReq) : Job := match r.kind with
  | .place => j.modBuf r.buf fun y => { y with place := .placed }
  | .fill => j.modBuf r.buf fun y => { y with place := .filling }
  | .slot a b => (j.heldTile r.buf a b).elim j j.spillSum
  | .copy a b t => j.saveTile r.buf a b t
/-- The oldest room request is met, or makes room (R190 to R192). -/
def execRoomRequestGrant (s : State) : Host.Outcome State Fault Refusal :=
  match s.job.roomQ with
  | [] => .next s
  | r :: rest =>
    match s.job.roomNeed r with
    | none => .next { s with job := { s.job with roomQ := rest } }.pump
    | some need =>
      match s.makeRoom need with
      | none => .next s
      | some (false, s) => .next s.settle
      | some (true, s) => .next { s with job := ({ s.job with roomQ := rest }.meetRoom r).wakeRoom }.pump

/-- No instruction is in flight but what waits on room: none has begun without waiting for it, and the first of each queue
waits for it or for another of its context; what stands behind them cannot go on either (R192; log entry 83). -/
def State.roomDead (s : State) : Bool :=
  (s.job.ctxList.all fun p =>
    (p.2.entries.all fun q => !q.begun || q.wait == some .room) &&
      allKinds.all fun k => match firstWaiting (p.2.queue k) with
        | none => true
        | some q => q.wait == some .room || p.2.heldBack q) &&
    !s.job.bufs.any fun b => b.place == .spilling || b.place == .filling
/-- The oldest request fails when nothing is left that could make room (R192): STASHSTAT.EXH, and the fault; the instruction it
arose from has no effect (R268). -/
def execRoomRequestFail (s : State) : Host.Outcome State Fault Refusal :=
  match s.job.roomQ with
  | [] => .next s
  | r :: rest =>
    match s.job.ctx? r.ctx, s.job.roomNeed r with
    | some _, some need =>
      if !s.roomDead || (s.makeRoom need).isSome then .next s
      else
        let s := { s with
          job := { s.job with roomQ := rest }.modCtx r.ctx fun x => x.filterEntries fun q => r.uid = 0 || q.uid != r.uid
          stat := { s.stat with exh := true } }
        .next (s.raiseFault r.ctx r.trick stSTASH r.handle r.pc r.insn (BitVec.ofNat 64 (32768 * need.sum))).pump
    | _, _ => .next { s with job := { s.job with roomQ := rest } }.pump

/-- A victim's bytes are in its spill region; its room is free. Charged to its owner as copy bytes read and written. -/
def execStashSpillComplete (buf : Nat) (s : State) : Host.Outcome State Fault Refusal :=
  match s.job.buf? buf with
  | none => .next s
  | some b =>
    if b.place ≠ .spilling then .next s
    else
      let j := (s.job.modBuf buf fun y => { y with place := .spilled }).modCtx b.owner fun x => x.chargeMove (2 * b.bytes)
      .next { s with job := j.wakeRoom }.pump
def execStashFillComplete (buf : Nat) (s : State) : Host.Outcome State Fault Refusal :=
  match s.job.buf? buf with
  | none => .next s
  | some b =>
    if b.place ≠ .filling then .next s
    else
      let j := (s.job.modBuf buf fun y => { y with place := .placed, inAside := none }).modCtx b.owner fun x => x.chargeMove (2 * b.bytes)
      .next { s with job := j.wakeRoom }.pump
/-- A buffer the Dealer moved at a boundary is in place (R183); no context is charged. -/
def execRelocationComplete (buf : Nat) (s : State) : Host.Outcome State Fault Refusal :=
  match s.job.buf? buf with
  | none => .next s
  | some b =>
    if !b.moving then .next s
    else .next { s with job := (s.job.modBuf buf fun y => { y with moving := false }).wakeRoom }.pump

end Sys2Proof.Machine
end

