-- ==== Sys2Proof/Machine/Frames.lean ====
section
/-! DEFINITION. How peer frames arrive (R390 to R395, R402) and the small frames that answer them. -/

namespace Sys2Proof.Machine

/-! ### LINK frames: TYPE in payload byte 0 (Table 14-3; the values are log entry 21's) -/

def linkKEEP : Byte := 0
def linkACK : Byte := 1
def linkNAK : Byte := 2
def linkHELLO : Byte := 3
def linkCAP : Byte := 4
def linkFENCED : Byte := 5
def State.sendAck (s : State) (p : Fin 12) (m : BitVec 9) : State := s.sendLink p m [linkACK]
def State.sendNak (s : State) (p : Fin 12) (m : BitVec 9) (want : Word) : State := s.sendLink p m (linkNAK :: leBytes want.toNat 4)
/-- FENCED: status 0x20, this module's epoch, the refused SEQ. -/
def State.sendFenced (s : State) (p : Fin 12) (m : BitVec 9) (seq : Word) : State :=
  let s := s.sendLink p m ([linkFENCED, stFENCED] ++ leBytes s.fab.epoch.toNat 4 ++ leBytes seq.toNat 4)
  { s with fab := { s.fab with
      fSent := satAdd s.fab.fSent 1 sat16
      fEvent := true } }

/-! ### MEMB messages, Table 14-5 -/

/-- One entry of a view record, and the record with its CHECK (Table 14-4). -/
def entryBytes (e : ViewEntry) : List Byte :=
  let st : Nat := match e.state with
    | .active => 0
    | .spare => 1
    | .dead => 2
  leBytes e.mid.toNat 2 ++ leBytes st 1 ++ [e.site] ++ leBytes e.rank.toNat 2 ++ leBytes e.flevel.toNat 2 ++ leBytes e.jobid.toNat 4
def viewBytes (v : View) : List Byte :=
  let a := leBytes v.epoch.toNat 4 ++ leBytes v.sysid.toNat 2 ++ leBytes v.entries.length 2 ++ leBytes v.fanout 1 ++ leBytes 0 3
  let b := v.entries.flatMap entryBytes
  a ++ leBytes (crc32c (a ++ leBytes 0 4 ++ b)).toNat 4 ++ b
def membPayload (ty : Nat) (ballot newEpoch : Word) (extra : List Byte) : List Byte :=
  zerosTo (leBytes ty 4 ++ leBytes ballot.toNat 4 ++ leBytes newEpoch.toNat 4 ++ extra) 16
def State.sendMemb (s : State) (m : BitVec 9) (ty : Nat) (ballot newEpoch : Word) (extra : List Byte) (v : Option View) : State :=
  s.sendPeer m classMEMB 0 0 (membPayload ty ballot newEpoch extra ++ (match v with
    | none => []
    | some v => viewBytes v)) false
def State.sendViewreq (s : State) (m : BitVec 9) : State := s.sendMemb m 7 0 0 [] none
/-- RECON: its own layout (Table 14-5, TYPE 9). -/
def reconPayload (d : Option Verdict) (att : Byte) (trick : Nat) : List Byte :=
  let k : Byte := match d with
    | none => 0
    | some .ok => 1
    | some _ => 2
  zerosTo ([9, k, att, 0] ++ leBytes 0 8 ++ leBytes trick 6) 18

/-! ### Arrival -/

/-- A member's id in a frame header. -/
def midOf (w : BitVec 16) : BitVec 9 := w.setWidth 9
/-- A frame dropped and counted in DROPPED (Table 14-9). -/
def State.dropFrame (s : State) (p : Fin 12) : State := s.setPPort p fun q => { q with dropped := satAdd q.dropped 1 sat16 }

/-- Every frame up to a cumulative acknowledgement leaves the route's window. -/
def State.ackUpTo (s : State) (p : Fin 12) (m : BitVec 9) (ack : Word) : State :=
  (s.modRoute p m fun r => { r with window := r.window.filter fun f => seqGe f.seq ack }).flushWaiting

/-- A frame of a suspect: the suspicion is withdrawn if every route to it was down only because of silence when it was suspected
(Table 14-7). -/
def State.withdraw (s : State) (m : BitVec 9) : State :=
  if s.fab.silentSus.contains m then
    { s with fab := { s.fab with
      suspects := s.fab.suspects.filter (· != m)
      silentSus := s.fab.silentSus.filter (· != m) } }
  else s

/-- A sequenced frame arrives on its route: true when it is the next one expected, good in SYSID and VER (R390, R393,
R408). The frame counts as a keepalive, its ACK is taken, and it is acknowledged at once (log entry 18). A frame of a suspect
is processed on a route that silence took down (Table 14-7); any other down route waits for its HELLO (R395). -/
def State.rxFrame (s : State) (h : FrameHdr) : Bool × State :=
  let m := midOf h.src
  if h.sysid ≠ s.cfgSysid then (false, s.dropFrame h.port)
  else match s.route? h.port m with
    | none => (false, s)
    | some r =>
      if !r.up && !(r.silent && s.fab.suspects.contains m) then (false, s)
      else if h.ver ≠ r.rev then (false, s.dropFrame h.port)
      else
        let s := s.withdraw m
        let s := (s.modRoute h.port m fun r => { r with lastRx := s.aon.counter }).ackUpTo h.port m h.ack
        if h.seq = r.rxSeq then (true, (s.modRoute h.port m fun r => { r with rxSeq := r.rxSeq + 1 }).sendAck h.port m)
        else if seqGe h.seq r.rxSeq then (false, s.sendNak h.port m r.rxSeq)
        else (false, s.sendAck h.port m)

/-- A DATA, SEAL or STATE frame: of another job it is dropped and counted; of an older epoch refused with FENCED; of a
later one held, and the view asked for (R390, R402); in quarantine none is processed (Table 14-7). i is the command that brought it; true when it is to be processed. -/
def State.epochGate (s : State) (h : FrameHdr) (i : Instr) : Bool × State :=
  let m := midOf h.src
  if h.jobid ≠ s.job.jobid ∨ s.job.state = .idle then (false, s.dropFrame h.port)
  else if h.epoch < s.fab.epoch then (false, s.sendFenced h.port m h.seq)
  else if s.fab.self = .quarantine ∨ s.fab.self = .offered then (false, s)
  else if h.epoch = s.fab.epoch then (true, s)
  else (false, { s with fab := { s.fab with held := s.fab.held ++ [i] } }.sendViewreq m)

/-- Arrival of a DATA, SEAL or STATE frame, both steps. -/
def State.rxJob (s : State) (h : FrameHdr) (i : Instr) : Bool × State :=
  let (ok, s) := s.rxFrame h
  if ok then s.epochGate h i else (false, s)

end Sys2Proof.Machine
end

