-- ==== Sys2Proof/Machine/SealCmd.lean ====
section
/-! DEFINITION. Seat errors (R272, R273), the module vote (R229), votes and decisions from the tree (R233 to R238), and
the Table's swaps (R357 to R360). -/

namespace Sys2Proof.Machine

/-! ### Seat errors -/

/-- The context of a seat that failed: an open trick is voided and the context waits to be restored; with none, or when
this member has already voted OK on it, the context is torn down (R231, R272; log entry 24). -/
def State.seatLost (s : State) (c : CtxId) (x : Ctx) (seat : Fin 18) (check : Byte) : State :=
  let ts := x.joinedTricks
  let down (kind : Byte) (t : Nat) (att : Byte) : State :=
    let s1 := s.teardownCore c
    let s1 := s1.ctxCompl ts.head? stABORTED
      (faultRecord stABORTED c att kind (BitVec.ofNat 8 seat.val) 0xFF t x.arch.pc 0 (check.setWidth 64))
    (s1.teardownVotes ts).settle
  match ts with
  | [] => down 3 0 0
  | t :: _ =>
    let r := (s.trick? t).getD .empty
    if r.voted = some .ok then down 2 t r.att
    else
      let s := { s with job := s.job.modCtx c fun y => { y with faulted := true } }
      (s.voteVoid t 5).settle

def execSeatError (seat : Fin 18) (check : Byte) (s : State) : Host.Outcome State Fault Refusal :=
  let u : PUnit := ⟨.seat, seat.val⟩
  if !s.hl.inService u || check = 0 || check > 5 then .next s
  else
    let who := s.job.ctxList.find? fun x => x.2.seat == some seat
    let tk := match who with
      | none => none
      | some (_, x) => x.joinedTricks.head?.map fun t => (t, ((s.trick? t).getD .empty).att)
    let s := s.raiseEvent srcSEATERR u tk 0
    let s := match who with
      | none => s
      | some (c, x) => s.seatLost c x seat check
    .next s.seatCheck.pump

/-- A corrected error of a seat, counted over the escalation window (R464), of the trick its context works on; a double-bit
instruction cache error has its line fetched again (Table 09-7). -/
def execSeatCorrectedError (seat : Fin 18) (_refetch : Bool) (s : State) : Host.Outcome State Fault Refusal :=
  .next (s.countCorrected 7 ⟨.seat, seat.val⟩ 24).pump

/-! ### The module vote -/

/-- The conditions of R229; a member in brace votes VOID instead (R237). A halt withholds VOID votes alone (R241). -/
def State.voteReady (s : State) (t : Nat) : Bool :=
  match s.trick? t with
  | none => false
  | some r =>
    (s.job.state == .running || s.job.state == .ending) && s.aon.braceAt.isNone && r.voted.isNone &&
      s.joinedBy t &&
      (s.job.ctxList.all fun x => match x.2.joinedAt t with
        | none => true
        | some k => k.tsealed && !x.2.faulted) &&
      ((allEntries s.job).all fun q => q.2.trick != t) && (s.job.fins.all fun f => f.trick != t) &&
      (s.job.spotWait.all fun w => w.trick != t || w.att != r.att) && (s.job.spotThird.all fun w => w.trick != t || w.att != r.att) && !s.unackedFrame t r.att

/-- The commit bit of R214: NOT (NF or NF2); 1 in a trick without an update. -/
def TrickRec.commitBit (r : TrickRec) : Bool := match r.upd with
  | none => true
  | some u => !(u.nf || u.nf2)

def execModuleVoteOk (trick : BitVec 48) (s : State) : Host.Outcome State Fault Refusal :=
  let t := trick.toNat
  if !s.voteReady t then .next s
  else
    let commit := ((s.trick? t).getD .empty).commitBit
    let s := s.modTrick t fun r => { r with voted := some .ok }
    .next (s.nodeVote t ⟨none, .ok, commit, 0, 0xFFFF⟩).refault.pump

/-! ### Votes and decisions of the tree -/

/-- The numbers of two members differ at a job's first TBEGIN (R460): tear down, report, and tell the neighbours in the
tree. -/
def State.trickSkew (s : State) : State :=
  if s.job.recov.skewStop then s
  else
    let near := s.children ++ s.parent.toList
    let s := s.setRecov fun r => { r with skewStop := true }
    let s := near.foldl (fun s m => s.sendState m 10 s.stat.sealedN 0 0 []) s
    (s.teardownAll stMISMATCH).jobEvent stMISMATCH s.stat.sealedN 0 5

/-- A vote of a child, whose epoch is current: of another attempt it is discarded (R233). -/
def State.takeVote (s : State) (h : FrameHdr) (v : Verdict) (commit : Bool) (cause : BitVec 4) (origin : BitVec 16) : State :=
  let t := h.trick.toNat
  match s.trick? t with
  | none => s
  | some r =>
    if h.attempt ≠ r.att ∨ v = .halt ∨ !(s.children.contains (midOf h.src)) then s
    else s.nodeVote t ⟨some (s.rankOf (midOf h.src)), v, commit, cause, origin⟩

/-- Decisions of the next trick that came before the oldest one's are applied after it. -/
def State.takeHeldSeal (s : State) : State :=
  let hit (i : Instr) : Bool := match i with
    | .sealDecisionReceived h .ok _ _ _ => h.epoch == s.fab.epoch && h.trick.toNat == s.stat.sealedN && h.attempt == s.job.t0.att
    | _ => false
  match s.fab.held.find? hit with
  | some (.sealDecisionReceived h v commit cause origin) =>
    let s := { s with fab := { s.fab with held := s.fab.held.filter fun i => !hit i } }
    s.decided h.trick.toNat v commit cause origin
  | _ => s

/-! ### Rewind and pending restore, R447, R448, R451 -/

/-- Arm a pending restore with its proof entry, and record the recovery in SEAL.RSTAT. -/
def State.arm (s : State) (k : Shard) (proof : Option LogE) (status : Byte) : State :=
  let p := proof.filter fun e => e.trick == k.trick && e.loss.isSome
  let s := s.setRecov fun r =>
    { r with
      pend := if k.hb = 0 then none else some k
      proof := p
      proofHeld := false
      imgBufs := none }
  { s with
    job := { s.job with wdirty := true }
    stat := { s.stat with
      rstStatus := status
      proofOk := false
      waived := p.isNone
      proofBad := false
      rngSkew := false
      rstValid := true } }
/-- The trick number and data cursor are set; the tricks from there on are new (R221, R436). -/
def State.setTrick (s : State) (t cursor : Nat) : State :=
  { s with
    stat := { s.stat with sealedN := t, cursor := cursor }
    hl := { s.hl with seen := [] }
    job := { s.job with t0 := .empty, t1 := .empty, xfers := [], norms := [] } }
def logFind (l : List LogE) (t : Nat) : Option LogE := l.find? fun e => e.trick == t
/-- The log entry of the proof trick: the member's own, or that of its record or buddy log (R451). -/
def Recov.proofEntry (r : Recov) (t : Nat) : Option LogE := (logFind r.tlog t).or (r.shadowLog.filter fun e => e.trick == t)
/-- Steps 1 to 6 of R447; with no committed recovery point nothing can be rewound to. -/
def State.rewind (s : State) : State :=
  match s.stat.rp, s.job.recov.recoverable with
  | some _, some k =>
    let s := s.failRefresh
    let s := if s.openTricks.isEmpty then s else s.applyVoid s.stat.sealedN false 8 (BitVec.ofNat 16 s.myRank)
    let s := { s with job := s.job.mapCtxs fun _ x => { x with joined := [], tag := none } }.teardownAll stABORTED
    let s := (s.setTrick k.trick k.cursor).arm k (s.job.recov.proofEntry k.trick) stVOIDED
    s.jobEvent stVOIDED k.trick 8 3
  | _, _ => s
/-- A rewind that a view has made due follows once no reconciliation runs (R400, R407, R447). -/
def State.rewindIf (s : State) : State :=
  if s.fab.rewindDue && !s.fab.reconciling then ({ s with fab := { s.fab with rewindDue := false } }).rewind else s

/-! ### The end of a reconciliation -/

/-- A reconciliation is over: votes cast meanwhile are forwarded in the new tree, and a context whose fault outlives the seal has
its vote cast (R268). A rewind due follows (R447). -/
def State.endRecon (s : State) : State :=
  let s := { s with fab := { s.fab with
    reconciling := false
    recons := []
    reconWait := [] } }
  (((s.reVote s.stat.sealedN).reVote (s.stat.sealedN + 1)).refault).rewindIf
/-- The new root's decision after a change of epoch (R238), which it sends to every survivor itself: it replaces whatever this
member holds. A void takes every survivor to the same attempts, of the oldest trick first and of the next one then: an attempt
never goes back, so a decision that names an earlier one, as a root that holds no trick sends it, voids the attempt this
member is at (R223; log entry 27). -/
def State.takeReconciled (s : State) (t : Nat) (a : Byte) (v : Verdict) (commit : Bool) (cause : BitVec 4) (origin : BitVec 16) : State :=
  if v = .ok then ((if t = s.stat.sealedN then s.applied t .ok commit cause origin else s)).endRecon
  else if t = s.stat.sealedN then
    if (a - s.job.t0.att).toNat < 128 then (s.modTrick t fun r => { r with att := a }).applied t v commit cause origin else s
  else if t = s.stat.sealedN + 1 then
    ((s.modTrick t fun r => { r with att := if (a - r.att).toNat < 128 then a else r.att }).applied t v commit cause origin).endRecon
  else s
/-- A decision of the parent, whose epoch is current, is applied and passed on (R234 to R236); while the members reconcile, only
the root's counts. -/
def State.takeDecision (s : State) (h : FrameHdr) (v : Verdict) (commit : Bool) (cause : BitVec 4) (origin : BitVec 16) : State :=
  let t := h.trick.toNat
  if s.fab.reconciling then
    if (s.jobRanks.map ViewEntry.mid).head? = some (midOf h.src) then s.takeReconciled t h.attempt v commit cause origin else s
  else if s.parent ≠ some (midOf h.src) then s
  else match s.trick? t with
  | none => s
  | some r =>
    if h.attempt ≠ r.att then s
    else if v = .ok ∧ t ≠ s.stat.sealedN then
      { s with fab := { s.fab with held := s.fab.held ++ [.sealDecisionReceived h v commit cause origin] } }
    else (s.decided t v commit cause origin).takeHeldSeal

def execSealVoteReceived (h : FrameHdr) (verdict : Verdict) (commit : Bool) (cause : BitVec 4) (origin : BitVec 16) (s : State) :
    Host.Outcome State Fault Refusal :=
  let (ok, s) := s.rxJob h (.sealVoteReceived h verdict commit cause origin)
  .next (if ok then (s.takeVote h verdict commit cause origin).refault.forceDone.pump else s)

def execSealDecisionReceived (h : FrameHdr) (verdict : Verdict) (commit : Bool) (cause : BitVec 4) (origin : BitVec 16) (s : State) :
    Host.Outcome State Fault Refusal :=
  let (ok, s) := s.rxJob h (.sealDecisionReceived h verdict commit cause origin)
  .next (if ok then (s.takeDecision h verdict commit cause origin).refault.forceDone.pump else s)

/-! ### Swaps -/

/-- Steps 3 and 4 of R357, once no begun instruction and no finished tile of the context is left. Sums held in slots are
spilled, as the working store has room for them, and charged to it (R117, Table 06-4). One that leaves the target of a seat
rotation goes on to the spare seat (R472). -/
def execSwapOutComplete (c : CtxId) (s : State) : Host.Outcome State Fault Refusal :=
  match s.job.ctx? c with
  | none => .next s
  | some x =>
    if x.resid ≠ .swapOut || x.entries.any QE.begun || s.job.fins.any (fun f => f.ctx == c) then .next s
    else
      let s := s.swapSums c s.job.tiles
      let dst := s.seatSpare x.seat
      let j := s.job.modCtx c fun x =>
        { x with
          resid := if dst.isSome then .swapIn else .out
          seat := dst
          cswaps := satAdd x.cswaps 1 sat32 }
      let left := s.job.lagLeft
      let s := { s with
        job := { j with evict := none }
        stat := { s.stat with swaps := (s.stat.swaps + 1) % 2 ^ 64 } }
      .next ((s.pump).lagSwapN left).settle

/-- The context resumes at its PC, its saved entries ahead of any new issue. -/
def execSwapInComplete (c : CtxId) (s : State) : Host.Outcome State Fault Refusal :=
  match s.job.ctx? c with
  | none => .next s
  | some x =>
    if x.resid ≠ .swapIn then .next s
    else .next { s with job := s.job.modCtx c fun x => { x with resid := .resident, stall := none } }.pump

/-- The condition of R360 has lasted 50,000 counts. -/
def execSchedStuckTimeout (s : State) : Host.Outcome State Fault Refusal :=
  match s.job.stuckSince with
  | none => .next s
  | some t =>
    if (s.aon.counter - t).toNat ≥ 50000 then .next { s with stat := { s.stat with stuck := true } } else .next s

end Sys2Proof.Machine
end

