-- ==== Sys2Proof/Machine/Recover.lean ====
section
/-! DEFINITION. Recovery: STATE traffic, refresh and checkpoint progress, rewind, rebuild, stripe repair (R438 to R460). -/

namespace Sys2Proof.Machine

/-! ### Rebuild of a substitute, R449 and R450 -/

/-- The active parity generation (R443 step 4). Its length is that of a chunk. -/
def State.activeParity (s : State) : Option Parity := if s.stat.gen then s.job.recov.par1 else s.job.recov.par0
/-- A survivor's XOR for its own group is complete: the substitute gets its chunk. -/
def State.assistDone (s : State) : State :=
  match s.job.recov.assist, s.activeParity, s.kitty with
  | some a, some p, some (b, g) =>
    match a.pos with
    | none => s
    | some x =>
      let z := p.data.length
      let i := s.kpos
      let need := s.kittyOthers.filter (· ≠ b + x)
      if need.all fun r => decide ((alGet a.got r).getD 0 ≥ z) then
        let s := s.setRecov fun r => { r with assist := none }
        match s.kittyMid x with
        | none => s
        | some m => s.sendBytes m 6 z ((i + g - x - 1) % g) (a.acc.take z)
      else s
  | _, _, _ => s
/-- The Kitty cannot rebuild a member. -/
def State.setDegraded (s : State) : State := { s with stat := { s.stat with degraded := true } }
/-- A substitute of this Kitty asks for its state: chunks go to the holders and to it, its log from the next position. -/
def State.rebuildFor (s : State) (m : BitVec 9) : State :=
  match s.job.recov.recoverable, s.activeParity, s.kitty with
  | some k, some p, some (b, g) =>
    let x := s.rankOf m - b
    let i := s.kpos
    let z := p.data.length
    let put (s : State) (j : Nat) : State := if j = x ∨ j = i then s else match s.kittyMid j with
      | none => s
      | some h => s.sendBytes h 6 z ((j + g - i - 1) % g) (shardChunk k.bytes z ((j + g - i - 1) % g))
    let s := (List.range g).foldl put s
    let s := s.sendBytes m 7 z i (shardChunk k.bytes z ((x + g - i - 1) % g))
    let log := s.job.recov.blog.flatMap logBytes
    let s := if i ≠ (x + 1) % g then s else if log.isEmpty then s.sendState m 8 0 0 0 [] else s.sendBytes m 8 0 0 log
    let a := s.job.recov.assist.getD ⟨none, [], []⟩
    (s.setRecov fun r => { r with assist := some ⟨some x, xorBytes a.acc p.data, a.got⟩ }).assistDone
  | _, _, _ => (s.setDegraded.setRecov fun r => { r with assist := none }).sendState m 13 0 0 0 []
/-- A refused substitute tells its Kitty, which can rebuild no member now, and wipes (R450). -/
def State.rebuildFail (s : State) (cmd : HostCmd) : State :=
  let s := (s.kittyOthers.filterMap s.midOfRank).foldl (fun s m => s.sendState m 13 0 0 0 []) s
  let s := { s with job := { s.job with state := .wiping, admission := none }, stat := { s.stat with rstStatus := stABORTED, rstValid := true } }
  (s.setRecov fun r => { r with rebuild := none }).complete cmd 0x01 stABORTED []
/-- A rebuild is found impossible: the substitute's ADMIT is refused, a survivor is DEGRADED (R450). -/
def State.takeRefused (s : State) : State :=
  match s.job.recov.rebuild with
  | some r => s.rebuildFail r.cmd
  | none => s.setDegraded.setRecov fun r => { r with assist := none }

/-- A piece of a chunk: one of the substitute's own, or, at a survivor, one for its group. -/
def State.rebuildPiece (s : State) (rank chunk size off : Nat) (data : List Byte) : State :=
  match s.job.recov.rebuild with
  | some r =>
    let (old, got) := (alGet r.chunks chunk).getD ([], 0)
    let b := xorAt (zerosTo old size) off data
    s.setRecov fun k => { k with rebuild := some { r with
      chunks := alSet r.chunks chunk (b, got + data.length)
      size := size } }
  | none =>
    let a := s.job.recov.assist.getD ⟨none, [], []⟩
    (s.setRecov fun k => { k with assist := some { a with
      acc := xorAt a.acc off data
      got := addGot a.got rank data.length } }).assistDone

/-! ### STATE frames -/

/-- A scale as a stripe request spells it: its mode, and for block scales the size and direction as DECL encodes them. -/
def Scale.spell : Scale → Nat × Nat × Nat
  | .none => (0, 0, 0)
  | .tensor _ _ => (1, 0, 0)
  | .block n d _ _ => (2, if n = 16 then 0 else if n = 32 then 1 else if n = 64 then 2 else 3, match d with
    | .row => 0 | .col => 1 | .square => 2)
/-- The STREAM buffer a stripe request names, if its class, format, shape and scale are the same (R452). -/
def Job.stripeOf (j : Job) (bufid : BitVec 12) (fmt : BitVec 3) (rows cols : Nat) (mode block dir : BitVec 2) : Option Buffer :=
  (j.exportedAs bufid.toNat).filter fun b =>
    b.cls == .stream && decide (b.fmt.code = fmt.toNat ∧ b.rows = rows ∧ b.cols = cols ∧
      b.scale.spell = (mode.toNat, block.toNat, dir.toNat))

/-- A refresh frame whose P is not this member's is refused, and the refresh fails on every member (R439). -/
def State.otherP (s : State) (src : BitVec 9) (point : Nat) : State :=
  let s := { s with stat := { s.stat with mismatch := true } }
  (s.sendState src 4 point 0 0 []).refuseRefresh point none
def State.takeState (s : State) (h : FrameHdr) (m : StateMsg) : State :=
  let src := midOf h.src
  let rank := s.rankOf src
  match m with
  | .shardLength point p len => if p ≠ s.job.recov.p then s.otherP src point else s.refreshMsg src point (.length len)
  | .parityChunk point p off data => if p ≠ s.job.recov.p then s.otherP src point else s.refreshMsg src point (.piece off data)
  | .refreshRefused point => s.refreshMsg src point .refused
  | .logCopy e => s.setRecov fun r => { r with blog := logAdd blogCap r.blog (logOfBytes e) }
  | .rebuildRequest => s.rebuildFor src
  | .rebuildRefused => s.takeRefused
  | .rebuilt => s.setRecov fun r => { r with filling := r.filling.filter (· != rank) }
  | .rebuildChunk c size off data => s.rebuildPiece rank c size off data
  | .rebuildParity size off data => s.setRecov fun r => { r with rebuild := r.rebuild.map fun k =>
      { k with
        par := xorAt (zerosTo k.par size) off data
        parGot := addGot k.parGot rank data.length
        size := size } }
  | .rebuildLog es => s.setRecov fun r =>
      { r with
        blog := es.foldl (fun l e => logAdd blogCap l (logOfBytes e)) r.blog
        rebuild := r.rebuild.map fun k => { k with logGot := k.logGot || h.last } }
  | .stripeRequest bufid stripe fmt rows cols mode block dir =>
    -- the answer: 0 the stripe, 1 no such export here, 2 damaged here too
    let (k, d) := match s.job.stripeOf bufid fmt rows cols mode block dir with
      | none => (1, [])
      | some b => if s.hl.lost.contains (b.id, stripe) then (2, []) else (0, s.job.stripeData b stripe)
    s.sendState src 12 k bufid.toNat stripe d
  | .firstTrick t => if t = s.stat.sealedN then s else s.trickSkew
  | .trickSkew => s.trickSkew

def execStateFrameReceived (h : FrameHdr) (m : StateMsg) (s : State) : Host.Outcome State Fault Refusal :=
  let (ok, s) := s.rxJob h (.stateFrameReceived h m)
  .next (if ok then (s.takeState h m).pump else s)

/-- A child's done report, or its report that a refresh frame was refused (R443 step 3, R446). -/
def State.takeDone (s : State) (h : FrameHdr) (point : Nat) (refused : Bool) : State :=
  s.refreshMsg (midOf h.src) point (if refused then .refused else .done)
def execRefreshDoneReceived (h : FrameHdr) (point : Nat) (refused : Bool) (s : State) : Host.Outcome State Fault Refusal :=
  let (ok, s) := s.rxJob h (.refreshDoneReceived h point refused)
  .next (if ok then (s.takeDone h point refused).pump else s)

/-- The root's commit (R443 step 4). -/
def State.takeCommit (s : State) (point : Nat) : State :=
  match s.job.recov.refresh with
  | none => s
  | some f => if f.point = point ∧ !f.committed then s.commitRefresh else s
def execRefreshCommitReceived (h : FrameHdr) (point : Nat) (s : State) : Host.Outcome State Fault Refusal :=
  let (ok, s) := s.rxJob h (.refreshCommitReceived h point)
  .next (if ok then (s.takeCommit point).pump else s)

/-- Step 5 of R443: once no checkpoint read of the shadow runs (R454). -/
def execShadowCopyComplete (s : State) : Host.Outcome State Fault Refusal :=
  match s.job.recov.refresh with
  | none => .next s
  | some f => if f.committed && s.job.recov.ck.isNone then .next s.copyShadow.pump else .next s

/-- The write of the current step is acknowledged (R456 step 4). -/
def execCheckpointWriteAck (s : State) : Host.Outcome State Fault Refusal :=
  match s.job.recov.ck with
  | none => .next s
  | some w =>
    if w.awaitSeal then .next s
    else
      let s := match (s.region? w.place.1).bind Region.carrier with
        | none => s
        | some q => s.setTries q 0
      if w.step < 2 then .next (s.ckStep { w with step := w.step + 1 })
    else .next (s.ckNextTarget (if w.target = 0 then { w with aOk := true } else { w with bOk := true }))

/-! ### The end of a rebuild -/

def execSubstituteRebuildComplete (s : State) : Host.Outcome State Fault Refusal :=
  match s.job.recov.rebuild with
  | none => .next s
  | some r =>
    let g := s.kittySize
    let whole := r.logGot && (List.range (g - 1)).all (fun c => match alGet r.chunks c with
        | none => false
        | some (_, n) => decide (n ≥ r.size)) &&
      s.kittyOthers.all (fun k => decide ((alGet r.parGot k).getD 0 ≥ r.size)) && decide (r.size ≠ 0)
    if !whole then .next s
    else
      let k := shardOfBytes ((List.range (g - 1)).flatMap fun c => match alGet r.chunks c with
        | none => []
        | some (b, _) => b)
      let par : Parity := ⟨k.trick, r.par⟩
      let proof := logFind s.job.recov.blog k.trick
      let s := s.setRecov fun q =>
        { q with
          rebuild := none
          shadow := some k
          shadowLog := proof
          par0 := if s.stat.gen then q.par0 else some par
          par1 := if s.stat.gen then some par else q.par1
          room := r.size * (g - 1) + 2 * r.size }
      let s := (s.setTrick k.trick k.cursor).arm k proof stOK
      let s := { s with job := { s.job with state := .running, admission := none }, stat := { s.stat with rp := some k.trick } }
      -- the vacancy ends on every member of the job (R407)
      let s := (s.ranks.filter fun e => e.mid != s.fab.mid).foldl (fun s e => s.sendState e.mid 15 0 0 0 []) s
      .next ((s.complete r.cmd 0x01 stOK (leBytes s.job.feature.toNat 2)).setOwner r.cmd.qp).settle

/-! ### Stripe repair, R452 -/

/-- A context torn down at once for data lost in its buffer: STATUS 0x11 and the offset in DETAIL. -/
def State.dataLost (s : State) (c : CtxId) (h : Byte) (off : Nat) : State :=
  match s.job.ctx? c with
  | none => s
  | some x =>
    let t := x.joinedTricks.headD 0
    let att := ((s.trick? t).getD .empty).att
    let s1 := s.teardownCore c
    let s1 := s1.ctxCompl x.joinedTricks.head? stBUFFER (faultRecord stBUFFER c att (if x.joined.isEmpty then 1 else 0) 0xFF h t x.arch.pc 0 (BitVec.ofNat 64 off))
    (s1.teardownVotes x.joinedTricks).settle

/-- The members that may be asked for a stripe, in ascending rank: those of a rank of at least r (R452). -/
def State.askable (s : State) (r : Nat) : List ViewEntry :=
  s.ranks.filter fun e => e.mid != s.fab.mid && decide (e.rank.toNat ≥ r)
/-- Ask the lowest-ranked of them. -/
def State.askFrom (s : State) (b : Buffer) (bufid stripe r : Nat) : State :=
  match s.askable r with
  | [] => s
  | e :: _ =>
    let (m, n, d) := b.scale.spell
    let data := leBytes b.fmt.code 1 ++ leBytes (m + 4 * n + 16 * d) 1 ++ leBytes b.rows 4 ++ leBytes b.cols 4
    s.sendState e.mid 11 stripe bufid 0 data
/-- A damaged stripe of an exported STREAM buffer is asked of the other members in ascending rank, until one holds the export: the
lowest-ranked that does answers for it (R452). -/
def State.askStripe (s : State) (b : Buffer) (bufid stripe : Nat) : State :=
  if s.hl.lost.contains (b.id, stripe) then s
  else { s with hl := { s.hl with lost := s.hl.lost ++ [(b.id, stripe)] } }.askFrom b bufid stripe 0
/-- Under a new view the stripes still wanted are asked for again. -/
def State.reAsk (s : State) : State :=
  s.hl.lost.foldl (fun s e => match s.job.buf? e.1 with
    | none => s
    | some b => match b.exp with
      | none => s
      | some (id, _, _) => s.askFrom b id e.2 0) s
/-- A damaged stripe no member can give: the owning context is torn down. -/
def State.stripeGone (s : State) (b : Buffer) (stripe : Nat) : State :=
  { s with hl := { s.hl with lost := s.hl.lost.filter fun e => e.1 != b.id } }.dataLost b.owner (BitVec.ofNat 8 b.handle)
    (b.stripeFirst stripe)

def execStreamStripeRepair (buf stripe : Nat) (reply : StripeReply) (s : State) : Host.Outcome State Fault Refusal :=
  if !s.hl.lost.contains (buf, stripe) then .next s
  else match s.job.buf? buf with
    | none => .next { s with hl := { s.hl with lost := s.hl.lost.filter fun e => e != (buf, stripe) } }
    | some b => match reply.ans, b.exp with
      | .stripe d, _ =>
        .next ({ s with
          hl := { s.hl with lost := s.hl.lost.filter fun e => e != (buf, stripe) }
          job := s.job.putStripe b stripe d }).pump
      | .notHeld, some (id, _, _) =>
        if (s.askable (s.rankOf reply.src + 1)).isEmpty then .next (s.stripeGone b stripe).pump
        else .next (s.askFrom b id stripe (s.rankOf reply.src + 1))
      | _, _ => .next (s.stripeGone b stripe).pump

end Sys2Proof.Machine
end

