-- ==== Sys2Proof/Machine/Serve.lean ====
section
/-! DEFINITION. The SERVE block's commands: submission rings, cancels, the plan, deadlines (R363 to R366, R370 to R372,
R379, R380). -/

namespace Sys2Proof.Machine

/-! ### Rings -/

def SRing.empty : SRing := ⟨0, 0, 0, none⟩
def Job.ring (j : Job) (q : Nat) : SRing := (alGet j.rings q).getD .empty
def State.setRing (s : State) (q : Nat) (r : SRing) : State := { s with job := { s.job with rings := alSet s.job.rings q r } }
/-- SERVE.SQCTL.LOG2N: 8 to 12, others behave as 8. -/
def State.ringLog2 (s : State) (q : Fin 128) : Nat :=
  let n := (s.cfg.sqctl.get q).toNat % 16
  if 8 ≤ n ∧ n ≤ 12 then n else 8
/-- Entries between HEAD and a tail. -/
def SRing.count (r : SRing) (tail : BitVec 12) : Nat := (tail - r.head).toNat
def State.subErr (s : State) (q : Nat) : State :=
  let r := s.job.ring q
  { s.setRing q { r with refused := BitVec.ofNat 16 (satAdd r.refused.toNat 1 sat16) } with stat := { s.stat with subErr := true } }

/-- A write of SERVE.SQTAIL (R363). -/
def execSqtailWrite (ring : Fin 128) (value : Word) (s : State) : Host.Outcome State Fault Refusal :=
  let r := s.job.ring ring.val
  let t : BitVec 12 := value.setWidth 12
  if r.count t ≥ 2 ^ s.ringLog2 ring ∨ r.count t < r.count r.tail then .next (s.subErr ring.val)
  else .next (s.setRing ring.val { r with tail := t })

/-- Requests held (R366). -/
def Job.held (j : Job) : Nat := (j.reqs.filter fun r => r.state != .ended).length
/-- The module takes the ring's next entry: serving on, the ring enabled, an entry there, and room for a request. -/
def State.takes (s : State) (q : Fin 128) : Bool :=
  (s.job.state == .running || s.job.state == .ending) && s.serveMode != 0 && (s.cfg.sqctl.get q).getLsbD 4 &&
    (s.job.ring q.val).head != (s.job.ring q.val).tail && decide (s.job.held < 16384)
/-- The 64 bytes of the entry at HEAD. -/
def State.headEntry (s : State) (q : Fin 128) : List Byte :=
  memReadN 0 s.job.subArea (q.val * 262144 + (s.job.ring q.val).head.toNat % 2 ^ s.ringLog2 q * 64) 64
def State.pastHead (s : State) (q : Fin 128) : State :=
  let r := s.job.ring q.val
  s.setRing q.val { r with head := r.head + 1 }

/-! ### SUBMIT, R364 and R365 -/

/-- The refusal of a SUBMIT entry, the greatest code (R12). -/
def State.submitBad (s : State) (q : Fin 128) (e : List Byte) : Option Byte :=
  let nlog2 := fieldAt e 1 1
  let po := fieldAt e 16 8
  let pl := fieldAt e 24 4
  let mx := fieldAt e 28 4
  let reqid : Dword := BitVec.ofNat 64 (fieldAt e 8 8)
  let ro := fieldAt e 40 8
  let form := fieldAt e 0 1 != 1 || fieldAt e 2 2 != 0 || fieldAt e 35 1 != 0 || fieldAt e 38 2 != 0 ||
    decide (nlog2 < 4 ∨ nlog2 > 24) || po % 4 != 0 || decide (pl < 1 ∨ pl > 1048575) || decide (mx < 1 ∨ mx > 1048575) ||
    decide (pl + mx > 1048576) || ro % 16 != 0 ||
    (s.job.reqs.any fun r => r.ring == q && r.reqid == reqid && r.state != .ended)
  let room := decide (po + 4 * pl > s.job.inpages * 4096) || (match s.region? (fieldAt e 36 2) with
    | none => true
    | some r => !r.write || decide (ro + 16 * 2 ^ nlog2 > r.length))
  worst (failIf form stILLEGAL) (failIf (fieldAt e 0 1 == 1 && room) stBUFFER)

def execSubmitEntryTaken (ring : Fin 128) (s : State) : Host.Outcome State Fault Refusal :=
  let e := s.headEntry ring
  if !s.takes ring ∨ fieldAt e 0 1 = 2 then .next s
  else
    let bad := s.submitBad ring e
    let s := s.pastHead ring
    let reqid : Dword := BitVec.ofNat 64 (fieldAt e 8 8)
    match bad with
    | some st => .next ((s.subErr ring.val).reqCompl ring none st reqid (byteAt e 0))
    | none =>
      let dl := fieldAt e 4 4
      let r : Req := {
        ring := ring
        reqid := reqid
        nlog2 := fieldAt e 1 1
        arrival := s.aon.counter
        deadline := if dl = 0 then none else some (s.aon.counter.toNat + 50 * dl)
        promptOff := fieldAt e 16 8
        promptLen := fieldAt e 24 4
        maxNew := fieldAt e 28 4
        stop := BitVec.ofNat 24 (fieldAt e 32 3)
        rregion := fieldAt e 36 2
        ringOff := fieldAt e 40 8
        param := (e.drop 48).take 16
        state := .queued
        slot := none
        planned := 0
        produced := 0
        wrote := 0
        emitEnded := false
        cancels := 0 }
      .next { s with job := { s.job with reqs := s.job.reqs ++ [r] } }

/-! ### CANCEL, R379 and R380 -/

def execCancelEntryTaken (ring : Fin 128) (s : State) : Host.Outcome State Fault Refusal :=
  let e := s.headEntry ring
  if !s.takes ring ∨ fieldAt e 0 1 ≠ 2 then .next s
  else
    let s := s.pastHead ring
    let reqid : Dword := BitVec.ofNat 64 (fieldAt e 8 8)
    if !allZero ((e.drop 1).take 7) || !allZero (e.drop 16) then
      .next ((s.subErr ring.val).reqCompl ring none stILLEGAL reqid 2)
    else match s.job.reqs.find? fun r => r.ring == ring && r.reqid == reqid && r.state != .ended with
      | none => .next (s.reqCompl ring none stALREADY reqid 2)
      | some r =>
        let r' : Req := { r with cancels := r.cancels + 1 }
        let s := s.modReq r fun _ => r'
        if s.inFlight r then .next s else .next (s.endReq r' stCANCELLED none s.lastStep).gcReqs

/-- The deadline instant of a request that is not in flight (R379). -/
def Req.expired (r : Req) (now : Dword) : Bool := match r.deadline with
  | none => false
  | some d => decide (d ≤ now.toNat)
def execRequestDeadlineExpiry (ring : Fin 128) (reqid : Dword) (s : State) : Host.Outcome State Fault Refusal :=
  match s.job.reqs.find? fun r => r.ring == ring && r.reqid == reqid && r.state != .ended with
  | none => .next s
  | some r => if r.expired s.aon.counter && !s.inFlight r then .next (s.endReq r stDEADLINE none s.lastStep).gcReqs else .next s

/-! ### The plan, R371 and R372 -/

def reqLt (a b : Req) : Bool :=
  if a.arrival != b.arrival then decide (a.arrival.toNat < b.arrival.toNat) else decide (a.ring < b.ring)
def slotLt (a b : Req) : Bool := decide (a.slot.getD 0 < b.slot.getD 0)
/-- A chunk of a request's prompt: its entry, and the request after it. -/
def planChunk (r : Req) (slot c : Nat) : PlanE × Req :=
  let fin := decide (r.planned + c = r.promptLen)
  (⟨slot, if fin then 2 else 1, 0, r.planned, c, r.promptOff + 4 * r.planned, r.ring, r.reqid, r.param, r.planned == 0, r.produced⟩,
    { r with slot := some slot, planned := r.planned + c, state := if fin then .generate else .prefill })
/-- Prefill entries within the budget: requests with a slot, then queued ones with the lowest free slots. -/
def planPrefill (chunk : Nat) : List Req → List Nat → Nat → List (PlanE × Req × Req)
  | [], _, _ => []
  | r :: rest, free, budget =>
    if budget = 0 then []
    else
      let c := min chunk (min (r.promptLen - r.planned) budget)
      match r.slot, free with
      | some k, _ => let (e, r') := planChunk r k c
        (e, r, r') :: planPrefill chunk rest free (budget - c)
      | none, k :: fs => let (e, r') := planChunk r k c
        (e, r, r') :: planPrefill chunk rest fs (budget - c)
      | none, [] => planPrefill chunk rest [] budget
def Job.freeSlots (j : Job) : List Nat :=
  (List.range 2048).filter fun k => !(j.reqs.any fun r => r.slot == some k) && !(j.plans.any fun p => p.ents.any fun e => e.slot == k)
def State.chunk (s : State) : Nat :=
  let c := s.cfg.serve0.toNat / 64 % 1024
  if c = 0 then 256 else min c 512
def State.pbudget (s : State) : Nat := let b := s.cfg.serve0.toNat / 65536
  if b = 0 then 2048 else b
def State.planGen (s : State) (r : Req) : PlanE :=
  let d := min (s.cfg.serve0.toNat / 4 % 16) (r.maxNew - r.produced - 1)
  ⟨r.slot.getD 0, 3, d, r.promptLen + r.produced - 1, d + 1, 0, r.ring, r.reqid, r.param, false, r.produced⟩

/-- The lowest trick whose plan may be frozen, but for having an entry (R371). -/
def State.planTrick (s : State) : Option Nat :=
  if !s.serveAttached then none
  else [s.stat.sealedN, s.stat.sealedN + 1].find? fun t =>
    s.joinedBy t && !(s.job.plans.any fun p => p.trick == t) && s.job.prevTaken t

def execPlanFreeze (s : State) : Host.Outcome State Fault Refusal :=
  match s.planTrick with
  | none => .next s
  | some t =>
    let dead := s.job.reqs.filter fun r => r.state != .ended && r.expired s.aon.counter && !s.inFlight r
    let s := (dead.foldl (fun s r => s.endReq r stDEADLINE none s.lastStep) s).gcReqs
    let live := sortBy reqLt s.job.reqs
    let gen := (sortBy slotLt (live.filter fun r => r.state == .generate && !r.emitEnded)).map s.planGen
    let pre := planPrefill s.chunk ((live.filter fun r => r.state == .prefill) ++ live.filter fun r => r.state == .queued)
      s.job.freeSlots s.pbudget
    let ents := gen ++ pre.map Prod.fst
    if ents.isEmpty then .next s
    else
      let s := pre.foldl (fun s x => s.modReq x.2.1 fun _ => x.2.2) s
      let s := { s with job := { s.job with plans := s.job.plans ++ [(⟨t, ents, false, false⟩ : Plan)] } }
      .next s.servePublish.settle

end Sys2Proof.Machine
end

