-- ==== Sys2Proof/Machine/Views.lean ====
section
/-! DEFINITION. Data frames (R224, R391), membership views (R397 to R401), quarantine (R403), reconciliation (R238) and the
rounds of an agreement (R399). -/

namespace Sys2Proof

def View.entry? (v : View) (m : BitVec 9) : Option ViewEntry := v.entries.find? fun e => e.mid == m
/-- MIDs of the members: the ACTIVE entries. -/
def View.members (v : View) : List (BitVec 9) := (v.entries.filter fun e => e.state == .active).map ViewEntry.mid
def insertEntry (e : ViewEntry) : List ViewEntry → List ViewEntry
  | [] => [e]
  | x :: r => if e.mid < x.mid then e :: x :: r else if e.mid = x.mid then e :: r else x :: insertEntry e r
def View.put (v : View) (e : ViewEntry) : View := { v with entries := insertEntry e v.entries }

end Sys2Proof

namespace Sys2Proof.Machine

/-! ### Data, R224 and R391 -/

/-- What waits for data of other members goes on: pass-one results and collectives. -/
def State.afterData (s : State) : State :=
  let s := [s.stat.sealedN, s.stat.sealedN + 1].foldl (fun s t =>
    let (s, fl) := s.normStep t
    match (s.trick? t).bind TrickRec.upd with
    | none => s
    | some u => s.modQE u.ctx u.uid fun q => { q with
        flags := q.flags ||| fl
        settled := q.settled || u.held }) s
  (allEntries s.job).foldl (fun s p => match p.2.op with
    | .coll o => if p.2.begun && !p.2.settled && p.2.wait == some .coll then s.onBuckets p.2 (fun s => s.collStep p.1 p.2 o) else s
    | _ => s) s
/-- A DATA frame whose epoch is current: of the current attempt it is accepted, of a later one held, else dropped (R224). -/
def State.takeData (s : State) (h : FrameHdr) (m : DataMsg) : State :=
  let t := h.trick.toNat
  let hold : State := { s with fab := { s.fab with held := s.fab.held ++ [.dataFrameReceived h m] } }
  if t < s.stat.sealedN then s
  else match s.trick? t with
    | none => hold
    | some r =>
      let d := (h.attempt - r.att).toNat
      if d = 0 then ({ s with job := s.job.acceptData (midOf h.src) t h.attempt m }).afterData
      else if d < 128 then hold
      else s

def execDataFrameReceived (h : FrameHdr) (m : DataMsg) (s : State) : Host.Outcome State Fault Refusal :=
  let (ok, s) := s.rxJob h (.dataFrameReceived h m)
  .next (if ok then (s.takeData h m).pump else s)

/-! ### View records, Table 14-4 -/

def memStateOf : Nat → Option MemState
  | 0 => some .active
  | 1 => some .spare
  | 2 => some .dead
  | _ => none
/-- One entry; reserved bits are zero, and a rank of 0xFFFF goes with job 0. -/
def entryOf (b : List Byte) (i : Nat) : Option ViewEntry :=
  let o := 16 + 12 * i
  let rank := fieldAt b (o + 4) 2
  let jobid := fieldAt b (o + 8) 4
  if fieldAt b o 2 ≥ 512 ∨ (rank = 0xFFFF ∧ jobid ≠ 0) then none
  else (memStateOf (fieldAt b (o + 2) 1)).map fun st =>
    ⟨BitVec.ofNat 9 (fieldAt b o 2), st, byteAt b (o + 3), BitVec.ofNat 16 rank, BitVec.ofNat 16 (fieldAt b (o + 6) 2), BitVec.ofNat 32 jobid⟩
def midsRise : List ViewEntry → Bool
  | [] => true
  | [_] => true
  | a :: b :: r => decide (a.mid < b.mid) && midsRise (b :: r)
def ranksUnique : List ViewEntry → Bool
  | [] => true
  | e :: r => (e.rank == 0xFFFF || !(r.any fun x => x.rank == e.rank && x.jobid == e.jobid)) && ranksUnique r
/-- The view of a record whose form and CHECK are good. -/
def parseView (b : List Byte) : Option View :=
  let n := fieldAt b 6 2
  let check := fieldAt b 12 4
  if b.length ≠ 16 + 12 * n ∨ n < 1 ∨ n > 512 ∨ fieldAt b 0 4 = 0 ∨ fieldAt b 8 1 < 2 ∨ fieldAt b 8 1 > 16 ∨ fieldAt b 9 3 ≠ 0 ∨
      (crc32c (b.take 12 ++ leBytes 0 4 ++ b.drop 16)).toNat ≠ check then none
  else match (List.range n).mapM (entryOf b) with
    | none => none
    | some es =>
      if midsRise es && ranksUnique es then
        some ⟨BitVec.ofNat 32 (fieldAt b 0 4), BitVec.ofNat 16 (fieldAt b 4 2), fieldAt b 8 1, es⟩
      else none

/-- A view carried by a MEMB frame is one Table 14-4 allows, of this system; any other is ignored (log entry 94). -/
def State.viewOk (s : State) (v : View) : Bool :=
  v.epoch != 0 && v.sysid == s.cfgSysid && decide (2 ≤ v.fanout ∧ v.fanout ≤ 16) && decide (1 ≤ v.entries.length ∧ v.entries.length ≤ 512) &&
    v.entries.all (fun e => e.rank != 0xFFFF || e.jobid == 0) && midsRise v.entries && ranksUnique v.entries
def State.viewMembers (s : State) : List (BitVec 9) := match s.fab.view with
  | none => []
  | some v => v.members
/-- Straps, Tables 18-5 and 18-6. -/
def State.roleStrap (s : State) : Nat := s.aon.latch.toNat / 128 % 4
def State.isBench (s : State) : Bool := s.roleStrap ≥ 2
/-- A spare module joins only as SPARE, until a rank has been moved to it. -/
def State.spareOnly (s : State) : Bool := s.roleStrap == 1 && !s.aon.asRun
def State.secMode (s : State) : Bool := s.aon.latch.getLsbD 12

/-! ### Quarantine, R403 and Table 14-6 -/

/-- The job and its admission end with ABORTED, and the wipe begins. -/
def State.quarantine (s : State) : State :=
  let s := { s with fab := { s.fab with
    self := .quarantine
    held := []
    coord := none
    reconciling := false
    recons := []
    reconWait := []
    rewindDue := false
    qstage := 3 } }
  let s := { s with job := { s.job with staged := [], toks := [] } }
  let s := (s.teardownAll stABORTED).abortReqs
  let s := match s.job.admission with
    | none => s
    | some a => s.complete a.cmd 0x01 stABORTED []
  { s with job := { s.job with state := .wiping, admission := none } }.flushHeld.ckEnd

/-! ### Reconciliation, R238 (log entry 27) -/

/-- What this member holds for its oldest unsealed trick. -/
def State.myRecon (s : State) : Nat × Option Verdict × Byte × Nat :=
  let r := s.job.t0
  if r.att = 0 then (s.myRank, none, 0, s.stat.sealedN) else (s.myRank, some .void, r.att - 1, s.stat.sealedN)
/-- The attempt a report's member is at. -/
def reconAtt (x : Nat × Option Verdict × Byte × Nat) : Nat := match x.2.1 with
  | none => x.2.2.1.toNat
  | some _ => (x.2.2.1 + 1).toNat
/-- The root's decision for every survivor once all have reported: SEAL if any holds it, otherwise VOID of both tricks. It goes
to each of them from the root, which may itself be a substitute and hold no trick (log entry 27). DESIGN CHOICE (log
entry 101): RECON carries no COMMIT, so the COMMIT of a SEAL the root has not applied is the root's own commit bit. -/
def State.reconDecide (s : State) : State :=
  let l := s.fab.recons
  match l with
  | [] => if s.fab.reconciling && s.fab.reconWait.isEmpty then s.endRecon else s
  | x :: r =>
    if !s.fab.reconciling || !s.fab.reconWait.isEmpty then s
    else
      let me := (s.jobRanks.filter fun e => e.mid == s.fab.mid).head?.map fun e => e.rank.toNat
      let mine := l.any fun y => some y.1 == me
      let others := (s.jobRanks.filter fun e => l.any (fun y => y.1 == e.rank.toNat) && e.mid != s.fab.mid).map ViewEntry.mid
      let tell (s : State) (t : Nat) (a : Byte) (v : Verdict) (commit : Bool) (cause : BitVec 4) (o : BitVec 16) : State :=
        let s := others.foldl (fun s m => s.sendPeer m classSEAL t a (sealPayload true v commit cause o) false) s
        if mine && decide (t ≥ s.stat.sealedN) then (s.modTrick t fun r => { r with att := a }).applied t v commit cause o else s
      let m := r.foldl (fun a y => min a y.2.2.2) x.2.2.2
      let att := (l.filter fun y => y.2.2.2 == m).foldl (fun a y => max a (reconAtt y)) 0
      if l.any fun y => decide (y.2.2.2 > m) || y.2.1 == some .ok then
        let skip := (logFind s.job.recov.tlog m).any LogE.skip
        (tell s m (BitVec.ofNat 8 att) .ok (if m = s.stat.sealedN then s.job.t0.commits else !skip) 0 0xFFFF).endRecon
      else
        let o := BitVec.ofNat 16 (me.getD 0)
        let s := tell s m (BitVec.ofNat 8 att) .void false 8 o
        (tell s (m + 1) (if mine then s.job.t1.att else 0) .void false 8 o).endRecon
/-- A survivor's report reaches the root. -/
def State.takeRecon (s : State) (m : BitVec 9) (d : Option Verdict) (att : Byte) (t : Nat) : State :=
  if !s.fab.reconciling || !s.fab.reconWait.contains m then s
  else
    let rank := match s.jobRanks.find? fun e => e.mid == m with
      | none => 0
      | some e => e.rank.toNat
    ({ s with fab := { s.fab with
        recons := s.fab.recons ++ [(rank, d, att, t)]
        reconWait := s.fab.reconWait.filter (· != m) } }).reconDecide
/-- Every survivor tells the root of the new tree what it holds (R238, R400). old are the members of the job in the view before. -/
def State.startRecon (s : State) (old : List (BitVec 9)) : State :=
  let cur := s.jobRanks.map ViewEntry.mid
  let surv := cur.filter old.contains
  let reset (r : TrickRec) : TrickRec := { r with
    votes := r.votes.filter (fun v => v.rank.isNone)
    fwdOk := false
    fwdVoid := false }
  match cur.head? with
  | none => s
  | some root =>
    if surv.isEmpty || !(surv.contains s.fab.mid || root == s.fab.mid) then s
    else
      let s := { s with job := { s.job with t0 := reset s.job.t0, t1 := reset s.job.t1 } }
      let own := root == s.fab.mid
      let s := { s with fab := { s.fab with
        reconciling := true
        recons := if own && surv.contains s.fab.mid then [s.myRecon] else []
        reconWait := if own then surv.filter (· != s.fab.mid) else [] } }
      if own then s.reconDecide
      else
        let (_, d, att, t) := s.myRecon
        s.sendPeer root classMEMB 0 0 (reconPayload d att t) false

/-! ### Installing a view, R400 -/

/-- Ranks of this member's Kitty that are vacant, or whose substitute is not rebuilt yet (R450). -/
def State.kittyVacant (s : State) : Nat := match s.kitty with
  | none => 0
  | some (b, g) => ((List.range g).filter fun i => (s.midOfRank (b + i)).isNone || s.job.recov.filling.contains (b + i)).length
/-- Frames held for the epoch now current are processed (R402). -/
def State.takeHeldEpoch (s : State) : State :=
  let ep (i : Instr) : Option FrameHdr := match i with
    | .dataFrameReceived h _ => some h
    | .sealVoteReceived h _ _ _ _ => some h
    | .sealDecisionReceived h _ _ _ _ => some h
    | .stateFrameReceived h _ => some h
    | .refreshDoneReceived h _ _ => some h
    | .refreshCommitReceived h _ => some h
    | .recon h _ _ _ => some h
    | _ => none
  let hit (i : Instr) : Bool := match ep i with
    | none => false
    | some h => decide (h.epoch ≤ s.fab.epoch)
  let now := s.fab.held.filter fun i => match ep i with
    | none => false
    | some h => decide (h.epoch = s.fab.epoch)
  let s := { s with fab := { s.fab with held := s.fab.held.filter fun i => !hit i } }
  (now.foldl (fun s i => match i with
    | .dataFrameReceived h m => s.takeData h m
    | .sealVoteReceived h v c k o => s.takeVote h v c k o
    | .sealDecisionReceived h v c k o => s.takeDecision h v c k o
    | .stateFrameReceived h m => s.takeState h m
    | .refreshDoneReceived h p r => s.takeDone h p r
    | .refreshCommitReceived _ p => s.takeCommit p
    | .recon h d a t => s.takeRecon (midOf h.src) d a t.toNat
    | _ => s) s).refault

/-- A VIEWCHG is met by a view. -/
def ChgReq.metBy (c : ChgReq) (v : View) : Bool :=
  let m : BitVec 9 := c.mid.setWidth 9
  let st (k : BitVec 9) (x : MemState) : Bool := match v.entry? k with
    | none => false
    | some e => e.state == x
  if c.action = 1 then st m .spare
  else if c.action = 2 then match v.entry? (c.spareMid.setWidth 9) with
    | none => false
    | some e => e.state == .active && e.rank == c.rank
  else !st m .active && !st m .spare
def State.quorum (s : State) : Nat := s.viewMembers.length / 2 + 1
def minMid (l : List (BitVec 9)) : Option (BitVec 9) := l.foldl (fun a m => match a with
  | none => some m
  | some x => if m < x then some m else some x) none
/-- The ACTIVE member with the lowest MID that this module does not suspect. -/
def State.coordinator (s : State) : Option (BitVec 9) := minMid (s.viewMembers.filter fun m => !s.fab.suspects.contains m)
def State.isCoord (s : State) : Bool := s.fab.self == .active && s.coordinator == some s.fab.mid

/-- The refusal of a VIEWCHG by the view in force (R409). -/
def State.chgBad (s : State) (action : Byte) (mid rank spareMid : BitVec 16) : Option Byte :=
  match s.fab.view with
  | none => some stFENCED
  | some v =>
    let e := v.entry? (mid.setWidth 9)
    let isIn := match e with
      | none => false
      | some x => x.state != .dead
    let form := decide (action < 1 ∨ action > 3 ∨ mid.toNat ≥ 512) || (action == 1 && isIn) || (action == 3 && e.isNone) ||
      (action == 2 && (decide (spareMid.toNat ≥ 512 ∨ rank = 0xFFFF) || !(e.any fun x => x.rank == rank) ||
        !((v.entry? (spareMid.setWidth 9)).any fun x => x.state == .spare)))
    -- the level of the job admitted here is the one it was admitted at; another job's is taken from the view (log entry 28)
    let level : Nat := match e with
      | none => 0
      | some x => if s.job.state == .running || s.job.state == .ending then
          (if x.jobid = s.job.jobid then s.job.feature.toNat else (viewRanks v x.jobid).foldl (fun a y => min a y.flevel.toNat) x.flevel.toNat)
        else (viewRanks v x.jobid).foldl (fun a y => min a y.flevel.toNat) x.flevel.toNat
    let low := action == 2 && (v.entry? (spareMid.setWidth 9)).any fun x => decide (x.flevel.toNat < level)
    let out := !(s.fab.self == .active || s.fab.self == .spare) || s.isBench
    worst (worst (failIf form stILLEGAL) (failIf out stFENCED)) (failIf low stFEATURE)
/-- A change of view asked of this module goes to the coordinator (MEMB type 10, log entry 21). -/
def State.forwardChg (s : State) (m : BitVec 9) (c : ChgReq) : State :=
  s.sendMemb m 10 0 0 (leBytes c.action 2 ++ leBytes c.mid.toNat 2 ++ leBytes c.rank.toNat 2 ++ leBytes c.spareMid.toNat 2) none
/-- Requested changes the new view has made impossible complete with their refusal; the others stand (R399). Those of other
modules are theirs to ask again of the new coordinator. -/
def State.settleChgs (s : State) : State :=
  let bad (c : ChgReq) : Option Byte := s.chgBad (BitVec.ofNat 8 c.action) c.mid c.rank c.spareMid
  let gone := s.fab.chgs.filter fun c => (bad c).isSome
  let s1 := { s with fab := { s.fab with chgs := s.fab.chgs.filter fun c => (bad c).isNone && (s.isCoord || c.cmd.isSome) } }
  gone.foldl (fun s1 c => match c.cmd with
    | none => s1
    | some h => s1.complete h 0x32 ((bad c).getD stILLEGAL) []) s1
/-- Requests of this module and its suspicions are told to a coordinator that has not heard them (R399). -/
def State.reRequest (s : State) : State :=
  if s.isCoord then s
  else match s.coordinator with
    | none => s
    | some m =>
      let s := (s.fab.chgs.filter fun c => c.cmd.isSome).foldl (fun s c => s.forwardChg m c) s
      s.fab.suspects.foldl (fun s p => s.sendMemb m 6 0 0 (leBytes p.toNat 2) none) s
/-- Install a view (R400). A module DEAD or absent in it enters quarantine instead. -/
def State.install (s : State) (v : View) (ovr : Bool) : State :=
  let me := Config.ownMid
  let jid := if s.job.state != .idle then s.job.jobid else ((v.entry? me).map ViewEntry.jobid).getD 0
  let old := ((s.fab.view.map fun w => viewRanks w jid).getD []).map ViewEntry.mid
  let named (m : BitVec 9) : Bool := (v.entry? m).any fun e => e.state != .dead
  let missing := (List.range s.job.ranks0).filter fun r => (s.midOfRank r).isNone
  let s := { s with fab := { s.fab with
    epoch := v.epoch
    view := some v
    overridden := ovr
    mid := me
    promised := 0
    accepted := none
    coord := none
    fenced := false
    suspects := s.fab.suspects.filter named
    silentSus := s.fab.silentSus.filter named
    reported := s.fab.reported.filter named } }
  let keep (m : BitVec 9) : Bool := match v.entry? m with
    | none => false
    | some e => e.state != .dead
  let s := { s with fab := { s.fab with
    routes := s.fab.routes.filter (fun r => keep r.peer)
    waiting := s.fab.waiting.filter fun w => keep w.1 } }
  let done := s.fab.chgs.filter fun (c : ChgReq) => c.metBy v
  let s := { s with fab := { s.fab with chgs := s.fab.chgs.filter fun (c : ChgReq) => !c.metBy v } }
  let s := done.foldl (fun s c => match c.cmd with
    | none => s
    | some h => s.complete h 0x32 stOK (leBytes v.epoch.toNat 4)) s
  match v.entry? me with
  | none => s.quarantine.settleChgs
  | some e =>
    match e.state with
    | .dead => s.quarantine.settleChgs
    | .spare => ({ s with fab := { s.fab with self := .spare } }).failRefresh.takeHeldEpoch.settleChgs.reRequest
    | .active =>
      let s : State := { s with
        fab := { s.fab with self := .active }
        aon := { s.aon with asRun := s.aon.asRun || s.roleStrap == 1 } }
      -- a refresh not committed has failed, and what was told of it is stale (R446); a rank that was vacant and is filled now
      -- waits for its substitute (R449)
      let s := s.failRefresh.setRecov fun r => { r with
        early := []
        failedAt := none
        filling := ((r.filling ++ missing).eraseDups).filter fun k => (s.midOfRank k).isSome && k != s.myRank }
      if s.job.state = .running ∨ s.job.state = .ending then
        let s : State := if s.kittyVacant ≥ 2 then s.setDegraded else s
        let back := s.viewVacant && s.job.state == .running && s.stat.rp.isSome && s.job.recov.recoverable.isSome
        let s := ({ s with fab := { s.fab with rewindDue := back } }.startRecon old).rewindIf
        s.reAsk.takeHeldEpoch.settleChgs.reRequest
      else if s.job.recov.rebuild.isSome ∧ s.kittyVacant ≠ 0 then
        -- a second member of the Kitty is lost during the rebuild (R450)
        (match s.job.recov.rebuild with
        | none => s
        | some r => s.rebuildFail r.cmd).takeHeldEpoch.settleChgs.reRequest
      else (if s.job.state = .idle ∧ e.rank ≠ 0xFFFF then s.startRecon old else s).takeHeldEpoch.settleChgs.reRequest

/-! ### Agreement, R399 -/

/-- One requested change in a proposal. site is the new spare's SITE, which the command does not carry (log entry 28). -/
def viewChange (site : Byte) (v : View) (c : ChgReq) : View :=
  let m : BitVec 9 := c.mid.setWidth 9
  if c.action = 1 then
    match v.entry? m with
    | none => v.put ⟨m, .spare, site, 0xFFFF, 1, 0⟩
    | some e => v.put { e with state := .spare, rank := 0xFFFF, jobid := 0 }
  else if c.action = 2 then
    match v.entry? m, v.entry? (c.spareMid.setWidth 9) with
    | some a, some b =>
      (v.put { a with rank := 0xFFFF, jobid := 0 }).put { b with state := .active, rank := a.rank, jobid := a.jobid }
    | _, _ => v
  else { v with entries := v.entries.filter fun e => e.mid != m }
/-- The coordinator's proposal for the next epoch. -/
def State.proposal (s : State) : View × State :=
  match s.fab.view with
  | none => (⟨0, 0, 2, []⟩, s)
  | some v =>
    let gone (m : BitVec 9) : Bool := s.fab.suspects.contains m || s.fab.reported.contains m
    let v := { v with
      epoch := v.epoch + 1
      entries := v.entries.map fun e => if gone e.mid && e.mid != s.fab.mid then { e with state := .dead } else e }
    let (n, s) := s.takeFresh
    let site : Byte := ((Config.freeValue n).setWidth 8) &&& 1
    (s.fab.chgs.foldl (viewChange site) v, s)

def State.setCoord (s : State) (r : Round) : State := { s with fab := { s.fab with coord := some r } }
/-- ACCEPTEDs of a quorum: COMMIT to every module of either view, and the view is installed here. -/
def State.coordCommit (s : State) : State :=
  match s.fab.coord with
  | none => s
  | some r => match r.view with
    | none => s
    | some v =>
      if !r.accepting || r.accepts.length < s.quorum then s
      else
        let all := ((v.entries ++ (s.fab.view.map View.entries).getD []).map ViewEntry.mid).eraseDups.filter (· != s.fab.mid)
        (all.foldl (fun s m => s.sendMemb m 5 r.ballot r.newEpoch [] (some v)) s).install v false
/-- PROMISEs of a quorum: ACCEPT with the accepted view of highest ballot, or the proposal. -/
def State.coordAccept (s : State) : State :=
  match s.fab.coord with
  | none => s
  | some r =>
    if r.accepting || r.promises.length < s.quorum then s
    else
      let best := r.promises.foldl (fun (a : Option (Word × View)) p => match a, p.2 with
        | a, none => a
        | none, some x => some x
        | some y, some x => if y.1 < x.1 then some x else some y) none
      let (v, s) := match best with
        | some x => (x.2, s)
        | none => s.proposal
      let s := (s.viewMembers.filter (· != s.fab.mid)).foldl (fun s m => s.sendMemb m 3 r.ballot r.newEpoch [] (some v)) s
      let mine := decide (r.ballot ≥ s.fab.promised)
      let s := if mine then { s with fab := { s.fab with promised := r.ballot, accepted := some (r.ballot, v) } } else s
      (s.setCoord { r with accepting := true, view := some v, accepts := if mine then [s.fab.mid] else [] }).coordCommit
/-- Begin a round: PREPARE to every member. -/
def State.coordRound (s : State) : State :=
  let n := s.fab.round + 1
  let b : Word := BitVec.ofNat 32 (n % 2 ^ 23 * 512 + s.fab.mid.toNat)
  let ep := s.fab.epoch + 1
  let mine := decide (b > s.fab.promised)
  let r : Round := ⟨ep, b, false, if mine then [(s.fab.mid, s.fab.accepted)] else [], [], none, s.aon.counter, false⟩
  let s := { s with fab := { s.fab with
    round := n
    promised := if mine then b else s.fab.promised } }
  ((s.viewMembers.filter (· != s.fab.mid)).foldl (fun s m => s.sendMemb m 1 b ep [] none) (s.setCoord r)).coordAccept
/-- Some change is to be proposed. -/
def State.toPropose (s : State) : Bool :=
  !s.fab.chgs.isEmpty || (s.fab.suspects ++ s.fab.reported).any s.viewMembers.contains ||
    (match s.fab.view with
      | none => false
      | some v => (s.fab.suspects ++ s.fab.reported).any fun m => (v.entry? m).any fun e => e.state != .dead)
/-- The coordinator begins a round unless one runs. -/
def State.propose (s : State) : State :=
  if s.isCoord && s.fab.coord.isNone && s.toPropose then s.coordRound else s
/-- What follows a message or a view: changes still wanted are proposed (R399), and the module goes on. -/
def State.carryOn (s : State) : State := s.propose.forceDone.pump

end Sys2Proof.Machine
end

