-- ==== Sys2Proof/Machine/HostCmd.lean ====
section
/-! DEFINITION. Host commands of file 15 but for regions: admission and the end of a job (R334 to R342), contexts (R343,
R344), completion rings (R428, R430), views (R398 to R401), checkpoints and restore (R439, R457, R458). -/

namespace Sys2Proof.Machine

/-! ### Taking a command, R425 to R427 -/

/-- Opcodes Table 15-7 does not name. -/
def reservedOpc (o : Byte) : Bool :=
  !([0x01, 0x02, 0x03, 0x04, 0x10, 0x11, 0x20, 0x21, 0x22, 0x23, 0x24, 0x30, 0x31, 0x32, 0x40, 0x41, 0x42] : List Byte).contains o
/-- The SEND at the head of a queue pair's receive queue. -/
def State.headSend (s : State) (q : BitVec 12) : Option (List Byte) := match s.qp? q.toNat with
  | none => none
  | some x => x.rx.head?
/-- The first SEND of a queue pair leaves its receive queue, whose credit is free again (R417). -/
def State.popSend (s : State) (q : BitVec 12) : State :=
  let s := s.modQp q.toNat fun x => { x with rx := x.rx.tail }
  { s with host := { s.host with arrived := s.host.arrived.erase q } }
/-- Commands with a reserved opcode whose turn it is complete with CTX_FAULT_ILLEGAL and have no effect (R425, R426). -/
def State.skipGo (s : State) : Nat → State
  | 0 => s
  | n + 1 => match s.host.arrived.head? with
    | none => s
    | some q => match s.headSend q with
      | none => s
      | some b =>
        if reservedOpc (byteAt b 0) then
          ((s.popSend q).complete ⟨q, byteAt b 1, BitVec.ofNat 64 (fieldAt b 8 8), true⟩ (byteAt b 0) stILLEGAL []).skipGo n
        else s
def State.skipReserved (s : State) : State := s.skipGo s.host.arrived.length
/-- The operands of a command: byte offset, size and value of each field Table 15-7 names. -/
abbrev Operands := List (Nat × Nat × Nat)
/-- A byte of the command that neither Table 15-6 nor the fields name: reserved (R425). -/
def reservedByte (ops : Operands) (i : Nat) : Bool :=
  decide (2 ≤ i ∧ i < 8) || (decide (16 ≤ i ∧ i < 64) && !(ops.any fun f => decide (f.1 ≤ i ∧ i < f.1 + f.2.1)))
/-- The 64 bytes of a SEND spell the command: OPC, FLAGS, TAG, every operand, and whether a reserved byte is set (Tables 15-6,
15-7). -/
def spells (b : List Byte) (h : HostCmd) (opc : Byte) (ops : Operands) : Bool :=
  byteAt b 0 == opc && byteAt b 1 == h.flags && fieldAt b 8 8 == h.tag.toNat && ops.all (fun f => fieldAt b f.1 f.2.1 == f.2.2) &&
    ((List.range 64).any fun i => reservedByte ops i && byteAt b i != 0) == h.rsvSet
/-- The queue pair may send commands: READY, of role CONTROL (R417). -/
def State.control (s : State) (q : BitVec 12) : Bool := (s.qp? q.toNat).any fun x => x.st == .ready && x.role == 1
/-- The command's turn has not come: a SEND that arrived earlier is still to be taken (R426), of another queue pair or of this one
and spelling another command. With no SEND waiting the sender has given the command alone, which a queue pair that may send none
cannot (R417; log entry 26). -/
def State.behind (s : State) (h : HostCmd) (opc : Byte) (ops : Operands) : Bool := match s.host.arrived.head? with
  | none => !s.control h.qp
  | some q => q != h.qp || (match s.headSend q with
    | none => true
    | some b => !spells b h opc ops)
/-- The command is taken: it leaves the receive queue. -/
def State.takeCmd (s : State) (h : HostCmd) : State :=
  if s.host.arrived.isEmpty then s else (s.popSend h.qp).skipReserved
/-- A reserved byte, or a flag other than those of the mask, is not zero. -/
def cmdBad (h : HostCmd) (mask : Byte) : Bool := h.rsvSet || (h.flags &&& ~~~mask) != 0
def State.isRunning (s : State) : Bool := s.job.state == .running
/-- A range of a region the module may read now (R420, R557, log entry 29). -/
def State.canRead (s : State) (rn off len : Nat) : Bool := match s.region? rn with
  | none => false
  | some r => r.read && !r.orphaned && r.carrier.isSome && decide (off + len ≤ r.length)
/-- Outstanding RDMA READs per queue pair (Table 15-2). -/
def readMax : Nat := 16
/-- Issue an RDMA READ of a region, or let it wait until fewer are outstanding on its queue pair. -/
def State.sendRead (s : State) (rn off len : Nat) : State := match s.region? rn with
  | none => s
  | some r => match r.carrier with
    | none => s
    | some q =>
      let free := decide ((s.host.reads.filter fun x => x.qp == q).length < readMax)
      let s := s.modHost fun x => { x with reads := x.reads ++ [⟨q, rn, r.vaddr + off, len, s.aon.counter⟩] }
      if free then s.send (.read q rn (r.vaddr + off) len) else s
/-- A read of a region has come: the next one of its queue pair that waits is issued, and a retry that ran is over. -/
def State.readDone (s : State) (rn len : Nat) : State := match s.host.reads.find? fun x => x.region == rn && x.len == len with
  | none => s
  | some r =>
    let rest := s.host.reads.erase r
    let mine := rest.filter fun x => x.qp == r.qp
    let s := (s.modHost fun x => { x with reads := rest }).setTries r.qp 0
    match mine[readMax - 1]? with
    | none => s
    | some n => (s.modHost fun x => { x with reads := rest.map fun y => if y = n then { y with sent := s.aon.counter } else y }).send
        (.read n.qp n.region n.vaddr n.len)
def levelOwn : Nat := 1

/-! ### Signatures, R517 and R518 -/

/-- A big-endian word of a signature or key (RFC 8554). -/
def word32 (b : List Byte) (i : Nat) : Nat :=
  ((byteAt b i).toNat * 256 + (byteAt b (i + 1)).toNat) * 65536 + (byteAt b (i + 2)).toNat * 256 + (byteAt b (i + 3)).toNat
/-- The key and the signature are of the one form R517 verifies: L = 2, LMS_SHA256_M32_H15 (typecode 7) and
LMOTS_SHA256_N32_W4 (typecode 3) at both levels, 5,396 bytes, leaves below 2^15 (log entry 92). -/
def hssForm (key sig : List Byte) : Bool :=
  let lms (o : Nat) : Bool := decide (word32 sig o < 2 ^ 15) && word32 sig (o + 4) == 3 && word32 sig (o + 2184) == 7
  sig.length == 5396 && word32 key 0 == 2 && word32 key 4 == 7 && word32 key 8 == 3 &&
    word32 sig 0 == 1 && lms 4 && word32 sig 2672 == 7 && word32 sig 2676 == 3 && lms 2728
/-- A signature verifies under a key (R517; log entry 9). -/
def hssGood (key msg sig : List Byte) : Bool := hssForm key sig && Config.hssVerify key msg sig
/-- Verified under an enrolled operator key that holds the permission, keys tried in ascending index. -/
def State.opVerify (s : State) (perm : Nat) (msg sig : List Byte) : Bool :=
  let n := min 4 (fieldAt s.score.keys 6 2)
  (List.range n).any fun i =>
    (byteAt s.score.keys (16 + 64 * i)).getLsbD perm && hssGood ((s.score.keys.drop (20 + 64 * i)).take 60) msg sig
def permJOB : Nat := 0
def permOVR : Nat := 1
def permKEY : Nat := 2

/-! ### ADMIT, R335, R336, R259 to R261 -/

/-- What is left to be read of an ended job until the next admission: the rings' counts, the halt and the attempts of
SEAL.STATE, the shares written while idle (R537, Table 20-3). -/
def Job.leftOver (j : Job) : Job := { Job.cleared with
  rings := j.rings
  halt := j.halt
  t0 := { TrickRec.empty with att := j.t0.att, abase := j.t0.abase }
  t1 := { TrickRec.empty with att := j.t1.att, abase := j.t1.abase }
  shareRegs := j.shareRegs }
/-- The checks of Table 12-2. -/
def State.admitState (s : State) (a : Admission) (range : Bool) : Option Byte :=
  worst (worst (failIf range stILLEGAL) (failIf (s.fab.self == .quarantine || s.fab.self == .offered || s.hl.failed) stFENCED))
    (failIf (decide (a.epoch < s.fab.epoch)) stSTALE)
/-- An ADMIT reads its image, a parameter out of range, a job here already or not: the greatest code of all checks is
reported (R12, R335, R427). One that cannot read its image ends at once. -/
def execAdmitJob (h : HostCmd) (iregion : BitVec 16) (ilen : Word) (ioff seed : Dword) (jobid epoch inpages : Word)
    (trick cursor : BitVec 48) (s : State) : Host.Outcome State Fault Refusal :=
  if s.behind h 0x01 [(16, 2, iregion.toNat), (20, 4, ilen.toNat), (24, 8, ioff.toNat), (32, 8, seed.toNat), (40, 4, jobid.toNat),
      (44, 4, epoch.toNat), (48, 4, inpages.toNat), (52, 6, trick.toNat), (58, 6, cursor.toNat)] then .next s else
  let s := s.takeCmd h
  let now := s.job.state != .idle
  let bad := cmdBad h 0 || now || decide (inpages.toNat < 1 ∨ inpages.toNat > 251133952)
  let a : Admission := ⟨h, trick.toNat, cursor.toNat, iregion.toNat, ilen.toNat, bad, jobid, epoch⟩
  if !s.canRead iregion.toNat ioff.toNat ilen.toNat then
    .next (s.complete h 0x01 ((worst (some stBUFFER) (s.admitState a bad)).getD stBUFFER) [])
  else if now then
    .next ((s.modHost fun x => { x with admitRead := x.admitRead ++ [a] }).sendRead iregion.toNat ioff.toNat ilen.toNat)
  else
    let j : Job := { s.job.leftOver with
      subArea := s.job.subArea
      state := .admitting
      jobid := jobid
      seed := seed
      epoch := epoch
      inpages := inpages.toNat
      admission := some a }
    .next ({ s with job := j }.sendRead iregion.toNat ioff.toNat ilen.toNat)

/-- The Form check of Table 09-4. -/
def imageForm (b : List Byte) : Bool :=
  let ne := fieldAt b 12 2
  let co := fieldAt b 16 4
  let cl := fieldAt b 20 4
  let so := fieldAt b 24 4
  let sl := fieldAt b 28 4
  let signed := (byteAt b 8).getLsbD 1
  decide (b.length ≥ 64) && fieldAt b 0 4 == 0x31505A4B && fieldAt b 4 2 == 1 && fieldAt b 6 2 != 0 && decide (fieldAt b 8 4 < 4) &&
    decide (1 ≤ ne ∧ ne ≤ 64) && fieldAt b 14 2 == 0 && allZero ((b.drop 32).take 32) &&
    co % 64 == 0 && decide (co ≥ 64 + 8 * ne) && cl % 8 == 0 && decide (8 ≤ cl ∧ cl ≤ 16777216) && decide (co + cl ≤ b.length) &&
    (List.range ne).all (fun i => fieldAt b (64 + 8 * i) 4 % 8 == 0 && decide (fieldAt b (64 + 8 * i) 4 < cl) &&
      fieldAt b (64 + 8 * i + 4) 4 == 0) &&
    allZero ((b.drop (64 + 8 * ne)).take (co - (64 + 8 * ne))) &&
    (if signed then so % 8 == 0 && decide (so ≥ co + cl) && sl == 5396 && decide (so + sl ≤ b.length) &&
        allZero ((b.drop (co + cl)).take (so - (co + cl)))
      else so == 0 && sl == 0)
/-- The Signature check of Table 09-4. -/
def State.imageSigned (s : State) (b : List Byte) : Bool :=
  let co := fieldAt b 16 4
  let cl := fieldAt b 20 4
  let so := fieldAt b 24 4
  if (byteAt b 8).getLsbD 1 then
    so % 8 == 0 && decide (so ≥ co + cl) && fieldAt b 28 4 == 5396 && s.opVerify permJOB (b.take so) ((b.drop so).take 5396)
  else !s.secMode
/-- The job's feature level (R336 step 2, R409): of the view's entries, or this module's own on the bench. -/
def State.levelOf (s : State) (jobid : Word) : Nat :=
  if s.isBench then levelOwn else ((s.fab.view.map fun v => viewRanks v jobid).getD []).foldl (fun a e => min a e.flevel.toNat) 65535
/-- The view of the command's EPOCH carries this module under the command's JOBID; bench mode has the view of one entry. -/
def State.inView (s : State) (jobid : Word) : Bool :=
  s.isBench || ((s.fab.view.map fun v => viewRanks v jobid).getD []).any fun e => e.mid == s.fab.mid

/-- Registers an admission clears (Table 20-3). -/
def Stat.admitted (t : Stat) : Stat := { t with
  num := Stat.reset.num
  shares := Stat.reset.shares
  numTrick := 0
  numValid := false
  spotRun := Stat.reset.spotRun
  spotMis := Stat.reset.spotMis
  potStall := Stat.reset.potStall
  potFrac := Stat.reset.potFrac
  voids := 0
  swaps := 0
  tok := 0
  endOk := 0
  endDl := 0
  endCan := 0
  endAbt := 0 }
def State.clearCounters (s : State) : State := { s with
  stat := s.stat.admitted
  job := { s.job with rings := s.job.rings.map fun p => (p.1, { p.2 with head := 0, tail := 0, refused := 0 }) }
  fab := { s.fab with ports := s.fab.ports.map fun (p : PPort) => { p with retx := 0, crc := 0, fec := 0, dropped := 0 } }
  host := { s.host with ports := s.host.ports.map fun (p : HPort) => { p with cnpSent := 0, cnpRcvd := 0, icrc := 0, fec := 0, dropped := 0 } } }
/-- The admission is refused: the module is idle again, and nothing was loaded. -/
def State.refuseAdmit (s : State) (h : HostCmd) (st : Byte) : State :=
  { s with job := { s.job.leftOver with subArea := s.job.subArea } }.complete h 0x01 st []
/-- A substitute asks the other members of its Kitty for its state (R449); with none, or with another lost, it cannot. -/
def State.askRebuild (s : State) (h : HostCmd) : State :=
  if s.kitty.isNone || s.kittyVacant != 0 then s.rebuildFail h
  else
    let s := s.setRecov fun r => { r with rebuild := some ⟨h, [], [], [], 0, false⟩ }
    (s.kittyOthers.filterMap s.midOfRank).foldl (fun s m => s.sendState m 5 0 0 0 []) s

/-- The checks of Tables 12-2 and 09-4 on an image (R335). -/
def State.admitChecks (s : State) (a : Admission) (image : List Byte) : Option Byte :=
  let range := a.bad || decide (a.epoch > s.fab.epoch) || !s.inView a.jobid || (a.trick == allOnes48 && s.isBench)
  worst (s.admitState a (range || !imageForm image))
    (worst (failIf (decide (fieldAt image 6 2 > s.levelOf a.jobid)) stFEATURE) (failIf (!s.imageSigned image) stSIGNATURE))
/-- The admission whose image is awaited. -/
def State.awaited (s : State) (len : Nat) : Option Admission :=
  s.job.admission.filter fun a => s.job.state == .admitting && a.len == len && s.job.recov.rebuild.isNone
/-- The last byte of an image has come: of the admission under way, or of an ADMIT that found a job here, which is refused. -/
def execAdmissionImageReceived (image : List Byte) (s : State) : Host.Outcome State Fault Refusal :=
  match s.awaited image.length with
  | none => match s.host.admitRead.find? fun a => a.len == image.length with
    | none => .next s
    | some a =>
      let s := (s.modHost fun x => { x with admitRead := x.admitRead.erase a }).readDone a.region a.len
      .next (s.complete a.cmd 0x01 ((s.admitChecks a image).getD stILLEGAL) [])
  | some a =>
      let h := a.cmd
      let s := s.readDone a.region a.len
      let sub := a.trick == allOnes48
      let level := s.levelOf a.jobid
      match s.admitChecks a image with
      | some k => .next (s.refuseAdmit h k)
      | none =>
        let co := fieldAt image 16 4
        let ne := fieldAt image 12 2
        let j : Job := { s.job with
          code := (image.drop co).take (fieldAt image 20 4)
          entries := (List.range ne).map fun i => fieldAt image (64 + 8 * i) 4
          halt := false
          t0 := .empty
          t1 := .empty
          a2 := (byteAt image 8).getLsbD 0
          feature := BitVec.ofNat 16 level
          ranks0 := s.ranks.length }
        let s := { s with job := j }.clearCounters
        if sub then .next (s.askRebuild h)
        else
          let s := s.setTrick a.trick a.cursor
          let s := { s with job := { s.job with state := .running, admission := none } }
          .next ((s.complete h 0x01 stOK (leBytes level 2)).setOwner h.qp).settle

/-! ### END, R337 to R342 -/

def execEndJob (h : HostCmd) (s : State) : Host.Outcome State Fault Refusal :=
  if s.behind h 0x02 [] then .next s else
  let s := s.takeCmd h
  let force := h.flags.getLsbD 0
  let wait (s : State) : State := { s with job := { s.job with ends := s.job.ends ++ [h] } }
  if cmdBad h 1 then .next (s.complete h 0x02 stILLEGAL [])
  else match s.job.state with
    | .idle => .next (s.complete h 0x02 stALREADY [])
    | .wiping => .next (s.complete h 0x02 stALREADY [])
    | .admitting =>
      let s := match s.job.admission with
        | none => s
        | some a => s.complete a.cmd 0x01 stABORTED []
      let s := wait s
      .next { s with job := { s.job with state := .wiping, admission := none } }
    | .running =>
      let s := wait s
      if force then .next s.endForce.pump
      else .next ({ s with job := { s.job with state := .ending, draining := true } }.endIfDrained).pump
    | .ending =>
      let s := wait s
      if force && s.job.draining then .next s.endForce.pump else .next s

/-- Step 2 of R337 is over: contexts are torn down and the wipe begins. -/
def execJobEndDrained (s : State) : Host.Outcome State Fault Refusal := .next s.endIfDrained.pump

/-- Commands that a job's end leaves without an effect complete with ABORTED. -/
def State.abortCmds (s : State) : State :=
  let l := s.job.recov.nowReqs ++ (match s.job.recov.refresh with
    | none => []
    | some f => f.tags)
  l.foldl (fun s h => s.complete h 0x41 stABORTED []) s
/-- The wipe is complete once no checkpoint write runs, and it stands still during brace (R339, Table 12-5). The rings'
counts outlive it (Table 20-3). After the wipe of a quarantine the self-test follows (Table 14-6). -/
def execWipeComplete (s : State) : Host.Outcome State Fault Refusal :=
  if s.job.state ≠ .wiping || s.aon.braceAt.isSome || s.job.recov.ck.isSome then .next s
  else
    let s := s.abortCmds
    let ends := s.job.ends
    let s : State := { s with
      job := { s.job.leftOver with shareRegs := [] }
      host := { s.host with
        owner := none }
      hl := { s.hl with
        lost := []
        seen := []
        selftest := s.hl.selftest || s.fab.self == .quarantine }
      fab := { s.fab with
        held := []
        qstage := if s.fab.self = .quarantine then 4 else s.fab.qstage } }
    let s := ends.foldl (fun (s : State) h => s.complete h 0x02 stOK []) s
    .next s.flushHeld

/-! ### RESUME, OWN, CREATE, KILL -/

/-- Votes recorded during the halt are cast for the resumed attempt (R241). -/
def State.castRecorded (s : State) (t : Nat) : State :=
  match (s.trick? t).bind TrickRec.recorded with
  | none => s
  | some k => (s.modTrick t fun r => { r with recorded := none }).voteVoid t k
def execResume (h : HostCmd) (s : State) : Host.Outcome State Fault Refusal :=
  if s.behind h 0x03 [] then .next s else
  let s := s.takeCmd h
  if cmdBad h 0 || !s.isRunning then .next (s.complete h 0x03 stILLEGAL [])
  else if !s.job.halt then .next (s.complete h 0x03 stALREADY [])
  else
    let base (r : TrickRec) : TrickRec := { r with abase := r.att }
    let j := s.job.mapCtxs fun _ x => { x with halted := false }
    let s := { s with job := { j with
      halt := false
      t0 := base j.t0
      t1 := base j.t1 } }
    let s := s.complete h 0x03 stOK []
    .next ((s.castRecorded s.stat.sealedN).castRecorded (s.stat.sealedN + 1)).pump

def execOwn (h : HostCmd) (s : State) : Host.Outcome State Fault Refusal :=
  if s.behind h 0x04 [] then .next s else
  let s := s.takeCmd h
  if cmdBad h 0 then .next (s.complete h 0x04 stILLEGAL [])
  else .next ((s.complete h 0x04 stOK []).setOwner h.qp)

/-- The initial values of Table 09-1. -/
def archNew (entry : Nat) (arg : Dword) (c : CtxId) : Arch where
  pc := BitVec.ofNat 64 entry
  regs := ((Vector.replicate 32 0).set 1 arg).set 2 (BitVec.ofNat 64 c.val)
  preds := (Vector.replicate 8 false).set 0 true
  ctrs := Vector.replicate 16 ⟨0, none⟩
  hnds := Vector.replicate 64 none
  cur := 0
/-- A new context: shares of its command, pass values at GVT (R349), residency time of R351. -/
def State.ctxNew (s : State) (c : CtxId) (entry : Nat) (arg : Dword) (shm shv shc : BitVec 16) : Ctx where
  arch := archNew entry arg c
  sealedFl := 0
  flagTricks := []
  tag := none
  last := none
  joined := []
  prov := none
  faulted := false
  halted := false
  qm := []
  qv := []
  qc := []
  stall := none
  blocked := false
  since := s.aon.counter
  resid := .out
  seat := none
  rvt := BitVec.ofNat 64 ((minRvt (s.job.ctxList.filter fun x => x.2.resid == .resident)).getD 0)
  passM := (s.job.gvt .matrix).getD 0
  passV := (s.job.gvt .vector).getD 0
  passC := (s.job.gvt .copy).getD 0
  rdyM := false
  rdyV := false
  rdyC := false
  shm := shm
  shv := shv
  shc := shc
  tile := 0
  lane := 0
  copy := 0
  cswaps := 0
  spill := none
  spillTrick := none
  aside := []
  collK := []
def execCreate (h : HostCmd) (entry : Byte) (shm shv shc : BitVec 16) (arg : Dword) (s : State) : Host.Outcome State Fault Refusal :=
  if s.behind h 0x10 [(16, 1, entry.toNat), (18, 2, shm.toNat), (20, 2, shv.toNat), (22, 2, shc.toNat), (24, 8, arg.toNat)] then .next s else
  let s := s.takeCmd h
  let bad := cmdBad h 0 || !s.isRunning
  match ctxIds.find? fun c => (s.job.ctx? c).isNone, s.job.entries[entry.toNat]? with
  | some c, some e =>
    if bad then .next (s.complete h 0x10 stILLEGAL [])
    else
      let j := s.job.setCtx c (some (s.ctxNew c e arg shm shv shc))
      let s := { s with job := { j with dead := j.dead.filter fun p => p.1 != c } }
      .next (s.complete h 0x10 stOK [BitVec.ofNat 8 c.val]).settle
  | _, _ => .next (s.complete h 0x10 stILLEGAL [])

def execKill (h : HostCmd) (ctx : Byte) (s : State) : Host.Outcome State Fault Refusal :=
  if s.behind h 0x11 [(16, 1, ctx.toNat)] then .next s else
  let s := s.takeCmd h
  if cmdBad h 0 || !s.isRunning || ctx.toNat ≥ 64 then .next (s.complete h 0x11 stILLEGAL [])
  else
    let c : CtxId := Fin.ofNat 64 ctx.toNat
    match s.job.ctx? c with
    | none => .next (s.complete h 0x11 stALREADY [])
    | some x =>
      let s1 := (s.teardownCore c).ctxCompl none stABORTED (abortRecord stABORTED c)
      .next (((s1.complete h 0x11 stOK []).teardownVotes x.joinedTricks).forceDone).pump

/-! ### INPUB, CQBIND, SQBIND -/

def execInpub (h : HostCmd) (offset length : Dword) (s : State) : Host.Outcome State Fault Refusal :=
  if s.behind h 0x22 [(24, 8, offset.toNat), (32, 8, length.toNat)] then .next s else
  let s := s.takeCmd h
  let lo := offset.toNat
  let hi := lo + length.toNat
  if cmdBad h 0 || !s.isRunning || length == 0 || decide (hi > s.job.inpages * 4096) then .next (s.complete h 0x22 stILLEGAL [])
  else
    let hit (b : Buffer) : Bool := b.cls == .input && !b.dead && decide (b.offset < hi ∧ lo < b.offset + b.bytes)
    let n := (s.job.bufs.filter hit).length
    let s := { s with job := { s.job with bufs := s.job.bufs.map fun b => if hit b then { b with pubSealed := b.pubSealed + 1 } else b } }
    .next (s.complete h 0x22 stOK (leBytes n 4)).pump

def execCqbind (h : HostCmd) (log2n : Byte) (region : BitVec 16) (offset : Dword) (s : State) : Host.Outcome State Fault Refusal :=
  if s.behind h 0x23 [(16, 1, log2n.toNat), (18, 2, region.toNat), (24, 8, offset.toNat)] then .next s else
  let s := s.takeCmd h
  let n := log2n.toNat
  let size := decide (n < 4 ∨ n > 16)
  let form := cmdBad h 0 || size || offset.toNat % 64 != 0
  let room := match s.region? region.toNat with
    | none => true
    | some r => !r.write || (!size && decide (offset.toNat + 64 * 2 ^ n > r.length))
  match worst (failIf form stILLEGAL) (failIf room stBUFFER) with
  | some k => .next (s.complete h 0x23 k [])
  | none =>
    -- the new ring is told of what its predecessor, or no ring yet, has been told (R430; log entry 44)
    let s := s.modQp h.qp.toNat fun q => { q with
      ring := some ⟨region.toNat, offset.toNat, n, 0, (q.ring.map CRing.seen).getD s.host.told⟩ }
    .next (s.complete h 0x23 stOK []).flushHolding

def execSqbind (h : HostCmd) (ring : Byte) (s : State) : Host.Outcome State Fault Refusal :=
  if s.behind h 0x24 [(16, 1, ring.toNat)] then .next s else
  let s := s.takeCmd h
  if cmdBad h 0 || ring.toNat ≥ 128 then .next (s.complete h 0x24 stILLEGAL [])
  else .next ((s.setRing ring.toNat { s.job.ring ring.toNat with bound := some h.qp }).complete h 0x24 stOK [])

/-! ### Views, R398, R399, R401 -/

/-- Whenever its record can be read, a JOINVIEW or OVERRIDE is judged with all its checks once the record has come (R12). -/
def State.viewCmd (s : State) (h : HostCmd) (opc : Byte) (rn len off : Nat) : State :=
  let old := opc == 0x30 && s.fab.epoch != 0
  if s.canRead rn off len then
    (s.modHost fun x => { x with viewRead := x.viewRead ++ [⟨h, opc == 0x31, rn, len, cmdBad h 0⟩] }).sendRead rn off len
  else s.complete h opc ((worst (worst (failIf (cmdBad h 0) stILLEGAL) (some stBUFFER))
    (worst (failIf s.isBench stFENCED) (failIf old stSTALE))).getD stBUFFER) []
def execJoinview (h : HostCmd) (region : BitVec 16) (len : Word) (offset : Dword) (s : State) : Host.Outcome State Fault Refusal :=
  if s.behind h 0x30 [(16, 2, region.toNat), (20, 4, len.toNat), (24, 8, offset.toNat)] then .next s
  else .next ((s.takeCmd h).viewCmd h 0x30 region.toNat len.toNat offset.toNat)
def execOverride (h : HostCmd) (region : BitVec 16) (len : Word) (offset : Dword) (s : State) : Host.Outcome State Fault Refusal :=
  if s.behind h 0x31 [(16, 2, region.toNat), (20, 4, len.toNat), (24, 8, offset.toNat)] then .next s
  else .next ((s.takeCmd h).viewCmd h 0x31 region.toNat len.toNat offset.toNat)

/-- The view names this module ACTIVE and its ROLE strap lets it join only as SPARE (Table 18-6). -/
def State.roleBars (s : State) (v : View) : Bool := s.spareOnly && match v.entry? Config.ownMid with
  | none => false
  | some e => e.state == .active
def execViewRecordReceived (record : List Byte) (s : State) : Host.Outcome State Fault Refusal :=
  match s.host.viewRead with
  | [] => .next s
  | ⟨h, ovr, rn, len, bad⟩ :: rest =>
    if record.length ≠ len then .next s else
    let s := (s.modHost fun x => { x with viewRead := rest }).readDone rn len
    let opc : Byte := if ovr then 0x31 else 0x30
    let n := if ovr then record.length - 5396 else record.length
    let sig := ovr && !s.opVerify permOVR (record.take n) (record.drop n)
    match parseView (record.take n) with
    | none =>
      let old := if ovr then decide (fieldAt record 0 4 ≤ s.fab.epoch.toNat) else s.fab.epoch != (0 : Word)
      .next (s.complete h opc ((worst (failIf s.isBench stFENCED) (worst (failIf old stSTALE) (failIf sig stSIGNATURE))).getD stILLEGAL) [])
    | some v =>
      let form := bad || v.sysid != s.cfgSysid || (!ovr && (v.epoch != 1 || (v.entry? Config.ownMid).isNone))
      let old : Bool := if ovr then decide (v.epoch ≤ s.fab.epoch) else s.fab.epoch != (0 : Word)
      let bars := s.isBench || (!ovr && s.roleBars v)
      match worst (worst (failIf form stILLEGAL) (failIf bars stFENCED)) (worst (failIf old stSTALE) (failIf sig stSIGNATURE)) with
      | some k => .next (s.complete h opc k [])
      | none => .next ((s.complete h opc stOK []).install v ovr).carryOn

def execViewchg (h : HostCmd) (action : Byte) (mid rank spareMid : BitVec 16) (s : State) : Host.Outcome State Fault Refusal :=
  if s.behind h 0x32 [(16, 1, action.toNat), (18, 2, mid.toNat), (20, 2, rank.toNat), (22, 2, spareMid.toNat)] then .next s else
  let s := s.takeCmd h
  match worst (failIf (cmdBad h 0) stILLEGAL) (s.chgBad action mid rank spareMid) with
  | some k => .next (s.complete h 0x32 k [])
  | none =>
    let c : ChgReq := ⟨action.toNat, mid, rank, spareMid, some h, s.isCoord⟩
    let s := { s with fab := { s.fab with chgs := s.fab.chgs ++ [c] } }
    if s.isCoord then .next s.carryOn
    else match s.coordinator with
      | none => .next s
      | some m => .next (s.forwardChg m c)

/-! ### Checkpoints and restore, R439, R457, R458 -/

/-- A checkpoint target: none, or a region the module may write (R557). -/
def State.targetBad (s : State) (rn : Nat) : Bool := rn != 0 && match s.region? rn with
  | none => true
  | some r => !r.write
def execCkptcfg (h : HostCmd) (p : BitVec 16) (f : Word) (ta tb : BitVec 16) (aoff boff : Dword) (s : State) : Host.Outcome State Fault Refusal :=
  if s.behind h 0x40 [(16, 2, p.toNat), (20, 4, f.toNat), (24, 2, ta.toNat), (26, 2, tb.toNat), (32, 8, aoff.toNat), (40, 8, boff.toNat)] then .next s else
  let s := s.takeCmd h
  let form := cmdBad h 0 || !s.isRunning || p == 0 || f.toNat % max 1 p.toNat != 0
  match worst (failIf form stILLEGAL) (failIf (s.targetBad ta.toNat || s.targetBad tb.toNat) stBUFFER) with
  | some k => .next (s.complete h 0x40 k [])
  | none =>
    let s := s.setRecov fun r =>
      if r.refresh.isSome then { r with pendCfg := some (p.toNat, f.toNat, ta.toNat, tb.toNat, aoff.toNat, boff.toNat) }
      else { r with
        p := p.toNat
        f := f.toNat
        ta := ta.toNat
        tb := tb.toNat
        aoff := aoff.toNat
        boff := boff.toNat }
    .next (s.complete h 0x40 stOK [])

def execCkptnow (h : HostCmd) (s : State) : Host.Outcome State Fault Refusal :=
  if s.behind h 0x41 [] then .next s else
  let s := s.takeCmd h
  if cmdBad h 0 || !s.isRunning || s.job.recov.ta == 0 then .next (s.complete h 0x41 stILLEGAL [])
  else .next (s.setRecov fun r => { r with nowReqs := r.nowReqs ++ [h] })

/-- Whenever its record can be read, a RESTORE is judged with all its checks once the record has come (R12, R427). -/
def execRestore (h : HostCmd) (region : BitVec 16) (offset length : Dword) (s : State) : Host.Outcome State Fault Refusal :=
  if s.behind h 0x42 [(16, 2, region.toNat), (24, 8, offset.toNat), (32, 8, length.toNat)] then .next s else
  let s := s.takeCmd h
  let bad := cmdBad h 0 || !s.isRunning || s.job.recov.issuedT || s.job.recov.restored
  if s.canRead region.toNat offset.toNat length.toNat then
    .next ((s.modHost fun x => { x with restoreRead := x.restoreRead ++ [⟨h, length.toNat, region.toNat, bad⟩] }).sendRead
      region.toNat offset.toNat length.toNat)
  else .next (s.complete h 0x42 stBUFFER [])

/-- The bytes and bits of the header of a checkpoint record that are reserved (Table 16-4), or of its log entry (Table 16-3), are
zero. -/
def ckReserved (b : List Byte) : Bool :=
  allZero ((b.drop 122).take 6) && decide ((byteAt b 102).toNat < 8) &&
    allZero ((b.drop 22).take 2) && allZero ((b.drop 30).take 2) && allZero ((b.drop 38).take 2) && decide ((byteAt b 53).toNat < 4) &&
    allZero ((b.drop 60).take 4) && allZero ((b.drop 76).take 4) && allZero ((b.drop 92).take 4) && allZero ((b.drop 128).take 3964)
/-- Bytes the Kitty area of a shard takes (R442). -/
def State.kittyNeed (s : State) (k : Shard) : Nat :=
  let g := s.kittySize
  let z := shardSize k.bytes.length g
  if g ≤ 1 then z else z + 2 * (z / (g - 1))

def execRestoreRecordReceived (record : List Byte) (s : State) : Host.Outcome State Fault Refusal :=
  match s.host.restoreRead with
  | [] => .next s
  | ⟨h, len, rn, bad⟩ :: rest =>
    if record.length ≠ len then .next s
    else
      let s := (s.modHost fun x => { x with restoreRead := rest }).readDone rn len
      let b := record
      let hb := fieldAt b 64 8
      let hr := fieldAt b 72 4
      let dlen := fieldAt b 80 8
      let data := (b.drop 4096).take dlen
      let short := decide (len < 4096 + dlen)
      let k : Shard := ⟨fieldAt b 16 6, fieldAt b 24 6, BitVec.ofNat 32 (fieldAt b 12 4), hb, hr, data.take hr,
        (data.drop (roundUp hr 4096)).take hb⟩
      let form := bad || !s.isRunning || s.job.recov.issuedT || s.job.recov.restored || fieldAt b 0 4 != 0x31435A4B || fieldAt b 4 2 != 1 ||
        (crc32c (b.take 4092)).toNat != fieldAt b 4092 4 || (!short && (crc32c data).toNat != fieldAt b 88 4) || !ckReserved b ||
        fieldAt b 48 2 != s.myRank || fieldAt b 50 2 != s.jobN || fieldAt b 40 8 != s.job.seed.toNat ||
        k.trick == allOnes48
      let need := if s.job.recov.room = 0 then s.kittyNeed k else 0
      let buf := short || dlen != roundUp hr 4096 + hb || decide (s.job.dramUsed + need > jobDram)
      let lvl := s.isRunning && fieldAt b 6 2 != s.job.feature.toNat
      match worst (worst (failIf form stILLEGAL) (failIf buf stBUFFER)) (failIf lvl stFEATURE) with
      | some e => .next (s.complete h 0x42 e [])
      | none =>
        let skew := fieldAt b 32 6 != k.trick
        let st := if skew then stRNGSKEW else stOK
        let proof := if (byteAt b 53).getLsbD 1 then some (logOfBytes ((b.drop 96).take 32)) else none
        let s := s.setRecov fun r => { r with
          shadow := some k
          shadowLog := proof
          restored := true
          srcFirst := true
          room := if r.room = 0 then need else r.room }
        let s := (s.setTrick k.trick k.cursor).arm k proof st
        let s := { s with stat := { s.stat with
          rngSkew := skew
          degraded := true } }
        .next (s.complete h 0x42 st (leBytes k.trick 6)).settle

end Sys2Proof.Machine
end

