-- ==== Sys2Proof/Machine/Transport.lean ====
section
/-! DEFINITION. Queue pairs, regions and transport of the host ports and of the store (R413 to R424, R430, R431). -/

namespace Sys2Proof.Machine

def State.modHPort (s : State) (p : Fin 4) (f : HPort → HPort) : State :=
  { s with host := { s.host with ports := s.host.ports.set p.val (f (s.host.ports.get p)) p.isLt } }
def State.now (s : State) : Dword := s.aon.counter
/-- n counts have passed since t. -/
def State.elapsed (s : State) (t : Dword) (n : Nat) : Bool := decide ((s.aon.counter - t).toNat ≥ n)
def since? (s : State) (t : Option Dword) (n : Nat) : Bool := match t with
  | none => true
  | some x => s.elapsed x n

/-! ### Regions and their store queue pairs, R420 to R424 -/

/-- A live HOST buffer, the token ring of a held request, or a completion ring names the region (R423). -/
def State.regionNamed (s : State) (n : Nat) : Bool :=
  (s.job.bufs.any fun b => b.cls == .host && b.region == n && !b.dead) ||
    (s.job.reqs.any fun r => r.state != .ended && r.rregion == n) ||
    s.host.qps.any fun p => match p.2.ring with
      | none => false
      | some r => r.region == n
/-- A write issued to the region is not acknowledged yet. -/
def State.regionBusy (s : State) (n : Nat) : Bool :=
  (s.host.unacked.any fun u => u.region == n) || (match s.job.recov.ck with
    | none => false
    | some w => !w.awaitSeal && w.place.1 == n) ||
    (match s.att.req with
    | none => false
    | some r => r.region == n && !r.waitResv && !r.waitTree)
def State.setRegions (s : State) (l : List Region) : State := { s with host := { s.host with regions := l } }
def State.dropSqp (s : State) (i : Nat) : State := { s with host := { s.host with sqps := alDel s.host.sqps i } }
/-- A region goes; a PEER region's queue pair is closed with DREQ (R422). -/
def State.closeRegion (s : State) (r : Region) : State :=
  let s := s.setRegions (s.host.regions.filter fun x => x != r)
  match r.sqp with
  | none => s
  | some i => (s.send (.dreq (.store (BitVec.ofNat 6 i)))).dropSqp i
/-- Deletions and replacements of region n that may take effect now do (R423), and registrations complete (R421). -/
def State.regTry (s : State) (n : Nat) : State :=
  if s.regionBusy n then s
  else
    let old := s.host.regions.find? fun r => r.num == n && r.pending.isNone
    let s := match old with
      | none => s
      | some r => match r.deleting with
        | none => s
        | some h => (s.closeRegion r).complete h 0x21 stOK []
    match s.host.regions.find? fun r => r.num == n && r.pending.isSome with
    | none => s
    | some r =>
      let ready := !r.peer || (match r.sqp.bind (alGet s.host.sqps) with
        | none => false
        | some q => q.ready)
      match r.pending with
      | none => s
      | some h =>
        if !ready then s
        else
          let s := match s.host.regions.find? fun x => x.num == n && x.pending.isNone with
            | none => s
            | some x => s.closeRegion x
          let s := s.setRegions (s.host.regions.map fun x => if x = r then { x with pending := none } else x)
          s.complete h 0x20 stOK []
def State.regTryAll (s : State) : State :=
  ((s.host.regions.map Region.num).eraseDups).foldl State.regTry s

/-- An address in IPv4-mapped form. -/
def isV4 (a : BitVec 128) : Bool := a >>> 32 == 0xFFFF
/-- The link-local address formed from a MAC address as a modified EUI-64 (Table 15-1). -/
def linkLocal (m : BitVec 48) : BitVec 128 :=
  let n := m.toNat
  let hi := n / 2 ^ 24
  let hi := if hi / 2 ^ 17 % 2 = 1 then hi - 2 ^ 17 else hi + 2 ^ 17
  BitVec.ofNat 128 (0xFE80 * 2 ^ 112 + hi * 2 ^ 40 + 0xFFFE * 2 ^ 24 + n % 2 ^ 24)
/-- The lowest peer port that is up and has an address of the store address's family. -/
def State.storePort (s : State) (a : BitVec 128) : Option (Fin 12) :=
  (List.finRange 12).find? fun p => (s.fab.ports.get p).up && (!isV4 a || s.cfg.ppIp.get p != 0)
def State.freeSqp (s : State) : Option Nat := (List.range 64).find? fun i => (alGet s.host.sqps i).isNone
/-- Private data of the REQ to the store. -/
def State.storeData (s : State) : List Byte :=
  [1, 4] ++ leBytes Config.serial.toNat 6 ++ leBytes s.fab.mid.toNat 2 ++ leBytes 0 2 ++ leBytes s.fab.epoch.toNat 4
/-- The REQ of R421 step 3: path MTU 4,096, retry count 7, RNR retry 7, local ACK timeout 14, starting PSN 0. -/
def State.storeReq (s : State) (p : Fin 12) (i : Nat) (a : BitVec 128) : Out := .storeReq p i a 4096 7 7 14 0 s.storeData
/-- Steps 1 to 3 of R421 for a region: the queue pair entry, and the address resolution or the REQ. -/
def State.openStore (s : State) (r : Region) : Option (Nat × State) :=
  match s.storePort r.addr, s.freeSqp with
  | some p, some i =>
    let q : SQp := ⟨r.num, p, false, s.now, 0, 1600, none, none, none, none⟩
    let s := { s with host := { s.host with sqps := alSet s.host.sqps i q } }
    if s.host.arp.any fun e => e.1 == r.addr then some (i, s.send (s.storeReq p i r.addr))
    else some (i, s.send (.arpRequest p r.addr))
  | _, _ => none
def Region.opening (r : Region) : Bool := r.pending.isSome || r.retry.isSome

/-- Try again to reach the store of an orphaned region (R422). -/
def State.reopen (s : State) (r : Region) : State :=
  let put (s : State) (y : Region) : State := s.setRegions (s.host.regions.map fun x => if x = r then y else x)
  match s.openStore r with
  | none => put s { r with sqp := none, retry := some s.now }
  | some (i, s) => put s { r with sqp := some i, retry := some s.now }
/-- The reads of the regions that were carried by a queue pair fail: an image's ADMIT, a view's or a record's command ends with
ABORTED (Table 15-10), or with the code it has earned already; a SCORE.LOAD is over. -/
def State.readsFail (s : State) (has : Nat → Bool) : State :=
  let s := s.modHost fun x => { x with reads := x.reads.filter fun r => !has r.region }
  let s : State := match s.job.admission with
    | none => s
    | some a =>
      if has a.region && s.job.state == .admitting && s.job.recov.rebuild.isNone then s.refuseAdmit a.cmd stABORTED else s
  let vs := s.host.viewRead.filter fun v => has v.region
  let rs := s.host.restoreRead.filter fun v => has v.region
  let as := s.host.admitRead.filter fun a => has a.region
  let s := s.modHost fun x => { x with
    viewRead := x.viewRead.filter (fun v => !has v.region)
    restoreRead := x.restoreRead.filter (fun v => !has v.region)
    admitRead := x.admitRead.filter fun a => !has a.region }
  let s := vs.foldl (fun s v => s.complete v.cmd (if v.ovr then 0x31 else 0x30) (if v.bad then stILLEGAL else stABORTED) []) s
  let s := rs.foldl (fun s v => s.complete v.cmd 0x42 (if v.bad then stILLEGAL else stABORTED) []) s
  let s := as.foldl (fun s a => s.complete a.cmd 0x01 ((s.admitState a a.bad).getD stILLEGAL) []) s
  match s.score.load with
  | none => s
  | some l => if has l.region && !l.queued then
      { s with score := { s.score with load := none, loadStatus := stBUFFER, loadDone := true } } else s
/-- The store queue pair leaves READY: its region is orphaned, the checkpoint write on it is abandoned, and a new one is
opened at once (R422). -/
def State.storeLost (s : State) (i : Nat) : State :=
  match s.host.regions.find? fun r => r.sqp == some i with
  | none => s.dropSqp i
  | some r =>
    let s := s.dropSqp i
    let ref : QpRef := .store (BitVec.ofNat 6 i)
    let gone := s.host.unacked.filter fun u => u.qp == ref
    let s := s.modHost fun x => { x with unacked := x.unacked.filter fun u => u.qp != ref }
    let s := gone.foldl (fun s u => s.lose u.what) s
    match r.pending with
    | some h =>
      -- a registration still being made fails
      (s.setRegions (s.host.regions.filter fun x => x != r)).complete h 0x20 stBUFFER []
    | none =>
      let r' : Region := { r with orphaned := true, sqp := none }
      let s := s.setRegions (s.host.regions.map fun x => if x = r then r' else x)
      let hit := match s.job.recov.ck with
        | none => false
        | some w => w.place.1 == r.num && !w.awaitSeal
      let s := if hit then s.ckAbandon else s
      let s := s.readsFail fun n => n == r.num
      (((s.reopen r').regTry r.num).flushHeld)

/-! ### REGREG and REGDEL -/

def execRegreg (h : HostCmd) (region : BitVec 16) (path access : Byte) (rkey : Word) (vaddr length : Dword) (qpn : Word)
    (addr : BitVec 128) (s : State) : Host.Outcome State Fault Refusal :=
  if s.behind h 0x20 [(16, 2, region.toNat), (18, 1, path.toNat), (19, 1, access.toNat), (20, 4, rkey.toNat), (24, 8, vaddr.toNat),
      (32, 8, length.toNat), (40, 4, qpn.toNat), (48, 16, addr.toNat)] then .next s else
  let s := s.takeCmd h
  let n := region.toNat
  let replace := h.flags.getLsbD 0
  let old := s.host.regions.find? fun r => r.num == n
  let peer := path == 1
  let form := cmdBad h 1 || n == 0 || decide (path > 1 ∨ access > 3) || length == 0 || (!peer && addr != 0) || (peer && qpn != 0) ||
    (old.isSome && !replace)
  let qi := qpn.toNat - 0x1000
  let qpOk := decide (0x1000 ≤ qpn.toNat ∧ qpn.toNat < 0x2000) && (match s.qp? qi with
    | none => false
    | some q => q.st == .ready && (q.role == 1 || q.role == 3))
  let held := match old with
    | none => false
    | some r => s.regionNamed n || r.pending.isSome || r.deleting.isSome
  let room := held || (if peer then s.isBench || (s.storePort addr).isNone || s.freeSqp.isNone else !qpOk)
  match worst (failIf form stILLEGAL) (failIf room stBUFFER) with
  | some k => .next (s.complete h 0x20 k [])
  | none =>
    let r : Region := ⟨n, peer, BitVec.ofNat 12 qi, addr, access.getLsbD 0, access.getLsbD 1, rkey, vaddr.toNat, length.toNat, false,
      none, some h, none, none⟩
    if peer then
      match s.openStore r with
      | none => .next (s.complete h 0x20 stBUFFER [])
      | some (i, s) => .next ((s.setRegions (s.host.regions ++ [{ r with sqp := some i }])).regTry n)
    else .next ((s.setRegions (s.host.regions ++ [r])).regTry n).pump

def execRegdel (h : HostCmd) (region : BitVec 16) (s : State) : Host.Outcome State Fault Refusal :=
  if s.behind h 0x21 [(16, 2, region.toNat)] then .next s else
  let s := s.takeCmd h
  let n := region.toNat
  let room := match s.region? n with
    | none => true
    | some r => s.regionNamed n || r.deleting.isSome
  match worst (failIf (cmdBad h 0) stILLEGAL) (failIf room stBUFFER) with
  | some k => .next (s.complete h 0x21 k [])
  | none => .next ((s.setRegions (s.host.regions.map fun r => if r.num = n ∧ r.pending.isNone then { r with deleting := some h } else r)).regTry n)

/-! ### The store's answers -/

/-- The region whose store queue pair is being opened. -/
def State.openingRegion (s : State) (n : Nat) : Option (Region × Nat × SQp) :=
  match s.host.regions.find? fun r => r.num == n && r.opening && r.sqp.isSome with
  | none => none
  | some r => match r.sqp with
    | none => none
    | some i => match alGet s.host.sqps i with
      | none => none
      | some q => if q.ready then none else some (r, i, q)
/-- The attempt fails: the registration is refused, or the next attempt waits for its time. -/
def State.storeFail (s : State) (r : Region) (i : Nat) : State :=
  let s := s.dropSqp i
  match r.pending with
  | some h => (s.setRegions (s.host.regions.filter fun x => x != r)).complete h 0x20 stBUFFER []
  | none => s.setRegions (s.host.regions.map fun x => if x = r then { x with sqp := none } else x)

def execStoreConnectReply (region : BitVec 16) (accepted : Bool) (s : State) : Host.Outcome State Fault Refusal :=
  match s.openingRegion region.toNat with
  | none => .next s
  | some (r, i, q) =>
    if !(s.host.arp.any fun e => e.1 == r.addr) then .next s
    else if !accepted then .next (s.storeFail r i)
    else
      let s := { s with host := { s.host with sqps := alSet s.host.sqps i { q with ready := true } } }
      let s := s.send (.rtu (.store (BitVec.ofNat 6 i)))
      let s := match r.pending with
        | some _ => s
        | none => s.setRegions (s.host.regions.map fun x => if x = r then { x with orphaned := false, retry := none } else x)
      .next (s.regTry r.num).pump

def execStoreConnectTimeout (region : BitVec 16) (s : State) : Host.Outcome State Fault Refusal :=
  match s.openingRegion region.toNat with
  | none => .next s
  | some (r, i, q) => if s.elapsed q.since 5000000 then .next (s.storeFail r i) else .next s

def execStoreReconnectTimer (region : BitVec 16) (s : State) : Host.Outcome State Fault Refusal :=
  match s.host.regions.find? fun r => r.num == region.toNat && r.peer && r.orphaned && r.pending.isNone with
  | none => .next s
  | some r =>
    if !since? s r.retry 50000 then .next s
    else match r.sqp with
      | none => .next (s.reopen r)
      | some i =>
        let s := (s.dropSqp i).setRegions (s.host.regions.map fun x => if x = r then { x with sqp := none } else x)
        .next (s.reopen { r with sqp := none })

/-! ### Queue pairs, R415, R416, R424 -/

def State.lineRate (s : State) : Nat := if s.aon.latch.getLsbD 10 then 100 else 200
/-- Held completions beyond 256: the oldest are dropped (R430). -/
def State.trimHolding (s : State) : State :=
  let n := s.host.holding.length - 256
  if n = 0 then s
  else { s with host := { s.host with
    holding := s.host.holding.drop n
    lost := s.host.lost + n
    errCq := true } }
/-- What ends when a queue pair leaves READY: the regions it carries are orphaned, reads of them fail and writes of them are lost;
the unacknowledged owner completions of its ring, whatever queue pair carries that, go back to the holding queue (R424, Table
15-10). -/
def State.qpOff (s : State) (i : Nat) : State :=
  let mine (r : Region) : Bool := !r.peer && r.qp.toNat == i
  let has (n : Nat) : Bool := s.host.regions.any fun r => r.num == n && mine r
  let ref : QpRef := .host (BitVec.ofNat 12 i)
  let own (u : Unacked) : Option (Option Nat × Compl) := match u.what with
    | .compl true c => if u.tag = i then some (u.trick, c) else none
    | _ => none
  let gone := s.host.unacked.filter fun u => u.qp == ref && (own u).isNone
  let s := (s.modHost fun x => { x with
    regions := x.regions.map fun r => if mine r then { r with orphaned := true } else r
    unacked := x.unacked.filter fun u => u.qp != ref && (own u).isNone
    holding := x.unacked.filterMap own ++ x.holding }).trimHolding
  let s := gone.foldl (fun s u => s.lose u.what) s
  let s := s.readsFail has
  let s := match s.job.recov.ck with
    | none => s
    | some w => if has w.place.1 && !w.awaitSeal then s.ckAbandon else s
  s.regTryAll.flushHeld
/-- A queue pair becomes FREE. -/
def State.qpFree (s : State) (i : Nat) : State :=
  let was := s.qpReady i
  let s := { s with host := { s.host with qps := alDel s.host.qps i, arrived := s.host.arrived.filter (·.toNat != i) } }
  if was then s.qpOff i else s
/-- A queue pair enters ERROR. -/
def State.qpError (s : State) (i : Nat) : State :=
  match s.qp? i with
  | none => s
  | some q =>
    if q.st = .error then s
    else
      let was := q.st == .ready
      let s := s.setQp i { q with
        st := .error
        since := s.now
        latches := [] }
      let s := { s with host := { s.host with errQp := true } }
      if was then s.qpOff i else s
/-- The first packet makes a CONNECTING queue pair READY. -/
def State.touch (s : State) (i : Nat) : State := s.modQp i fun q => if q.st = .connecting then { q with st := .ready } else q
/-- A packet of a queue pair the module refuses: NAK for an invalid request, and the queue pair enters ERROR (R414). -/
def State.refuse (s : State) (q : BitVec 12) : State := (s.send (.nak q 0)).qpError q.toNat

/-- The private data of a REP (Table 15-3). -/
def State.repData (s : State) (i : Nat) : List Byte :=
  let st : Byte := match s.job.state with
    | .idle => 0
    | .admitting => 1
    | .running => 2
    | .ending => 3
    | .wiping => 4
  leBytes Config.serial.toNat 6 ++ [BitVec.ofNat 8 (s.aon.latch.toNat % 128), st] ++ leBytes s.fab.mid.toNat 2 ++ leBytes i 2 ++
    leBytes s.fab.epoch.toNat 4
def State.freeQp (s : State) : Option Nat := (List.range 4096).find? fun i => (s.qp? i).isNone
/-- The local ACK timeout of a request is 8 to 20; a value outside is the nearest of these (log entry 102). -/
def ackTime (t : BitVec 5) : Nat := min 20 (max 8 t.toNat)
def execCmReq (port : Fin 4) (role version : Byte) (rsvZero : Bool) (mtu : Nat) (peer : CmPeer) (s : State) :
    Host.Outcome State Fault Refusal :=
  let manage := (s.host.qps.filter fun p => p.2.role == 2).length
  if !(s.host.ports.get port).up then .next s
  else if version ≠ 1 || !rsvZero || !([1024, 2048, 4096].contains mtu) then .next (s.send (.rej port 2))
  else if role < 1 || role > 3 then .next (s.send (.rej port 3))
  else match s.freeQp with
    | none => .next (s.send (.rej port 1))
    | some i =>
      if role = 2 ∧ manage ≥ 16 then .next (s.send (.rej port 1))
      else
        let q : Qp := ⟨.connecting, role, port, mtu, peer.qpn, s.now, peer.retry.toNat, peer.rnr.toNat, ackTime peer.ackTimeout, 0, s.lineRate, none, none,
          none, none, [], none, []⟩
        .next ((s.setQp i q).send (.rep port (BitVec.ofNat 12 i) (s.repData i)))

def execCmRtu (qp : BitVec 12) (s : State) : Host.Outcome State Fault Refusal := .next (s.touch qp.toNat)
def execCmDreq (qp : QpRef) (s : State) : Host.Outcome State Fault Refusal :=
  match qp with
  | .host i => if (s.qp? i.toNat).isNone then .next s else .next ((s.send (.drep qp)).qpFree i.toNat).pump
  | .store i => if (alGet s.host.sqps i.toNat).isNone then .next s else .next ((s.send (.drep qp)).storeLost i.toNat).pump
/-- A DREP ends a queue pair; the module asks for none of a host's, and frees a store's when it sends DREQ. -/
def execCmDrep (qp : QpRef) (s : State) : Host.Outcome State Fault Refusal :=
  match qp with
  | .host i => if (s.qp? i.toNat).isNone then .next s else .next (s.qpFree i.toNat).pump
  | .store i => if (alGet s.host.sqps i.toNat).isNone then .next s else .next (s.storeLost i.toNat).pump
def execConnectingTimeout (qp : BitVec 12) (s : State) : Host.Outcome State Fault Refusal :=
  match s.qp? qp.toNat with
  | none => .next s
  | some q => if q.st == .connecting && s.elapsed q.since 50000 then .next (s.qpFree qp.toNat) else .next s
def execQpErrorTimeout (qp : BitVec 12) (s : State) : Host.Outcome State Fault Refusal :=
  match s.qp? qp.toNat with
  | none => .next s
  | some q => if q.st == .error && s.elapsed q.since 50000 then .next (s.qpFree qp.toNat) else .next s
def execQpRetryExhausted (qp : QpRef) (s : State) : Host.Outcome State Fault Refusal :=
  match qp with
  | .host i => if s.qpReady i.toNat then .next (s.qpError i.toNat).pump else .next s
  | .store i => match alGet s.host.sqps i.toNat with
    | none => .next s
    | some q => if q.ready then .next (s.storeLost i.toNat).pump else .next s

/-! ### Packets -/

/-- The table entry of a queue pair is READY, or becomes so with this packet; otherwise the packet is an invalid request. -/
def State.arrive (s : State) (q : BitVec 12) : Option (Qp × State) :=
  let s := s.touch q.toNat
  match s.qp? q.toNat with
  | none => none
  | some x => if x.st = .ready then some (x, s) else none

def execControlSendReceived (qp : BitVec 12) (bytes : List Byte) (s : State) : Host.Outcome State Fault Refusal :=
  match s.arrive qp with
  | none => .next (s.send (.nak qp 0))
  | some (q, s) =>
    if q.role ≠ 1 || bytes.length ≠ 64 then .next (s.refuse qp).pump
    else if q.rx.length ≥ 64 then .next (s.send (.nak qp 2))
    else
      let s := (s.setQp qp.toNat { q with rx := q.rx ++ [bytes] }).send (.ack qp)
      .next ({ s with host := { s.host with arrived := s.host.arrived ++ [qp] } }.skipReserved)

/-- A host acknowledges the module's oldest write on a queue pair. -/
def execRdmaWriteAck (qp : QpRef) (s : State) : Host.Outcome State Fault Refusal :=
  match s.host.unacked.find? fun u => u.qp == qp with
  | none => .next s
  | some u =>
    let s := (s.modHost fun x => { x with unacked := x.unacked.erase u }).setTries qp 0
    .next ((s.regTry u.region).flushHeld).pump

/-- Congestion notification, R413: at most one packet per queue pair per 2,500 counts. -/
def execCePacketReceived (port : Fin 4) (qp : QpRef) (s : State) : Host.Outcome State Fault Refusal :=
  if !s.cfg.hp.getLsbD 9 then .next s
  else match qp with
    | .host i => match s.qp? i.toNat with
      | none => .next s
      | some q =>
        if !since? s q.cnpSent 2500 then .next s
        else
          let s := s.setQp i.toNat { q with cnpSent := some s.now }
          .next ((s.modHPort port fun p => { p with cnpSent := satAdd p.cnpSent 1 sat16 }).send (.cnp qp))
    | .store i => match alGet s.host.sqps i.toNat with
      | none => .next s
      | some q =>
        if !since? s q.cnpSent 2500 then .next s
        else .next ({ s with host := { s.host with sqps := alSet s.host.sqps i.toNat { q with cnpSent := some s.now } } }.send (.cnp qp))
def lowerRate (r : Nat) : Nat := max 1 (r * 7 / 8)
def execCnpReceived (port : Fin 4) (qp : QpRef) (s : State) : Host.Outcome State Fault Refusal :=
  match qp with
  | .host i => match s.qp? i.toNat with
    | none => .next s
    | some q =>
      let low := since? s q.lowered 2500
      let s1 := s.setQp i.toNat { q with
        cnpRcvd := some s.now
        rate := if low then lowerRate q.rate else q.rate
        lowered := if low then some s.now else q.lowered }
      .next (s1.modHPort port fun p => { p with cnpRcvd := satAdd p.cnpRcvd 1 sat16 })
  | .store i => match alGet s.host.sqps i.toNat with
    | none => .next s
    | some q =>
      let low := since? s q.lowered 2500
      .next { s with host := { s.host with sqps := alSet s.host.sqps i.toNat { q with
        cnpRcvd := some s.now
        rate := if low then lowerRate q.rate else q.rate
        lowered := if low then some s.now else q.lowered } } }
def execRateIncreaseTimer (qp : QpRef) (s : State) : Host.Outcome State Fault Refusal :=
  match qp with
  | .host i => match s.qp? i.toNat with
    | none => .next s
    | some q =>
      if since? s q.cnpRcvd 2500 && since? s q.rateUp 2500 then
        .next (s.setQp i.toNat { q with rate := min (q.rate + 1) s.lineRate, rateUp := some s.now })
      else .next s
  | .store i => match alGet s.host.sqps i.toNat with
    | none => .next s
    | some q =>
      if since? s q.cnpRcvd 2500 && since? s q.rateUp 2500 then
        .next { s with host := { s.host with sqps := alSet s.host.sqps i.toNat { q with rate := min (q.rate + 1) 1600, rateUp := some s.now } } }
      else .next s

/-- The region is carried by the queue pair. -/
def State.carries (s : State) (q : QpRef) (n : Nat) : Bool := s.host.regions.any fun r => r.num == n && r.carrier == some q
/-- When each request outstanding on a queue pair was last sent: writes, READs that have been issued, a checkpoint write. -/
def State.sentOn (s : State) (q : QpRef) : List Dword :=
  ((s.host.unacked.filter fun u => u.qp == q).map Unacked.sent) ++
    (((s.host.reads.filter fun r => r.qp == q).take readMax).map Rd.sent) ++ (match s.job.recov.ck with
      | none => []
      | some w => if !w.awaitSeal && s.carries q w.place.1 then [w.sent] else [])
/-- Retry count and local ACK timeout of a queue pair, and the retries made (Table 15-2). -/
def State.retryOf (s : State) : QpRef → Option (Nat × Nat × Nat)
  | .host i => (s.qp? i.toNat).map fun q => (q.retry, q.timeout, q.tries)
  | .store i => (alGet s.host.sqps i.toNat).map fun q => (7, 14, q.tries)
/-- 4.096 µs x 2^t in counts of 20 ns, rounded up. -/
def ackCounts (t : Nat) : Nat := ceilDiv (2048 * 2 ^ t) 10
/-- A queue pair leaves READY because its retry has run out. -/
def State.retryOut (s : State) : QpRef → State
  | .host i => s.qpError i.toNat
  | .store i => s.storeLost i.toNat
/-- The requests of a queue pair are sent again, or its retry has run out (R414). -/
def State.sendAgain (s : State) (q : QpRef) (retry tries : Nat) : State :=
  if tries ≥ retry then s.retryOut q
  else
    let fresh (r : Rd) : Rd := if r.qp = q then { r with sent := s.now } else r
    let s := s.modHost fun x => { x with
      unacked := x.unacked.map fun u => if u.qp = q then { u with sent := s.now } else u
      reads := x.reads.map fresh }
    let s := match s.job.recov.ck with
      | none => s
      | some w => if s.carries q w.place.1 then s.setRecov fun r => { r with ck := some { w with sent := s.now } } else s
    (s.setTries q (tries + 1)).send (.resend q)
/-- The oldest request of a queue pair has waited for the local ACK timeout. -/
def execLocalAckTimeout (qp : QpRef) (s : State) : Host.Outcome State Fault Refusal :=
  match s.retryOf qp with
  | none => .next s
  | some (retry, t, tries) =>
    if (s.sentOn qp).any fun x => s.elapsed x (ackCounts t) then .next (s.sendAgain qp retry tries).pump else .next s

/-- A NAK for a sequence error has the requests sent again; any other refuses the write, which is abandoned (R456). -/
def execRoceNakReceived (qp : QpRef) (sequence : Bool) (s : State) : Host.Outcome State Fault Refusal :=
  if (s.sentOn qp).isEmpty then .next s
  else if sequence then match s.retryOf qp with
    | none => .next s
    | some (retry, _, tries) => .next (s.sendAgain qp retry tries).pump
  else match s.host.unacked.find? fun u => u.qp == qp with
    | some u =>
      let s := (s.modHost fun x => { x with unacked := x.unacked.erase u }).lose u.what
      .next ((s.regTry u.region).flushHeld).pump
    | none => match s.job.recov.ck with
      | none => .next s
      | some w =>
        if s.carries qp w.place.1 && !w.awaitSeal then .next s.ckAbandon.pump else .next s

def State.dropHost (s : State) (port : Fin 4) : State := s.modHPort port fun p => { p with dropped := satAdd p.dropped 1 sat32 }
def execRefusedRocePacket (port : Fin 4) (qp : Option (BitVec 12)) (s : State) : Host.Outcome State Fault Refusal :=
  match qp with
  | none => .next (s.dropHost port)
  | some q => .next (s.refuse q).pump
/-- An invariant CRC failure and an uncorrectable FEC codeword have counters of their own (Table 15-11; log entry 102). -/
def execUnsupportedHostFrame (frame : BadFrame) (s : State) : Host.Outcome State Fault Refusal :=
  match frame.why with
  | .unsupported => .next (s.dropHost frame.port)
  | .icrc => .next (s.modHPort frame.port fun p => { p with icrc := satAdd p.icrc 1 sat32 })
  | .uncorrectable => .next (s.modHPort frame.port fun p => { p with fec := satAdd p.fec 1 sat32 })

/-! ### Addresses and flow control, R412 and R386 -/

/-- An address of a port. -/
def State.ownAddr (s : State) (isHost : Bool) (port : Fin 12) (a : BitVec 128) : Bool :=
  let ip : Word := if isHost then s.cfg.hpIp.get (Fin.ofNat 4 port.val) else s.cfg.ppIp.get port
  let mac := if isHost then Config.hostMac port.val else Config.peerMac port.val
  (isV4 a && ip != 0 && a.setWidth 32 == ip) || (!isV4 a && a == linkLocal mac)
def State.portUp (s : State) (isHost : Bool) (port : Fin 12) : Bool :=
  if isHost then decide (port.val < 4) && (s.host.ports.get (Fin.ofNat 4 port.val)).up else (s.fab.ports.get port).up
def execArpFrameReceived (isHost : Bool) (port : Fin 12) (isReply : Bool) (addr : BitVec 128) (mac : BitVec 48) (s : State) :
    Host.Outcome State Fault Refusal :=
  if !s.portUp isHost port then .next s
  else if !isReply then
    if s.ownAddr isHost port addr then .next (s.send (.arpReply isHost port addr)) else .next s
  else if isHost then .next s
  else
    let asks := s.host.regions.filterMap fun r => if r.opening && r.addr == addr then match r.sqp with
        | none => none
        | some i => match alGet s.host.sqps i with
          | none => none
          | some q => if !q.ready && q.port == port then some i else none
      else none
    if asks.isEmpty || s.host.arp.any (fun e => e.1 == addr) then .next s
    else
      let s := { s with host := { s.host with arp := s.host.arp ++ [(addr, mac)] } }
      .next (asks.foldl (fun s i => s.send (s.storeReq port i addr)) s)
def execIcmpEchoReceived (isHost : Bool) (port : Fin 12) (dst : BitVec 128) (payload : List Byte) (s : State) :
    Host.Outcome State Fault Refusal :=
  if s.portUp isHost port && s.ownAddr isHost port dst then .next (s.send (.echoReply isHost port payload)) else .next s
/-- Honoured on the configured priorities only; what waited goes once it may. -/
def execPfcFrameReceived (isHost : Bool) (port : Fin 12) (priority : BitVec 3) (pause : Bool) (s : State) :
    Host.Outcome State Fault Refusal :=
  let k := priority.toNat
  if isHost then
    let p : Fin 4 := Fin.ofNat 4 port.val
    if port.val ≥ 4 || k ≠ s.cfg.hp.toNat % 8 then .next s
    else .next (s.modHPort p fun x => { x with paused := setBit x.paused k pause }).flushTx
  else if k ≠ s.cfg.pp.toNat % 8 ∧ k ≠ s.cfg.pp.toNat / 8 % 8 then .next s
  else .next (((s.setPPort port fun x => { x with paused := setBit x.paused k pause }).flushTx).flushWaiting)

end Sys2Proof.Machine
end

