-- ==== Sys2Proof/Machine/Peer.lean ====
section
/-! DEFINITION. Peer links: keepalives, acknowledgements and retry, routes, lanes, ports, fencing (R388, R389, R393 to R396,
R402, R403, R408). -/

namespace Sys2Proof.Machine

/-! ### Routes that go down, R394 and R395 -/

def State.retryMax (s : State) : Nat := s.cfg.pp.toNat / 2 ^ 18 % 16
def State.deadCounts (s : State) : Nat :=
  let k := s.cfg.pp.toNat / 2 ^ 22 % 64
  500 * (if k = 0 then 10 else k)
def State.suspectCounts (s : State) : Nat :=
  let k := s.cfg.mem.toNat % 65536
  500 * (if k = 0 then 100 else k)
/-- The point of a parity frame, or of a shard's length, that was lost (R446; log entry 30). -/
def TxFrame.parityPoint (f : TxFrame) : Option Nat :=
  if f.cls = classSTATE ∧ (fieldAt f.payload 0 1 = 0 ∨ fieldAt f.payload 0 1 = 14) then some (fieldAt f.payload 1 6) else none
/-- A route leaves the route set; its unacknowledged frames count as having exhausted their retry, and their tricks are voided,
cause 3 (R395). silent: nothing had arrived on it. -/
def State.routeDown (s : State) (r : Route) (silent : Bool) : State :=
  let lost := r.window.filter fun f => (f.cls == classDATA || f.cls == classSEAL) && f.jobid == s.job.jobid
  let ts := sortBy (fun a b => decide (a < b)) (lost.map TxFrame.trick).eraseDups
  let ps := (r.window.filterMap TxFrame.parityPoint).eraseDups
  let s := s.modRoute r.port r.peer fun r => { r with
    up := false
    window := []
    downSince := s.now
    silent := silent }
  let s := if r.window.isEmpty then s else s.setPPort r.port fun p => { p with errExh := true }
  let s := s.voteEach 3 ts
  ps.foldl (fun s p => s.refuseRefresh p none) s
def State.routesDown (s : State) (p : Fin 12) : State :=
  (s.fab.routes.filter fun r => r.port == p && r.up).foldl (fun s r => s.routeDown r false) s

/-- Send the unacknowledged frames of a route again, or find its retry exhausted (R393). A paused port takes none (R386); a fenced
module sends no DATA, SEAL or STATE frame again (R403). -/
def State.resend (s : State) (r : Route) : State :=
  match r.window with
  | [] => s
  | f :: _ =>
    if s.pausedPort r.port then s
    else if f.tries ≥ s.retryMax + 1 then s.routeDown r false
    else
      let l := r.window.filter fun f => !s.silenced f.cls
      let s := l.foldl (fun s f => s.putFrame r f true) s
      s.setPPort r.port fun p => { p with retx := satAdd p.retx l.length sat32 }

/-- A LINK frame arrives on a route: true when it belongs to it and the route is up. It counts as a keepalive, and its ACK is
taken. -/
def State.rxLink (s : State) (h : FrameHdr) : Bool × State :=
  let m := midOf h.src
  if h.sysid ≠ s.cfgSysid then (false, s.dropFrame h.port)
  else match s.route? h.port m with
    | none => (false, s)
    | some r =>
      if h.ver ≠ r.rev then (false, s.dropFrame h.port)
      else if !r.up then (false, s.withdraw m)
      else (true, (s.withdraw m |>.modRoute h.port m fun r => { r with lastRx := s.now }).ackUpTo h.port m h.ack)

def execLinkKeepalive (port : Fin 12) (peer : BitVec 9) (s : State) : Host.Outcome State Fault Refusal :=
  match s.route? port peer with
  | none => .next s
  | some r => if r.up && s.elapsed r.lastTx 500 && !s.pausedPort port then .next (s.sendLink port peer [linkKEEP]) else .next s
def execKeepaliveReceived (h : FrameHdr) (s : State) : Host.Outcome State Fault Refusal := .next (s.rxLink h).2
def execLinkAck (h : FrameHdr) (s : State) : Host.Outcome State Fault Refusal := .next (s.rxLink h).2
def execLinkNak (h : FrameHdr) (expected : Word) (s : State) : Host.Outcome State Fault Refusal :=
  let (ok, s) := s.rxLink h
  if !ok then .next s
  else
    let s := s.ackUpTo h.port (midOf h.src) expected
    match s.route? h.port (midOf h.src) with
    | none => .next s
    | some r => .next (s.resend r).pump
def execRetransmitTimeout (port : Fin 12) (peer : BitVec 9) (s : State) : Host.Outcome State Fault Refusal :=
  match s.route? port peer with
  | none => .next s
  | some r => match r.window with
    | [] => .next s
    | f :: _ => if r.up && s.elapsed f.sent 1000 then .next (s.resend r).pump else .next s
def execRouteDownTimeout (port : Fin 12) (peer : BitVec 9) (s : State) : Host.Outcome State Fault Refusal :=
  match s.route? port peer with
  | none => .next s
  | some r => if r.up && s.elapsed r.lastRx s.deadCounts then .next (s.routeDown r true).pump else .next s
def execRingOrHubFrameRetryExhausted (trick : BitVec 48) (s : State) : Host.Outcome State Fault Refusal :=
  .next (s.voteVoid trick.toNat 3).pump
def execPeerFrameDropped (port : Fin 12) (why : DropWhy) (s : State) : Host.Outcome State Fault Refusal :=
  match why with
  | .badCheck => .next (s.setPPort port fun p => { p with crc := satAdd p.crc 1 sat32 })
  | .uncorrectable => .next (s.setPPort port fun p => { p with fec := satAdd p.fec 1 sat32 })
  | .reservedClass => .next (s.dropFrame port)
  | .wrongVer => .next (s.dropFrame port)
  | .wrongSysid => .next (s.dropFrame port)

/-- Every route to the peer has been down for SUSPECT intervals (R396): the coordinator proposes, or is told. -/
def execPeerSuspectTimeout (peer : BitVec 9) (s : State) : Host.Outcome State Fault Refusal :=
  let rs := s.fab.routes.filter fun r => r.peer == peer
  let named := match s.fab.view with
    | none => false
    | some v => (v.entry? peer).any fun e => e.state != .dead
  if rs.isEmpty || rs.any (fun r => r.up || !s.elapsed r.downSince s.suspectCounts) || !named || s.fab.suspects.contains peer ||
      peer == s.fab.mid then .next s
  else
    let was := s.coordinator
    let s := { s with fab := { s.fab with
      suspects := s.fab.suspects ++ [peer]
      silentSus := if rs.all Route.silent then s.fab.silentSus ++ [peer] else s.fab.silentSus } }
    if s.isCoord then .next s.carryOn
    else if s.coordinator ≠ was then .next s.reRequest
    else match s.coordinator with
      | none => .next s
      | some m => .next (s.sendMemb m 6 0 0 (leBytes peer.toNat 2) none)

/-! ### HELLO, LANECAP, FENCED -/

/-- The DST of a frame to a group address (log entry 21), and the group addresses of HELLO and of LANECAP (R388, R393). -/
def groupDst : BitVec 9 := 0x1FF
def helloMac : BitVec 48 := 0x0300000088B5
def capMac : BitVec 48 := 0x0180C200000E
/-- Transport revisions this module supports (PEERPORT.CAP). -/
def revMin : Byte := 1
def revMax : Byte := 1
/-- A LINK frame to whatever is on a port; it belongs to no route. -/
def State.sendGroup (s : State) (p : Fin 12) (mac : BitVec 48) (payload : List Byte) : State :=
  s.send (s.linkFrame p mac groupDst revMax 0 payload)
def State.sendHello (s : State) (p : Fin 12) : State :=
  s.sendGroup p helloMac ([linkHELLO] ++ leBytes Config.ownMid.toNat 2 ++ leBytes p.val 1 ++ leBytes (Config.peerMac p.val).toNat 6 ++ [1, 1])
def execHelloTimer (s : State) : Host.Outcome State Fault Refusal :=
  if s.isBench then .next s
  else .next (((List.finRange 12).filter fun p => (s.fab.ports.get p).up).foldl State.sendHello s)
/-- A HELLO teaches a route, at the highest revision both ends support; one that was down comes back with both sequence
numbers zero (R393, R395, R408). As a suspect's frame it may end the suspicion (Table 14-7). -/
def execHello (port : Fin 12) (sysid : BitVec 16) (peer : BitVec 9) (peerPort : Byte) (peerMac : BitVec 48)
    (lo hi : Byte) (s : State) : Host.Outcome State Fault Refusal :=
  if !(s.fab.ports.get port).up || s.isBench || peer = Config.ownMid then .next s
  else if sysid ≠ s.cfgSysid then .next (s.dropFrame port)
  else if lo > revMax || hi < revMin || lo > hi then .next (s.setPPort port fun p => { p with errRev := true })
  else
    let rev := if hi < revMax then hi else revMax
    match s.route? port peer with
    | some r =>
      if r.up then .next (s.modRoute port peer fun r => { r with
        lastRx := s.now
        peerPort := peerPort
        mac := peerMac })
      else
        let s := (s.withdraw peer).modRoute port peer fun _ => ⟨port, peer, peerPort, peerMac, rev, true, 0, 0, [], s.now, s.now, s.now, false⟩
        .next ((s.sendHello port).flushWaiting)
    | none =>
      let r : Route := ⟨port, peer, peerPort, peerMac, rev, true, 0, 0, [], s.now, s.now, s.now, false⟩
      let s := s.withdraw peer
      let s := { s with fab := { s.fab with routes := s.fab.routes ++ [r] } }
      .next ((s.sendHello port).flushWaiting)
/-- The partner is a KZ-1 on the same cable; its question is answered. -/
def execLanecap (port : Fin 12) (reply : Bool) (s : State) : Host.Outcome State Fault Refusal :=
  if !(s.fab.ports.get port).up || s.isBench then .next s
  else
    let s := s.setPPort port fun p => { p with direct := true }
    .next (if reply then s else s.sendGroup port capMac [linkCAP, 1])
/-- The refusal acknowledges its SEQ; nothing but membership is sent until a view comes (R402, R403). -/
def execFenced (h : FrameHdr) (_epoch : Word) (refusedSeq : Word) (s : State) : Host.Outcome State Fault Refusal :=
  let (ok, s) := s.rxLink h
  if !ok then .next s
  else
    let m := midOf h.src
    let s := s.modRoute h.port m fun r => { r with window := r.window.filter fun f => f.seq != refusedSeq }
    let s := { s with fab := { s.fab with
      fRcvd := min (s.fab.fRcvd + 1) 32767
      fEvent := true
      fenced := true } }
    .next (s.sendViewreq m)

/-! ### Ports and lanes, R388, R389, R424 -/

/-- A peer port goes down. -/
def State.peerPortDown (s : State) (p : Fin 12) : State :=
  let s := (s.dropTx false p.val).setPPort p fun x => { x with
    up := false
    direct := false
    paused := 0
    errDown := true }
  let s := s.routesDown p
  (s.host.sqps.filter fun q => q.2.port == p).foldl (fun s q => s.storeLost q.1) s
def State.hostPortDown (s : State) (p : Fin 4) : State :=
  let s := (s.dropTx true p.val).modHPort p fun x => { x with up := false, paused := 0 }
  (s.host.qps.filter fun q => q.2.port == p && q.2.st == .ready).foldl (fun s q => s.qpError q.1) s
/-- The PMDs PEER_MODE allows a peer port: with the optical strap the module's own, else one that auto-negotiation may choose
(Tables 14-1 and 18-5). -/
def State.pmdOk (s : State) (pmd : BitVec 2) : Bool := if s.aon.latch.getLsbD 11 then pmd == 2 else pmd == 0 || pmd == 1
def execPortLinkUp (isHost : Bool) (port : Fin 12) (pmd : BitVec 2) (s : State) : Host.Outcome State Fault Refusal :=
  if !s.aon.ready || !s.aon.refOk then .next s
  else if isHost then
    if port.val ≥ 4 then .next s
    else .next (s.modHPort (Fin.ofNat 4 port.val) fun x => { x with up := true, pmd := pmd.getLsbD 0 })
  else if s.isBench || !s.pmdOk pmd then .next s
  else
    let s := s.setPPort port fun x => { x with
      up := true
      pmd := pmd
      direct := false
      training := false }
    .next ((s.sendHello port).sendGroup port capMac [linkCAP, 0])
def execPortLinkDown (isHost : Bool) (port : Fin 12) (s : State) : Host.Outcome State Fault Refusal :=
  if isHost then
    if port.val ≥ 4 || !(s.host.ports.get (Fin.ofNat 4 port.val)).up then .next s
    else .next (s.hostPortDown (Fin.ofNat 4 port.val)).pump
  else if !(s.fab.ports.get port).up then .next s
  else .next (s.peerPortDown port).pump

/-- A lane is lost: its unit has an event and is retired; a direct link with its spare left is down while the spare is woken and
trains (R389, R475), any other is lost. No spare enters service without a valid pattern set (R469). -/
def State.laneLost (s : State) (port : Fin 12) (lane : Fin 9) : State :=
  let p := s.fab.ports.get port
  let can := p.direct && p.spare != 15 && p.retiredLane == 15 && !s.hl.nopat
  let s := s.peerPortDown port
  let s := s.setPPort port fun x => { x with errLane := true, training := can, direct := p.direct && can }
  let s := s.raiseEvent 9 ⟨.lane, 9 * port.val + lane.val⟩ none 0
  if can then s.wakeOne .lane port.val true else s
/-- The lane carries the link. -/
def State.laneInUse (s : State) (port : Fin 12) (lane : Fin 9) : Bool :=
  let p := s.fab.ports.get port
  p.up && p.spare.toNat != lane.val && p.retiredLane.toNat != lane.val
def execLaneFailure (port : Fin 12) (lane : Fin 9) (s : State) : Host.Outcome State Fault Refusal :=
  if s.laneInUse port lane then .next (s.laneLost port lane).pump else .next s
def execLaneFecWindow (port : Fin 12) (lane : Fin 9) (symbolErrors : Nat) (s : State) : Host.Outcome State Fault Refusal :=
  if s.laneInUse port lane && (s.fab.ports.get port).direct && symbolErrors > 2 ^ (s.cfg.pp.toNat / 2 ^ 28) then
    .next (s.laneLost port lane).pump
  else .next s
/-- The link returns over the spare, in service from now on; the HELLO exchange follows. It cannot while the SerDes reference is
absent (R494). -/
def State.laneTrained (s : State) (port : Fin 12) : State :=
  let p := s.fab.ports.get port
  if !p.training || !s.aon.refOk || s.hl.nopat then s
  else
    let s := s.enterSpare ⟨.lane, 9 * port.val + p.spare.toNat⟩
    let s := s.setPPort port fun x => { x with
      up := true
      training := false
      spare := 15 }
    s.saveRepair.sendHello port
def execSpareLaneTrained (port : Fin 12) (s : State) : Host.Outcome State Fault Refusal := .next (s.laneTrained port)

end Sys2Proof.Machine
end

