-- ==== Sys2Proof/Machine/Health.lean ====
section
/-! DEFINITION. Memory and link errors (R22 to R24, R174, R434, R452, R464, R465), escalation steps (R467), rotations and wake tests
(R471 to R477), and self-test (R478). -/

namespace Sys2Proof.Machine

/-! ### Data lost in buffers, Table 16-1 and R465 -/

/-- Votes for open tricks in ascending order: VOID with the cause for those it concerns, and with TEARDOWN for those a context
that was torn down had joined, as this member may still vote (R230, R231). -/
def State.loseVotes (s : State) (cause : BitVec 4) (hit torn : Nat → Bool) : List Nat → State
  | [] => s
  | t :: r =>
    let again := ((s.trick? t).getD .empty).voted == some .ok
    let s1 := if hit t && !again then s.voteVoid t cause else if torn t then s.voteVoid t 7 else s
    if s1.job.t0.att ≠ s.job.t0.att then s1 else s1.loseVotes cause hit torn r
/-- The contexts that own lost data are torn down with STATUS 0x11, each once, with the handle and the first offset lost. The trick
whose work met the loss is voided, or every trick in flight where it is not that of one alone (R30, R230). -/
def State.loseOwned (s : State) (l : List (CtxId × Byte × Nat)) (trick : Option Nat) (cause : BitVec 4) : State :=
  let one (s : State) (x : CtxId × Byte × Nat) : State :=
    match s.job.ctx? x.1 with
    | none => s
    | some y =>
      let t := y.joinedTricks.headD 0
      let att := ((s.trick? t).getD .empty).att
      (s.teardownCore x.1).ctxCompl y.joinedTricks.head? stBUFFER (faultRecord stBUFFER x.1 att (if y.joined.isEmpty then 1 else 0) 0xFF
        x.2.1 t y.arch.pc 0 (BitVec.ofNat 64 x.2.2))
  let s1 := l.foldl one s
  s1.loseVotes cause (fun t => trick.all fun k => k == t)
    (fun t => s.job.ctxList.any fun x => (s1.job.ctx? x.1).isNone && (x.2.joinedAt t).isSome) s.openTricks
/-- The owner of a lost buffer, its handle and the offset. -/
def Job.ownedBuf (j : Job) (x : Nat × Nat) : Option (CtxId × Byte × Nat) := (j.buf? x.1).map fun b => (b.owner, BitVec.ofNat 8 b.handle, x.2)
/-- The context of a held sum that lies in a spill region, and its handle for the sum's buffer. -/
def Job.ownedSum (j : Job) (o : OutTile) (off : Nat) : Option (CtxId × Byte × Nat) :=
  match o.lies with
  | .region _ => if !o.live then none else (j.ctx? o.ctx).map fun x =>
      (o.ctx, match (List.finRange 64).find? fun h => (x.arch.hnds.get h).any fun k => k.buf == o.buf with
        | none => 0xFF
        | some h => BitVec.ofNat 8 h.val, off)
  | _ => none
/-- The owners of lost buffers (R465, Table 16-1). -/
def State.loseBuffers (s : State) (l : List (Nat × Nat)) (trick : Option Nat) (cause : BitVec 4) : State :=
  s.loseOwned (l.filterMap s.job.ownedBuf) trick cause
/-- VOID for the trick whose work met an error, or for every trick in flight. -/
def State.voidHit (s : State) (trick : Option Nat) (cause : BitVec 4) : State := match trick with
  | some t => s.voteVoid t cause
  | none => s.voidOpen cause

/-- What a logical channel held is gone (R174): each buffer with stripes there is treated by its class, and each held sum in a spill
region with the spilled buffers, as Table 16-1 says. The code region, the Kitty area and a spilled sum lie under the flat map
from their starts (log entry 95). Every trick in flight is voided. -/
def State.contentsLost (s : State) (p l : Nat) : State :=
  let onChannel (bytes : Nat) : Bool := (List.range (ceilDiv bytes 4096)).any fun k => slotChannel (flatSlot k 0) == (p, l)
  let hit := s.job.bufs.filter fun b => !(b.stripesOn p l).isEmpty
  if onChannel s.job.code.length || onChannel s.job.recov.room || hit.any fun b => b.cls == .state then s.failModule 5 0xA
  else
    let alone := (s.askable 0).isEmpty
    let s := if alone then s else hit.foldl (fun s b => match b.cls, b.exp with
      | .stream, some (id, _, _) => (b.stripesOn p l).foldl (fun s k => s.askStripe b id k) s
      | _, _ => s) s
    let gone := hit.filter fun b => match b.cls with
      | .input => true
      | .stream => b.exp.isNone || alone
      | .stash => b.place == .spilled || b.place == .filling
      | _ => false
    let bufs := (gone.map fun b => (b.id, ((b.stripesOn p l).head?.map b.stripeFirst).getD 0)).filterMap s.job.ownedBuf
    let sums := (s.job.tiles.filter fun o => onChannel o.bytes).filterMap fun o => s.job.ownedSum o 0
    s.loseOwned (bufs ++ sums) none 0xA

/-- A package channel that can no longer be read (R174): its contents are lost, and the spare, tested first (R475), takes its
index at the first trick to begin after that. Without a spare, or a pattern set to test it with, the package is lost (log entry
97). A spare that had already been tested for the copy is taken at once; one that holds the whole copy loses nothing. -/
def State.channelLost (s : State) (ch : Nat) : State :=
  let p := ch / 13
  let u : PUnit := ⟨.channel, ch⟩
  let m := s.chMap p
  let mine := m.retired.toNat = ch % 13
  let gone (s : State) : State := match m.logical (ch % 13) with
    | none => s
    | some l => s.contentsLost p l
  if s.hl.isSpare u then
    if m.unread then (s.retireNow u).packageLost p
    else (s.retireNow u).setChMap p { m with spare := 15, copying := false }
  else if s.hl.isRet u ∧ !(mine ∧ m.moved ≠ m.retired) then s
  else if m.spare = 15 ∨ (m.retired ≠ 15 ∧ !mine) ∨ s.hl.nopat then (s.retireNow u).packageLost p
  else
    let s := s.retireNow u
    if m.unread then s
    else if m.pendMove then s.voidOpen 0xA
    else if m.copying then
      gone ((s.enterSpare ⟨.channel, 13 * p + m.spare.toNat⟩).setChMap p { m with
        retired := BitVec.ofNat 4 (ch % 13)
        copying := false
        pendMove := true }).saveRepair
    else
      let s := s.setChMap p { m with
        retired := BitVec.ofNat 4 (ch % 13)
        unread := true }
      let waking := s.hl.wakes.any fun (w : Wake) => w.u.kind == UnitKind.channel && w.u.idx / 13 == p
      gone (if waking then s else s.wakeOne .channel p true)

/-- Table 16-1; trick is that of the work that met the error. -/
def execDramUncorrectableError (hit : DramHit) (s : State) : Host.Outcome State Fault Refusal :=
  match hit with
  | .kitty => .next (s.failModule 5 0xA).pump
  | .code => .next (s.failModule 5 0xA).pump
  | .package p => .next (s.packageLost p.val).pump
  | .channelLost ch => .next (s.channelLost ch.val).pump
  | .spill buf off trick => match s.job.buf? buf with
    | none => .next s
    | some _ => .next (s.loseBuffers [(buf, off)] (trick.map BitVec.toNat) 0xA).pump
  | .sum buf r c off trick => match s.job.tiles.find? fun o => o.live && o.buf == buf && o.r == r && o.c == c with
    | none => .next s
    | some o => match s.job.ownedSum o off with
      | none => .next s
      | some x => .next (s.loseOwned [x] (trick.map BitVec.toNat) 0xA).pump
  | .buffer buf off trick => match s.job.buf? buf with
    | none => .next s
    | some b =>
      let t := trick.map BitVec.toNat
      match b.cls with
      | .state => .next (s.failModule 5 0xA).pump
      | .input => .next (s.loseBuffers [(buf, off)] t 0xA).pump
      | .stream => match b.exp with
        | some (id, _, _) =>
          if (s.askable 0).isEmpty then .next (s.loseBuffers [(buf, off)] t 0xA).pump
          else .next ((s.askStripe b id (b.stripeOf off)).voidHit t 0xA).pump
        | none => .next (s.loseBuffers [(buf, off)] t 0xA).pump
      | .resident => .next s
      | .stash => .next s
      | .pot => .next s
      | .host => .next s

def execDramCorrectableError (ch : Fin 156) (s : State) : Host.Outcome State Fault Refusal :=
  .next (s.countCorrected 6 ⟨.channel, ch.val⟩ 20).pump
def execWorkingStoreCorrectedError (bank : Fin 528) (s : State) : Host.Outcome State Fault Refusal :=
  .next (s.countCorrected 4 ⟨.bank, bank.val⟩ 16).pump

/-- The spare has a copy of everything: it takes the index at the next trick to begin. -/
def execSpareChannelCopyComplete (p : Fin 12) (s : State) : Host.Outcome State Fault Refusal :=
  let m := s.chMap p.val
  if !m.copying then .next s
  else
    let u : PUnit := ⟨.channel, 13 * p.val + m.spare.toNat⟩
    let s := s.enterSpare u
    .next (s.setChMap p.val { m with
      copying := false
      pendMove := true }).saveRepair

/-- An uncorrectable working-store word retires the bank at once; what it held is lost (R465). lost lists the RESIDENT and
STASH buffers with data in the bank and the first byte offset of each: a bank out of service for its test, or retired already,
may still hold buffers that wait to be moved. -/
def execWsue (bank : Fin 528) (lost : List (Nat × Nat)) (s : State) : Host.Outcome State Fault Refusal :=
  let u : PUnit := ⟨.bank, bank.val⟩
  if s.hl.isSpare u then .next s
  else
    let tk := s.openTricks.head?.map fun t => (t, ((s.trick? t).getD .empty).att)
    let l := lost.filter fun x => match s.job.buf? x.1 with
      | none => false
      | some b => b.cls == .resident || b.cls == .stash
    let gone := s.hl.isRet u && l.isEmpty
    let s := s.raiseEvent srcWSUE u tk 0
    .next (if gone then s else s.loseBuffers l none 5).pump

/-! ### Ring and hub links -/

/-- The first ring link lost leaves a chain; a second lost while it is still lost fails the module (R22, R24). -/
def execRingLinkLoss (link : Fin 4) (retryFailed : Bool) (s : State) : Host.Outcome State Fault Refusal :=
  if s.hl.ringLost.getLsbD link.val then .next s
  else
    let first := s.hl.ringLost == 0
    let s := { s with hl := { s.hl with ringLost := setBit s.hl.ringLost link.val true } }
    .next (if !first then s.failModule 7 3 else if retryFailed then s.voidOpen 3 else s).pump
def execHubLinkLoss (link : Fin 4) (s : State) : Host.Outcome State Fault Refusal :=
  .next (({ s with hl := { s.hl with hubLost := setBit s.hl.hubLost link.val true } }).failModule 2 3).pump

/-! ### Escalation -/

/-- Every corrected-error count returns to zero at the end of each window (R464). -/
def execEscalationWindowExpiry (s : State) : Host.Outcome State Fault Refusal :=
  if !s.elapsed s.hl.window s.escWindow then .next s
  else .next { s with hl := { s.hl with
    window := s.now
    susp := s.hl.susp.map fun x => { x with ce := 0 } } }

/-- A trick boundary: no trick is open on this module, or one that is open has not begun its first work. -/
def State.atBoundary (s : State) : Bool :=
  s.openTricks.isEmpty || s.openTricks.any fun t => match s.trick? t with
    | none => true
    | some r => !r.begun
/-- The supply of the domain has settled, or its PLL has locked again: the step counts from here on (R467). -/
def execEscalationStepSettled (domain : Fin 80) (s : State) : Host.Outcome State Fault Refusal :=
  if s.aon.braceAt.isSome || !s.atBoundary then .next s
  else .next (s.applySteps fun d => d == domain.val).pump

/-! ### Rotation -/

def State.rot? (s : State) (k : RotKind) (die : Nat) : Option Rot := s.hl.rots.find? fun r => r.kind == k && r.die == die
/-- Period of a kind in counts (Table 17-7). -/
def State.rotPeriod (s : State) (k : RotKind) : Nat :=
  let b := match k with
    | .tile => 0 | .bank => 1 | .engine => 2 | .seat => 3
  s.cfg.rot.toNat / 256 ^ b % 256 * 2 ^ 26
def execRotationDue (kind : RotKind) (die : Fin 4) (s : State) : Host.Outcome State Fault Refusal :=
  match s.rot? kind die.val with
  | none => .next s
  | some r =>
    if s.hl.nopat || !s.aon.ready || r.stage ≠ 0 || s.rotPeriod kind = 0 || !s.elapsed r.start (s.rotPeriod kind) then .next s
    else match s.nextUnit r with
      | none => .next s
      | some t =>
        let s := s.modRot kind die.val fun r => { r with
          start := s.now
          due := true
          dueSince := s.now
          stage := 1
          target := some t
          spare := none }
        .next (if kind = .engine then s else s.wakeOne (rotUnit kind) die.val false)

/-- A completed tile test has run on its group's PLL. -/
def State.pllRuns (s : State) (u : PUnit) : State :=
  if u.kind = .tile then
    { s with aon := { s.aon with tgPll := setBit s.aon.tgPll (14 * (u.idx / 56) + u.idx % 56 / 4) true } }
  else s

/-- A woken spare has been tested (R475). Brace abandons tests, and without a pattern set none runs (R469, Table 17-5). A spare lane
that fails its training is retired, and its link is lost. -/
def execSpareTestComplete (u : PUnit) (pass : Bool) (s : State) : Host.Outcome State Fault Refusal :=
  match s.hl.wakes.find? fun w => w.u == u && !w.passed with
  | none => .next s
  | some w =>
    if s.aon.braceAt.isSome || s.hl.nopat then .next s
    else if pass then
      let s := (s.pllRuns u).stopPlls
      if u.kind = .channel then
        let p := u.idx / 13
        let m := s.chMap p
        if m.unread then .next ((s.enterSpare u).setChMap p { m with unread := false, pendMove := true }).saveRepair.pump
        else
          let s := { s with hl := { s.hl with wakes := s.hl.wakes.filter fun x => x.u != u } }
          .next (s.setChMap p { m with copying := true })
      else if u.kind = .lane then .next (if u.idx < 108 then s.laneTrained (Fin.ofNat 12 (u.idx / 9)) else s).pump
      else
        let s := { s with hl := { s.hl with wakes := s.hl.wakes.map fun (x : Wake) => if x.u = u then { x with passed := true } else x } }
        let s := match rotKindOf u.kind with
          | none => s
          | some k => if w.forRetire then s else s.modRot k (unitDie u) fun r =>
              if r.stage = 1 then { r with stage := 2, spare := some u.idx } else r
        .next s.pump
    else
      let s := s.raiseEvent srcSPAREFAIL u none 0
      if u.kind = .channel then .next (s.packageLost (u.idx / 13)).pump
      else .next (s.wakeOne u.kind (unitDie u) w.forRetire).stopPlls.pump

/-- The rotation of a unit ends. -/
def State.endRotation (s : State) (k : RotKind) (die : Nat) : State :=
  (s.modRot k die fun r => { r with
    stage := 0
    due := false
    lastUnit := r.target
    target := none
    spare := none }).stopPlls
/-- A target still holds work, or data that has not been moved: its test has not run (R183, R472, R473). A vector engine holds work
between commands only where it runs a third copy (R165): a work unit granted to it is done within the command. -/
def State.targetBusy (s : State) (k : RotKind) (r : Rot) (u : PUnit) : Bool :=
  if k = .bank then (s.onDie r.die).any fun n => s.job.stay.contains n || (s.job.buf? n).any Buffer.moving
  else if k = .engine then s.job.spotThird.any fun w => w.cdie == u.idx / 4 && w.c == u.idx % 4
  else k == .tile && r.stage == 5 && !(s.job.slotsAt (u.idx / 56) (u.idx % 56)).isEmpty
/-- A step of the domain is decided and not yet applied. -/
def State.stepDue (s : State) (d : Nat) : Bool := s.hl.dueVolts d != 0 || s.hl.dueClocks d != 0
/-- A target's test (R472 steps 3 and 4, R473). A failed target is tested again once the step it causes has been applied; one whose
step is RETIRE leaves at the next boundary. -/
def execRotationTargetTestComplete (u : PUnit) (pass : Bool) (s : State) : Host.Outcome State Fault Refusal :=
  match rotKindOf u.kind with
  | none => .next s
  | some k =>
    let die := unitDie u
    match s.rot? k die with
    | none => .next s
    | some r =>
      let again := r.stage = 8 ∧ s.stepDue (unitDomain u) = false
      if r.target ≠ some u.idx ∨ (r.stage ≠ 3 ∧ r.stage ≠ 5 ∧ ¬again) ∨ s.aon.braceAt.isSome ∨ s.hl.nopat then .next s
      else if s.targetBusy k r u then .next s
      else
        let back (s : State) : State := { s with hl := { s.hl with off := s.hl.off.filter fun v => v != u } }
        let s := if pass then s else s.raiseEvent srcSCAN u none 0
        let retired := s.hl.due.contains (.retire u) || s.hl.isRet u
        if r.stage = 5 then .next ((back s).endRotation k die).pump
        else if pass then
          if k = .engine then .next (s.modRot k die fun r => { r with stage := 4 })
          else
            let s := back s
            .next ((({ s with hl := s.hl.setSpare u true }).endRotation k die).refill u.kind die).saveRepair.pump
        else if retired then .next (s.endRotation k die).pump
        else .next (s.modRot k die fun r => { r with stage := 8 })

/-- A tile or engine due for 60 s without a boundary is tested inside the trick that is running (R473). The spare woken for it sleeps. -/
def execLongRotationTimeout (kind : RotKind) (die : Fin 4) (s : State) : Host.Outcome State Fault Refusal :=
  match s.rot? kind die.val with
  | none => .next s
  | some r =>
    let unit : UnitKind := rotUnit kind
    if !(kind == .tile || kind == .engine) || !(s.job.t0.begun || s.job.t1.begun) || !r.due || (r.stage ≠ 1 ∧ r.stage ≠ 2) || s.hl.nopat ||
        !s.elapsed r.dueSince 3000000000 then .next s
    else
      let s := s.modRot kind die.val fun r => { r with
        stage := 5
        spare := none }
      let s := { s with hl := { s.hl with
        rotLong := true
        wakes := s.hl.wakes.filter (fun (w : Wake) => !(w.u.kind == unit && unitDie w.u == die.val && !w.forRetire))
        off := if kind = RotKind.engine then s.hl.off ++ (r.target.map fun t => (⟨.engine, t⟩ : PUnit)).toList else s.hl.off } }
      -- the duration of a tile's test counts as time assigned to it
      let busy (r : TrickRec) : TrickRec :=
        if kind = .tile ∧ r.begun then { r with dealt := r.dealt ++ (s.inTest.filter fun i => i / 56 == die.val).map s.testTime } else r
      .next ({ s with job := { s.job with t0 := busy s.job.t0, t1 := busy s.job.t1 } }).stopPlls.pump

/-! ### Self-test, R478 -/

/-- The event of a unit that fails self-test: retired at once, without the ladder. -/
def State.selfFail (s : State) (u : PUnit) : State :=
  if s.hl.isRet u then s
  else
    let x := s.hl.suspOf u
    let near := match x.last with
      | none => false
      | some l => decide ((s.now - l).toNat < s.escWindow)
    let n := if near then x.n + 1 else 1
    let h := s.hl.setSusp { x with
      n := n
      last := some s.now }
    let s := { s with hl := { h with
      ev := ⟨kindNum u.kind, srcSCAN, u.idx, 3, true, allOnes48⟩
      evCount := satAdd h.evCount 1 sat32 } }
    let s := s.requestRec rgEVLOG (s.eventRecord srcSCAN u 3 (min n 255) allOnes48 0)
    let spare := s.hl.isSpare u
    let s := s.retireNow u
    if u.kind ≠ .channel then s
    else
      let p := u.idx / 13
      let m := s.chMap p
      if spare then s.setChMap p { m with spare := 15 }
      else if m.spare = 15 ∨ m.retired ≠ 15 ∨ s.hl.nopat then s.setChMap p { m with lost := true }
      else
        let r : BitVec 4 := BitVec.ofNat 4 (u.idx % 13)
        let s := { s with hl := s.hl.setSpare ⟨.channel, 13 * p + m.spare.toNat⟩ false }
        (s.setChMap p { m with
          retired := r
          moved := r
          spare := 15 }).saveRepair

/-- Every unit of every kind. -/
def allUnits : List PUnit :=
  (List.range 4).flatMap (fun n => unitsOf .tile n ++ unitsOf .engine n ++ unitsOf .bank n) ++
    (List.range 12).flatMap (fun p => unitsOf .channel p) ++ unitsOf .seat 0 ++ (List.range 12).flatMap fun q => unitsOf .lane q
/-- A domain kept off, recorded as retired with all of its units (R491). -/
def State.keepOff (s : State) (d : Nat) : State :=
  let s := { s with
    hl := { s.hl with keptOff := setBit s.hl.keptOff d true }
    aon := { s.aon with domOn := setBit s.aon.domOn d false } }
  ((allUnits.filter fun u => unitDomain u == d).foldl State.retireNow s).saveRepair

/-- Domains whose loss the module does not outlive: Cn.VS, Cn.DC, H-SEAT, H-HOST, H-DEALER (R34). -/
def vitalDomain (d : Nat) : Bool := (d < 64 && d % 16 ≥ 14) || (64 ≤ d && d ≤ 66)
/-- What FAILED shows after a self-test: the lowest cause that holds. -/
def State.selfCause (s : State) : Nat :=
  let rings := (List.range 4).filter fun i => s.hl.ringLost.getLsbD i
  let tiles (d : Nat) : Nat := s.upCount .tile d + (s.hl.wakes.filter fun w => w.u.kind == .tile && unitDie w.u == d && w.forRetire).length
  if (List.range 4).any fun d => decide (tiles d < 48) then 1
  else if s.hl.hubLost ≠ 0 then 2
  else if (List.range 80).any fun d => vitalDomain d && !s.aon.domOn.getLsbD d then 3
  else if s.upCount .seat 0 = 0 then 4
  else if (s.hl.chmaps.toList.any fun m => m.lost) || (List.range 12).any fun p => !s.aon.domOn.getLsbD (68 + p) then 5
  else if rings.length ≥ 2 then 7
  else 0
/-- The end of a self-test: failing units are retired and replaced, domains that faulted and fail again are kept off, and
FAILED is set where R478 says so. A domain that is still off has not been tested: it is at the next reset (R491). A spare that
was being woken and failed is replaced by the next. -/
def State.selfTest (s : State) (failed : List PUnit) : State :=
  let s := { s with hl := { s.hl with selftest := false } }
  let served := failed.filter s.hl.inService
  let woken := s.hl.wakes.filter fun w => failed.contains w.u
  let s := failed.foldl State.selfFail s
  let s := woken.foldl (fun s w => s.wakeOne w.u.kind (unitDie w.u) w.forRetire) s
  let bad := (List.range 80).filter fun d => s.hl.retest.getLsbD d && s.aon.domOn.getLsbD d && failed.any fun u => unitDomain u == d
  let s := bad.foldl State.keepOff s
  let s := { s with hl := { s.hl with retest := s.hl.retest &&& ~~~s.aon.domOn } }
  let s := (served.filter fun u => u.kind == .tile || u.kind == .bank || u.kind == .seat).foldl
    (fun s u => s.wakeFor u.kind (unitDie u)) s
  let c := s.selfCause
  if c = 0 then s
  else { s with hl := { s.hl with
    failed := true
    fcause := if s.hl.failed then s.hl.fcause else c } }

def execSelfTestComplete (failed : List PUnit) (s : State) : Host.Outcome State Fault Refusal :=
  if !s.hl.selftest || s.aon.bootStep ≠ 8 || s.aon.braceAt.isSome then .next s
  else
    let s := s.selfTest failed
    .next { s with aon := { s.aon with bootStep := 9 } }
/-- Step 4 of quarantine (Table 14-6): the module offers itself again, or has failed. -/
def execQuarantineSelfTestComplete (failed : List PUnit) (s : State) : Host.Outcome State Fault Refusal :=
  if s.fab.self ≠ .quarantine || s.fab.qstage ≠ 4 || !s.hl.selftest || s.aon.braceAt.isSome then .next s
  else
    let s := s.selfTest failed
    if s.hl.failed then .next s
    else .next { s with fab := { s.fab with
      self := .offered
      qstage := 5 } }

end Sys2Proof.Machine
end

