-- ==== Sys2Proof/Machine/Member.lean ====
section
/-! DEFINITION. Membership messages: agreement among the members, views asked for and given, reconciliation reports (R238, R396,
R398 to R403). -/

namespace Sys2Proof.Machine

/-- A MEMB frame arrives: of an older epoch it is answered with FENCED (R402); in quarantine it is not answered (R403). -/
def State.rxMemb (s : State) (h : FrameHdr) : Bool × State :=
  let (ok, s) := s.rxFrame h
  if !ok || s.fab.self == .quarantine then (false, s)
  else if h.epoch < s.fab.epoch then (false, s.sendFenced h.port (midOf h.src) h.seq)
  else (true, s)
/-- A member of a view answers for the epoch after its own, and no other (R398, R399, R403). -/
def State.answers (s : State) (newEpoch : Word) : Bool := s.fab.self == .active && s.fab.epoch != 0 && newEpoch == s.fab.epoch + 1

def execPrepare (h : FrameHdr) (newEpoch ballot : Word) (s : State) : Host.Outcome State Fault Refusal :=
  let (ok, s) := s.rxMemb h
  if !ok || !s.answers newEpoch || !(decide (ballot > s.fab.promised)) then .next s
  else
    let s := { s with fab := { s.fab with promised := ballot } }
    .next (match s.fab.accepted with
      | none => s.sendMemb (midOf h.src) 2 ballot newEpoch [] none
      | some (b, v) => s.sendMemb (midOf h.src) 2 ballot newEpoch (leBytes b.toNat 4) (some v))
def execAccept (h : FrameHdr) (newEpoch ballot : Word) (view : View) (s : State) : Host.Outcome State Fault Refusal :=
  let (ok, s) := s.rxMemb h
  if !ok || !s.answers newEpoch || !s.viewOk view || ballot < s.fab.promised then .next s
  else
    let s := { s with fab := { s.fab with
      promised := ballot
      accepted := some (ballot, view) } }
    .next (s.sendMemb (midOf h.src) 4 ballot newEpoch [] none)

/-- The round a reply belongs to, from a member of the view. -/
def State.roundOf (s : State) (h : FrameHdr) (newEpoch ballot : Word) (accepting : Bool) : Option Round :=
  s.fab.coord.filter fun r => r.newEpoch == newEpoch && r.ballot == ballot && r.accepting == accepting && !r.failed &&
    s.viewMembers.contains (midOf h.src)
def execPromise (h : FrameHdr) (newEpoch ballot : Word) (accepted : Option (Word × View)) (s : State) :
    Host.Outcome State Fault Refusal :=
  let (ok, s) := s.rxMemb h
  let m := midOf h.src
  match s.roundOf h newEpoch ballot false with
  | none => .next s
  | some r =>
    if !ok || r.promises.any (fun p => p.1 == m) || !accepted.all (fun a => s.viewOk a.2) then .next s
    else .next ((s.setCoord { r with promises := r.promises ++ [(m, accepted)] }).coordAccept).carryOn
def execAccepted (h : FrameHdr) (newEpoch ballot : Word) (s : State) : Host.Outcome State Fault Refusal :=
  let (ok, s) := s.rxMemb h
  let m := midOf h.src
  match s.roundOf h newEpoch ballot true with
  | none => .next s
  | some r =>
    if !ok || r.accepts.contains m then .next s
    else .next ((s.setCoord { r with accepts := r.accepts ++ [m] }).coordCommit).carryOn

/-- What a view says of this module. -/
def standing (v : View) : Option MemState := (v.entry? Config.ownMid).map ViewEntry.state
/-- A COMMIT of a later epoch that names this module; a module strapped spare refuses one that names it ACTIVE, unless it
is a SPARE of the view to which a rank is being moved (Table 18-6). -/
def execCommit (h : FrameHdr) (view : View) (s : State) : Host.Outcome State Fault Refusal :=
  let (ok, s) := s.rxMemb h
  if !ok || !s.viewOk view || decide (view.epoch ≤ s.fab.epoch) || (standing view).isNone then .next s
  else if s.roleBars view && s.fab.self ≠ .spare then .next (s.sendFenced h.port (midOf h.src) h.seq)
  else .next (s.install view false).carryOn

def execSuspect (h : FrameHdr) (mid : BitVec 9) (s : State) : Host.Outcome State Fault Refusal :=
  let (ok, s) := s.rxMemb h
  if !ok || s.fab.self ≠ .active || mid = s.fab.mid then .next s
  else
    let s := if s.fab.reported.contains mid then s else { s with fab := { s.fab with reported := s.fab.reported ++ [mid] } }
    .next s.carryOn

/-- VIEWREQ is always answered with the view in force; at epoch 0 there is none. -/
def execViewreq (h : FrameHdr) (s : State) : Host.Outcome State Fault Refusal :=
  let (ok, s) := s.rxFrame h
  if !ok then .next s
  else match s.fab.view with
    | none => .next s
    | some v => .next (s.sendMemb (midOf h.src) 8 0 v.epoch [] (some v))
/-- A VIEW that names this module ACTIVE or SPARE is installed; one that does not sends it into quarantine (R403). -/
def execView (h : FrameHdr) (v : View) (s : State) : Host.Outcome State Fault Refusal :=
  let (ok, s) := s.rxMemb h
  let st := standing v
  let isIn := st == some .active || st == some .spare
  if !ok || !s.viewOk v then .next s
  else if v.epoch = s.fab.epoch then
    if isIn then .next ({ s with fab := { s.fab with fenced := false } }) else .next s
  else if v.epoch < s.fab.epoch then .next s
  else if s.fab.self = .unjoined ∧ st.isNone then .next s
  else if s.roleBars v && s.fab.self ≠ .spare then .next (s.sendFenced h.port (midOf h.src) h.seq)
  else if s.fab.self = .offered ∧ !isIn then .next s
  else .next (s.install v false).carryOn
/-- A survivor's report; one of a later epoch is held until this module installs that view. -/
def execRecon (h : FrameHdr) (decision : Option Verdict) (attempt : Byte) (trick : BitVec 48) (s : State) :
    Host.Outcome State Fault Refusal :=
  let (ok, s) := s.rxMemb h
  if !ok then .next s
  else if s.fab.epoch < h.epoch then
    .next { s with fab := { s.fab with held := s.fab.held ++ [.recon h decision attempt trick] } }
  else .next (s.takeRecon (midOf h.src) decision attempt trick.toNat).forceDone.pump

/-- No quorum within 25,000 counts: the round is over and the coordinator waits (R399). -/
def execQuorumTimeout (s : State) : Host.Outcome State Fault Refusal :=
  match s.fab.coord with
  | none => .next s
  | some r =>
    if r.failed || !s.elapsed r.since 25000 then .next s
    else .next (s.setCoord { r with
      failed := true
      since := s.now })
/-- After 10,000 + 100 x MID counts it tries again with the next round. -/
def execBallotRetryTimer (s : State) : Host.Outcome State Fault Refusal :=
  match s.fab.coord with
  | none => .next s
  | some r =>
    if !r.failed || !s.elapsed r.since (10000 + 100 * s.fab.mid.toNat) then .next s
    else .next ({ s with fab := { s.fab with coord := none } }).carryOn
/-- A change of view asked of another module joins the coordinator's next proposal. -/
def execForwardedViewchgReceived (h : FrameHdr) (action : Byte) (mid rank spareMid : BitVec 16) (s : State) :
    Host.Outcome State Fault Refusal :=
  let (ok, s) := s.rxMemb h
  let c : ChgReq := ⟨action.toNat, mid, rank, spareMid, none, true⟩
  let known := s.fab.chgs.any fun k => k.action == c.action && k.mid == mid && k.rank == rank && k.spareMid == spareMid
  if !ok || !s.isCoord || known || (s.chgBad action mid rank spareMid).isSome then .next s
  else .next ({ s with fab := { s.fab with chgs := s.fab.chgs ++ [c] } }).carryOn

end Sys2Proof.Machine
end

