-- ==== Sys2Proof/Machine/Flash.lean ====
section
/-! DEFINITION. The Scoresheet's writes and erases (R508 to R516), loads (R519), the leaf counter and attestation (R520 to R526). -/

namespace Sys2Proof.Machine

/-! ### Attestation, R520 to R525 and Table 19-9 -/

/-- The number of leaves (R520). -/
def leafEnd : Nat := 2 ^ 30
/-- SCHED.JOBID: that of the admitted job, 0 until the admission completes (log entry 43). -/
def State.schedJobid (s : State) : Nat := if s.job.state = .admitting then 0 else s.job.jobid.toNat
/-- The kind of die k (Table 19-1, R506): a compute die, the hub, a layer of working-store SRAM. -/
def dieKind (k : Nat) : Nat := if k < 4 then 1 else if k = 4 then 2 else 3
/-- Identity record of die k (R505): its fused fields, KIND in bits 74 to 71, and the reserved bits, which are zero. -/
def dieRecord (k : Nat) : BitVec 96 := BitVec.ofNat 96 ((Config.dieFuses k).toNat + dieKind k * 2 ^ 71)
/-- A digest's bytes, first byte first. -/
def shaBytes (h : BitVec 256) : List Byte := (leBytes h.toNat 32).reverse
/-- STRAP.LATCH (Table 18-9). -/
def State.latchWord (s : State) : Nat := s.aon.latch.toNat + (if s.roleStrap = 3 then 2 ^ 15 else 0)
/-- HEALTH.MODULE (Table 17-7). -/
def State.moduleWord (s : State) : Nat :=
  s.hl.failed.toNat + 2 * s.hl.nopat.toNat + 4 * s.hl.selftest.toNat + 16 * s.hl.fcause
/-- The signed bytes of the pattern set in the Scoresheet: 128 + BLEN. -/
def patSigned (p : List Byte) : List Byte := p.take (128 + fieldAt p 12 4)
/-- The Scoresheet as far as its devices answer (R515). -/
def State.answering (s : State) : State := { s with score := { s.score with
  f0 := if s.score.ok0 then s.score.f0 else []
  f1 := if s.score.ok1 then s.score.f1 else [] } }
/-- Digest of the valid REPAIR payload; where there is none the report states no value (a free one, log entry 16). -/
def State.repairHash (s : State) : List Byte × State :=
  match s.answering.validRec rgREPAIR with
  | some p => (shaBytes (Config.sha256 p), s)
  | none =>
    ((List.range 4).flatMap fun i => leBytes (Config.freeValue (s.fresh + i)).toNat 8, { s with fresh := s.fresh + 4 })
/-- The 384 bytes of the report, captured at GO. -/
def State.attReport (s : State) : List Byte × State :=
  let (rh, s) := s.repairHash
  let b := leBytes 0x31415A4B 4 ++ leBytes 1 2 ++ leBytes levelOwn 2 ++
    (List.range 8).flatMap (fun i => leBytes ((s.cfg.nonce[i]?).getD 0).toNat 4) ++
    leBytes Config.serial.toNat 8 ++ leBytes Config.assemblyLot.toNat 8 ++
    (List.range 13).flatMap (fun k => leBytes (dieRecord k).toNat 12) ++
    leBytes s.latchWord 4 ++ leBytes s.fab.epoch.toNat 4 ++ leBytes s.moduleWord 4 ++ leBytes s.aon.counter.toNat 8 ++
    leBytes (if s.job.state = .idle then 0 else s.stat.sealedN) 8 ++ leBytes s.schedJobid 4 ++ leBytes 0 4 ++
    (if s.hl.nopat then leBytes 0 32 else shaBytes (Config.sha256 (patSigned s.score.pat))) ++
    (if fieldAt s.score.keys 6 2 = 0 then leBytes 0 32 else shaBytes (Config.sha256 s.score.keys)) ++ rh ++ leBytes 0 40
  (b, s)

def State.setAtt (s : State) (a : Att) : State := { s with att := a }
/-- A request completes with a status (R525 step 5). -/
def State.attDone (s : State) (st : Byte) : State :=
  s.setAtt { s.att with
    busy := false
    done := true
    status := st
    req := none
    signed := [] }
/-- A number of four bytes, first byte first, as RFC 8554 writes one. -/
def beWord (n : Nat) : List Byte := (leBytes n 4).reverse
/-- An LMS signature by leaf q of a tree (R517): q, the one-time signature of typecode 3, the path of typecode 7. body gives every
byte that no rule states. -/
def lmsSig (q : Nat) (body : Nat → Byte) : List Byte :=
  beWord q ++ beWord 3 ++ (List.range 2176).map body ++ beWord 7 ++ (List.range 480).map fun i => body (2176 + i)
/-- An LMS public key: its two typecodes, the tree's identifier and its root. -/
def lmsKey (body : Nat → Byte) : List Byte := beWord 7 ++ beWord 3 ++ (List.range 48).map body
/-- What an HSSLOW record of tree t holds (Table 19-3): its number, its key, and the signature over it by leaf t of the upper tree. -/
def lowPayload (t : Nat) : List Byte := leBytes t 4 ++ lmsKey (Config.lowerKeyByte t) ++ lmsSig t (Config.upperSigByte t)
/-- The tree number of the valid HSSLOW record. -/
def State.lowTree (s : State) : Option Nat := if s.score.hsslow.length = 2728 then some (fieldAt s.score.hsslow 0 4) else none
/-- The key and the upper signature of tree t: those of the valid HSSLOW record when it names t (R524). -/
def State.lowRecord (s : State) (t : Nat) : List Byte := if s.lowTree = some t then s.score.hsslow else lowPayload t
/-- The HSS signature of a message at a leaf: L less one, the upper signature, the lower tree's key, and the lower signature. -/
def State.hssSign (s : State) (leaf : Nat) (msg : List Byte) : List Byte :=
  let r := s.lowRecord (leaf / 32768)
  beWord 1 ++ (r.drop 60).take 2668 ++ (r.drop 4).take 56 ++ lmsSig (leaf % 32768) (Config.hssSigByte leaf msg)
/-- The attestation key's public key (R517): L, then the upper tree's key. -/
def pubKey : List Byte := beWord 2 ++ lmsKey Config.pubKeyByte
/-- Sign the report with the next leaf, which is then spent (R524). -/
def State.attSign (s : State) (q : AttReq) : State :=
  let sig := s.hssSign s.att.next q.report
  s.setAtt { s.att with
    next := s.att.next + 1
    req := some { q with waitResv := false, waitTree := false }
    signed := q.report ++ sig }
/-- Step 2 of R525: no leaf left, a reservation to be written, a tree to be generated, or the signature at once. -/
def State.attStep (s : State) : State :=
  match s.att.req with
  | none => s
  | some q =>
    if !s.att.signed.isEmpty then s
    else if s.att.next ≥ leafEnd ∨ s.score.nolms then s.attDone stLMS
    else if s.att.next ≥ s.att.limit then
      if q.waitResv then s
      else (s.setAtt { s.att with req := some { q with waitResv := true } }).requestRec rgLMS (leBytes (min (s.att.next + 64) leafEnd) 4)
    else if s.att.tree ≠ some (s.att.next / 32768) then
      s.setAtt { s.att with req := some { q with waitResv := false, waitTree := true } }
    else s.attSign q
/-- GO written to ATTEST.CTL (R525, R526). -/
def State.attGo (s : State) (region : Nat) : State :=
  if s.att.busy then s.setAtt { s.att with overrun := true }
  else
    let (b, s) := s.attReport
    (s.setAtt { s.att with
      busy := true
      req := some ⟨region, s.cfg.destLo.toNat + 2 ^ 32 * s.cfg.destHi.toNat, b, false, false⟩
      signed := [] }).attStep

/-- A lower tree stands in H-HOST. One that the HSSLOW record does not name has its key signed and its record queued. -/
def execLowerTreeGenerated (s : State) : Host.Outcome State Fault Refusal :=
  match s.att.req with
  | none => .next s
  | some q =>
    if !q.waitTree then .next s
    else
      let t := s.att.next / 32768
      let s := s.setAtt { s.att with tree := some t }
      let s := if s.lowTree = some t then s else s.requestRec rgHSSLOW (lowPayload t)
      .next s.attStep
/-- The report and its signature go to the region, a HOST region with WRITE access that holds all 5,780 bytes (R525 step 4). -/
def execAttestReportWritten (s : State) : Host.Outcome State Fault Refusal :=
  match s.att.req with
  | none => .next s
  | some q =>
    if s.att.signed.isEmpty then .next s
    else
      let ok := match s.region? q.region with
        | none => false
        | some r => !r.peer && r.write && decide (q.off + s.att.signed.length ≤ r.length)
      if ok then .next ((s.writeRegion none q.region q.off s.att.signed .bytes 0).attDone stOK)
      else .next (s.attDone stBUFFER)

/-! ### Loads, R519 -/

def State.loadDone (s : State) (st : Byte) : State :=
  { s with score := { s.score with
    load := none
    loadStatus := st
    loadDone := true } }
/-- GO written to SCORE.LOAD. A reserved kind reads nothing and finishes at once (R534); GO while a load runs starts none. -/
def State.loadGo (s : State) (region kind : Nat) : State :=
  let off := s.cfg.loadLo.toNat + 2 ^ 32 * s.cfg.loadHi.toNat
  let len := s.cfg.loadLen.toNat
  if s.score.load.isSome then s
  else if kind = 0 ∨ kind = 3 then s.loadDone stILLEGAL
  else if !s.canRead region off len then s.loadDone stBUFFER
  else ({ s with score := { s.score with load := some ⟨kind, region, len, false⟩ } }).sendRead region off len

/-- Form of a key set record (Table 19-7): bytes 0 to 271, with or without a signature. -/
def keyForm (b : List Byte) : Bool :=
  let n := fieldAt b 6 2
  (b.length == 272 || b.length == 5668) && fieldAt b 0 4 == 0x314B5A4B && fieldAt b 4 2 == 1 && decide (n ≤ 4) &&
    fieldAt b 12 4 == 0 &&
    (List.range 4).all fun i =>
      let e := (b.drop (16 + 64 * i)).take 64
      if i < n then decide (fieldAt e 0 1 < 8) && fieldAt e 1 3 == 0 else allZero e
/-- Why a key set is refused: form and GEN, then the signature once a key is enrolled. -/
def State.keyBad (s : State) (b : List Byte) : Option Byte :=
  if fieldAt s.score.keys 6 2 = 0 then
    worst (failIf (!keyForm b) stILLEGAL) (failIf (s.fab.self != .unjoined) stSIGNATURE)
  else
    worst (failIf (!keyForm b || decide (fieldAt b 8 4 ≤ s.score.keygen.toNat)) stILLEGAL)
      (failIf (!s.opVerify permKEY (b.take 272) (b.drop 272)) stSIGNATURE)
/-- Form of a pattern set image (Table 19-7). -/
def patForm (b : List Byte) : Bool :=
  let n := fieldAt b 12 4
  b.length == 128 + n + 5396 && fieldAt b 0 4 == 0x31535A4B && fieldAt b 4 2 == 1 && fieldAt b 6 2 == 0 &&
    decide (16 ≤ n ∧ n ≤ 8388608) && n % 16 == 0 && allZero ((b.drop 76).take 52)
/-- The vendor's signature: its public key has the fused hash, and the signature verifies under it. -/
def patSigOk (b : List Byte) : Bool :=
  let k := (b.drop 16).take 60
  Config.sha256 k == Config.vendorKeyHash && hssGood k (patSigned b) (b.drop (128 + fieldAt b 12 4))
def State.patBad (s : State) (b : List Byte) : Option Byte :=
  worst (failIf (!patForm b || decide (fieldAt b 8 4 < s.score.patver.toNat)) stILLEGAL) (failIf (!patSigOk b) stSIGNATURE)
/-- The data of a load: what passes is written to the Scoresheet, and the load ends when it has been read back. -/
def execScoreLoadDataReceived (data : List Byte) (s : State) : Host.Outcome State Fault Refusal :=
  match s.score.load with
  | none => .next s
  | some l =>
    if l.queued ∨ data.length ≠ l.len then .next s
    else
      let s := s.readDone l.region l.len
      match if l.kind = 2 then s.keyBad data else s.patBad data with
      | some st => .next (s.loadDone st)
      | none =>
        let s := { s with score := { s.score with load := some { l with queued := true } } }
        .next (if l.kind = 2 then s.requestRec rgTRUST (data.take 272) else s.requestRec rgPATSET data)

/-! ### Records being written -/

def Writing.pages (w : Writing) : Nat := w.bytes.length / 256
/-- Pages 2 to PAGES in order, then page 1 (R510 step 4); pages are numbered from 0 here. -/
def Writing.page (w : Writing) : Nat := if w.done + 1 < w.pages then w.done + 1 else 0
/-- Begin what waits and may begin: the record being written, or the next one. -/
def State.resumeFlash (s : State) : State :=
  match s.score.cur with
  | none => s.nextRec
  | some w =>
    if !w.started && decide (w.done < w.pages) && s.slotReady w && s.aon.braceAt.isNone then
      { s with score := { s.score with cur := some { w with started := true } } }
    else s
/-- A device has failed: later writes go to the other, the record in hand among them, and REPAIR records it (R515). -/
def State.devFail (s : State) (d : Nat) : State :=
  let s := { s with score := { s.score with
    ok0 := s.score.ok0 && d != 0
    ok1 := s.score.ok1 && d != 1
    erases := s.score.erases.filter fun e => e.1 != d } }
  let s := match s.score.cur with
    | none => s
    | some w =>
      if w.dev ≠ d then s
      else if s.okDev (1 - d) then s.beginRec w.req (1 - d) 0 none
      else { s with score := { s.score with cur := none } }
  s.saveRepair
def execPageProgramComplete (ok : Bool) (s : State) : Host.Outcome State Fault Refusal :=
  match s.score.cur with
  | none => .next s
  | some w =>
    if !w.started then .next s
    else if !ok then .next (s.devFail w.dev)
    else
      let p := w.page
      let s := s.setFlash w.dev (memWriteN 0xFF (s.flash w.dev) (w.slot + 256 * p) ((w.bytes.drop (256 * p)).take 256))
      let w := { w with
        done := w.done + 1
        started := false }
      .next ({ s with score := { s.score with cur := some w } }).resumeFlash

/-- A write that fills a sector of a region with several sectors starts the erase of the bank's next one (R512). -/
def State.eraseAfter (s : State) (w : Writing) : State :=
  let r := w.req.region
  let k := (w.slot - regBase r) / sectorLen
  let last := decide ((w.slot - regBase r) % sectorLen + regSlot r = regPerSector r * regSlot r)
  let o := regBase r + (k + 1) % regSectors r * sectorLen
  if r = rgPATSET ∨ !last ∨ allFF (s.flash w.dev) o sectorLen ∨ s.score.erases.contains (w.dev, o) then s
  else { s with score := { s.score with erases := s.score.erases ++ [(w.dev, o)] } }
/-- What a record does once it has been read back (R519, R521, R524). -/
def State.recWritten (s : State) (q : WReq) : State :=
  if q.region = rgLMS then
    let n := fieldAt q.payload 0 4
    (s.setAtt { s.att with limit := max s.att.limit (min n leafEnd) }).attStep
  else if q.region = rgHSSLOW then { s with score := { s.score with hsslow := q.payload } }
  else if q.region = rgTRUST then
    ({ s with score := { s.score with
      keys := q.payload
      keygen := BitVec.ofNat 32 (fieldAt q.payload 8 4) } }).loadDone stOK
  else if q.region = rgPATSET then
    ({ s with score := { s.score with
      pat := q.payload
      patver := BitVec.ofNat 32 (fieldAt q.payload 8 4) } }).loadDone stOK
  else s
/-- A CRC field that does not check: any value but the record's own (R510 step 5; a free value, log entry 31). -/
def badCrc (n : Nat) (good : Nat) : Nat :=
  let v := (Config.freeValue n).toNat % 2 ^ 32
  if v = good then (good + 1) % 2 ^ 32 else v
def execRecordReadbackComplete (matched : Bool) (s : State) : Host.Outcome State Fault Refusal :=
  match s.score.cur with
  | none => .next s
  | some w =>
    if w.done ≠ w.pages then .next s
    else if matched then
      let s := { s with score := { s.score with cur := none } }
      .next ((s.eraseAfter w).recWritten w.req).nextRec
    else
      let (n, s) := s.takeFresh
      let m := memWriteN 0xFF (s.flash w.dev) (w.slot + 12) (leBytes (badCrc n (fieldAt w.bytes 12 4)) 4)
      let s := s.setFlash w.dev m
      if w.fails + 1 ≥ 3 then .next (s.devFail w.dev) else .next (s.beginRec w.req w.dev (w.fails + 1) (some w.slot))
/-- The oldest erase ends; none ends while brace suspends it (R513). -/
def execSectorEraseComplete (ok : Bool) (s : State) : Host.Outcome State Fault Refusal :=
  match s.score.erases with
  | [] => .next s
  | (d, o) :: rest =>
    if s.score.suspended then .next s
    else if !ok then .next (s.devFail d)
    else
      let s := s.setFlash d ((s.flash d).filter fun c => !(decide (o ≤ c.1 ∧ c.1 < o + sectorLen)))
      .next ({ s with score := { s.score with erases := rest } }).resumeFlash

/-! ### Wear, R508 -/

/-- Accumulated hours of a domain at a voltage step. -/
def Health.hoursAt (h : Health) (d v : Nat) : Nat := match h.hours.find? fun x => x.1 == d && x.2.1 == v with
  | none => 0
  | some x => x.2.2
def Health.addHour (h : Health) (d : Nat) : Health :=
  let v := ((h.vstep[d]?).getD 0).toNat
  { h with hours := h.hours.filter (fun x => !(x.1 == d && x.2.1 == v)) ++ [(d, v, (h.hoursAt d v + 1) % 2 ^ 32)] }
def Health.wearPayload (h : Health) : List Byte :=
  (List.range 80).flatMap fun d => (List.range 9).flatMap fun v => leBytes (h.hoursAt d v) 4
def execWearTimer (s : State) : Host.Outcome State Fault Refusal :=
  if !s.elapsed s.score.wearDue 180000000000 then .next s
  else
    let h := ((List.range 80).filter fun d => s.aon.domOn.getLsbD d).foldl Health.addHour s.hl
    let s := { s with
      hl := h
      score := { s.score with wearDue := s.aon.counter } }
    .next (s.requestRec rgWEAR h.wearPayload)

end Sys2Proof.Machine
end

