-- ==== Sys2Proof/Machine/Issue.lean ====
section
/-! DEFINITION. The copy, matrix, vector, soft-target, update and collective instructions as a seat issues them (R287 to
R293, R302 to R333). -/

namespace Sys2Proof.Machine

/-- Buffers named by handles read at issue. -/
def earlyHnds (l : List Nat) (j : Job) (x : Ctx) : List Nat := l.filterMap fun h => (j.live (x.arch.hndN h)).map fun p => p.2.id
def noEarly (_ : Job) (_ : Ctx) : List Nat := []
/-- A summary register, when one is named. -/
def sumReg (r : SReg) : Option SReg := if r = 0 then none else some r

/-! ### Copies -/

def execCopy (c : CtxId) (f : CopyF) (s : State) : Host.Outcome State Fault Refusal :=
  engineRun s c f.g f.word f.legal [f.sDO, f.sSO, f.sEXT, f.sRC] .copy ⟨f.ec, f.cnt, f.pub, none⟩ noEarly fun s x => s.issueCopy x f
def execGather (c : CtxId) (f : GatherF) (s : State) : Host.Outcome State Fault Refusal :=
  engineRun s c f.g (f.word 0x15) f.legal [f.sIX, f.sROW, f.sRC] .copy ⟨f.ec, f.cnt, f.pub, none⟩ noEarly fun s x => s.issueRows x f true
def execScatter (c : CtxId) (f : GatherF) (s : State) : Host.Outcome State Fault Refusal :=
  engineRun s c f.g (f.word 0x16) f.legal [f.sIX, f.sROW, f.sRC] .copy ⟨f.ec, f.cnt, f.pub, none⟩ noEarly fun s x => s.issueRows x f false
def execFill (c : CtxId) (f : FillF) (s : State) : Host.Outcome State Fault Refusal :=
  engineRun s c f.g f.word f.legal [f.sDO, f.sEXT, f.sV] .copy ⟨f.ec, f.cnt, f.pub, none⟩ noEarly fun s x => s.issueFill x f

/-! ### MMA -/

/-- The epilogue descriptor and the look-up tables it names. -/
def epiEarly (sC : Dword) (j : Job) (x : Ctx) : List Nat :=
  if !sC.getLsbD 34 then []
  else match j.live (x.arch.hndN (bits sC 33 28)) with
    | none => []
    | some (_, b) =>
      let d := b.readBytes 0 b.bytes
      b.id :: (List.range (min 8 (byteAt d 0).toNat)).flatMap fun i =>
        if byteAt d (16 + 16 * i) = 0x30 then earlyHnds [(byteAt d (16 + 16 * i + 2)).toNat] j x else []
def execMma (c : CtxId) (f : MmaF) (s : State) : Host.Outcome State Fault Refusal :=
  engineRun s c f.g f.word f.legal [f.sG, f.sK, f.sC, f.sRC] .matrix ⟨f.ec, f.cnt, f.pub, none⟩
    (fun j x => epiEarly (x.arch.reg f.sC) j x) fun s x => s.issueMma c x f

/-! ### Vector -/

def execVew (c : CtxId) (f : VewF) (s : State) : Host.Outcome State Fault Refusal :=
  engineRun s c f.g (f.word 0x30) f.legalEw [f.sX, f.sVC, f.sW] .vector ⟨f.ec, f.cnt, f.pub, sumReg f.sS⟩ noEarly fun s x => s.issueVew x f
def execVsel (c : CtxId) (f : VselF) (s : State) : Host.Outcome State Fault Refusal :=
  engineRun s c f.g f.word true [f.sX, f.sVC, f.sW] .vector ⟨f.ec, f.cnt, f.pub, sumReg f.sS⟩ noEarly fun s x => s.issueVsel x f
def execVcmp (c : CtxId) (f : VewF) (s : State) : Host.Outcome State Fault Refusal :=
  engineRun s c f.g (f.word 0x32) f.legalCmp [f.sX, f.sVC, f.sW] .vector ⟨f.ec, f.cnt, f.pub, sumReg f.sS⟩ noEarly fun s x => s.issueVcmp x f
def execVlut (c : CtxId) (f : VlutF) (s : State) : Host.Outcome State Fault Refusal :=
  engineRun s c f.g f.word f.legal [f.sVC, f.sW] .vector ⟨f.ec, f.cnt, f.pub, sumReg f.sS⟩ (earlyHnds [f.bt.toNat]) fun s x => s.issueVlut x f
def execVred (c : CtxId) (f : VredF) (s : State) : Host.Outcome State Fault Refusal :=
  engineRun s c f.g f.word f.legal [f.sVC, f.sW] .vector ⟨f.ec, f.cnt, f.pub, sumReg f.sS⟩ noEarly fun s x => s.issueVred x f

/-! ### Soft targets -/

def stsRun (c : CtxId) (f : StsF) (func : Nat) (s : State) : Host.Outcome State Fault Refusal :=
  engineRun s c f.g (f.word func) (f.legal func) [f.sW, f.sRC] .vector ⟨f.ec, f.cnt, f.pub, none⟩ (earlyHnds [f.bs.toNat]) fun s x => s.issueSts x func f
def execFold (c : CtxId) (f : StsF) (s : State) : Host.Outcome State Fault Refusal := stsRun c f 0 s
def execLoss (c : CtxId) (f : StsF) (s : State) : Host.Outcome State Fault Refusal := stsRun c f 1 s
def execFinish (c : CtxId) (f : StsF) (s : State) : Host.Outcome State Fault Refusal := stsRun c f 2 s
def execGrad (c : CtxId) (f : StsF) (s : State) : Host.Outcome State Fault Refusal := stsRun c f 3 s

/-! ### Update passes -/

def updRun (c : CtxId) (f : UpdF) (func : Nat) (s : State) : Host.Outcome State Fault Refusal :=
  engineRun s c f.g (f.word func) f.legal [f.sH] .vector ⟨f.ec, f.cnt, f.pub, none⟩
    (if func = 1 then noEarly else earlyHnds [f.bc.toNat, f.bt.toNat]) fun s x => s.issueUpd c x func f
def execPass1 (c : CtxId) (f : UpdF) (s : State) : Host.Outcome State Fault Refusal := updRun c f 0 s
def execPass2 (c : CtxId) (f : UpdF) (s : State) : Host.Outcome State Fault Refusal := updRun c f 1 s
def execRebuild (c : CtxId) (f : UpdF) (s : State) : Host.Outcome State Fault Refusal := updRun c f 2 s

/-! ### Collectives and transfers -/

def collRun (c : CtxId) (f : CollF) (func : Nat) (s : State) : Host.Outcome State Fault Refusal :=
  engineRun s c f.g (f.word func) (f.legal func) [f.sA, f.sB, f.sRC] .copy ⟨f.ec, f.cnt, f.pub, none⟩ noEarly fun s x => s.issueColl x func f
def execAred (c : CtxId) (f : CollF) (s : State) : Host.Outcome State Fault Refusal := collRun c f 0 s
def execRscat (c : CtxId) (f : CollF) (s : State) : Host.Outcome State Fault Refusal := collRun c f 1 s
def execAgath (c : CtxId) (f : CollF) (s : State) : Host.Outcome State Fault Refusal := collRun c f 2 s
def execBcast (c : CtxId) (f : CollF) (s : State) : Host.Outcome State Fault Refusal := collRun c f 3 s
def execSend (c : CtxId) (f : CollF) (s : State) : Host.Outcome State Fault Refusal := collRun c f 4 s
def execRecv (c : CtxId) (f : CollF) (s : State) : Host.Outcome State Fault Refusal := collRun c f 5 s

end Sys2Proof.Machine
end

