-- ==== Sys2Proof/Machine/Power.lean ====
section
/-! DEFINITION. Supply, brace, temperature, resets, straps, boot, domains and clocks (file 18; R516, R522). -/

namespace Sys2Proof.Machine

/-! ### Readings -/

/-- The supply's readings: the voltage, and the power drawn now, which no command states (log entry 13), with the lowest and the
highest of them. -/
def State.supply (s : State) (v : BitVec 16) : State :=
  let (n, s) := s.takeFresh
  let p : BitVec 16 := (Config.freeValue n).setWidth 16
  { s with aon := { s.aon with
    vin := v
    vmin := if v < s.aon.vmin then v else s.aon.vmin
    pin := p
    peak := if p > s.aon.peak then p else s.aon.peak } }
/-- The supply reads another voltage now, which the crossing does not state (log entry 13). -/
def State.newVin (s : State) : State :=
  let (n, s) := s.takeFresh
  s.supply ((Config.freeValue n).setWidth 16)
/-- The junction sensors read other temperatures now. -/
def State.newTemps (s : State) : State :=
  let (n, s) := s.takeFresh
  let v := Config.freeValue n
  { s with aon := { s.aon with
    temps := Vector.ofFn fun (i : Fin 4) => BitVec.ofNat 8 (v.toNat / 256 ^ i.val)
    tempHub := BitVec.ofNat 8 (v.toNat / 256 ^ 4)
    tempDram := BitVec.ofNat 8 (v.toNat / 256 ^ 5) } }
/-- SEAL.KCFG.G as PARITY_DEFAULT resets it (Table 18-5). -/
def parityG (latch : BitVec 15) : Word := match latch.toNat / 2 ^ 13 with
  | 0 => 0
  | 1 => 4
  | 2 => 8
  | _ => 16
/-- The supply monitor is armed and the straps are latched from boot step 3 on. -/
def State.powered (s : State) : Bool := decide (s.aon.bootStep ≥ 3)

/-! ### Resets, R490 to R498, R537 -/

/-- The Scoresheet at a reset. The page being programmed completes when only the module is reset; when power is lost, the slot
of a header page is spent, and any other slot is spent or still free (Table 19-10). Queued records are lost (R485). -/
def State.flashStop (s : State) (lost : Bool) : State :=
  match s.score.cur with
  | none => s
  | some w =>
    if !w.started then s
    else
      let p := w.page
      let page := (w.bytes.drop (256 * p)).take 256
      let (n, s) := s.takeFresh
      let bad := page.take 12 ++ leBytes (badCrc n (fieldAt w.bytes 12 4)) 4 ++ page.drop 16
      let data := if !lost then page else if p = 0 then bad
        else if (Config.freeValue n).getLsbD 63 then page else []
      s.setFlash w.dev (memWriteN 0xFF (s.flash w.dev) (w.slot + 256 * p) data)
/-- What every reset clears; the flash, the straps' contacts and what the module has already sent are not the module's volatile
state. The latest faults of the domains are kept, for R491. -/
def State.cleared (s : State) (aon : Aon) : State :=
  { State.reset with
    pending := s.pending
    outbox := s.outbox
    heldTx := []
    fresh := s.fresh
    aon := aon
    cfg := { Cfg.reset with kcfg := parityG aon.latch }
    hl := { Health.reset with
      retest := s.hl.retest
      domFltAt := s.hl.domFltAt
      window := aon.counter
      rots := Health.reset.rots.map fun r => { r with start := aon.counter } }
    score := { Score.reset with
      f0 := s.score.f0
      f1 := s.score.f1
      wearDue := aon.counter } }
/-- A time so far away that no later fault lies within the escalation window of it (R491). -/
def longAgo : Dword := 2 ^ 63
/-- Cold reset (Table 18-4). step is 0 when the bus is gone, 1 when the regulator starts again. -/
def State.coldReset (s : State) (cause step : Nat) (f : Aon → Aon) : State :=
  let s := s.flashStop true
  let aon : Aon := { Aon.reset with
    contacts := s.aon.contacts
    vin := s.aon.vin
    pin := s.aon.pin
    temps := s.aon.temps
    tempHub := s.aon.tempHub
    tempDram := s.aon.tempDram
    rstCause := cause
    bootStep := step
    refOk := s.aon.refOk
    holdOv := s.aon.holdOv
    holdOt := s.aon.holdOt
    holdRst := s.aon.holdRst }
  let s := s.cleared (f aon)
  { s with hl := { s.hl with domFltAt := s.hl.domFltAt.map fun x => (x.1, longAgo) } }
/-- Module reset: H-AON keeps what Table 20-3 names, the supply monitor goes on sampling, and boot begins at step 3 with every
domain but H-AON off. -/
def State.moduleReset (s : State) (cause : Nat) : State :=
  let s := s.flashStop false
  s.cleared { s.aon with
    vmin := s.aon.vin
    peak := s.aon.pin
    hot := false
    lastDur := 0
    lastValid := false
    rstCause := cause
    bootStep := 3
    waves := 0
    hold := false
    ready := false
    domOn := onlyAon
    domFlt := 0 }

/-! ### The input bus, R482 and R483 -/

/-- Absolute maximum of the input bus, in millivolts (Table 21-1). -/
def busMax : Nat := 65000
/-- Boot step 1: the regulator starts, and with it the start filter. -/
def execPowerOn (millivolts : Nat) (s : State) : Host.Outcome State Fault Refusal :=
  if s.aon.bootStep ≠ 0 ∨ millivolts ≤ 46000 then .next s
  else if millivolts > busMax then .fault .beyondRatings
  else
    let s := s.supply (BitVec.ofNat 16 millivolts)
    .next { s with aon := { s.aon with
      bootStep := 1
      startFilter := true } }
/-- Boot step 2: power-good asserts, the straps are latched (R499), the local counter starts from 0 (R35). -/
def execStartFilter (s : State) : Host.Outcome State Fault Refusal :=
  if s.aon.bootStep ≠ 1 || s.aon.holdOv || s.aon.holdOt then .next s
  else .next { s with
    aon := { s.aon with
      bootStep := 3
      startFilter := false
      oscOn := true
      counter := 0
      latch := s.aon.contacts
      -- the monitor is armed: its extremes are at least the readings that stand
      vmin := if s.aon.vin < s.aon.vmin then s.aon.vin else s.aon.vmin
      peak := if s.aon.pin > s.aon.peak then s.aon.pin else s.aon.peak }
    cfg := { s.cfg with kcfg := parityG s.aon.contacts } }
def execResetLevel (s : State) : Host.Outcome State Fault Refusal :=
  if !s.powered then .next s else .next (s.newVin.coldReset 1 0 id)
def execOvervoltage (millivolts : Nat) (s : State) : Host.Outcome State Fault Refusal :=
  if !s.powered ∨ millivolts ≤ 58000 then .next s
  else if millivolts > busMax then .fault .beyondRatings
  else .next (({ s with aon := { s.aon with vin := BitVec.ofNat 16 millivolts } }).coldReset 2 1 fun a => { a with holdOv := true })
def execOvervoltageRelease (s : State) : Host.Outcome State Fault Refusal :=
  if !s.aon.holdOv then .next s
  else
    let s := s.newVin
    .next { s with aon := { s.aon with
      holdOv := false
      startFilter := true } }

/-! ### Brace, R484 to R488 -/

/-- Entry into brace: TBEGIN stalls, every undecided trick is voided with cause 6, and no Scoresheet write begins. A boot step
in progress is to be done again (R488): the hold of step 4, the waves of step 5, the locks of step 6. In brace the same crossing
restarts the recovery filter (R483). -/
def execBrace (s : State) : Host.Outcome State Fault Refusal :=
  if !s.powered then .next s
  else if s.aon.braceAt.isSome then
    let s := s.newVin
    .next { s with aon := { s.aon with recover := none } }
  else
    let s := s.newVin
    let six := decide (s.aon.bootStep = 6)
    let s := { s with
      aon := { s.aon with
        braceAt := some s.aon.counter
        recover := none
        braces := satAdd s.aon.braces 1 sat32
        hold := false
        waves := if s.aon.bootStep = 5 then 0 else s.aon.waves
        hubLock := s.aon.hubLock && !six
        vsLock := if six then 0 else s.aon.vsLock
        tgPll := if six then 0 else s.aon.tgPll }
      score := { s.score with suspended := !s.score.erases.isEmpty } }
    .next (s.voidEach 6).forceDone.pump
/-- The bus rises above 44.0 V in brace. A filter that runs goes on: a shorter excursion below has not restarted it (R483). -/
def execRecoveryFilterStart (s : State) : Host.Outcome State Fault Refusal :=
  if s.aon.braceAt.isNone then .next s
  else
    let s := s.newVin
    .next { s with aon := { s.aon with recover := some (s.aon.recover.getD s.aon.counter) } }
/-- The recovery filter is complete: 100,000 counts have passed since it started (Table 18-1). -/
def State.recovered (s : State) : Bool := match s.aon.recover with
  | none => false
  | some t => s.elapsed t 100000
/-- The end of brace: its duration in units of 64 counts, and what it held goes on (R487). -/
def execBraceEnd (s : State) : Host.Outcome State Fault Refusal :=
  match s.aon.braceAt with
  | none => .next s
  | some t =>
    if !s.recovered then .next s else
    let s := { s with
      aon := { s.aon with
        braceAt := none
        recover := none
        lastDur := BitVec.ofNat 31 ((s.aon.counter - t).toNat / 64)
        lastValid := true }
      score := { s.score with suspended := false } }
    .next s.resumeFlash.pump

/-! ### Temperature and clocks, R489, R492, R494 -/

def execJunctionHot (s : State) : Host.Outcome State Fault Refusal :=
  if !s.powered then .next s
  else
    let s := s.newTemps
    .next { s with aon := { s.aon with hot := true } }
def execHotCleared (s : State) : Host.Outcome State Fault Refusal :=
  if !s.aon.hot then .next s
  else
    let s := s.newTemps
    .next { s with aon := { s.aon with hot := false } }
def execOvertemperature (s : State) : Host.Outcome State Fault Refusal :=
  if !s.powered then .next s else .next (s.newTemps.coldReset 3 1 fun a => { a with holdOt := true })
def execOvertemperatureRelease (s : State) : Host.Outcome State Fault Refusal :=
  if !s.aon.holdOt then .next s
  else
    let s := s.newTemps
    .next { s with aon := { s.aon with
      holdOt := false
      startFilter := true } }
def execAonOscillatorStop (s : State) : Host.Outcome State Fault Refusal :=
  if !s.powered then .next s else .next (s.coldReset 4 1 fun a => { a with oscOn := false })
/-- While the SerDes reference is absent every host and peer port is down. -/
def execSerdesReferenceChange (isPresent : Bool) (s : State) : Host.Outcome State Fault Refusal :=
  let s := { s with aon := { s.aon with refOk := isPresent } }
  if isPresent then .next s
  else
    let hs := (List.finRange 4).filter fun p => (s.host.ports.get p).up
    let ps := (List.finRange 12).filter fun p => (s.fab.ports.get p).up
    let s := hs.foldl State.hostPortDown s
    .next (ps.foldl State.peerPortDown s).pump

/-! ### Domains, R490 and R491 -/

/-- Brace pauses the boot, and RESET_N holds it at step 3. -/
def State.booting (s : State) (step : Nat) : Bool := s.aon.bootStep == step && s.aon.braceAt.isNone && !s.aon.holdRst
/-- Every PLL that R493 has running is locked. -/
def State.plLocked (s : State) : Bool :=
  (s.aon.hubLock || !s.aon.domOn.getLsbD 64) &&
    (List.range 4).all (fun n => s.aon.vsLock.getLsbD n || !s.aon.domOn.getLsbD (16 * n + 14)) &&
    (List.range 56).all fun d =>
      s.aon.tgPll.getLsbD d || !s.groupNeeded d || !s.aon.domOn.getLsbD (16 * (d / 14) + d % 14)
/-- The tile-group PLL of a domain, in the order of CLK.TGPLL. -/
def groupPll (d : Nat) : Nat := 14 * (d / 16) + d % 16
/-- The domain the hub PLL's clock serves (Table 01-8). -/
def hubPllDomain : Nat := 64
/-- The domain is off from now on, its PLL with it. lostLock: it was its PLL that failed. -/
def State.domainOff (s : State) (d : Nat) (lostLock : Bool) : State :=
  let tg := decide (d < 64 ∧ d % 16 < 14)
  let vs := decide (d < 64 ∧ d % 16 = 14)
  { s with
    aon := { s.aon with
      domOn := setBit s.aon.domOn d false
      domFlt := setBit s.aon.domFlt d true
      tgPll := if tg then setBit s.aon.tgPll (groupPll d) false else s.aon.tgPll
      vsLock := if vs then setBit s.aon.vsLock (d / 16) false else s.aon.vsLock
      hubLock := s.aon.hubLock && d != hubPllDomain
      unlock := if lostLock then satAdd s.aon.unlock 1 sat32 else s.aon.unlock }
    hl := { s.hl with
      retest := setBit s.hl.retest d true
      domFltAt := alSet s.hl.domFltAt d s.aon.counter } }
/-- A tile group that faulted: its tiles in service leave at the next boundary and spares replace them; its own spares are of no
use. -/
def State.groupGone (s : State) (d : Nat) : State :=
  let us := (List.range 4).map fun i => (⟨.tile, 56 * (d / 16) + 4 * (d % 16) + i⟩ : PUnit)
  let serving := us.filter s.hl.inService
  let lostWakes := s.hl.wakes.filter fun (w : Wake) => us.contains w.u && (w.forRetire || !w.passed)
  let h := s.hl
  let s := { s with hl := { h with
    due := h.due ++ serving.map DueStep.leave
    off := h.off ++ us.filter fun u => h.isSpare u && !h.isRet u && !h.off.contains u
    -- a tile of the group that is out of service or under test for a rotation takes no further part in it
    rots := h.rots.map fun (r : Rot) => if r.kind = RotKind.tile ∧ r.stage ≥ 3 ∧ r.target.any fun t => us.contains ⟨.tile, t⟩ then
        { r with
          stage := 0
          due := false
          lastUnit := r.target
          target := none
          spare := none }
      else r
    wakes := h.wakes.filter fun (w : Wake) => !us.contains w.u } }
  let s := serving.foldl (fun s u => s.wakeFor .tile (unitDie u)) s
  (lostWakes.foldl (fun (s : State) w => s.wakeOne .tile (unitDie w.u) w.forRetire) s).freshSpares
/-- Boot step 6 ends when every PLL that R493 has running is locked. -/
def State.lockStep (s : State) : State :=
  if s.booting 6 && s.plLocked then { s with aon := { s.aon with bootStep := 7 } } else s
def execDomainFault (d : Fin 80) (lostLock : Bool) (s : State) : Host.Outcome State Fault Refusal :=
  if d.val = 67 then (if s.powered then .next (s.coldReset 4 1 id) else .next s)
  else if s.aon.bootStep < 5 || !s.aon.domOn.getLsbD d.val then .next s
  else
    let again := match alGet s.hl.domFltAt d.val with
      | none => false
      | some t => decide ((s.aon.counter - t).toNat < s.escWindow)
    let s := s.domainOff d.val lostLock
    let s :=
      if vitalDomain d.val then s.failModule 3 4
      else if d.val ≥ 68 then
        (s.setChMap (d.val - 68) { s.chMap (d.val - 68) with lost := true }).failModule 5 4
      else (s.groupGone d.val).voidOpen 4
    .next (if again then s.keepOff d.val else s).lockStep.pump

/-! ### Straps, RESET_N -/

def execStrapContactChange (contacts : BitVec 15) (s : State) : Host.Outcome State Fault Refusal :=
  .next { s with aon := { s.aon with contacts := contacts } }
def execResetNAssert (s : State) : Host.Outcome State Fault Refusal :=
  let s := { s with aon := { s.aon with holdRst := true } }
  .next (if s.powered then s.moduleReset 5 else s)
def execResetNRelease (s : State) : Host.Outcome State Fault Refusal :=
  .next { s with aon := { s.aon with holdRst := false } }

/-! ### Boot, R501, R502, R516, R522 -/

/-- Step 3: the valid copy of every region is found; a device that does not answer its SFDP read has failed. -/
def execBootScoresheetRead (sfdp0 sfdp1 : Bool) (s : State) : Host.Outcome State Fault Refusal :=
  if !s.booting 3 then .next s
  else
    let seen : State := { s with score := { s.score with
      f0 := if sfdp0 then s.score.f0 else []
      f1 := if sfdp1 then s.score.f1 else [] } }
    let lms := (seen.validRec rgLMS).map fun p => min (fieldAt p 0 4 + 64) leafEnd
    let keys := (seen.validRec rgTRUST).getD []
    let pat := (seen.validRec rgPATSET).getD []
    let wear := (seen.validRec rgWEAR).getD []
    let hours := ((List.range 80).flatMap fun d => (List.range 9).map fun v => (d, v, fieldAt wear (36 * d + 4 * v) 4)).filter
      fun x => x.2.2 != 0
    .next { s with
      score := { s.score with
        ok0 := sfdp0
        ok1 := sfdp1
        nolms := lms.isNone
        norepair := (seen.validRec rgREPAIR).isNone
        keys := keys
        keygen := BitVec.ofNat 32 (fieldAt keys 8 4)
        pat := pat
        patver := BitVec.ofNat 32 (fieldAt pat 8 4)
        hsslow := (seen.validRec rgHSSLOW).getD [] }
      att := { s.att with
        next := lms.getD 0
        limit := lms.getD 0 }
      hl := { s.hl with hours := hours }
      aon := { s.aon with bootStep := 4 } }

/-- A bit map of the REPAIR payload. -/
def mapAt (p : List Byte) (off bytes w : Nat) : BitVec w := BitVec.ofNat w (fieldAt p off bytes)
/-- A package's channel map as the repair history gives it; after the boot wipe a spare carries a retired channel at once, unless it
would enter service only now and no pattern set is valid (R469). -/
def chMapOf (nopat : Bool) (cret cspr : BitVec 156) (p : Nat) : ChMap × Bool :=
  let ret := (List.range 13).filter fun c => cret.getLsbD (13 * p + c)
  let spr := (List.range 13).filter fun c => cspr.getLsbD (13 * p + c) && !cret.getLsbD (13 * p + c)
  let data := ret.filter fun c => c != 12
  let code (l : List Nat) : BitVec 4 := match l with
    | [] => 15
    | c :: _ => BitVec.ofNat 4 c
  match data with
  | [] => (⟨code spr, code ret, 15, false, false, false, false⟩, false)
  | c :: rest =>
    let lost := !rest.isEmpty || ret.contains 12 || (nopat && !spr.isEmpty)
    (⟨15, BitVec.ofNat 4 c, if lost then 15 else BitVec.ofNat 4 c, false, lost, false, false⟩, !spr.isEmpty && !nopat)
/-- The repair history enters the Talon and the HEALTH, DEALER and PEERPORT registers (R479). -/
def State.loadRepair (s : State) (p : List Byte) : State :=
  let cret : BitVec 156 := mapAt p 192 20 156
  let cspr : BitVec 156 := mapAt p 212 20 156
  let lret : BitVec 108 := mapAt p 240 14 108
  let lspr : BitVec 108 := mapAt p 254 14 108
  let dom (d : Nat) : Nat := fieldAt p (268 + d) 1
  let cspr' : BitVec 156 := (List.range 12).foldl (fun (v : BitVec 156) i =>
    if (chMapOf s.hl.nopat cret cspr i).2 then setBit v (13 * i + 12) false else v) cspr
  let first (v : BitVec 108) (q : Nat) : BitVec 4 := match (List.range 9).find? fun i => v.getLsbD (9 * q + i) with
    | none => 15
    | some i => BitVec.ofNat 4 i
  let s := { s with
    hl := { s.hl with
      tret := mapAt p 0 28 224
      tspr := mapAt p 28 28 224
      vret := mapAt p 56 2 16
      bret := mapAt p 60 66 528
      bspr := mapAt p 126 66 528
      cret := cret
      cspr := cspr'
      sret := mapAt p 232 4 18
      sspr := mapAt p 236 4 18
      lret := lret
      lspr := lspr
      vstep := Vector.ofFn fun (d : Fin 80) => BitVec.ofNat 4 (dom d.val % 16)
      fstep := Vector.ofFn fun (d : Fin 80) => BitVec.ofNat 2 (dom d.val / 16)
      keptOff := bitsAt 80 ((List.range 80).filter fun d => (dom d).testBit 6)
      chmaps := Vector.ofFn fun (i : Fin 12) => (chMapOf s.hl.nopat cret cspr i.val).1 }
    fab := { s.fab with ports := Vector.ofFn fun (q : Fin 12) =>
      { s.fab.ports.get q with
        spare := first lspr q.val
        retiredLane := first lret q.val } }
    score := { s.score with
      ok0 := s.score.ok0 && !(fieldAt p 348 2).testBit 0
      ok1 := s.score.ok1 && !(fieldAt p 348 2).testBit 1 } }
  { s with hl := { s.hl with wsMib := Vector.ofFn fun (d : Fin 4) => 2880 - 24 * (128 - min 128 (s.upCount .bank d)) } }
/-- Step 4, with the hold of BOOT_SRC 1. A device that has failed since is recorded, and a spare channel that enters service. -/
def execBootRepairLoad (s : State) : Host.Outcome State Fault Refusal :=
  if !s.booting 4 || s.aon.hold then .next s
  else
    let answered := (s.score.ok0, s.score.ok1)
    let seen : State := { s with score := { s.score with
      f0 := if s.score.ok0 then s.score.f0 else []
      f1 := if s.score.ok1 then s.score.f1 else [] } }
    let s := { s with hl := { s.hl with nopat := s.score.pat.isEmpty || !patForm s.score.pat || !patSigOk s.score.pat } }
    let (s, dev, entered) := match seen.validRec rgREPAIR with
      | none => (s, 0, false)
      | some p => (s.loadRepair p, fieldAt p 348 2, (s.loadRepair p).hl.cspr != mapAt p 212 20 156)
    let s := { s with
      aon := { s.aon with
        hold := s.aon.latch.getLsbD 9
        bootStep := if s.aon.latch.getLsbD 9 then 4 else 5
        waves := 0 } }
    let new := (!answered.1 && !dev.testBit 0) || (!answered.2 && !dev.testBit 1)
    .next (if new || entered then s.saveRepair else s)
/-- The hold ends by a JTAG release. In brace the boot is paused, and the hold of step 4 is redone after it (R488). -/
def execBootholdRelease (s : State) : Host.Outcome State Fault Refusal :=
  if !s.aon.hold || s.aon.braceAt.isSome then .next s
  else .next { s with aon := { s.aon with
    hold := false
    bootStep := 5
    waves := 0 } }

/-- The domains of a power-up wave. -/
def waveDomains (k : Nat) : List Nat := match k with
  | 0 => [64, 65, 66]
  | 1 => (List.range 4).map fun n => 16 * n + 15
  | 2 => (List.range 4).map fun n => 16 * n + 14
  | 3 => (List.range 4).flatMap fun n => (List.range 7).map fun m => 16 * n + m
  | _ => ((List.range 4).flatMap fun n => (List.range 7).map fun m => 16 * n + 7 + m) ++ (List.range 12).map fun p => 68 + p
/-- A domain that stays off: recorded as retired, or a tile group without a tile left (R33). -/
def Health.staysOff (h : Health) (d : Nat) : Bool :=
  h.keptOff.getLsbD d || (decide (d < 64 ∧ d % 16 < 14) && (List.range 4).all fun i => h.tret.getLsbD (56 * (d / 16) + 4 * (d % 16) + i))
/-- A wave of step 5 is up; after the fifth the PLLs start. A domain that has faulted since the reset stays off until the next
(R491). -/
def execBootDomainWave (s : State) : Host.Outcome State Fault Refusal :=
  if !s.booting 5 then .next s
  else
    let on := (waveDomains s.aon.waves).foldl (fun (v : BitVec 80) d => setBit v d (!s.hl.staysOff d && !s.aon.domFlt.getLsbD d)) s.aon.domOn
    let fin := decide (s.aon.waves ≥ 4)
    .next { s with aon := { s.aon with
      domOn := on
      waves := s.aon.waves + 1
      bootStep := if fin then 6 else 5
      hubLock := s.aon.hubLock && !fin
      vsLock := if fin then 0 else s.aon.vsLock
      tgPll := if fin then 0 else s.aon.tgPll } }
/-- A PLL of a powered domain has locked; step 6 ends when all that run have. -/
def execPllLock (p : Pll) (s : State) : Host.Outcome State Fault Refusal :=
  if s.aon.bootStep < 6 || (s.aon.bootStep == 6 && s.aon.braceAt.isSome) then .next s
  else
    let a := match p with
      | .group d => if s.aon.domOn.getLsbD (16 * (d.val / 14) + d.val % 14) && s.groupNeeded d.val then
          { s.aon with tgPll := setBit s.aon.tgPll d.val true } else s.aon
      | .die n => if s.aon.domOn.getLsbD (16 * n.val + 14) then { s.aon with vsLock := setBit s.aon.vsLock n.val true } else s.aon
      | .hub => if s.aon.domOn.getLsbD hubPllDomain then { s.aon with hubLock := true } else s.aon
    .next ({ s with aon := a }).lockStep
def execDramTrainingComplete (s : State) : Host.Outcome State Fault Refusal :=
  if !s.booting 7 then .next s
  else .next { s with
    aon := { s.aon with bootStep := 8 }
    hl := { s.hl with selftest := true } }
/-- Step 9. -/
def execBootReady (s : State) : Host.Outcome State Fault Refusal :=
  if !s.booting 9 then .next s
  else .next { s with aon := { s.aon with
    ready := true
    bootStep := 10 } }

end Sys2Proof.Machine
end

