-- ==== Sys2Proof/Machine/Regs.lean ====
section
/-! DEFINITION. The register window: what each register reads as, what a write to it does, captured pairs, the attention summary,
and the RDMA requests that reach the module's regions (R6 to R8, R113, R418, R419, R529 to R539, Table 15-5). -/

namespace Sys2Proof.Machine

/-- A register's fields: place of the lowest bit, value. -/
def regOf (l : List (Nat × Nat)) : Nat := l.foldl (fun a x => a + x.2 * 2 ^ x.1) 0
def low32 (n : Nat) : Nat := n % 2 ^ 32
/-- HI half of a 48-bit value. -/
def high16 (n : Nat) : Nat := n / 2 ^ 32 % 2 ^ 16
def high32 (n : Nat) : Nat := n / 2 ^ 32 % 2 ^ 32
/-- HI half of a count that saturates at 2^63 - 1, with SAT. -/
def satHi (n : Nat) : Nat := if n ≥ 2 ^ 63 - 1 then 2 ^ 32 - 1 else n / 2 ^ 32
def satLo (n : Nat) : Nat := if n ≥ 2 ^ 63 - 1 then 2 ^ 32 - 1 else n % 2 ^ 32
/-- Bits n of a map, from bit lo. -/
def slice {w : Nat} (v : BitVec w) (lo n : Nat) : Nat := v.toNat / 2 ^ lo % 2 ^ n

/-! ### Reads, block by block (Table 20-1); offsets within the block -/

/-- Table 19-11, IDENT. -/
def readIDENT (o : Nat) : Nat :=
  if o = 0 then low32 Config.serial.toNat
  else if o = 4 then high16 Config.serial.toNat
  else if o = 8 then low32 Config.assemblyLot.toNat
  else if o = 0xC then high32 Config.assemblyLot.toNat
  else if o = 0x10 then levelOwn
  else if 0x100 ≤ o ∧ o < 0x1D0 ∧ o % 16 < 12 then (dieRecord ((o - 0x100) / 16)).toNat / 2 ^ (8 * (o % 16)) % 2 ^ 32
  else 0
/-- STRAP.RAW.DIFF. -/
def State.strapDiff (s : State) : Bool := s.aon.contacts != s.aon.latch
def State.readSTRAP (s : State) (o : Nat) : Nat :=
  if o = 0 then s.latchWord else if o = 4 then regOf [(0, s.aon.contacts.toNat), (15, s.strapDiff.toNat)] else 0
/-- PWR.STATUS (Table 18-9). -/
def State.pwrStatus (s : State) : Nat :=
  regOf [(0, s.aon.braceAt.isSome.toNat), (1, s.aon.recover.isSome.toNat), (2, s.aon.ready.toNat), (3, s.aon.hot.toNat), (4, s.aon.hold.toNat)]
def State.readPWR (s : State) (o : Nat) : Nat :=
  let a := s.aon
  if o = 0 then s.pwrStatus
  else if o = 4 then regOf [(0, a.vin.toNat), (16, a.vmin.toNat)]
  else if o = 8 then regOf [(0, a.pin.toNat), (16, a.peak.toNat)]
  else if o = 0xC then a.braces
  else if o = 0x10 then regOf [(0, a.lastDur.toNat), (31, a.lastValid.toNat)]
  else if o = 0x14 then a.rstCause
  else if o = 0x20 then regOf ((List.range 4).map fun n => (8 * n, ((a.temps[n]?).getD 0).toNat))
  else if o = 0x24 then regOf [(0, a.tempHub.toNat), (8, a.tempDram.toNat)]
  else if 0x40 ≤ o ∧ o < 0x4C then slice a.domOn (8 * (o - 0x40)) 32
  else if 0x50 ≤ o ∧ o < 0x5C then slice a.domFlt (8 * (o - 0x50)) 32
  else 0
def State.readCLK (s : State) (o : Nat) : Nat :=
  let a := s.aon
  if o = 0 then low32 a.counter.toNat
  else if o = 4 then high32 a.counter.toNat
  else if o = 8 then regOf [(0, a.refOk.toNat), (1, a.hubLock.toNat), (2, a.vsLock.toNat)]
  else if 0x10 ≤ o ∧ o < 0x20 then slice a.tgPll (14 * ((o - 0x10) / 4)) 14
  else if o = 0x20 then a.unlock
  else 0
/-- Table 17-8. -/
def State.readTALON (s : State) (o : Nat) : Nat :=
  if o < 0x10 then
    let n := o / 4
    regOf [(0, min 7 (s.spareCount .tile n)), (3, min 7 (s.spareCount .bank n)), (6, s.upCount .tile n), (12, s.upCount .engine n),
      (16, ((Sys2Proof.Machine.unitsOf .tile n).filter s.hl.isRet).length)]
  else if o = 0x10 then regOf [(0, min 3 (s.spareCount .seat 0)), (2, s.upCount .seat 0)]
  else if o = 0x14 then match s.hl.wakes.find? fun w => !w.passed with
    | none => 0
    | some w => regOf [(0, 1), (1, kindNum w.u.kind), (4, w.u.idx), (14, w.forRetire.toNat)]
  else 0
/-- Tables 17-7 and 05-9. -/
def State.readHEALTH (s : State) (o : Nat) : Nat :=
  let h := s.hl
  let due (k : RotKind) : Nat := (h.rots.any fun r => r.kind == k && r.due).toNat
  if o = 0 then s.moduleWord
  else if o = 4 then s.cfg.esc.toNat
  else if o = 8 then s.cfg.rot.toNat
  else if o = 0xC then regOf [(0, due .tile), (1, due .bank), (2, due .engine), (3, due .seat), (4, h.rotLong.toNat)]
  else if o = 0x10 then regOf [(0, h.ev.kind), (4, h.ev.source), (8, h.ev.unit % 1024), (18, h.ev.step), (31, h.ev.valid.toNat)]
  else if o = 0x14 then low32 h.ev.trick
  else if o = 0x18 then high16 h.ev.trick
  else if o = 0x1C then h.evCount
  else if o = 0x40 then s.cfg.spot.toNat
  else if 0x50 ≤ o ∧ o < 0x60 then (s.stat.spotRun[(o - 0x50) / 4]?).getD 0
  else if 0x60 ≤ o ∧ o < 0x70 then (s.stat.spotMis[(o - 0x60) / 4]?).getD 0
  else if o = 0x70 then
    let l := s.stat.spotLast
    regOf [(0, l.die), (2, l.engA), (4, l.engB), (6, l.engC), (8, l.verdict), (10, l.xdie.toNat), (31, l.valid.toNat)]
  else if 0x100 ≤ o ∧ o < 0x200 ∧ (o - 0x100) / 4 % 16 < 14 then
    let d := (o - 0x100) / 4
    let t := 56 * (d / 16) + 4 * (d % 16)
    regOf [(0, ((h.vstep[d]?).getD 0).toNat), (4, ((h.fstep[d]?).getD 0).toNat), (6, slice h.tret t 4), (10, slice h.tspr t 4),
      (14, (!s.aon.domOn.getLsbD d).toNat)]
  else if 0x200 ≤ o ∧ o < 0x210 then
    let n := (o - 0x200) / 4
    regOf [(0, ((h.vstep[16 * n + 14]?).getD 0).toNat), (4, slice h.vret (4 * n) 4)]
  else 0
/-- Table 03-12. -/
def State.readNUMSTAT (s : State) (o : Nat) : Nat :=
  let row (f : Nat) : NumRow := match f with
    | 0 => s.stat.num.v8
    | 1 => s.stat.num.g8
    | 2 => s.stat.num.bf16
    | 3 => s.stat.num.fp16
    | _ => s.stat.num.fp32
  if o = 0 then low32 s.stat.numTrick
  else if o = 4 then regOf [(0, high16 s.stat.numTrick), (31, s.stat.numValid.toNat)]
  else if 0x100 ≤ o ∧ o < 0x1A0 then
    let f := (o - 0x100) / 32
    let r := row f
    let sh := (s.stat.shares[f]?).getD (0, 0)
    match o % 32 with
    | 0 => satLo r.seen
    | 4 => satHi r.seen
    | 8 => satLo r.ovf
    | 12 => satHi r.ovf
    | 16 => satLo r.van
    | 20 => satHi r.van
    | 24 => sh.1.toNat
    | _ => sh.2.toNat
  else 0
/-- KiB of seal staging in use (Table 08-4), token ring entries among them. -/
def State.stageKib (s : State) : Nat := ceilDiv (s.job.stagedBytes + 16 * s.job.toks.length) 1024
/-- Tables 08-4 and 16-7. -/
def State.readSEAL (s : State) (o : Nat) : Nat :=
  let v := s.stat.lastVoid
  let r := s.job.recov
  let pinned := match r.refresh with
    | none => false
    | some _ => true
  if o = 0 then s.cfg.sealCfg.toNat
  else if o = 4 then low32 s.stat.sealedN
  else if o = 8 then high16 s.stat.sealedN
  else if o = 0xC then
    regOf [(0, s.job.t0.att.toNat), (8, s.job.t1.att.toNat), (16, s.job.t1.begun.toNat), (17, s.job.t0.voted.isSome.toNat),
      (18, s.job.halt.toNat), (19, s.job.t0.abase.toNat)]
  else if o = 0x10 then s.stat.voids
  else if o = 0x14 then
    regOf [(0, v.cause.toNat), (4, v.isLocal.toNat), (5, v.next.toNat), (6, v.att.toNat), (14, v.origin.toNat), (31, v.valid.toNat)]
  else if o = 0x18 then low32 v.trick
  else if o = 0x1C then high16 v.trick
  else if o = 0x20 then s.stageKib
  else if o = 0x40 then s.cfg.kcfg.toNat
  else if o = 0x44 then
    regOf [(0, (r.p != 0).toNat), (1, r.refresh.isSome.toNat), (2, pinned.toNat), (3, s.stat.gen.toNat), (4, s.stat.degraded.toNat),
      (5, s.stat.noroom.toNat), (6, s.stat.rfail.toNat), (7, s.stat.mismatch.toNat), (8, s.kpos % 32), (16, min s.stat.kskips sat16)]
  else if o = 0x48 then low32 (s.stat.rp.getD 0)
  else if o = 0x4C then regOf [(0, high16 (s.stat.rp.getD 0)), (31, s.stat.rp.isSome.toNat)]
  else if o = 0x50 then low32 s.stat.ckTrick
  else if o = 0x54 then
    regOf [(0, high16 s.stat.ckTrick), (16, s.stat.ckA.toNat), (17, s.stat.ckB.toNat), (18, r.ck.isSome.toNat), (31, s.stat.ckValid.toNat)]
  else if o = 0x58 then low32 s.stat.cursor
  else if o = 0x5C then high16 s.stat.cursor
  else if o = 0x60 then
    regOf [(0, s.stat.rstStatus.toNat), (8, r.pend.isSome.toNat), (9, s.stat.proofOk.toNat), (10, s.stat.waived.toNat),
      (11, s.stat.proofBad.toNat), (12, s.stat.rngSkew.toNat), (31, s.stat.rstValid.toNat)]
  else 0
/-- This module's rank: that of its entry; 0 for a job admitted at epoch 0 (R336); 0xFFFF otherwise. -/
def State.rankField (s : State) : Nat :=
  match s.fab.view with
  | none => if s.job.state = .idle then 0xFFFF else 0
  | some v => match v.entry? s.fab.mid with
    | none => 0xFFFF
    | some e => e.rank.toNat
def selfCode : SelfState → Nat
  | .unjoined => 0 | .active => 1 | .spare => 2 | .quarantine => 3 | .offered => 4
/-- Table 14-9, MEMBER. -/
def State.readMEMBER (s : State) (o : Nat) : Nat :=
  if o = 0 then s.cfg.mem.toNat
  else if o = 4 then s.fab.epoch.toNat
  else if o = 8 then regOf [(0, s.fab.mid.toNat), (9, selfCode s.fab.self), (12, s.rankField)]
  else if o = 0xC then
    regOf [(0, s.viewMembers.length), (10, (s.coordinator.getD 0).toNat), (19, s.vacant.toNat), (20, s.fab.overridden.toNat)]
  else if o = 0x10 then regOf [(0, s.fab.fSent), (16, s.fab.fRcvd), (31, s.fab.fEvent.toNat)]
  else 0
/-- HOSTPORT.ERR. -/
def State.hostErr (s : State) : Nat :=
  let h := s.host
  regOf [(0, h.errLocked.toNat), (1, h.errCq.toNat), (2, h.errRing.toNat), (3, h.errWr.toNat), (4, h.errQp.toNat), (5, h.errCmd.toNat)]
def PPort.err (p : PPort) : Nat := regOf [(0, p.errDown.toNat), (1, p.errLane.toNat), (2, p.errRev.toNat), (3, p.errExh.toNat)]
/-- ATTEST.NEXT.EXH. -/
def State.attExh (s : State) : Bool := s.score.nolms || decide (s.att.next ≥ leafEnd)
/-- HOSTPORT.ATTN (Table 20-5). -/
def State.attn (s : State) : Nat :=
  regOf [(0, (s.hostErr != 0).toNat), (1, ((s.fab.ports.toList.any fun p => p.err != 0) || s.fab.fEvent).toNat),
    (2, s.stat.lastVoid.valid.toNat), (3, (s.hl.ev.valid || s.stat.spotLast.valid || s.hl.rotLong).toNat),
    (4, (s.stat.stuck || s.stat.exh).toNat), (5, (s.stat.emitErr || s.stat.subErr).toNat),
    (6, (s.stat.noroom || s.stat.rfail || s.stat.mismatch).toNat), (7, s.stat.rstValid.toNat), (8, s.aon.lastValid.toNat),
    (9, (s.score.evdrop || s.score.loadDone).toNat), (10, (s.att.done || s.att.overrun).toNat), (16, s.hl.failed.toNat),
    (17, s.aon.braceAt.isSome.toNat), (18, s.aon.hot.toNat), (19, s.job.halt.toNat),
    (20, (s.fab.self == .quarantine || s.fab.self == .offered).toNat), (21, s.vacant.toNat), (22, s.stat.degraded.toNat),
    (23, s.hl.nopat.toNat), (24, s.attExh.toNat), (25, (!s.score.ok0 || !s.score.ok1 || s.score.norepair).toNat),
    (26, (s.strapDiff || s.roleStrap == 3).toNat), (27, (!s.aon.refOk).toNat)]
/-- Table 15-11. -/
def State.readHOSTPORT (s : State) (o : Nat) : Nat :=
  if o = 0 then s.cfg.hp.toNat
  else if o = 4 then s.hostErr
  else if o = 8 then regOf [(0, (s.host.qps.filter fun q => q.2.st == .ready).length), (13, (s.host.qps.filter fun q => q.2.st == .error).length)]
  else if o = 0xC then
    regOf [(0, (s.host.owner.getD 0).toNat), (12, min 256 s.host.holding.length), (31, s.host.owner.isSome.toNat)]
  else if o = 0x10 then s.attn
  else if 0x100 ≤ o ∧ o < 0x180 then
    let n := (o - 0x100) / 32
    let p := s.host.ports.get (Fin.ofNat 4 n)
    match o % 32 with
    | 0 => regOf [(0, p.up.toNat), (1, p.pmd.toNat), (2, (s.aon.latch.getLsbD 10).toNat)]
    | 4 => (s.cfg.hpIp.get (Fin.ofNat 4 n)).toNat
    | 8 => regOf [(0, min p.cnpSent sat16), (16, min p.cnpRcvd sat16)]
    | 12 => p.icrc
    | 16 => p.fec
    | 20 => p.dropped
    | 24 => low32 (Config.hostMac n).toNat
    | _ => high16 (Config.hostMac n).toNat
  else 0
/-- Table 14-9, PEERPORT. -/
def State.readPEERPORT (s : State) (o : Nat) : Nat :=
  if o = 0 then s.cfg.pp.toNat
  else if o = 4 then regOf [(0, revMin.toNat), (8, revMax.toNat), (16, (s.aon.latch.getLsbD 11).toNat)]
  else if 0x100 ≤ o ∧ o < 0x280 then
    let n := (o - 0x100) / 32
    let p := s.fab.ports.get (Fin.ofNat 12 n)
    let rs := s.fab.routes.filter fun r => r.port.val == n && r.up
    match o % 32 with
    | 0 => regOf [(0, p.up.toNat), (1, p.pmd.toNat), (3, p.direct.toNat), (4, p.spare.toNat), (8, p.retiredLane.toNat),
        (12, rs.length % 1024), (22, if p.direct then match rs with
          | [] => 0
          | r :: _ => r.rev.toNat
        else 0)]
    | 4 => regOf [(0, p.err), (16, p.dropped)]
    | 8 => p.retx
    | 12 => p.crc
    | 16 => p.fec
    | 20 => low32 (Config.peerMac n).toNat
    | 24 => high16 (Config.peerMac n).toNat
    | _ => (s.cfg.ppIp.get (Fin.ofNat 12 n)).toNat
  else 0
/-- Table 19-11, SCORE. -/
def State.readSCORE (s : State) (o : Nat) : Nat :=
  let c := s.score
  if o = 0 then
    regOf [(0, c.ok0.toNat), (1, c.ok1.toNat), (2, (!c.erases.isEmpty).toNat), (3, min 64 c.queue.length), (10, c.evdrop.toNat),
      (11, c.nolms.toNat), (12, c.norepair.toNat), (13, c.load.isSome.toNat), (14, c.loadStatus.toNat), (22, c.loadDone.toNat)]
  else if o = 4 then s.cfg.load.toNat
  else if o = 8 then s.cfg.loadLo.toNat
  else if o = 0xC then s.cfg.loadHi.toNat
  else if o = 0x10 then s.cfg.loadLen.toNat
  else if o = 0x14 then c.keygen.toNat
  else if o = 0x18 then c.patver.toNat
  else 0
/-- Table 19-11, ATTEST. -/
def State.readATTEST (s : State) (o : Nat) : Nat :=
  let a := s.att
  let tree := match a.req with
    | none => false
    | some q => q.waitTree
  if o = 0 then s.cfg.attCtl.toNat
  else if o = 4 then s.cfg.destLo.toNat
  else if o = 8 then s.cfg.destHi.toNat
  else if o = 0xC then
    regOf [(0, a.busy.toNat), (1, a.done.toNat), (2, a.overrun.toNat), (3, tree.toNat), (4, a.status.toNat)]
  else if o = 0x10 then regOf [(0, a.next % 2 ^ 31), (31, s.attExh.toNat)]
  else if o = 0x14 then a.limit % 2 ^ 31
  else if 0x20 ≤ o ∧ o < 0x40 then ((s.cfg.nonce[(o - 0x20) / 4]?).getD 0).toNat
  else if 0x40 ≤ o ∧ o < 0x7C then leNat ((pubKey.drop (o - 0x40)).take 4)
  else 0
def jobCode : JobState → Nat
  | .idle => 0 | .admitting => 1 | .running => 2 | .ending => 3 | .wiping => 4
/-- A context of the job, or the record of one that has ended. -/
def Job.anyCtx (j : Job) (c : CtxId) : Option Ctx := (j.ctx? c).orElse fun _ => (j.dead.find? fun p => p.1 == c).map Prod.snd
/-- SHARE registers of a context that does not exist hold what was written, or their reset values. -/
def Job.shareOf (j : Job) (c : Nat) : Word × Word := match j.shareRegs.find? fun p => p.1 == c with
  | none => (0x01000100, 0x0100)
  | some p => p.2
/-- CSTATE (Table 12-10). -/
def State.cstate (s : State) (c : CtxId) : Nat :=
  match s.job.ctx? c with
  | none => regOf [(0, if (s.job.anyCtx c).isSome then 7 else 0), (3, 0x1F)]
  | some x =>
    let b := s.blockCode x
    let st := match x.resid with
      | .resident => if b = 0 then 1 else 2
      | .out => if b = 0 then 3 else 4
      | .swapOut => 5
      | .swapIn => 6
    let seat := match x.seat with
      | none => 0x1F
      | some i => i.val
    regOf [(0, st), (3, seat), (8, b)]
/-- Table 12-10. -/
def State.readSCHED (s : State) (o : Nat) : Nat :=
  let l := s.job.ctxList
  if o = 0 then jobCode s.job.state
  else if o = 4 then s.schedJobid
  else if o = 8 then s.cfg.sched.toNat
  else if o = 0xC then
    regOf [(0, (l.filter fun x => x.2.resid == .resident).length), (5, l.length),
      (12, (l.filter fun x => x.2.resid == .out && s.blockCode x.2 == 0).length), (31, s.stat.stuck.toNat)]
  else if o = 0x10 then low32 s.stat.swaps
  else if o = 0x14 then high32 s.stat.swaps
  else if 0x100 ≤ o ∧ o < 0xD00 then
    let c : CtxId := Fin.ofNat 64 ((o - 0x100) / 48)
    let k := (o - 0x100) % 48
    match s.job.anyCtx c with
    | none => match k with
      | 0 => (s.job.shareOf c.val).1.toNat
      | 4 => (s.job.shareOf c.val).2.toNat
      | 8 => s.cstate c
      | _ => 0
    | some x => match k with
      | 0 => regOf [(0, x.shm.toNat), (16, x.shv.toNat)]
      | 4 => x.shc.toNat
      | 8 => s.cstate c
      | 12 => min x.cswaps sat32
      | 16 => satLo x.tile
      | 20 => satHi x.tile
      | 24 => satLo x.lane
      | 28 => satHi x.lane
      | 32 => satLo x.copy
      | 36 => satHi x.copy
      | _ => 0
  else 0
/-- Slots in use. -/
def Job.serveSlots (j : Job) : Nat :=
  (j.reqs.filterMap Req.slot ++ j.plans.flatMap fun p => p.ents.map PlanE.slot).eraseDups.length
/-- A joined trick has no plan yet (R371). -/
def State.planWait (s : State) : Bool :=
  s.serveMode != 0 && [s.stat.sealedN, s.stat.sealedN + 1].any fun t => s.joinedBy t && !(s.job.plans.any fun p => p.trick == t)
/-- Table 13-11. -/
def State.readSERVE (s : State) (o : Nat) : Nat :=
  let t := s.stat
  if o = 0 then s.cfg.serve0.toNat
  else if o = 4 then s.cfg.serve1.toNat
  else if o = 8 then
    regOf [(0, s.job.serveSlots), (12, s.job.held), (27, s.serveAttached.toNat), (28, s.planWait.toNat), (30, t.emitErr.toNat), (31, t.subErr.toNat)]
  else if o = 0x10 then low32 t.tok
  else if o = 0x14 then high32 t.tok
  else if o = 0x18 then t.endOk
  else if o = 0x1C then t.endDl
  else if o = 0x20 then t.endCan
  else if o = 0x24 then t.endAbt
  else if 0x100 ≤ o ∧ o < 0x900 then
    let q := (o - 0x100) / 16
    match o % 16 with
    | 0 => (s.cfg.sqctl.get (Fin.ofNat 128 q)).toNat
    | 4 => (s.job.ring q).tail.toNat
    | 8 => (s.job.ring q).head.toNat
    | _ => (s.job.ring q).refused.toNat
  else 0
/-- MiB of STASH data in spill regions, rounded up. -/
def Job.spillMib (j : Job) : Nat :=
  ceilDiv ((j.bufs.filter fun b => b.cls == .stash && (b.place == .spilled || b.place == .filling)).foldl (fun a b => a + j.footprint b) 0 +
    (j.tiles.map fun o => if o.live ∧ o.lies ≠ .slot ∧ o.lies ≠ .store then o.bytes else 0).sum) (2 ^ 20)
/-- Tables 06-7 and 02-7. -/
def State.readDEALER (s : State) (o : Nat) : Nat :=
  if o < 0x10 then regOf [(0, (s.hl.wsMib[o / 4]?).getD 0), (12, min 7 (s.spareCount .bank (o / 4)))]
  else if o = 0x10 then 0x3BE
  else if o = 0x14 then regOf [(0, s.job.spillMib % 2 ^ 20), (31, s.stat.exh.toNat)]
  else if o = 0x18 then low32 s.stat.plchg
  else if o = 0x1C then high16 s.stat.plchg
  else if 0x40 ≤ o ∧ o < 0x50 then ceilDiv (s.job.potUsed ((o - 0x40) / 4)) 16
  else if 0x50 ≤ o ∧ o < 0x60 then
    let n := (s.stat.potStall[(o - 0x50) / 4]?).getD 0
    regOf [(0, n), (31, (decide (n = 0x7FFFFFFF)).toNat)]
  else if 0x80 ≤ o ∧ o < 0xB0 then
    let m := s.chMap ((o - 0x80) / 4)
    regOf [(0, m.spare.toNat), (4, m.retired.toNat), (8, m.moved.toNat), (12, m.copying.toNat), (13, m.lost.toNat)]
  else 0
/-- A word of the register window; an offset that holds no register reads as zero (R2, R418, R531). -/
def State.readReg (s : State) (off : Nat) : Word :=
  let o := off % 4096
  BitVec.ofNat 32 (if off % 4 ≠ 0 then 0 else match off / 4096 with
    | 0 => readIDENT o
    | 1 => s.readSTRAP o
    | 2 => s.readPWR o
    | 3 => s.readCLK o
    | 4 => s.readTALON o
    | 5 => s.readHEALTH o
    | 6 => s.readNUMSTAT o
    | 7 => s.readSEAL o
    | 8 => s.readMEMBER o
    | 9 => s.readHOSTPORT o
    | 10 => s.readPEERPORT o
    | 11 => s.readSCORE o
    | 12 => s.readATTEST o
    | 13 => s.readSCHED o
    | 14 => s.readSERVE o
    | 15 => s.readDEALER o
    | _ => 0)

/-! ### Captured pairs, R535 and Table 20-2 -/

def capturedLO (off : Nat) : Bool :=
  [0x3000, 0x5014, 0x6000, 0x7004, 0x7018, 0x7048, 0x7050, 0x7058, 0xD010, 0xE010, 0xF018].contains off ||
    (0x6100 ≤ off && off < 0x61A0 && [0, 8, 16].contains (off % 32)) ||
    (0xD100 ≤ off && off < 0xDD00 && [16, 24, 32].contains ((off - 0xD100) % 48))
/-- A read by a MANAGE queue pair: a LO loads its latch with the HI of the same cycle, a HI takes the latch and empties it. -/
def State.readWord (s : State) (i off : Nat) : Word × State :=
  match s.qp? i with
  | none => (s.readReg off, s)
  | some q =>
    if capturedLO off then
      (s.readReg off, s.setQp i { q with latches := alSet q.latches (off + 4) (s.readReg (off + 4)) })
    else if off ≥ 4 && capturedLO (off - 4) then
      match alGet q.latches off with
      | none => (s.readReg off, s)
      | some v => (v, s.setQp i { q with latches := alDel q.latches off })
    else (s.readReg off, s)
/-- Words read in ascending address, one at a time (R418). -/
def State.readWords (s : State) (i off : Nat) : Nat → List Word × State
  | 0 => ([], s)
  | n + 1 =>
    let (w, s1) := s.readWord i off
    let (l, s2) := State.readWords s1 i (off + 4) n
    (w :: l, s2)

/-! ### Writes, R6 to R8 -/

/-- An RL field takes the value while no job is admitted; otherwise the write is refused (R7, R533). -/
def State.rlWrite (s : State) (f : Cfg → Cfg) : State :=
  if s.job.state = .idle then { s with cfg := f s.cfg } else { s with host := { s.host with errLocked := true } }
def State.modStat (s : State) (f : Stat → Stat) : State := { s with stat := f s.stat }
def State.writePWR (s : State) (o : Nat) (v : Word) : State :=
  if o = 0x10 then { s with aon := { s.aon with lastValid := s.aon.lastValid && !v.getLsbD 31 } }
  else if o = 0x18 then
    { s with aon := { s.aon with
      vmin := if v.getLsbD 0 then s.aon.vin else s.aon.vmin
      peak := if v.getLsbD 1 then s.aon.pin else s.aon.peak } }
  else if o = 0x1C then if v.toNat % 65536 = 0xA55A then s.moduleReset 6 else s
  else s
def State.writeHEALTH (s : State) (o : Nat) (v : Word) : State :=
  if o = 4 then s.rlWrite fun c => { c with esc := v &&& 0x0FFFFFFF }
  else if o = 8 then s.rlWrite fun c => { c with rot := v }
  else if o = 0xC then { s with hl := { s.hl with rotLong := s.hl.rotLong && !v.getLsbD 4 } }
  else if o = 0x10 then { s with hl := { s.hl with ev := { s.hl.ev with valid := s.hl.ev.valid && !v.getLsbD 31 } } }
  else if o = 0x40 then s.rlWrite fun c => { c with spot := v &&& 0xFFFF }
  else if o = 0x70 then s.modStat fun t => { t with spotLast := { t.spotLast with valid := t.spotLast.valid && !v.getLsbD 31 } }
  else s
def State.writeSEAL (s : State) (o : Nat) (v : Word) : State :=
  if o = 0 then
    let s := { s with cfg := { s.cfg with sealCfg := (s.cfg.sealCfg &&& 0xFF) ||| (v &&& 0x100) } }
    s.rlWrite fun c => { c with sealCfg := (c.sealCfg &&& 0x100) ||| (v &&& 0xFF) }
  else if o = 0x14 then s.modStat fun t => { t with lastVoid := { t.lastVoid with valid := t.lastVoid.valid && !v.getLsbD 31 } }
  else if o = 0x40 then s.rlWrite fun c => { c with kcfg := v &&& 0x1F }
  else if o = 0x44 then s.modStat fun t => { t with
    noroom := t.noroom && !v.getLsbD 5
    rfail := t.rfail && !v.getLsbD 6
    mismatch := t.mismatch && !v.getLsbD 7 }
  else if o = 0x60 then s.modStat fun t => { t with rstValid := t.rstValid && !v.getLsbD 31 }
  else s
def State.writeMEMBER (s : State) (o : Nat) (v : Word) : State :=
  if o = 0 then s.rlWrite fun c => { c with mem := v }
  else if o = 0x10 then { s with fab := { s.fab with fEvent := s.fab.fEvent && !v.getLsbD 31 } }
  else s
def State.writeHOSTPORT (s : State) (o : Nat) (v : Word) : State :=
  let h := s.host
  if o = 0 then s.rlWrite fun c => { c with hp := v &&& 0x3FF }
  else if o = 4 then { s with host := { h with
    errLocked := h.errLocked && !v.getLsbD 0
    errCq := h.errCq && !v.getLsbD 1
    errRing := h.errRing && !v.getLsbD 2
    errWr := h.errWr && !v.getLsbD 3
    errQp := h.errQp && !v.getLsbD 4
    errCmd := h.errCmd && !v.getLsbD 5 } }
  else if 0x100 ≤ o ∧ o < 0x180 ∧ o % 32 = 4 then
    s.rlWrite fun c => { c with hpIp := c.hpIp.set ((o - 0x100) / 32 % 4) v (Nat.mod_lt _ (by decide)) }
  else s
def State.writePEERPORT (s : State) (o : Nat) (v : Word) : State :=
  if o = 0 then s.rlWrite fun c => { c with pp := v }
  else if 0x100 ≤ o ∧ o < 0x280 ∧ o % 32 = 4 then
    s.setPPort (Fin.ofNat 12 ((o - 0x100) / 32)) fun p => { p with
      errDown := p.errDown && !v.getLsbD 0
      errLane := p.errLane && !v.getLsbD 1
      errRev := p.errRev && !v.getLsbD 2
      errExh := p.errExh && !v.getLsbD 3 }
  else if 0x100 ≤ o ∧ o < 0x280 ∧ o % 32 = 28 then
    s.rlWrite fun c => { c with ppIp := c.ppIp.set ((o - 0x100) / 32 % 12) v (Nat.mod_lt _ (by decide)) }
  else s
/-- SCORE.LOAD, whose GO starts a load while no job is admitted (R519). -/
def State.writeLoad (s : State) (v : Word) : State :=
  let s1 := s.rlWrite fun c => { c with load := v &&& 0x3FFFF }
  if s.job.state = .idle ∧ v.getLsbD 31 then s1.loadGo (v.toNat % 65536) (v.toNat / 65536 % 4) else s1
def State.writeSCORE (s : State) (o : Nat) (v : Word) : State :=
  if o = 0 then { s with score := { s.score with
    evdrop := s.score.evdrop && !v.getLsbD 10
    loadDone := s.score.loadDone && !v.getLsbD 22 } }
  else if o = 4 then s.writeLoad v
  else if o = 8 then s.rlWrite fun c => { c with loadLo := v }
  else if o = 0xC then s.rlWrite fun c => { c with loadHi := v }
  else if o = 0x10 then s.rlWrite fun c => { c with loadLen := v }
  else s
/-- ATTEST.CTL, whose GO starts a request (R525). -/
def State.writeAttCtl (s : State) (v : Word) : State :=
  let s := { s with cfg := { s.cfg with attCtl := v &&& 0xFFFF } }
  if v.getLsbD 31 then s.attGo (v.toNat % 65536) else s
def State.writeATTEST (s : State) (o : Nat) (v : Word) : State :=
  if o = 0 then s.writeAttCtl v
  else if o = 4 then { s with cfg := { s.cfg with destLo := v } }
  else if o = 8 then { s with cfg := { s.cfg with destHi := v } }
  else if o = 0xC then { s with att := { s.att with
    done := s.att.done && !v.getLsbD 1
    overrun := s.att.overrun && !v.getLsbD 2 } }
  else if 0x20 ≤ o ∧ o < 0x40 then
    { s with cfg := { s.cfg with nonce := s.cfg.nonce.set ((o - 0x20) / 4 % 8) v (Nat.mod_lt _ (by decide)) } }
  else s
/-- A share of a context: in its own record, or in the register of one that does not exist (R350, Table 12-10). -/
def State.writeShare (s : State) (c : CtxId) (k : Nat) (v : Word) : State :=
  let put (x : Ctx) : Ctx := if k = 0 then { x with shm := v.setWidth 16, shv := (v >>> 16).setWidth 16 } else { x with shc := v.setWidth 16 }
  match s.job.ctx? c with
  | some _ => { s with job := s.job.modCtx c put }
  | none =>
    if (s.job.anyCtx c).isSome then
      { s with job := { s.job with dead := s.job.dead.map fun p => if p.1 = c then (p.1, put p.2) else p } }
    else
      let o := s.job.shareOf c.val
      let n := if k = 0 then (v, o.2) else (o.1, v &&& 0xFFFF)
      { s with job := { s.job with shareRegs := alSet s.job.shareRegs c.val n } }
def State.writeSCHED (s : State) (o : Nat) (v : Word) : State :=
  if o = 8 then { s with cfg := { s.cfg with sched := v &&& 0x1FFFFF } }
  else if o = 0xC then s.modStat fun t => { t with stuck := t.stuck && !v.getLsbD 31 }
  else if 0x100 ≤ o ∧ o < 0xD00 ∧ (o - 0x100) % 48 < 8 then
    s.writeShare (Fin.ofNat 64 ((o - 0x100) / 48)) ((o - 0x100) % 48) v
  else s
/-- SERVE.SQTAIL (R363). -/
def State.writeTail (s : State) (q : Fin 128) (v : Word) : State :=
  match execSqtailWrite q v s with
  | .next t => t
  | _ => s
def State.writeSERVE (s : State) (o : Nat) (v : Word) : State :=
  if o = 0 then s.rlWrite fun c => { c with serve0 := v }
  else if o = 4 then s.rlWrite fun c => { c with serve1 := v &&& 0xFFFFFF }
  else if o = 8 then s.modStat fun t => { t with
    emitErr := t.emitErr && !v.getLsbD 30
    subErr := t.subErr && !v.getLsbD 31 }
  else if 0x100 ≤ o ∧ o < 0x900 ∧ o % 16 = 0 then
    s.rlWrite fun c => { c with sqctl := c.sqctl.set ((o - 0x100) / 16 % 128) (v &&& 0x1F) (Nat.mod_lt _ (by decide)) }
  else if 0x100 ≤ o ∧ o < 0x900 ∧ o % 16 = 4 then s.writeTail (Fin.ofNat 128 ((o - 0x100) / 16)) v
  else s
def State.writeDEALER (s : State) (o : Nat) (v : Word) : State :=
  if o = 0x14 then s.modStat fun t => { t with exh := t.exh && !v.getLsbD 31 } else s
/-- A write of one word: each field under its own access code (R532). -/
def State.writeReg (s : State) (off : Nat) (v : Word) : State :=
  let o := off % 4096
  if off % 4 ≠ 0 then s
  else match off / 4096 with
    | 2 => s.writePWR o v
    | 5 => s.writeHEALTH o v
    | 7 => s.writeSEAL o v
    | 8 => s.writeMEMBER o v
    | 9 => s.writeHOSTPORT o v
    | 10 => s.writePEERPORT o v
    | 11 => s.writeSCORE o v
    | 12 => s.writeATTEST o v
    | 13 => s.writeSCHED o v
    | 14 => s.writeSERVE o v
    | 15 => s.writeDEALER o v
    | _ => s
/-- The words of one access, in ascending address; none is applied once the queue pair has left READY (Table 20-4). -/
def State.writeWords (s : State) (i off : Nat) : List Word → State
  | [] => s
  | w :: r => if s.qpReady i then State.writeWords (s.writeReg off w) i (off + 4) r else s
def wordsOf : Nat → List Byte → List Word
  | 0, _ => []
  | n + 1, l => BitVec.ofNat 32 (fieldAt l 0 4) :: wordsOf n (l.drop 4)

/-! ### RDMA requests of a host, Table 15-5 -/

/-- The request is acknowledged, unless a module reset has ended its queue pair. -/
def State.ackIf (s : State) (qp : BitVec 12) : State := if s.qpReady qp.toNat then s.send (.ack qp) else s
/-- A register write by a queue pair: one of another role, or misaligned, is a remote access error. -/
def State.winWrite (s : State) (qp : BitVec 12) (off : Nat) (data : List Byte) : State :=
  match s.arrive qp with
  | none => s.send (.nak qp 0)
  | some (q, s) =>
    if q.role ≠ 2 || off % 4 ≠ 0 || data.length % 4 ≠ 0 || off + data.length > 2 ^ 24 then s.send (.nak qp 1)
    else ((s.writeWords qp.toNat off (wordsOf (data.length / 4) data)).ackIf qp).pump
def State.winRead (s : State) (qp : BitVec 12) (off len : Nat) : State :=
  match s.arrive qp with
  | none => s.send (.nak qp 0)
  | some (q, s) =>
    if q.role ≠ 2 || off % 4 ≠ 0 || len % 4 ≠ 0 || off + len > 2 ^ 24 then s.send (.nak qp 1)
    else
      let (l, s) := s.readWords qp.toNat off (len / 4)
      s.send (.readReply qp l)
def State.regWrite1 (s : State) (qp : BitVec 12) (off : Nat) (v : Word) : State := s.winWrite qp off (leBytes v.toNat 4)

def execRdmaWriteReceived (qp : BitVec 12) (rkey : Word) (vaddr : Dword) (data : List Byte) (s : State) :
    Host.Outcome State Fault Refusal :=
  let off := vaddr.toNat
  if rkey = 1 then .next (s.winWrite qp off data)
  else match s.arrive qp with
    | none => .next (s.send (.nak qp 0))
    | some (q, s) =>
      let host := q.role == 1 || q.role == 3
      if rkey = 2 ∧ host ∧ off + data.length ≤ 33554432 then
        let s := { s with job := { s.job with subArea := memWriteN 0 s.job.subArea off data } }
        .next (s.send (.ack qp))
      else if rkey = 3 ∧ host ∧ s.job.state = .running ∧ off + data.length ≤ s.job.inpages * 4096 then
        let s := { s with job := { s.job with input := memWriteN 0 s.job.input off data } }
        .next (s.send (.ack qp))
      else .next (s.send (.nak qp 1))
def execRdmaReadReceived (qp : BitVec 12) (rkey : Word) (vaddr : Dword) (len : Nat) (s : State) : Host.Outcome State Fault Refusal :=
  if rkey = 1 then .next (s.winRead qp vaddr.toNat len)
  else match s.arrive qp with
    | none => .next (s.send (.nak qp 0))
    | some (_, s) => .next (s.send (.nak qp 1))

def execLoRegisterRead (qp : BitVec 12) (offset : BitVec 24) (s : State) : Host.Outcome State Fault Refusal :=
  .next (s.winRead qp offset.toNat 4)
def execHiRegisterRead (qp : BitVec 12) (offset : BitVec 24) (s : State) : Host.Outcome State Fault Refusal :=
  .next (s.winRead qp offset.toNat 4)
def execRegisterWrite (qp : BitVec 12) (offset : BitVec 24) (value : Word) (s : State) : Host.Outcome State Fault Refusal :=
  .next (s.regWrite1 qp offset.toNat value)
/-- The key of R498 is written. -/
def execMresetWrite (qp : BitVec 12) (s : State) : Host.Outcome State Fault Refusal := .next (s.regWrite1 qp 0x201C 0xA55A)
def execVminclr (qp : BitVec 12) (s : State) : Host.Outcome State Fault Refusal := .next (s.regWrite1 qp 0x2018 1)
def execPeakclr (qp : BitVec 12) (s : State) : Host.Outcome State Fault Refusal := .next (s.regWrite1 qp 0x2018 2)
/-- SCORE.LOAD with GO, a region and a kind. -/
def loadWord (region : BitVec 16) (kind : Nat) : Word := BitVec.ofNat 32 (2 ^ 31 + kind * 65536 + region.toNat)
def execScoreLoadPatternSet (qp : BitVec 12) (region : BitVec 16) (s : State) : Host.Outcome State Fault Refusal :=
  .next (s.regWrite1 qp 0xB004 (loadWord region 1))
def execScoreLoadKeySet (qp : BitVec 12) (region : BitVec 16) (s : State) : Host.Outcome State Fault Refusal :=
  .next (s.regWrite1 qp 0xB004 (loadWord region 2))
def execScoreLoadReservedKind (qp : BitVec 12) (region : BitVec 16) (kind3 : Bool) (s : State) : Host.Outcome State Fault Refusal :=
  .next (s.regWrite1 qp 0xB004 (loadWord region (if kind3 then 3 else 0)))
def execAttestGo (qp : BitVec 12) (region : BitVec 16) (s : State) : Host.Outcome State Fault Refusal :=
  .next (s.regWrite1 qp 0xC000 (loadWord region 0))

end Sys2Proof.Machine
end

