-- ==== Sys2Proof/Machine/Sideband.lean ====
section
/-! DEFINITION. The SMBus sideband (R503) and the JTAG port (R549). -/

namespace Sys2Proof.Machine

/-! ### SMBus -/

/-- One byte of the packet error code: CRC-8 with the polynomial x^8 + x^2 + x + 1 of the SMBus standard (log entry 33). -/
def pecByte (crc b : Byte) : Byte :=
  (List.range 8).foldl (fun (c : Byte) _ => if c.getLsbD 7 then (c <<< 1) ^^^ 0x07 else c <<< 1) (crc ^^^ b)
/-- The PEC of a Read Word: over the address with its write bit, the command code, the address with its read bit, the word. -/
def smbPec (code : Byte) (w : BitVec 16) : Byte :=
  [0xB8, code, 0xB9, w.setWidth 8, (w >>> 8).setWidth 8].foldl pecByte (0 : Byte)
/-- The answer to a Read Word of a defined command code; the sideband is served from boot step 2 onward (Table 21-7). -/
def State.smbAnswer (s : State) (code : Byte) (w : BitVec 16) : State :=
  if s.powered then s.send (.smbWord w (smbPec code w)) else s.send .smbNack

/-- 0x01: PWR.VIN.VIN. -/
def execSmbReadVin (s : State) : Host.Outcome State Fault Refusal := .next (s.smbAnswer 1 s.aon.vin)
/-- 0x02: PWR.PIN.PIN. -/
def execSmbReadPin (s : State) : Host.Outcome State Fault Refusal := .next (s.smbAnswer 2 s.aon.pin)
/-- 0x03 to 0x06: the hottest junction of a compute die. -/
def execSmbReadDieTemp (die : Fin 4) (s : State) : Host.Outcome State Fault Refusal :=
  .next (s.smbAnswer (3 + BitVec.ofNat 8 die.val) (s.aon.temps[die].setWidth 16))
/-- 0x07: the hub junction. -/
def execSmbReadHubTemp (s : State) : Host.Outcome State Fault Refusal := .next (s.smbAnswer 7 (s.aon.tempHub.setWidth 16))
/-- 0x08: the hottest LPDDR6 package. -/
def execSmbReadDramTemp (s : State) : Host.Outcome State Fault Refusal := .next (s.smbAnswer 8 (s.aon.tempDram.setWidth 16))
/-- 0x09: PWR.STATUS [4:0]. -/
def execSmbReadStatus (s : State) : Host.Outcome State Fault Refusal := .next (s.smbAnswer 9 (BitVec.ofNat 16 (s.pwrStatus % 32)))
/-- Every write, and every read of an undefined command code, is answered with NACK. -/
def execSmbUndefinedAccess (isWrite : Bool) (code : Byte) (s : State) : Host.Outcome State Fault Refusal :=
  if !isWrite && decide (1 ≤ code.toNat ∧ code.toNat ≤ 9) then .next s
  else .next (s.send .smbNack)

/-! ### JTAG -/

/-- IDCODE: the hub die's major revision, 0x4B31, the manufacturer field. The hub is die 4 of the identity (Table 19-2). -/
def idcode : Word :=
  let stepping := (dieRecord 4).toNat / 2 ^ 63
  BitVec.ofNat 32 (stepping / 16 % 16 * 2 ^ 28 + 0x4B31 * 2 ^ 12 + Config.jtagMaker.toNat)
/-- An instruction that drives the pins. -/
def Tap.drives (i : Tap) : Bool := match i with
  | .extest | .extestPulse | .extestTrain => true
  | .bypass | .idcode | .sample | .preload => false
/-- EXTEST and its 1149.6 forms take effect only while PWR.STATUS.BOOTHOLD is set; they stop at the release (Table 21-7). -/
def State.padsDriven (s : State) : Bool := s.aon.jtag.drives && s.aon.hold
/-- The register between TDI and TDO: bypass 0, identity 1, boundary scan 2. -/
def State.tapPath (s : State) : Nat := match s.aon.jtag with
  | .bypass => 0
  | .idcode => 1
  | .sample | .preload => 2
  | .extest | .extestPulse | .extestTrain => if s.aon.hold then 2 else 0
/-- An instruction is loaded into the port, which is served from boot step 2 onward. -/
def State.jtagLoad (s : State) (i : Tap) : State :=
  if !s.powered then s
  else
    let s : State := { s with aon := { s.aon with jtag := i } }
    s.send (.jtag s.tapPath (if s.tapPath = 1 then idcode else 0))

def execJtagBypass (s : State) : Host.Outcome State Fault Refusal := .next (s.jtagLoad .bypass)
def execJtagIdcode (s : State) : Host.Outcome State Fault Refusal := .next (s.jtagLoad .idcode)
def execJtagSample (s : State) : Host.Outcome State Fault Refusal := .next (s.jtagLoad .sample)
def execJtagPreload (s : State) : Host.Outcome State Fault Refusal := .next (s.jtagLoad .preload)
def execJtagExtest (s : State) : Host.Outcome State Fault Refusal := .next (s.jtagLoad .extest)
def execJtagExtestPulse (s : State) : Host.Outcome State Fault Refusal := .next (s.jtagLoad .extestPulse)
def execJtagExtestTrain (s : State) : Host.Outcome State Fault Refusal := .next (s.jtagLoad .extestTrain)

end Sys2Proof.Machine
end

