-- ==== Sys2Proof/Machine/Tick.lean ====
section
/-! DEFINITION. What one count of the local counter does when no command waits (R35, R36, R59, R351, R473; log entry 2). -/

namespace Sys2Proof.Machine

/-- The count of a die's Pot stall: every 64 counts during which the oldest reservation lacks space there (Table 02-7). -/
def State.stallDie (s : State) (d : Nat) : Bool :=
  s.job.potQ.any fun p => s.job.ctxList.any fun x => x.2.entries.any fun q => q.uid == p.1 &&
    (match q.op with
      | .sts t => match s.job.buf? t.bp with
        | none => false
        | some b => decide (s.job.potUsed d + (potNeed ((List.range t.n).map fun i => t.p0 + i) (potUnitsNeeded b)).getD d 0
            > potDieBytes)
      | _ => false)

/-- One count: the counter, residency times, Pot stall time. A stopped oscillator counts nothing (R35). -/
def State.tick (s : State) : State :=
  if !s.aon.oscOn then s
  else
    let j := s.job.mapCtxs fun _ x =>
      if x.resid == .resident then
        { x with rvt := x.rvt + BitVec.ofNat 64 (65536 / max (shareVal x.shm) (max (shareVal x.shv) (shareVal x.shc))) }
      else x
    let bump (v : Vector Nat 4) : Vector Nat 4 := Vector.ofFn fun d => if s.stallDie d then v.get d + 1 else v.get d
    let f := bump s.stat.potFrac
    { s with
      aon := { s.aon with counter := s.aon.counter + 1 }
      job := j
      stat := { s.stat with
        potFrac := f.map fun n => n % 64
        potStall := Vector.ofFn fun d => if f.get d ≥ 64 then min (s.stat.potStall.get d + 1) 0x7FFFFFFF else s.stat.potStall.get d } }

end Sys2Proof.Machine
end

