-- ==== Sys2Proof/Machine/Dispatch.lean ====
section
/-! DEFINITION. One arm per command: a direct call of its meaning. -/

namespace Sys2Proof.Machine

def exec (i : Instr) (s : State) : Host.Outcome State Fault Refusal :=
  match i with
  | .alu c f => Sys2Proof.Machine.execAlu c f s
  | .alui c f => Sys2Proof.Machine.execAlui c f s
  | .li c f => Sys2Proof.Machine.execLi c f s
  | .cmp c f => Sys2Proof.Machine.execCmp c f s
  | .plog c f => Sys2Proof.Machine.execPlog c f s
  | .br c f => Sys2Proof.Machine.execBr c f s
  | .jal c f => Sys2Proof.Machine.execJal c f s
  | .sld c f => Sys2Proof.Machine.execSld c f s
  | .sst c f => Sys2Proof.Machine.execSst c f s
  | .exit c f => Sys2Proof.Machine.execExit c f s
  | .exitComplete c => Sys2Proof.Machine.execExitComplete c s
  | .decl c f => Sys2Proof.Machine.execDecl c f s
  | .spillr c f => Sys2Proof.Machine.execSpillr c f s
  | .rel c f => Sys2Proof.Machine.execRel c f s
  | .shareExport c f => Sys2Proof.Machine.execShareExport c f s
  | .shareBind c f => Sys2Proof.Machine.execShareBind c f s
  | .copy c f => Sys2Proof.Machine.execCopy c f s
  | .gather c f => Sys2Proof.Machine.execGather c f s
  | .scatter c f => Sys2Proof.Machine.execScatter c f s
  | .fill c f => Sys2Proof.Machine.execFill c f s
  | .wait c f => Sys2Proof.Machine.execWait c f s
  | .waitSatisfied c => Sys2Proof.Machine.execWaitSatisfied c s
  | .evtRead c f => Sys2Proof.Machine.execEvtRead c f s
  | .evtSet c f => Sys2Proof.Machine.execEvtSet c f s
  | .evtAdd c f => Sys2Proof.Machine.execEvtAdd c f s
  | .evtBind c f => Sys2Proof.Machine.execEvtBind c f s
  | .evtLocal c f => Sys2Proof.Machine.execEvtLocal c f s
  | .fence c f => Sys2Proof.Machine.execFence c f s
  | .fenceDrained c => Sys2Proof.Machine.execFenceDrained c s
  | .tbegin c f => Sys2Proof.Machine.execTbegin c f s
  | .stalledTbeginResume c => Sys2Proof.Machine.execStalledTbeginResume c s
  | .tseal c f => Sys2Proof.Machine.execTseal c f s
  | .queryTag c f => Sys2Proof.Machine.execQueryTag c f s
  | .queryLastjoin c f => Sys2Proof.Machine.execQueryLastjoin c f s
  | .queryFlags c f => Sys2Proof.Machine.execQueryFlags c f s
  | .queryUpdstat c f => Sys2Proof.Machine.execQueryUpdstat c f s
  | .queryFeature c f => Sys2Proof.Machine.execQueryFeature c f s
  | .queryMembers c f => Sys2Proof.Machine.execQueryMembers c f s
  | .queryNumshare c f => Sys2Proof.Machine.execQueryNumshare c f s
  | .sealedQueryResume c => Sys2Proof.Machine.execSealedQueryResume c s
  | .mma c f => Sys2Proof.Machine.execMma c f s
  | .vew c f => Sys2Proof.Machine.execVew c f s
  | .vsel c f => Sys2Proof.Machine.execVsel c f s
  | .vcmp c f => Sys2Proof.Machine.execVcmp c f s
  | .vlut c f => Sys2Proof.Machine.execVlut c f s
  | .vred c f => Sys2Proof.Machine.execVred c f s
  | .fold c f => Sys2Proof.Machine.execFold c f s
  | .loss c f => Sys2Proof.Machine.execLoss c f s
  | .finish c f => Sys2Proof.Machine.execFinish c f s
  | .grad c f => Sys2Proof.Machine.execGrad c f s
  | .pass1 c f => Sys2Proof.Machine.execPass1 c f s
  | .pass2 c f => Sys2Proof.Machine.execPass2 c f s
  | .rebuild c f => Sys2Proof.Machine.execRebuild c f s
  | .ared c f => Sys2Proof.Machine.execAred c f s
  | .rscat c f => Sys2Proof.Machine.execRscat c f s
  | .agath c f => Sys2Proof.Machine.execAgath c f s
  | .bcast c f => Sys2Proof.Machine.execBcast c f s
  | .send c f => Sys2Proof.Machine.execSend c f s
  | .recv c f => Sys2Proof.Machine.execRecv c f s
  | .engineWorkGrant die kind => Sys2Proof.Machine.execEngineWorkGrant die kind s
  | .outputTileDrain c err => Sys2Proof.Machine.execOutputTileDrain c err s
  | .epilogue die => Sys2Proof.Machine.execEpilogue die s
  | .accumulatorSlotReload c buf r col => Sys2Proof.Machine.execAccumulatorSlotReload c buf r col s
  | .spotDuplicateCompare die mismatch => Sys2Proof.Machine.execSpotDuplicateCompare die mismatch s
  | .thirdCopyVerdict die v => Sys2Proof.Machine.execThirdCopyVerdict die v s
  | .instructionComplete c kind => Sys2Proof.Machine.execInstructionComplete c kind s
  | .potReservationGrant => Sys2Proof.Machine.execPotReservationGrant s
  | .roomRequestGrant => Sys2Proof.Machine.execRoomRequestGrant s
  | .roomRequestFail => Sys2Proof.Machine.execRoomRequestFail s
  | .stashSpillComplete buf => Sys2Proof.Machine.execStashSpillComplete buf s
  | .stashFillComplete buf => Sys2Proof.Machine.execStashFillComplete buf s
  | .relocationComplete buf => Sys2Proof.Machine.execRelocationComplete buf s
  | .hostStagingGrant => Sys2Proof.Machine.execHostStagingGrant s
  | .seatError seat check => Sys2Proof.Machine.execSeatError seat check s
  | .moduleVoteOk trick => Sys2Proof.Machine.execModuleVoteOk trick s
  | .sealVoteReceived h verdict commit cause origin => Sys2Proof.Machine.execSealVoteReceived h verdict commit cause origin s
  | .sealDecisionReceived h verdict commit cause origin => Sys2Proof.Machine.execSealDecisionReceived h verdict commit cause origin s
  | .swapOutComplete c => Sys2Proof.Machine.execSwapOutComplete c s
  | .swapInComplete c => Sys2Proof.Machine.execSwapInComplete c s
  | .schedStuckTimeout => Sys2Proof.Machine.execSchedStuckTimeout s
  | .admitJob h iregion ilen ioff seed jobid epoch inpages trick cursor => Sys2Proof.Machine.execAdmitJob h iregion ilen ioff seed jobid epoch inpages trick cursor s
  | .admissionImageReceived image => Sys2Proof.Machine.execAdmissionImageReceived image s
  | .endJob h => Sys2Proof.Machine.execEndJob h s
  | .jobEndDrained => Sys2Proof.Machine.execJobEndDrained s
  | .wipeComplete => Sys2Proof.Machine.execWipeComplete s
  | .resume h => Sys2Proof.Machine.execResume h s
  | .own h => Sys2Proof.Machine.execOwn h s
  | .create h entry shm shv shc arg => Sys2Proof.Machine.execCreate h entry shm shv shc arg s
  | .kill h ctx => Sys2Proof.Machine.execKill h ctx s
  | .regreg h region path access rkey vaddr length qpn addr => Sys2Proof.Machine.execRegreg h region path access rkey vaddr length qpn addr s
  | .regdel h region => Sys2Proof.Machine.execRegdel h region s
  | .inpub h offset length => Sys2Proof.Machine.execInpub h offset length s
  | .cqbind h log2n region offset => Sys2Proof.Machine.execCqbind h log2n region offset s
  | .sqbind h ring => Sys2Proof.Machine.execSqbind h ring s
  | .joinview h region len offset => Sys2Proof.Machine.execJoinview h region len offset s
  | .override h region len offset => Sys2Proof.Machine.execOverride h region len offset s
  | .viewchg h action mid rank spareMid => Sys2Proof.Machine.execViewchg h action mid rank spareMid s
  | .ckptcfg h p f ta tb aoff boff => Sys2Proof.Machine.execCkptcfg h p f ta tb aoff boff s
  | .ckptnow h => Sys2Proof.Machine.execCkptnow h s
  | .restore h region offset length => Sys2Proof.Machine.execRestore h region offset length s
  | .cmReq port role version rsvZero mtu peer => Sys2Proof.Machine.execCmReq port role version rsvZero mtu peer s
  | .cmRtu qp => Sys2Proof.Machine.execCmRtu qp s
  | .cmDreq qp => Sys2Proof.Machine.execCmDreq qp s
  | .cmDrep qp => Sys2Proof.Machine.execCmDrep qp s
  | .connectingTimeout qp => Sys2Proof.Machine.execConnectingTimeout qp s
  | .qpErrorTimeout qp => Sys2Proof.Machine.execQpErrorTimeout qp s
  | .qpRetryExhausted qp => Sys2Proof.Machine.execQpRetryExhausted qp s
  | .controlSendReceived qp bytes => Sys2Proof.Machine.execControlSendReceived qp bytes s
  | .rdmaWriteReceived qp rkey vaddr data => Sys2Proof.Machine.execRdmaWriteReceived qp rkey vaddr data s
  | .rdmaReadReceived qp rkey vaddr len => Sys2Proof.Machine.execRdmaReadReceived qp rkey vaddr len s
  | .rdmaWriteAck qp => Sys2Proof.Machine.execRdmaWriteAck qp s
  | .cePacketReceived port qp => Sys2Proof.Machine.execCePacketReceived port qp s
  | .cnpReceived port qp => Sys2Proof.Machine.execCnpReceived port qp s
  | .rateIncreaseTimer qp => Sys2Proof.Machine.execRateIncreaseTimer qp s
  | .storeConnectReply region accepted => Sys2Proof.Machine.execStoreConnectReply region accepted s
  | .storeConnectTimeout region => Sys2Proof.Machine.execStoreConnectTimeout region s
  | .storeReconnectTimer region => Sys2Proof.Machine.execStoreReconnectTimer region s
  | .sqtailWrite ring value => Sys2Proof.Machine.execSqtailWrite ring value s
  | .submitEntryTaken ring => Sys2Proof.Machine.execSubmitEntryTaken ring s
  | .cancelEntryTaken ring => Sys2Proof.Machine.execCancelEntryTaken ring s
  | .planFreeze => Sys2Proof.Machine.execPlanFreeze s
  | .requestDeadlineExpiry ring reqid => Sys2Proof.Machine.execRequestDeadlineExpiry ring reqid s
  | .dataFrameReceived h m => Sys2Proof.Machine.execDataFrameReceived h m s
  | .stateFrameReceived h m => Sys2Proof.Machine.execStateFrameReceived h m s
  | .refreshDoneReceived h point refused => Sys2Proof.Machine.execRefreshDoneReceived h point refused s
  | .refreshCommitReceived h point => Sys2Proof.Machine.execRefreshCommitReceived h point s
  | .shadowCopyComplete => Sys2Proof.Machine.execShadowCopyComplete s
  | .checkpointWriteAck => Sys2Proof.Machine.execCheckpointWriteAck s
  | .substituteRebuildComplete => Sys2Proof.Machine.execSubstituteRebuildComplete s
  | .streamStripeRepair buf stripe reply => Sys2Proof.Machine.execStreamStripeRepair buf stripe reply s
  | .linkKeepalive port peer => Sys2Proof.Machine.execLinkKeepalive port peer s
  | .linkAck h => Sys2Proof.Machine.execLinkAck h s
  | .linkNak h expected => Sys2Proof.Machine.execLinkNak h expected s
  | .retransmitTimeout port peer => Sys2Proof.Machine.execRetransmitTimeout port peer s
  | .hello port sysid peer peerPort peerMac revMin revMax => Sys2Proof.Machine.execHello port sysid peer peerPort peerMac revMin revMax s
  | .helloTimer => Sys2Proof.Machine.execHelloTimer s
  | .lanecap port reply => Sys2Proof.Machine.execLanecap port reply s
  | .fenced h epoch refusedSeq => Sys2Proof.Machine.execFenced h epoch refusedSeq s
  | .routeDownTimeout port peer => Sys2Proof.Machine.execRouteDownTimeout port peer s
  | .peerSuspectTimeout peer => Sys2Proof.Machine.execPeerSuspectTimeout peer s
  | .laneFailure port lane => Sys2Proof.Machine.execLaneFailure port lane s
  | .laneFecWindow port lane symbolErrors => Sys2Proof.Machine.execLaneFecWindow port lane symbolErrors s
  | .spareLaneTrained port => Sys2Proof.Machine.execSpareLaneTrained port s
  | .portLinkUp isHost port pmd => Sys2Proof.Machine.execPortLinkUp isHost port pmd s
  | .portLinkDown isHost port => Sys2Proof.Machine.execPortLinkDown isHost port s
  | .prepare h newEpoch ballot => Sys2Proof.Machine.execPrepare h newEpoch ballot s
  | .promise h newEpoch ballot accepted => Sys2Proof.Machine.execPromise h newEpoch ballot accepted s
  | .accept h newEpoch ballot view => Sys2Proof.Machine.execAccept h newEpoch ballot view s
  | .accepted h newEpoch ballot => Sys2Proof.Machine.execAccepted h newEpoch ballot s
  | .commit h view => Sys2Proof.Machine.execCommit h view s
  | .suspect h mid => Sys2Proof.Machine.execSuspect h mid s
  | .viewreq h => Sys2Proof.Machine.execViewreq h s
  | .view h v => Sys2Proof.Machine.execView h v s
  | .recon h decision attempt trick => Sys2Proof.Machine.execRecon h decision attempt trick s
  | .quorumTimeout => Sys2Proof.Machine.execQuorumTimeout s
  | .ballotRetryTimer => Sys2Proof.Machine.execBallotRetryTimer s
  | .quarantineSelfTestComplete failed => Sys2Proof.Machine.execQuarantineSelfTestComplete failed s
  | .dramUncorrectableError hit => Sys2Proof.Machine.execDramUncorrectableError hit s
  | .dramCorrectableError ch => Sys2Proof.Machine.execDramCorrectableError ch s
  | .spareChannelCopyComplete p => Sys2Proof.Machine.execSpareChannelCopyComplete p s
  | .workingStoreCorrectedError bank => Sys2Proof.Machine.execWorkingStoreCorrectedError bank s
  | .wsue bank lost => Sys2Proof.Machine.execWsue bank lost s
  | .ringLinkLoss link retryFailed => Sys2Proof.Machine.execRingLinkLoss link retryFailed s
  | .hubLinkLoss link => Sys2Proof.Machine.execHubLinkLoss link s
  | .escalationWindowExpiry => Sys2Proof.Machine.execEscalationWindowExpiry s
  | .escalationStepSettled domain => Sys2Proof.Machine.execEscalationStepSettled domain s
  | .rotationDue kind die => Sys2Proof.Machine.execRotationDue kind die s
  | .spareTestComplete u pass => Sys2Proof.Machine.execSpareTestComplete u pass s
  | .rotationTargetTestComplete u pass => Sys2Proof.Machine.execRotationTargetTestComplete u pass s
  | .longRotationTimeout kind die => Sys2Proof.Machine.execLongRotationTimeout kind die s
  | .selfTestComplete failed => Sys2Proof.Machine.execSelfTestComplete failed s
  | .wearTimer => Sys2Proof.Machine.execWearTimer s
  | .pageProgramComplete ok => Sys2Proof.Machine.execPageProgramComplete ok s
  | .recordReadbackComplete matched => Sys2Proof.Machine.execRecordReadbackComplete matched s
  | .sectorEraseComplete ok => Sys2Proof.Machine.execSectorEraseComplete ok s
  | .startFilter => Sys2Proof.Machine.execStartFilter s
  | .brace => Sys2Proof.Machine.execBrace s
  | .braceEnd => Sys2Proof.Machine.execBraceEnd s
  | .resetLevel => Sys2Proof.Machine.execResetLevel s
  | .overvoltage millivolts => Sys2Proof.Machine.execOvervoltage millivolts s
  | .overvoltageRelease => Sys2Proof.Machine.execOvervoltageRelease s
  | .junctionHot => Sys2Proof.Machine.execJunctionHot s
  | .overtemperature => Sys2Proof.Machine.execOvertemperature s
  | .overtemperatureRelease => Sys2Proof.Machine.execOvertemperatureRelease s
  | .aonOscillatorStop => Sys2Proof.Machine.execAonOscillatorStop s
  | .domainFault d lostLock => Sys2Proof.Machine.execDomainFault d lostLock s
  | .serdesReferenceChange isPresent => Sys2Proof.Machine.execSerdesReferenceChange isPresent s
  | .resetNAssert => Sys2Proof.Machine.execResetNAssert s
  | .resetNRelease => Sys2Proof.Machine.execResetNRelease s
  | .bootScoresheetRead sfdp0 sfdp1 => Sys2Proof.Machine.execBootScoresheetRead sfdp0 sfdp1 s
  | .bootRepairLoad => Sys2Proof.Machine.execBootRepairLoad s
  | .bootholdRelease => Sys2Proof.Machine.execBootholdRelease s
  | .bootDomainWave => Sys2Proof.Machine.execBootDomainWave s
  | .pllLock p => Sys2Proof.Machine.execPllLock p s
  | .dramTrainingComplete => Sys2Proof.Machine.execDramTrainingComplete s
  | .bootReady => Sys2Proof.Machine.execBootReady s
  | .mresetWrite qp => Sys2Proof.Machine.execMresetWrite qp s
  | .vminclr qp => Sys2Proof.Machine.execVminclr qp s
  | .peakclr qp => Sys2Proof.Machine.execPeakclr qp s
  | .scoreLoadPatternSet qp region => Sys2Proof.Machine.execScoreLoadPatternSet qp region s
  | .scoreLoadKeySet qp region => Sys2Proof.Machine.execScoreLoadKeySet qp region s
  | .scoreLoadReservedKind qp region kind3 => Sys2Proof.Machine.execScoreLoadReservedKind qp region kind3 s
  | .scoreLoadDataReceived data => Sys2Proof.Machine.execScoreLoadDataReceived data s
  | .attestGo qp region => Sys2Proof.Machine.execAttestGo qp region s
  | .lowerTreeGenerated => Sys2Proof.Machine.execLowerTreeGenerated s
  | .attestReportWritten => Sys2Proof.Machine.execAttestReportWritten s
  | .loRegisterRead qp offset => Sys2Proof.Machine.execLoRegisterRead qp offset s
  | .hiRegisterRead qp offset => Sys2Proof.Machine.execHiRegisterRead qp offset s
  | .registerWrite qp offset value => Sys2Proof.Machine.execRegisterWrite qp offset value s
  | .smbReadVin => Sys2Proof.Machine.execSmbReadVin s
  | .smbReadPin => Sys2Proof.Machine.execSmbReadPin s
  | .smbReadDieTemp die => Sys2Proof.Machine.execSmbReadDieTemp die s
  | .smbReadHubTemp => Sys2Proof.Machine.execSmbReadHubTemp s
  | .smbReadDramTemp => Sys2Proof.Machine.execSmbReadDramTemp s
  | .smbReadStatus => Sys2Proof.Machine.execSmbReadStatus s
  | .smbUndefinedAccess isWrite code => Sys2Proof.Machine.execSmbUndefinedAccess isWrite code s
  | .jtagBypass => Sys2Proof.Machine.execJtagBypass s
  | .jtagIdcode => Sys2Proof.Machine.execJtagIdcode s
  | .jtagSample => Sys2Proof.Machine.execJtagSample s
  | .jtagPreload => Sys2Proof.Machine.execJtagPreload s
  | .jtagExtest => Sys2Proof.Machine.execJtagExtest s
  | .jtagExtestPulse => Sys2Proof.Machine.execJtagExtestPulse s
  | .jtagExtestTrain => Sys2Proof.Machine.execJtagExtestTrain s
  | .powerOn millivolts => Sys2Proof.Machine.execPowerOn millivolts s
  | .recoveryFilterStart => Sys2Proof.Machine.execRecoveryFilterStart s
  | .hotCleared => Sys2Proof.Machine.execHotCleared s
  | .strapContactChange contacts => Sys2Proof.Machine.execStrapContactChange contacts s
  | .seatCorrectedError seat refetch => Sys2Proof.Machine.execSeatCorrectedError seat refetch s
  | .ringOrHubFrameRetryExhausted trick => Sys2Proof.Machine.execRingOrHubFrameRetryExhausted trick s
  | .viewRecordReceived record => Sys2Proof.Machine.execViewRecordReceived record s
  | .restoreRecordReceived record => Sys2Proof.Machine.execRestoreRecordReceived record s
  | .forwardedViewchgReceived h action mid rank spareMid => Sys2Proof.Machine.execForwardedViewchgReceived h action mid rank spareMid s
  | .keepaliveReceived h => Sys2Proof.Machine.execKeepaliveReceived h s
  | .peerFrameDropped port why => Sys2Proof.Machine.execPeerFrameDropped port why s
  | .arpFrameReceived isHost port isReply addr mac => Sys2Proof.Machine.execArpFrameReceived isHost port isReply addr mac s
  | .icmpEchoReceived isHost port dst payload => Sys2Proof.Machine.execIcmpEchoReceived isHost port dst payload s
  | .pfcFrameReceived isHost port priority pause => Sys2Proof.Machine.execPfcFrameReceived isHost port priority pause s
  | .unsupportedHostFrame frame => Sys2Proof.Machine.execUnsupportedHostFrame frame s
  | .refusedRocePacket port qp => Sys2Proof.Machine.execRefusedRocePacket port qp s
  | .localAckTimeout qp => Sys2Proof.Machine.execLocalAckTimeout qp s
  | .roceNakReceived qp sequence => Sys2Proof.Machine.execRoceNakReceived qp sequence s

end Sys2Proof.Machine
end

