-- ==== Sys2Proof/Safety.lean ====
section
/-! DEFINITION. What a safe run is, and the terms the statements are written in: a context about to take a word at its
seat, and the invariants of the machine. -/

namespace Sys2Proof

/-- The step answers a next state (R540 alone gives the block no behaviour, log entry 19). -/
def Safe (s : Machine.State) : Prop := ∃ t, Machine.step s = .next t

open Machine

/-- Context c, with state x, is at its seat and takes a word: it is resident, not stalled, faulted or halted, its trick's
boundary is behind it, its PC lies in the code (R249), the word is legal (R4), its guard holds (R274) and no register it
uses awaits a summary (R158). -/
structure Takes (s : State) (c : CtxId) (x : Ctx) (g : Guard) (legal : Bool) (uses : List SReg) : Prop where
  here : s.job.ctx? c = some x
  free : x.canIssue = true
  begun : s.waitsBoundary x = false
  code : x.arch.pc.toNat < s.job.code.length
  legal : legal = true
  guard : x.arch.guard g = true
  ready : uses.any x.pendingReg = false

/-- s with the architectural state of context c replaced, and nothing else. -/
def Machine.State.withArch (s : State) (c : CtxId) (x : Ctx) (a : Arch) : State :=
  { s with job := s.job.setCtx c (some { x with arch := a }) }

end Sys2Proof
end

