-- ==== Sys2Proof/WellFormed.lean ====
section
/-! DEFINITION. Which commands are well formed: a seat word with no reserved bit, encoding or field set (R4, R275), a
host command with no byte set that Table 15-7 does not name (R425), and host operands within the ranges of that table.
An ill-formed command is still a command: its meaning is the fault or completion the spec gives it. -/

namespace Sys2Proof

def Instr.wf (i : Instr) : Bool :=
  match i with
  | .alu _ f => f.legal | .alui _ f => f.legal | .li _ f => f.legal | .cmp _ f => f.legal | .plog _ f => f.legal
  | .br _ f => f.legal | .jal _ f => f.legal | .sld _ f => f.legal | .sst _ f => f.legal | .exit _ f => f.legal
  | .decl _ f => f.legal | .spillr _ f => f.legal | .rel _ f => f.legal | .shareExport _ f => f.legal
  | .shareBind _ f => f.legal | .copy _ f => f.legal | .gather _ f => f.legal | .scatter _ f => f.legal
  | .fill _ f => f.legal | .wait _ f => f.legal | .evtRead _ f => f.legal | .evtSet _ f => f.legal
  | .evtAdd _ f => f.legal | .evtBind _ f => f.legal | .evtLocal _ f => f.legal | .fence _ f => f.legal
  | .tbegin _ f => f.legal | .tseal _ f => f.legal
  | .queryTag _ f => f.legal 0 | .queryLastjoin _ f => f.legal 1 | .queryFlags _ f => f.legal 2
  | .queryUpdstat _ f => f.legal 3 | .queryFeature _ f => f.legal 4 | .queryMembers _ f => f.legal 5
  | .queryNumshare _ f => f.legal 6
  | .mma _ f => f.legal | .vew _ f => f.legalEw | .vsel _ _ => true | .vcmp _ f => f.legalCmp | .vlut _ f => f.legal
  | .vred _ f => f.legal | .fold _ f => f.legal 0 | .loss _ f => f.legal 1 | .finish _ f => f.legal 2
  | .grad _ f => f.legal 3 | .pass1 _ f => f.legal | .pass2 _ f => f.legal | .rebuild _ f => f.legal
  | .ared _ f => f.legal 0 | .rscat _ f => f.legal 1 | .agath _ f => f.legal 2 | .bcast _ f => f.legal 3
  | .send _ f => f.legal 4 | .recv _ f => f.legal 5
  | .admitJob h _ _ _ _ _ _ inpages _ _ => !h.rsvSet && h.flags == 0 && inpages != 0 && decide (inpages.toNat ≤ 251133952)
  | .endJob h => !h.rsvSet && decide (h.flags.toNat ≤ 1)
  | .resume h => !h.rsvSet && h.flags == 0 | .own h => !h.rsvSet && h.flags == 0
  | .create h _ _ _ _ _ => !h.rsvSet && h.flags == 0 | .kill h c => !h.rsvSet && h.flags == 0 && decide (c.toNat < 64)
  | .regreg h r path access _ _ _ _ _ =>
    !h.rsvSet && decide (h.flags.toNat ≤ 1) && r != 0 && decide (path.toNat ≤ 1) && decide (access.toNat ≤ 3)
  | .regdel h r => !h.rsvSet && h.flags == 0 && r != 0 | .inpub h _ _ => !h.rsvSet && h.flags == 0
  | .cqbind h n r o => !h.rsvSet && h.flags == 0 && decide (4 ≤ n.toNat ∧ n.toNat ≤ 16) && r != 0 && decide (o.toNat % 64 = 0)
  | .sqbind h r => !h.rsvSet && h.flags == 0 && decide (r.toNat < 128)
  | .joinview h _ _ _ => !h.rsvSet && h.flags == 0 | .override h _ _ _ => !h.rsvSet && h.flags == 0
  | .viewchg h a _ _ _ => !h.rsvSet && h.flags == 0 && decide (1 ≤ a.toNat ∧ a.toNat ≤ 3)
  | .ckptcfg h p f _ _ _ _ => !h.rsvSet && h.flags == 0 && p != 0 && decide (f.toNat % p.toNat = 0)
  | .ckptnow h => !h.rsvSet && h.flags == 0 | .restore h _ _ _ => !h.rsvSet && h.flags == 0
  | _ => true

end Sys2Proof
end

