-- ==== Sys2Proof/Certificates/Slice0/Obligations.lean ====
section
/-! DEFINITION. The statements for the provers. Each docstring names the rule of spec/ it formalises, or says that it is
derived. The vocabulary stands first: values computed from the spec's tables independently of the meanings. -/

namespace Sys2Proof.Claim

open Machine

/-! ### Scalar values -/

/-- Table 10-3 over the integers: the value of a function on two words, modulo 2^64 (R277). -/
def aluValue (f : Nat) (a b : Dword) : Int :=
  match f with
  | 0 => a.toInt + b.toInt
  | 1 => a.toInt - b.toInt
  | 2 => a.toInt * b.toInt
  | 3 => a.toNat * b.toNat / 2 ^ 64
  | 4 => (a &&& b).toNat
  | 5 => (a ||| b).toNat
  | 6 => (a ^^^ b).toNat
  | 7 => a.toNat * 2 ^ (b.toNat % 64)
  | 8 => a.toNat / 2 ^ (b.toNat % 64)
  | 9 => a.toInt / 2 ^ (b.toNat % 64)
  | 10 => min a.toInt b.toInt
  | 11 => max a.toInt b.toInt
  | 12 => min a.toNat b.toNat
  | _ => max a.toNat b.toNat

/-- The architectural state after a scalar result: PC past the word, one register written (a write to s0 is discarded,
R251), everything else as it was. -/
def RegWritten (a b : Arch) (sd : SReg) (v : Dword) : Prop :=
  b.pc = a.pc + 8 ∧ (∀ r, b.reg r = if r = sd ∧ r ≠ 0 then v else a.reg r) ∧
    b.preds = a.preds ∧ b.ctrs = a.ctrs ∧ b.hnds = a.hnds ∧ b.cur = a.cur

/-- The same for one predicate (p0 stays true, R251). -/
def PredWritten (a b : Arch) (pd : PReg) (v : Bool) : Prop :=
  b.pc = a.pc + 8 ∧ (∀ p, b.pred p = if p = pd ∧ p ≠ 0 then v else a.pred p) ∧
    b.regs = a.regs ∧ b.ctrs = a.ctrs ∧ b.hnds = a.hnds ∧ b.cur = a.cur

/-- Exec of i from s answers s with context c's architectural state, and nothing else, changed to one that meets P. -/
def Gives (i : Instr) (s : State) (c : CtxId) (x : Ctx) (P : Arch → Prop) : Prop :=
  ∃ a, exec i s = .next (s.withArch c x a) ∧ P a

/-- Exec of i from s answers the state fin makes of an e that meets P. fin is what follows every change of its kind: the
Table's decisions (settle, R351 to R355) or those after a look at every engine queue (pump, R262). -/
def Ends (i : Instr) (s : State) (fin : State → State) (P : State → Prop) : Prop := ∃ e, exec i s = .next (fin e) ∧ P e

/-- Exec of i from s answers a next state that meets P. -/
def Next (i : Instr) (s : State) (P : State → Prop) : Prop := Ends i s id P

/-- s with only context c replaced. -/
def withCtx (s : State) (c : CtxId) (y : Option Ctx) : State := { s with job := s.job.setCtx c y }

/-- Table of R278 on two words. -/
def cmpHolds (f : Nat) (a b : Dword) : Prop :=
  let fa := ofBits (BitVec.ofNat 32 a.toNat)
  let fb := ofBits (BitVec.ofNat 32 b.toNat)
  match f with
  | 0 => a = b
  | 1 => a ≠ b
  | 2 => a.toInt < b.toInt
  | 3 => a.toNat < b.toNat
  | 4 => a.toInt ≤ b.toInt
  | 5 => a.toNat ≤ b.toNat
  | 6 => fpEq fa fb = true
  | 7 => fpLt fa fb = true
  | 8 => fpLe fa fb = true
  | _ => fa = .nan ∨ fb = .nan

/-- The byte address of a scalar access (R280). -/
def scalarAddr (x : Ctx) (sa : SReg) (imm : Word) : Nat := (x.arch.reg sa + BitVec.ofInt 64 imm.toInt).toNat

/-- A scalar access of n bytes at a through handle bh is one R280 allows: a valid handle of a RESIDENT or STASH buffer b, in
place, that no unfinished instruction of the context still writes (or, for a store, uses); the address a multiple of the
size, within the buffer's bytes. -/
structure ScalarOk (s : State) (x : Ctx) (bh : HReg) (k : Hnd) (b : Buffer) (a n : Nat) (store : Bool) : Prop where
  live : s.job.live (x.arch.hnd bh) = some (k, b)
  cls : b.cls = .resident ∨ b.cls = .stash
  write : store = true → k.write = true
  inside : a + n ≤ b.bytes
  aligned : a % n = 0
  here : b.usable = true
  quiet : x.busyOn b store = false

/-- What a scalar access leaves: context c with a new architectural state, buffers that differ only in bytes and in the
module's own order of accesses, and nothing else changed. -/
def ScalarAccessed (s t : State) (c : CtxId) (x : Ctx) (a : Arch) : Prop :=
  t = { s with job := { s.job with ctxs := (s.job.setCtx c (some { x with arch := a })).ctxs, bufs := t.job.bufs, nextUid := s.job.nextUid + 1 } } ∧
    t.job.bufs.map (fun b => { b with mem := [], lastAccess := 0 }) = s.job.bufs.map (fun b => { b with mem := [], lastAccess := 0 })

/-- What joining trick t leaves of the context: the number in sd, the tag, and the snapshot of R222 with the PC after the
TBEGIN. -/
def Joins (x y : Ctx) (t : Nat) (sd : SReg) : Prop :=
  RegWritten x.arch y.arch sd (BitVec.ofNat 64 t) ∧ y.tag = some t ∧ y.last = some t ∧
    y.joined = x.joined ++ [⟨t, false, y.arch, []⟩] ∧ y.stall = none ∧
    y = { x with arch := y.arch, tag := some t, last := some t, stall := none, joined := y.joined }

/-- An engine instruction is taken and passes its checks at issue: its queue has room (R262), the buffers it reads at issue are
in place and no longer written, the context has trick t open (R219), its completion counter is LOCAL if it counts (R253), and
the instruction's own checks, iss, find no fault and give op. -/
structure EngineReady (s : State) (c : CtxId) (x : Ctx) (k : EngKind) (g : Guard) (legal : Bool) (uses : List SReg) (f : Fin3)
    (early : List Nat) (iss : Issue) (op : EOp) (t : Nat) : Prop where
  takes : Takes s c x g legal (uses ++ f.sum.toList)
  room : (x.queue k).length < 64
  early : s.job.earlyOk x early = true
  tag : x.tag = some t
  counter : f.cnt = true → (x.arch.ctr f.ec).bound = none
  fine : iss.bad = none
  op : iss.op = some op

/-- The instruction is entered last in its queue with its operands, trick, PC and completion fields, none of its work begun;
the context goes on to the next word; no register, counter, handle or flag of it changes, nor any buffer's bytes, nor another
context. -/
def Issues (i : Instr) (s : State) (c : CtxId) (x : Ctx) (k : EngKind) (word : Dword) (f : Fin3) (op : EOp) (t : Nat) : Prop :=
  Ends i s State.pump fun e => ∃ y q, e.job.ctx? c = some y ∧ y.queue k = x.queue k ++ [q] ∧
    (∀ l, l ≠ k → y.queue l = x.queue l) ∧
    q.op = op ∧ q.trick = t ∧ q.pc = x.arch.pc ∧ q.insn = word ∧ q.ec = (if f.cnt then some f.ec else none) ∧
    (f.pub = false → q.pub = none) ∧ q.sum = f.sum ∧ q.begun = false ∧ q.settled = false ∧ q.flags = 0 ∧
    y.arch = x.arch.next ∧ y.tag = x.tag ∧ y.joined = x.joined ∧
    e.job.bufs.map Buffer.mem = s.job.bufs.map Buffer.mem ∧ (∀ d, d ≠ c → e.job.ctx? d = s.job.ctx? d)

/-- The context, guard, word and legality (R4) of an instruction word of Tables 10-2 to 10-13 and 11-2 to 11-15. -/
def seatWord : Instr → Option (CtxId × Guard × Dword × Bool)
  | .alu c f => some (c, f.g, f.word, f.legal)
  | .alui c f => some (c, f.g, f.word, f.legal)
  | .li c f => some (c, f.g, f.word, f.legal)
  | .cmp c f => some (c, f.g, f.word, f.legal)
  | .plog c f => some (c, f.g, f.word, f.legal)
  | .br c f => some (c, f.g, f.word, f.legal)
  | .jal c f => some (c, f.g, f.word, f.legal)
  | .sld c f => some (c, f.g, f.word, f.legal)
  | .sst c f => some (c, f.g, f.word, f.legal)
  | .exit c f => some (c, f.g, (f.word 0x0A), f.legal)
  | .decl c f => some (c, f.g, f.word, f.legal)
  | .spillr c f => some (c, f.g, f.word, f.legal)
  | .rel c f => some (c, f.g, f.word, f.legal)
  | .shareExport c f => some (c, f.g, (f.word 0), f.legal)
  | .shareBind c f => some (c, f.g, (f.word 1), f.legal)
  | .copy c f => some (c, f.g, f.word, f.legal)
  | .gather c f => some (c, f.g, (f.word 0x15), f.legal)
  | .scatter c f => some (c, f.g, (f.word 0x16), f.legal)
  | .fill c f => some (c, f.g, f.word, f.legal)
  | .wait c f => some (c, f.g, f.word, f.legal)
  | .evtRead c f => some (c, f.g, (f.word 0), f.legal)
  | .evtSet c f => some (c, f.g, (f.word 1), f.legal)
  | .evtAdd c f => some (c, f.g, (f.word 2), f.legal)
  | .evtBind c f => some (c, f.g, (f.word 3), f.legal)
  | .evtLocal c f => some (c, f.g, (f.word 4), f.legal)
  | .fence c f => some (c, f.g, f.word, f.legal)
  | .tbegin c f => some (c, f.g, f.word, f.legal)
  | .tseal c f => some (c, f.g, (f.word 0x1C), f.legal)
  | .queryTag c f => some (c, f.g, (f.word 0), (f.legal 0))
  | .queryLastjoin c f => some (c, f.g, (f.word 1), (f.legal 1))
  | .queryFlags c f => some (c, f.g, (f.word 2), (f.legal 2))
  | .queryUpdstat c f => some (c, f.g, (f.word 3), (f.legal 3))
  | .queryFeature c f => some (c, f.g, (f.word 4), (f.legal 4))
  | .queryMembers c f => some (c, f.g, (f.word 5), (f.legal 5))
  | .queryNumshare c f => some (c, f.g, (f.word 6), (f.legal 6))
  | .mma c f => some (c, f.g, f.word, f.legal)
  | .vew c f => some (c, f.g, (f.word 0x30), f.legalEw)
  | .vsel c f => some (c, f.g, f.word, true)
  | .vcmp c f => some (c, f.g, (f.word 0x32), f.legalCmp)
  | .vlut c f => some (c, f.g, f.word, f.legal)
  | .vred c f => some (c, f.g, f.word, f.legal)
  | .fold c f => some (c, f.g, (f.word 0), (f.legal 0))
  | .loss c f => some (c, f.g, (f.word 1), (f.legal 1))
  | .finish c f => some (c, f.g, (f.word 2), (f.legal 2))
  | .grad c f => some (c, f.g, (f.word 3), (f.legal 3))
  | .pass1 c f => some (c, f.g, (f.word 0), f.legal)
  | .pass2 c f => some (c, f.g, (f.word 1), f.legal)
  | .rebuild c f => some (c, f.g, (f.word 2), f.legal)
  | .ared c f => some (c, f.g, (f.word 0), (f.legal 0))
  | .rscat c f => some (c, f.g, (f.word 1), (f.legal 1))
  | .agath c f => some (c, f.g, (f.word 2), (f.legal 2))
  | .bcast c f => some (c, f.g, (f.word 3), (f.legal 3))
  | .send c f => some (c, f.g, (f.word 4), (f.legal 4))
  | .recv c f => some (c, f.g, (f.word 5), (f.legal 5))
  | _ => none

/-- The words whose checks at issue are made together with those of R4, so that the greatest code is reported (R12, R302). -/
def checkedTogether : Instr → Bool
  | .sld _ _ | .sst _ _ | .rel _ _ | .wait _ _ | .evtBind _ _ | .decl _ _ | .spillr _ _ | .shareExport _ _ | .shareBind _ _ | .copy _ _ | .gather _ _ | .scatter _ _ | .fill _ _ | .mma _ _
  | .vew _ _ | .vsel _ _ | .vcmp _ _ | .vlut _ _ | .vred _ _ | .fold _ _ | .loss _ _ | .finish _ _ | .grad _ _ | .pass1 _ _
  | .pass2 _ _ | .rebuild _ _ | .ared _ _ | .rscat _ _ | .agath _ _ | .bcast _ _ | .send _ _ | .recv _ _ => true
  | _ => false

/-- A frame is the next one expected on its route: its SYSID and VER match, the route is up, and its SEQ is the one awaited
(R390, R393, R408). -/
structure InOrder (s : State) (h : FrameHdr) : Prop where
  sysid : h.sysid = s.cfgSysid
  route : ∃ r, s.route? h.port (midOf h.src) = some r ∧ r.up = true ∧ h.ver = r.rev ∧ h.seq = r.rxSeq

/-- The state once such a frame has been taken: its ACK applied, the next SEQ awaited, an ACK sent. -/
def taken (s : State) (h : FrameHdr) : State :=
  let m := midOf h.src
  let s := s.withdraw m
  ((((s.modRoute h.port m fun r => { r with lastRx := s.aon.counter }).ackUpTo h.port m h.ack).modRoute h.port m fun r =>
    { r with rxSeq := r.rxSeq + 1 }).sendAck h.port m)

/-- A DATA, SEAL or STATE frame is taken: in order, of the current job and epoch, at a module that is in the view (R390, R402, Table
14-7). -/
structure JobFrame (s : State) (h : FrameHdr) : Prop where
  inOrder : InOrder s h
  job : h.jobid = s.job.jobid
  live : s.job.state ≠ .idle
  epoch : h.epoch = s.fab.epoch
  self : s.fab.self ≠ .quarantine ∧ s.fab.self ≠ .offered

/-- Exec of i from s posts the completion of h with opcode, status and payload on a state that meets P, and fin follows. -/
def Completes (i : Instr) (s : State) (fin : State → State) (h : HostCmd) (opc status : Byte) (payload : List Byte)
    (P : State → Prop) : Prop := ∃ e, exec i s = .next (fin (e.complete h opc status payload)) ∧ P e

/-- The host commands: command, opcode, the flags it may carry, and the operand bytes of Table 15-7 as offset, size and value. -/
def hostCmd : Instr → Option (HostCmd × Byte × Byte × Operands)
  | .admitJob h iregion ilen ioff seed jobid epoch inpages trick cursor => some (h, 0x01, 0, [(16, 2, iregion.toNat), (20, 4, ilen.toNat),
      (24, 8, ioff.toNat), (32, 8, seed.toNat), (40, 4, jobid.toNat), (44, 4, epoch.toNat), (48, 4, inpages.toNat), (52, 6, trick.toNat),
      (58, 6, cursor.toNat)])
  | .endJob h => some (h, 0x02, 1, [])
  | .resume h => some (h, 0x03, 0, [])
  | .own h => some (h, 0x04, 0, [])
  | .create h entry shm shv shc arg => some (h, 0x10, 0, [(16, 1, entry.toNat), (18, 2, shm.toNat), (20, 2, shv.toNat), (22, 2, shc.toNat),
      (24, 8, arg.toNat)])
  | .kill h ctx => some (h, 0x11, 0, [(16, 1, ctx.toNat)])
  | .regreg h region path access rkey vaddr length qpn addr => some (h, 0x20, 1, [(16, 2, region.toNat), (18, 1, path.toNat),
      (19, 1, access.toNat), (20, 4, rkey.toNat), (24, 8, vaddr.toNat), (32, 8, length.toNat), (40, 4, qpn.toNat), (48, 16, addr.toNat)])
  | .regdel h region => some (h, 0x21, 0, [(16, 2, region.toNat)])
  | .inpub h offset length => some (h, 0x22, 0, [(24, 8, offset.toNat), (32, 8, length.toNat)])
  | .cqbind h log2n region offset => some (h, 0x23, 0, [(16, 1, log2n.toNat), (18, 2, region.toNat), (24, 8, offset.toNat)])
  | .sqbind h ring => some (h, 0x24, 0, [(16, 1, ring.toNat)])
  | .joinview h region len offset => some (h, 0x30, 0, [(16, 2, region.toNat), (20, 4, len.toNat), (24, 8, offset.toNat)])
  | .override h region len offset => some (h, 0x31, 0, [(16, 2, region.toNat), (20, 4, len.toNat), (24, 8, offset.toNat)])
  | .viewchg h action mid rank spareMid => some (h, 0x32, 0, [(16, 1, action.toNat), (18, 2, mid.toNat), (20, 2, rank.toNat),
      (22, 2, spareMid.toNat)])
  | .ckptcfg h p f ta tb aoff boff => some (h, 0x40, 0, [(16, 2, p.toNat), (20, 4, f.toNat), (24, 2, ta.toNat), (26, 2, tb.toNat),
      (32, 8, aoff.toNat), (40, 8, boff.toNat)])
  | .ckptnow h => some (h, 0x41, 0, [])
  | .restore h region offset length => some (h, 0x42, 0, [(16, 2, region.toNat), (24, 8, offset.toNat), (32, 8, length.toNat)])
  | _ => none

/-- It is the turn of host command i (R426). -/
def Turn (s : State) (i : Instr) : Prop := ∃ h opc mask ops, hostCmd i = some (h, opc, mask, ops) ∧ s.behind h opc ops = false

/-- It is its turn, and it carries no reserved byte and no flag but those Table 15-7 gives it (R425). -/
def CleanCmd (s : State) (i : Instr) : Prop := Turn s i ∧
  ∃ h opc mask ops, hostCmd i = some (h, opc, mask, ops) ∧ h.rsvSet = false ∧ h.flags &&& ~~~mask = 0

/-- t differs from s in the host attachment and the output stream alone. -/
def HostChange (s t : State) : Prop := t = { s with host := t.host, outbox := t.outbox, heldTx := t.heldTx }

/-- From s to t the messages of l were sent, in order and with the headers of Tables 15-1 and 14-9; those for a port whose partner has
paused their priority wait (R386, R412). -/
def Outputs (s t : State) (l : List Out) : Prop :=
  t.outbox = s.outbox ++ (l.filter fun o => !s.pausedTo o).map s.stamp ∧ t.heldTx = s.heldTx ++ (l.filter s.pausedTo).map s.stamp

/-- A message is among those sent in t, or waits while its port is paused. -/
def Sends (s t : State) (o : Out) : Prop := s.stamp o ∈ if s.pausedTo o then t.heldTx else t.outbox

/-- The shard a checkpoint record holds (Table 16-5). -/
def recordShard (b : List Byte) : Shard :=
  let data := (b.drop 4096).take (fieldAt b 80 8)
  ⟨fieldAt b 16 6, fieldAt b 24 6, BitVec.ofNat 32 (fieldAt b 12 4), fieldAt b 64 8, fieldAt b 72 4, data.take (fieldAt b 72 4),
    (data.drop (roundUp (fieldAt b 72 4) 4096)).take (fieldAt b 64 8)⟩

/-- A checkpoint record passes every check of R458 on this member: its form, both checksums, the member's rank, the job's size,
seed and level, and the room for its Kitty area. -/
structure RestoreGood (s : State) (b : List Byte) : Prop where
  run : s.job.state = .running
  first : s.job.recov.issuedT = false ∧ s.job.recov.restored = false
  magic : fieldAt b 0 4 = 0x31435A4B ∧ fieldAt b 4 2 = 1
  header : (crc32c (b.take 4092)).toNat = fieldAt b 4092 4
  data : (crc32c ((b.drop 4096).take (fieldAt b 80 8))).toNat = fieldAt b 88 4
  reserved : ckReserved b = true
  member : fieldAt b 48 2 = s.myRank ∧ fieldAt b 50 2 = s.jobN ∧ fieldAt b 40 8 = s.job.seed.toNat
  level : fieldAt b 6 2 = s.job.feature.toNat
  trick : fieldAt b 16 6 ≠ 2 ^ 48 - 1
  whole : 4096 + fieldAt b 80 8 ≤ b.length
  sizes : fieldAt b 80 8 = roundUp (fieldAt b 72 4) 4096 + fieldAt b 64 8
  room : s.job.dramUsed + (if s.job.recov.room = 0 then s.kittyNeed (recordShard b) else 0) ≤ jobDram

/-- A SUBMIT entry passes every check of R365 on its ring (Table 13-1). -/
structure SubmitGood (s : State) (q : Fin 128) (e : List Byte) : Prop where
  kind : fieldAt e 0 1 = 1
  reserved : fieldAt e 2 2 = 0 ∧ fieldAt e 35 1 = 0 ∧ fieldAt e 38 2 = 0
  nlog2 : 4 ≤ fieldAt e 1 1 ∧ fieldAt e 1 1 ≤ 24
  prompt : fieldAt e 16 8 % 4 = 0 ∧ fieldAt e 16 8 + 4 * fieldAt e 24 4 ≤ s.job.inpages * 4096
  lengths : 1 ≤ fieldAt e 24 4 ∧ 1 ≤ fieldAt e 28 4 ∧ fieldAt e 24 4 ≤ 1048575 ∧ fieldAt e 28 4 ≤ 1048575 ∧
    fieldAt e 24 4 + fieldAt e 28 4 ≤ 1048576
  fresh : ∀ r ∈ s.job.reqs, r.ring = q → r.reqid = BitVec.ofNat 64 (fieldAt e 8 8) → r.state = .ended
  ring : fieldAt e 40 8 % 16 = 0
  region : ∃ r, s.region? (fieldAt e 36 2) = some r ∧ r.write = true ∧ fieldAt e 40 8 + 16 * 2 ^ fieldAt e 1 1 ≤ r.length

/-- A LINK frame of an up route r: its SYSID is the module's and its VER the route's (R390, R408). -/
structure OnRoute (s : State) (h : FrameHdr) (r : Route) : Prop where
  sysid : h.sysid = s.cfgSysid
  route : s.route? h.port (midOf h.src) = some r
  up : r.up = true
  ver : h.ver = r.rev

/-- The state once such a frame has been heard: it may end a suspicion (Table 14-7), counts as a keepalive, and its ACK is
applied. -/
def heard (s : State) (h : FrameHdr) : State :=
  ((s.withdraw (midOf h.src)).modRoute h.port (midOf h.src) fun r => { r with lastRx := s.aon.counter }).ackUpTo h.port (midOf h.src) h.ack

/-- The tricks of the job whose DATA and SEAL frames route r has not had acknowledged, ascending (R395). -/
def lostTricks (s : State) (r : Route) : List Nat :=
  sortBy (fun a b => decide (a < b)) ((r.window.filter fun f => (f.cls == classDATA || f.cls == classSEAL) &&
    f.jobid == s.job.jobid).map TxFrame.trick).eraseDups

/-- Exec of i from s takes route r down: its window is emptied, the tricks of its unacknowledged frames are voided with cause 3, and
the refreshes whose parity it carried are refused. -/
def TakesDown (i : Instr) (s : State) (r : Route) : Prop :=
  ∃ e : State, exec i s = .next (((r.window.filterMap TxFrame.parityPoint).eraseDups.foldl (fun s p => s.refuseRefresh p none)
      (e.voteEach 3 (lostTricks s r))).pump) ∧
    (∃ r', e.route? r.port r.peer = some r' ∧ r'.up = false ∧ r'.window = [] ∧ r'.downSince = s.aon.counter) ∧
    e.job = s.job ∧ Outputs s e []

/-- t differs from s in the fabric and the output stream alone. -/
def FabChange (s t : State) : Prop := t = { s with fab := t.fab, outbox := t.outbox, heldTx := t.heldTx }

/-- A LINK frame from port p to a MAC address and member: SEQ, TRICK, ATTEMPT and JOBID zero, priority and VLAN those of
PEERPORT.CFG. -/
def linkOut (s : State) (p : Fin 12) (mac : BitVec 48) (m : BitVec 9) (ver : Byte) (ack : Word) (payload : List Byte) : Out :=
  .frame mac (s.cfg.pp.extractLsb' 0 3) (s.cfg.pp.extractLsb' 6 12)
    { port := p, retx := false, last := false, ver := ver, epoch := s.fab.epoch, sysid := s.cfgSysid, src := Config.ownMid.setWidth 16,
      dst := m.setWidth 16, seq := 0, ack := ack, trick := 0, attempt := 0, jobid := 0 } classLINK payload.length payload

/-- The HELLO frame of port p, to its group address. -/
def helloOut (s : State) (p : Fin 12) : Out :=
  linkOut s p 0x0300000088B5 groupDst 1 0
    ([linkHELLO] ++ leBytes Config.ownMid.toNat 2 ++ leBytes p.val 1 ++ leBytes (Config.peerMac p.val).toNat 6 ++ [1, 1])

/-- Exec of i from s resets the module (R490, R495 to R498, R537): no job, no queue pair, region, view or route, no attestation
request, registers at their reset values but those of the straps; the waiting commands and what was sent stay, and so does the flash
where no record was being written. -/
def Resets (i : Instr) (s : State) (cause step : Nat) (fin : State → State) (P : State → Prop) : Prop :=
  Ends i s fin fun t => t.job = Job.cleared ∧ t.stat = Stat.reset ∧ t.host = HostSt.reset ∧ t.fab = Fab.reset ∧ t.att = Att.reset ∧
    t.cfg = { Cfg.reset with kcfg := parityG t.aon.latch } ∧ t.hl.tret = 0 ∧ t.hl.failed = false ∧ t.pending = s.pending ∧ t.outbox = s.outbox ∧ t.heldTx = [] ∧
    t.score.cur = none ∧ t.score.queue = [] ∧ t.aon.contacts = s.aon.contacts ∧ t.aon.ready = false ∧
    t.aon.rstCause = cause ∧ t.aon.bootStep = step ∧ (s.score.cur = none → t.score.f0 = s.score.f0 ∧ t.score.f1 = s.score.f1) ∧ P t

/-- R521: the next leaf never passes the reserved limit, nor the limit the number of leaves. -/
def LeavesReserved (s : State) : Prop := s.att.next ≤ s.att.limit ∧ s.att.limit ≤ 2 ^ 30

end Sys2Proof.Claim

open Sys2Proof Sys2Proof.Machine Sys2Proof.Claim

/-! ### Scalar and control instructions -/

/-- R277: ALU, ALUI and LI complete: sd takes the value of Table 10-3 modulo 2^64, or the loaded immediate; no flag, no
other register, no memory and no other context changes. -/
def Obligations.ScalarArithmeticWritesRegister : Prop :=
  ∀ (s : State) (c : CtxId) (x : Ctx),
    (∀ f : AluF, Takes s c x f.g f.legal [f.sd, f.sa, f.sb] →
      Gives (.alu c f) s c x fun a =>
        RegWritten x.arch a f.sd (BitVec.ofInt 64 (aluValue f.funct.toNat (x.arch.reg f.sa) (x.arch.reg f.sb)))) ∧
    (∀ f : AluiF, Takes s c x f.g f.legal [f.sd, f.sa] →
      Gives (.alui c f) s c x fun a =>
        RegWritten x.arch a f.sd
          (BitVec.ofInt 64 (aluValue f.funct.toNat (x.arch.reg f.sa) (BitVec.ofInt 64 f.imm.toInt)))) ∧
    (∀ f : LiF, Takes s c x f.g f.legal [f.sd] →
      Gives (.li c f) s c x fun a =>
        RegWritten x.arch a f.sd
          (if f.funct = 0 then BitVec.ofInt 64 f.imm.toInt
           else BitVec.ofNat 64 (f.imm.toNat * 2 ^ 32 + (x.arch.reg f.sd).toNat % 2 ^ 32)))

/-- R278: CMP and PLOG complete: pd takes the comparison, the logical function or sd ≠ 0; PGET writes sd from pa. -/
def Obligations.ComparesAndLogicWritePredicate : Prop :=
  ∀ (s : State) (c : CtxId) (x : Ctx),
    (∀ f : CmpF, Takes s c x f.g f.legal (if f.useImm then [f.sa] else [f.sa, f.sb]) →
      Gives (.cmp c f) s c x fun a => ∃ v : Bool, PredWritten x.arch a f.pd v ∧
        (v = true ↔ cmpHolds f.funct.toNat (x.arch.reg f.sa)
          (if f.useImm then BitVec.ofInt 64 f.imm.toInt else x.arch.reg f.sb))) ∧
    (∀ f : PlogF, Takes s c x f.g f.legal (if f.funct.toNat ≥ 4 then [f.sd] else []) →
      Gives (.plog c f) s c x fun a =>
        let pa := x.arch.pred f.pa
        let pb := x.arch.pred f.pb
        if f.funct = 5 then RegWritten x.arch a f.sd (if pa then 1 else 0)
        else PredWritten x.arch a f.pd
          (if f.funct = 0 then pa && pb else if f.funct = 1 then pa || pb else if f.funct = 2 then xor pa pb
           else if f.funct = 3 then pa && !pb else decide (x.arch.reg f.sd ≠ 0)))

/-- R279: a taken BR sets PC to PC + 8 × offset and a JAL to sa + imm32 with PC + 8 in sd, when the target is a multiple of 8
below CODE_LEN; any other target faults the branch with CTX_FAULT_ILLEGAL, the PC at the branch. -/
def Obligations.BranchesSetPcOrFault : Prop :=
  ∀ (s : State) (c : CtxId) (x : Ctx),
    (∀ f : BrF, Takes s c x f.g f.legal [] →
      let t := BitVec.ofInt 64 (x.arch.pc.toNat + 8 * f.off.toInt)
      if t.toNat % 8 = 0 ∧ t.toNat < s.job.code.length then
        exec (.br c f) s = .next (s.withArch c x { x.arch with pc := t })
      else exec (.br c f) s = .next (s.raiseFault c x.tag stILLEGAL 0xFF x.arch.pc f.word 0)) ∧
    (∀ f : JalF, Takes s c x f.g f.legal [f.sd, f.sa] →
      let t := BitVec.ofNat 64 (scalarAddr x f.sa f.imm)
      if t.toNat % 8 = 0 ∧ t.toNat < s.job.code.length then
        Gives (.jal c f) s c x fun a => a.pc = t ∧ RegWritten x.arch { a with pc := x.arch.pc + 8 } f.sd (x.arch.pc + 8)
      else exec (.jal c f) s = .next (s.raiseFault c x.tag stILLEGAL 0xFF x.arch.pc f.word 0))

/-- R280: SLD gives sd the little-endian bytes at sa + imm32 of the buffer, zero- or sign-extended, and leaves every byte of
every buffer as it was; SST stores the low bytes of ss there and leaves every other byte as it was. -/
def Obligations.ScalarMemoryLoadsAndStores : Prop :=
  ∀ (s : State) (c : CtxId) (x : Ctx) (k : Hnd) (b : Buffer),
    (∀ f : SldF, Takes s c x f.g f.legal [f.sd, f.sa] →
      let n := 2 ^ f.size.toNat
      let a := scalarAddr x f.sa f.imm
      ScalarOk s x f.bh k b a n false →
      Next (.sld c f) s fun t => ∃ r, ScalarAccessed s t c x r ∧ t.job.bufs.map Buffer.mem = s.job.bufs.map Buffer.mem ∧
        (let v := leNat (memReadN 0 b.mem a n)
         RegWritten x.arch r f.sd
           (BitVec.ofInt 64 (if f.sx = true ∧ v ≥ 2 ^ (8 * n - 1) then (v : Int) - 2 ^ (8 * n) else v)))) ∧
    (∀ f : SstF, Takes s c x f.g f.legal [f.ss, f.sa] →
      let n := 2 ^ f.size.toNat
      let a := scalarAddr x f.sa f.imm
      ScalarOk s x f.bh k b a n true →
      Next (.sst c f) s fun t => ScalarAccessed s t c x x.arch.next ∧
        (∀ d ∈ s.job.bufs, d.id ≠ b.id → ∃ e ∈ t.job.bufs, e.id = d.id ∧ e.mem = d.mem) ∧
        ∃ e, t.job.buf? b.id = some e ∧
          (∀ i, i < n → memRead 0 e.mem (a + i) = BitVec.ofNat 8 ((x.arch.reg f.ss).toNat / 256 ^ i)) ∧
          ∀ i, i < a ∨ a + n ≤ i → memRead 0 e.mem i = memRead 0 b.mem i)

/-- R281: EXIT with no open tag and no undecided trick, or its completion once every joined trick is decided, ends the context:
its seat is free, its buffers are released, and a context completion with status OK is posted behind the writes of the tricks before
the last it joined (R431). -/
def Obligations.ExitEndsContext : Prop :=
  ∀ (s : State) (c : CtxId) (x : Ctx),
    let ended (i : Instr) : Prop := Ends i s State.settle fun e =>
      e.job.ctx? c = none ∧ (∀ b ∈ e.job.bufs, b.owner = c → b.released = true) ∧
      ∃ d : State, d.job.ctx? c = none ∧
        e = d.release (.ownerCompl x.last ⟨2, stOK, 0, 0, zerosTo [stOK, BitVec.ofNat 8 c.val] 48⟩)
    (∀ f : BareF, Takes s c x f.g f.legal [] → x.tag = none → x.joined = [] → ended (.exit c f)) ∧
    (s.job.ctx? c = some x → x.resid = .resident → x.stall = some .exit → x.joined = [] → ended (.exitComplete c))

/-- R281, R297, R298: EXIT with an open tag, TBEGIN with an open tag and TSEAL with none fault with CTX_FAULT_ILLEGAL. -/
def Obligations.TrickTagMisuseFaults : Prop :=
  ∀ (s : State) (c : CtxId) (x : Ctx),
    (∀ f : BareF, Takes s c x f.g f.legal [] → x.tag.isSome →
      exec (.exit c f) s = .next (s.raiseFault c x.tag stILLEGAL 0xFF x.arch.pc (f.word 0x0A) 0)) ∧
    (∀ f : TbeginF, Takes s c x f.g f.legal [f.sd] → x.tag.isSome →
      exec (.tbegin c f) s = .next (s.raiseFault c x.tag stILLEGAL 0xFF x.arch.pc f.word 0)) ∧
    (∀ f : BareF, Takes s c x f.g f.legal [] → x.tag = none →
      exec (.tseal c f) s = .next (s.raiseFault c x.tag stILLEGAL 0xFF x.arch.pc (f.word 0x1C) 0))

/-! ### Buffers -/

/-- R282, Table 10-7: DECL of a buffer the checks of R283 accept, and whose room is there if it is RESIDENT (R181), enters the buffer
with the class, format, shape, scale, priority, region and offset of its operand words, in place (a STASH buffer may wait for
room, R191), and makes bh its owning handle with WRITE (without it for a HOST region registered without WRITE, R557); no other
handle, register, predicate or counter changes.
R284: SPILLR of a non-zero multiple of 4,096 bytes that fits the job's DRAM gives a context that has none its spill region and
advances the PC; with storage of that size kept aside it re-attaches it with what was spilled there (R558). A region beyond the
job's DRAM faults with CTX_FAULT_BUFFER, the greater code (R12), and otherwise zero, another multiple or a second region with
CTX_FAULT_ILLEGAL. -/
def Obligations.DeclAndSpillrDeclare : Prop :=
  (∀ (s : State) (c : CtxId) (x : Ctx) (f : DeclF) (q : DeclReq) (sb : Nat),
    Takes s c x f.g f.legal [f.sS, f.sA, f.sT] →
    s.job.live (x.arch.hnd f.bh) = none →
    declReq (x.arch.reg f.sS) (x.arch.reg f.sA) (x.arch.reg f.sT) = some (q, false) →
    s.declScale x q = some sb →
    let new := q.buffer s.job.nextBuf c f.bh sb x.tag s.job.nextUid
    s.declRoom q new = none → (q.cls = .resident → s.fits (s.job.units new) noUnits = true) →
    let sS := (x.arch.reg f.sS).toNat
    let sA := (x.arch.reg f.sA).toNat
    let sT := (x.arch.reg f.sT).toNat
    let host := sA % 8 = 5 ∨ sA % 8 = 6
    Ends (.decl c f) s State.settle fun e =>
      (∃ b, e.job.bufs = s.job.bufs ++ [b] ∧ b.id = s.job.nextBuf ∧ b.owner = c ∧ b.handle = f.bh.toNat ∧ b.mem = [] ∧
        clsOf (sA % 8) = some b.cls ∧ fmtOf (sA / 8 % 8) = some b.fmt ∧
        (if b.cls = .pot then b.potP = sS % 2 ^ 32 ∧ b.potK = sS / 2 ^ 32 % 2 ^ 9 ∧ b.potTap = sS / 2 ^ 41
         else b.rows = sS % 2 ^ 32 ∧ b.cols = sS / 2 ^ 32) ∧
        (sA / 64 % 4 = 0 → b.scale = .none) ∧
        (sA / 64 % 4 = 1 → b.scale = .tensor (BitVec.ofNat 32 sT) (BitVec.ofNat 32 (sT / 2 ^ 32))) ∧
        (sA / 64 % 4 = 2 → ∃ d, dirOf (sA / 1024 % 4) = some d ∧ b.scale = .block (16 * 2 ^ (sA / 256 % 4)) d (sA / 4096 % 2 == 1) sb) ∧
        b.prio = sA / 2 ^ 20 % 16 ∧ (sA % 8 = 6 → b.region = sA / 2 ^ 32 % 2 ^ 16) ∧ b.offset = (if host then sT else 0) ∧
        b.declTrick = x.tag ∧ b.released = false ∧ b.dead = false ∧
        b.place = (if b.cls = .stash ∧ ¬ (s.fits (s.job.units new) noUnits = true ∧ s.job.roomQ = []) then .waiting else .placed)) ∧
      ∃ y w, e.job.ctx? c = some y ∧ y = { x with arch := y.arch } ∧ y.arch.pc = x.arch.pc + 8 ∧
        (∀ h, y.arch.hnd h = if h = f.bh then some ⟨s.job.nextBuf, true, w⟩ else x.arch.hnd h) ∧
        (q.cls ≠ .host → w = true) ∧ (q.cls = .host → (w = true ↔ ∃ r, s.region? q.region = some r ∧ r.write = true)) ∧
        y.arch.regs = x.arch.regs ∧ y.arch.preds = x.arch.preds ∧ y.arch.ctrs = x.arch.ctrs ∧ y.arch.cur = x.arch.cur) ∧
  (∀ (s : State) (c : CtxId) (x : Ctx) (f : SpillrF), Takes s c x f.g f.legal [f.sS] →
    let z := (x.arch.reg f.sS).toNat
    let fault (st : Byte) : Prop := exec (.spillr c f) s = .next (s.raiseFault c x.tag st 0xFF x.arch.pc f.word 0)
    (z ∉ x.aside → s.job.dramUsed + z > 958 * 2 ^ 30 → fault stBUFFER) ∧
    (z ∈ x.aside ∨ s.job.dramUsed + z ≤ 958 * 2 ^ 30 → z = 0 ∨ z % 4096 ≠ 0 ∨ x.spill.isSome → fault stILLEGAL) ∧
    (z ≠ 0 → z % 4096 = 0 → x.spill = none → z ∈ x.aside ∨ s.job.dramUsed + z ≤ 958 * 2 ^ 30 →
      Ends (.spillr c f) s State.settle fun e => e = { s with job := e.job } ∧
        e.job.ctx? c = some { x with
          spill := some z
          spillTrick := x.tag
          aside := x.aside.erase z
          arch := x.arch.next } ∧
        (∀ d, d ≠ c → e.job.ctx? d = s.job.ctx? d) ∧
        e.job.bufs = s.job.bufs.map (fun b =>
          if z ∈ x.aside ∧ b.owner = c ∧ b.inAside = some z then { b with inAside := none } else b) ∧
        e.job.tiles = s.job.tiles.map fun o =>
          if z ∈ x.aside ∧ o.ctx = c ∧ o.lies = .region (some z) then { o with lies := .region none } else o))

/-- R285: REL through a valid handle makes that handle invalid at once; through an owning handle it releases the buffer, at once
with no open tag and else at the seal of the tagged trick (a buffer an issued instruction still names lasts until it completes, R257). REL of an invalid handle faults with CTX_FAULT_BUFFER. -/
def Obligations.RelReleasesThroughOwner : Prop :=
  ∀ (s : State) (c : CtxId) (x : Ctx) (f : RelF), Takes s c x f.g f.legal [] →
    (s.job.live (x.arch.hnd f.bh) = none →
      exec (.rel c f) s = .next (s.raiseFault c x.tag stBUFFER (f.bh.setWidth 8) x.arch.pc f.word (BitVec.allOnes 64))) ∧
    ∀ k b, s.job.live (x.arch.hnd f.bh) = some (k, b) →
      Ends (.rel c f) s State.settle fun e =>
        e.job.ctx? c = some { x with arch := (x.arch.setHnd f.bh none).next } ∧
        (k.owner = false → e.job.bufs = s.job.bufs) ∧
        (k.owner = true → e.job.bufs = s.job.bufs.map fun y => if y.id = b.id then
          { y with
            relTrick := x.tag
            released := y.released || x.tag.isNone } else y)

/-- R286, Table 10-8: EXPORT through an owning handle gives the buffer its BUFID with the access granted, and BIND of a
granted export into an invalid handle enters a handle without OWNER to the same buffer, WRITE equal to ACC (and, for a HOST
buffer, only where its region may be written, R557), and each advances the PC; an export that makes a serving area whole
attaches it (R362). The other cases fault as the table says, with the greatest code that applies (R12). -/
def Obligations.ShareExportsAndBinds : Prop :=
  ∀ (s : State) (c : CtxId) (x : Ctx) (f : ShareF), Takes s c x f.g f.legal [f.sI] →
    let v := (x.arch.reg f.sI).toNat
    let illegal (i : Instr) (w : Dword) : Prop := exec i s = .next (s.raiseFault c x.tag stILLEGAL 0xFF x.arch.pc w 0)
    let refused (i : Instr) (w d : Dword) : Prop := exec i s = .next (s.raiseFault c x.tag stBUFFER (f.bh.setWidth 8) x.arch.pc w d)
    let given (a : Bool) : Prop := ∃ b k, s.job.exported v = some b ∧ b.exp = some (v, a, k)
    (s.job.live (x.arch.hnd f.bh) = none → refused (.shareExport c f) (f.word 0) (BitVec.allOnes 64)) ∧
    (∀ k b, s.job.live (x.arch.hnd f.bh) = some (k, b) → k.owner = false → refused (.shareExport c f) (f.word 0) (BitVec.allOnes 64)) ∧
    (∀ k b, s.job.live (x.arch.hnd f.bh) = some (k, b) → k.owner = true → b.exp.isSome ∨ (s.job.exported v).isSome →
      refused (.shareExport c f) (f.word 0) 0) ∧
    (∀ k b, s.job.live (x.arch.hnd f.bh) = some (k, b) → k.owner = true → b.exp = none → s.job.exported v = none →
      v = 0 ∨ v > 4095 → illegal (.shareExport c f) (f.word 0)) ∧
    (v ≠ 0 → v ≤ 4095 → s.job.exported v = none ∨ (f.acc = true ∧ given false) →
      refused (.shareBind c f) (f.word 1) (BitVec.allOnes 64)) ∧
    (v = 0 ∨ v > 4095 → illegal (.shareBind c f) (f.word 1)) ∧
    (v ≠ 0 → v ≤ 4095 → given true ∨ (f.acc = false ∧ given false) → (s.job.live (x.arch.hnd f.bh)).isSome →
      exec (.shareBind c f) s = .next (s.raiseFault c x.tag stILLEGAL (f.bh.setWidth 8) x.arch.pc (f.word 1) 0)) ∧
    (∀ k b, v ≠ 0 → v ≤ 4095 → s.job.live (x.arch.hnd f.bh) = some (k, b) → k.owner = true → b.exp = none →
      s.job.exported v = none →
      let e : State := { s with job := { (s.job.setCtx c (some { x with arch := { x.arch with pc := x.arch.pc + 8 } })) with
        bufs := s.job.bufs.map fun y => if y.id = b.id then { y with exp := some (v, f.acc, x.tag) } else y } }
      exec (.shareExport c f) s = .next (if s.serveAttached then e else e.serveAttach)) ∧
    (∀ b a k, v ≠ 0 → v ≤ 4095 → s.job.live (x.arch.hnd f.bh) = none → s.job.exported v = some b → b.exp = some (v, a, k) →
      (f.acc = true → a = true) →
      Gives (.shareBind c f) s c x fun r => ∃ w, r = (x.arch.setHnd f.bh (some ⟨b.id, false, w⟩)).next ∧
        (b.cls ≠ .host → w = f.acc) ∧
          (b.cls = .host → (w = true ↔ f.acc = true ∧ ∃ q, s.region? b.region = some q ∧ q.write = true)))

/-! ### Events, fences, tricks and queries -/

/-- R252, R294: WAIT whose condition holds advances the PC at once; otherwise the seat stalls with the PC at the WAIT, and the
stall ends when the condition comes to hold. Beside that, only the contexts that have observed a publish are noted (R264).
R295: READ gives s the counter's value zero-extended; SET and ADD write a LOCAL counter modulo 2^32; BIND and LOCAL rebind
it. SET and ADD on a BOUND counter fault with CTX_FAULT_ILLEGAL and BIND to an invalid handle with CTX_FAULT_BUFFER. -/
def Obligations.CountersAreAwaitedReadAndBound : Prop :=
  let seen (s : State) (c : CtxId) (x : Ctx) (e : EReg) : State := s.observe c x (x.arch.ctr e).bound
  (∀ (s : State) (c : CtxId) (x : Ctx),
    (∀ f : WaitF, Takes s c x f.g f.legal [f.sN] → s.job.boundGone (x.arch.ctr f.e) = false →
      let n : Word := BitVec.ofNat 32 ((x.arch.reg f.sN).toNat + f.imm.toNat)
      if (s.job.ctrVal x f.e - n).toNat < 2 ^ 31 then
        exec (.wait c f) s = .next ((seen s c x f.e).withArch c x { x.arch with pc := x.arch.pc + 8 })
      else exec (.wait c f) s = .next (withCtx s c (some { x with stall := some (.wait f.e n f.word) })).settle) ∧
    (∀ e n w, s.job.ctx? c = some x → x.resid = .resident → x.stall = some (.wait e n w) → s.job.boundGone (x.arch.ctr e) = false →
      (s.job.ctrVal x e - n).toNat < 2 ^ 31 →
      exec (.waitSatisfied c) s =
        .next (withCtx (seen s c x e) c (some { x with stall := none, arch := { x.arch with pc := x.arch.pc + 8 } })).settle)) ∧
  (∀ (s : State) (c : CtxId) (x : Ctx) (f : EvtF),
    let ctrSet (i : Instr) (v : Word) (bd : Option Nat) : Prop := Gives i s c x fun a =>
      a.pc = x.arch.pc + 8 ∧ (∀ d, a.ctr d = if d = f.e then ⟨v, bd⟩ else x.arch.ctr d) ∧ a.regs = x.arch.regs ∧
        a.preds = x.arch.preds ∧ a.hnds = x.arch.hnds ∧ a.cur = x.arch.cur
    let bad (i : Instr) (w : Dword) : Prop := exec i s = .next (s.raiseFault c x.tag stILLEGAL 0xFF x.arch.pc w 0)
    (Takes s c x f.g f.legal [f.s] →
      (s.job.boundGone (x.arch.ctr f.e) = false →
        Gives (.evtRead c f) s c x fun a => RegWritten x.arch a f.s (BitVec.ofNat 64 (s.job.ctrVal x f.e).toNat)) ∧
      ((x.arch.ctr f.e).bound = none →
        ctrSet (.evtSet c f) (BitVec.ofNat 32 (x.arch.reg f.s).toNat) none ∧
        ctrSet (.evtAdd c f) (BitVec.ofNat 32 ((x.arch.ctr f.e).val.toNat + (x.arch.reg f.s).toNat)) none) ∧
      ((x.arch.ctr f.e).bound.isSome → bad (.evtSet c f) (f.word 1) ∧ bad (.evtAdd c f) (f.word 2))) ∧
    (Takes s c x f.g f.legal [] →
      (∀ k b, s.job.live (x.arch.hnd f.bh) = some (k, b) → ctrSet (.evtBind c f) 0 (some b.id)) ∧
      (s.job.live (x.arch.hnd f.bh) = none → exec (.evtBind c f) s =
        .next (s.raiseFault c x.tag stBUFFER (f.bh.setWidth 8) x.arch.pc (f.word 3) (BitVec.allOnes 64))) ∧
      ctrSet (.evtLocal c f) 0 none))

/-- R296: FENCE with its queues empty advances the PC, with an instruction left in one it stalls the seat, and with a MASK of
zero it faults with CTX_FAULT_ILLEGAL; the stall ends when the queues its mask names are empty. -/
def Obligations.FenceDrainsNamedQueues : Prop :=
  ∀ (s : State) (c : CtxId) (x : Ctx),
    let empty (m : BitVec 3) : Prop := (m.getLsbD 2 = true → x.qm = []) ∧ (m.getLsbD 1 = true → x.qv = []) ∧
      (m.getLsbD 0 = true → x.qc = [])
    let passed := { x with stall := none, arch := { x.arch with pc := x.arch.pc + 8 } }
    (∀ f : FenceF, Takes s c x f.g f.legal [] →
      (f.mask = 0 → exec (.fence c f) s = .next (s.raiseFault c x.tag stILLEGAL 0xFF x.arch.pc f.word 0)) ∧
      (f.mask ≠ 0 → empty f.mask → exec (.fence c f) s = .next (withCtx s c (some passed))) ∧
      (f.mask ≠ 0 → ¬ empty f.mask →
        exec (.fence c f) s = .next (withCtx s c (some { x with stall := some (.fence f.mask) })).settle)) ∧
    (∀ m, s.job.ctx? c = some x → x.resid = .resident → x.stall = some (.fence m) → empty m →
      exec (.fenceDrained c) s = .next (withCtx s c (some passed)).settle)

/-- R297, R298, R220, R221: TBEGIN joins the greater of the trick after the last joined and the oldest unsealed trick n, or n + 1 when this
member has voted on n; it stalls while something holds it and does so once nothing does; a number above 0xFFFFFFFFFFFE faults with
CTX_FAULT_ILLEGAL. TSEAL closes the tag and keeps the snapshot. -/
def Obligations.TbeginJoinsAndTsealCloses : Prop :=
  ∀ (s : State) (c : CtxId) (x : Ctx),
    let n := s.stat.sealedN
    let base := if s.job.t0.voted.isSome then n + 1 else n
    let t := max (match x.last with
      | none => 0
      | some l => l + 1) base
    let joins (i : Instr) (sd : SReg) : Prop := Ends i s (fun e => e.servePublish.settle) fun e =>
      ∃ y, e.job.ctx? c = some y ∧ Joins x y t sd
    (∀ f : TbeginF, Takes s c x f.g f.legal [f.sd] → x.tag = none → t ≤ 2 ^ 48 - 2 → s.tbeginHeld x = false → s.job.halt = false →
      joins (.tbegin c f) f.sd) ∧
    (∀ f : TbeginF, Takes s c x f.g f.legal [f.sd] → x.tag = none → t ≤ 2 ^ 48 - 2 → s.tbeginHeld x = true ∨ s.job.halt = true →
      exec (.tbegin c f) s = .next (withCtx s c (some { x with stall := some (.tbegin f.sd f.word) })).settle) ∧
    (∀ sd w, s.job.ctx? c = some x → x.resid = .resident → x.stall = some (.tbegin sd w) → t ≤ 2 ^ 48 - 2 → s.tbeginHeld x = false →
      s.job.halt = false → joins (.stalledTbeginResume c) sd) ∧
    (∀ f : TbeginF, Takes s c x f.g f.legal [f.sd] → x.tag = none → t > 2 ^ 48 - 2 →
      exec (.tbegin c f) s = .next (s.raiseFault c none stILLEGAL 0xFF x.arch.pc f.word 0)) ∧
    (∀ (f : BareF) (k : Nat), Takes s c x f.g f.legal [] → x.tag = some k →
      exec (.tseal c f) s = .next (withCtx s c (some { x with
        tag := none
        arch := { x.arch with pc := x.arch.pc + 8 }
        joined := x.joined.map fun (j : Joined) => if j.trick = k then { j with tsealed := true } else j })).settle)

/-- R300, Table 10-14: the queries of tag, last trick, feature, members, update status and number share write sd and nothing
else; FLAGS reads both flag words with every queue empty, and with CLR clears the named CURRENT flags. -/
def Obligations.QueriesWriteRegister : Prop :=
  ∀ (s : State) (c : CtxId) (x : Ctx) (f : QueryF),
    let gives (i : Instr) (v : Dword) : Prop := Gives i s c x fun a => RegWritten x.arch a f.sd v
    let settled (i : Instr) (v : Dword) : Prop := ∃ a, exec i s =
      .next (withCtx s c (some { x with stall := none, arch := a })).settle ∧ RegWritten x.arch a f.sd v
    (Takes s c x f.g (f.legal 0) [f.sd] →
      gives (.queryTag c f) (BitVec.ofNat 64 (x.tag.getD (2 ^ 48 - 1)))) ∧
    (Takes s c x f.g (f.legal 1) [f.sd] →
      gives (.queryLastjoin c f) (BitVec.ofNat 64 (x.last.getD (2 ^ 48 - 1)))) ∧
    (Takes s c x f.g (f.legal 4) [f.sd] → gives (.queryFeature c f) (BitVec.ofNat 64 s.job.feature.toNat)) ∧
    (Takes s c x f.g (f.legal 5) [f.sd] → gives (.queryMembers c f) (BitVec.ofNat 64 (s.jobN + 65536 * s.myRank))) ∧
    (Takes s c x f.g (f.legal 3) [f.sd] → s.queryHeld x = false → x.passOpen = false →
      settled (.queryUpdstat c f) (s.updStat c x)) ∧
    (Takes s c x f.g (f.legal 6) [f.sd, f.sa] → (x.arch.reg f.sa).toNat % 8 ≤ 4 → s.queryHeld x = false →
      settled (.queryNumshare c f) (s.numShare (x.arch.reg f.sa))) ∧
    (∀ sel sa, s.job.ctx? c = some x → x.resid = .resident → x.stall = some (.sealedQuery sel f.sd sa) → s.queryHeld x = false →
      (sel = 3 → x.passOpen = false) →
      settled (.sealedQueryResume c) (if sel = 3 then s.updStat c x else s.numShare (x.arch.reg sa))) ∧
    (Takes s c x f.g (f.legal 2) [f.sd, f.sa] → x.qm = [] → x.qv = [] → x.qc = [] →
      ∃ y, exec (.queryFlags c f) s = .next (withCtx s c (some y)) ∧
        y.arch.reg f.sd = (if f.sd = 0 then 0 else BitVec.ofNat 64 (x.arch.cur.toNat + 256 * x.sealedFl.toNat)) ∧
        y.arch.cur = (if f.clr then x.arch.cur &&& ~~~((x.arch.reg f.sa).setWidth 5) else x.arch.cur) ∧
        y.arch.pc = x.arch.pc + 8 ∧ (∀ r, r ≠ f.sd → y.arch.reg r = x.arch.reg r) ∧ y.arch.preds = x.arch.preds ∧
        y.arch.ctrs = x.arch.ctrs ∧ y.arch.hnds = x.arch.hnds)

/-! ### Engine instructions: issue -/

/-- R287: a COPY, GATHER, SCATTER or FILL that passes its checks enters the COPY queue; the operand words of a COPY and of a
FILL are those of Table 10-10. -/
def Obligations.CopiesEnterQueue : Prop :=
  ∀ (s : State) (c : CtxId) (x : Ctx) (op : EOp) (t : Nat),
    (∀ f : CopyF, EngineReady s c x .copy f.g f.legal [f.sDO, f.sSO, f.sEXT, f.sRC] ⟨f.ec, f.cnt, f.pub, none⟩ [] (s.issueCopy x f) op t →
      Issues (.copy c f) s c x .copy f.word ⟨f.ec, f.cnt, f.pub, none⟩ op t ∧
      ∃ bd bs rc, op = .copy bd bs ((x.arch.reg f.sDO).toNat % 2 ^ 32) ((x.arch.reg f.sDO).toNat / 2 ^ 32)
        ((x.arch.reg f.sSO).toNat % 2 ^ 32) ((x.arch.reg f.sSO).toNat / 2 ^ 32) ((x.arch.reg f.sEXT).toNat % 2 ^ 32)
        ((x.arch.reg f.sEXT).toNat / 2 ^ 32) rc) ∧
    (∀ f : GatherF, EngineReady s c x .copy f.g f.legal [f.sIX, f.sROW, f.sRC] ⟨f.ec, f.cnt, f.pub, none⟩ [] (s.issueRows x f true) op t →
      Issues (.gather c f) s c x .copy (f.word 0x15) ⟨f.ec, f.cnt, f.pub, none⟩ op t) ∧
    (∀ f : GatherF, EngineReady s c x .copy f.g f.legal [f.sIX, f.sROW, f.sRC] ⟨f.ec, f.cnt, f.pub, none⟩ [] (s.issueRows x f false) op t →
      Issues (.scatter c f) s c x .copy (f.word 0x16) ⟨f.ec, f.cnt, f.pub, none⟩ op t) ∧
    (∀ f : FillF, EngineReady s c x .copy f.g f.legal [f.sDO, f.sEXT, f.sV] ⟨f.ec, f.cnt, f.pub, none⟩ [] (s.issueFill x f) op t →
      Issues (.fill c f) s c x .copy f.word ⟨f.ec, f.cnt, f.pub, none⟩ op t ∧
      ∃ bd, op = .fill bd ((x.arch.reg f.sDO).toNat % 2 ^ 32) ((x.arch.reg f.sDO).toNat / 2 ^ 32)
        ((x.arch.reg f.sEXT).toNat % 2 ^ 32) ((x.arch.reg f.sEXT).toNat / 2 ^ 32) (BitVec.ofNat 32 (x.arch.reg f.sV).toNat))

/-- R302: an MMA that passes its checks enters the MATRIX queue, a vector instruction the VECTOR queue with its summary
register. -/
def Obligations.MatrixAndVectorEnterQueues : Prop :=
  ∀ (s : State) (c : CtxId) (x : Ctx) (op : EOp) (t : Nat),
    (∀ f : MmaF, EngineReady s c x .matrix f.g f.legal [f.sG, f.sK, f.sC, f.sRC] ⟨f.ec, f.cnt, f.pub, none⟩
      (epiEarly (x.arch.reg f.sC) s.job x) (s.issueMma c x f) op t →
      Issues (.mma c f) s c x .matrix f.word ⟨f.ec, f.cnt, f.pub, none⟩ op t) ∧
    (∀ f : VewF, EngineReady s c x .vector f.g f.legalEw [f.sX, f.sVC, f.sW] ⟨f.ec, f.cnt, f.pub, sumReg f.sS⟩ [] (s.issueVew x f) op t →
      Issues (.vew c f) s c x .vector (f.word 0x30) ⟨f.ec, f.cnt, f.pub, sumReg f.sS⟩ op t) ∧
    (∀ f : VselF, EngineReady s c x .vector f.g true [f.sX, f.sVC, f.sW] ⟨f.ec, f.cnt, f.pub, sumReg f.sS⟩ [] (s.issueVsel x f) op t →
      Issues (.vsel c f) s c x .vector f.word ⟨f.ec, f.cnt, f.pub, sumReg f.sS⟩ op t) ∧
    (∀ f : VewF, EngineReady s c x .vector f.g f.legalCmp [f.sX, f.sVC, f.sW] ⟨f.ec, f.cnt, f.pub, sumReg f.sS⟩ [] (s.issueVcmp x f) op t →
      Issues (.vcmp c f) s c x .vector (f.word 0x32) ⟨f.ec, f.cnt, f.pub, sumReg f.sS⟩ op t) ∧
    (∀ f : VlutF, EngineReady s c x .vector f.g f.legal [f.sVC, f.sW] ⟨f.ec, f.cnt, f.pub, sumReg f.sS⟩
      (earlyHnds [f.bt.toNat] s.job x) (s.issueVlut x f) op t →
      Issues (.vlut c f) s c x .vector f.word ⟨f.ec, f.cnt, f.pub, sumReg f.sS⟩ op t) ∧
    (∀ f : VredF, EngineReady s c x .vector f.g f.legal [f.sVC, f.sW] ⟨f.ec, f.cnt, f.pub, sumReg f.sS⟩ [] (s.issueVred x f) op t →
      Issues (.vred c f) s c x .vector f.word ⟨f.ec, f.cnt, f.pub, sumReg f.sS⟩ op t)

/-- R302, R320 to R333: the soft-target functions and update passes enter the VECTOR queue, the collectives and transfers the
COPY queue. -/
def Obligations.SoftTargetUpdateCollectiveEnterQueues : Prop :=
  ∀ (s : State) (c : CtxId) (x : Ctx) (op : EOp) (t : Nat),
    (∀ (f : StsF) (n : Nat) (i : Instr), (n, i) ∈ [(0, .fold c f), (1, .loss c f), (2, .finish c f), (3, Instr.grad c f)] →
      EngineReady s c x .vector f.g (f.legal n) [f.sW, f.sRC] ⟨f.ec, f.cnt, f.pub, none⟩ (earlyHnds [f.bs.toNat] s.job x)
        (s.issueSts x n f) op t →
      Issues i s c x .vector (f.word n) ⟨f.ec, f.cnt, f.pub, none⟩ op t) ∧
    (∀ (f : UpdF) (n : Nat) (i : Instr), (n, i) ∈ [(0, .pass1 c f), (1, .pass2 c f), (2, Instr.rebuild c f)] →
      EngineReady s c x .vector f.g f.legal [f.sH] ⟨f.ec, f.cnt, f.pub, none⟩
        (if n = 1 then [] else earlyHnds [f.bc.toNat, f.bt.toNat] s.job x) (s.issueUpd c x n f) op t →
      Issues i s c x .vector (f.word n) ⟨f.ec, f.cnt, f.pub, none⟩ op t) ∧
    (∀ (f : CollF) (n : Nat) (i : Instr), (n, i) ∈ [(0, .ared c f), (1, .rscat c f), (2, .agath c f), (3, .bcast c f), (4, .send c f),
        (5, Instr.recv c f)] →
      EngineReady s c x .copy f.g (f.legal n) [f.sA, f.sB, f.sRC] ⟨f.ec, f.cnt, f.pub, none⟩ [] (s.issueColl x n f) op t →
      Issues i s c x .copy (f.word n) ⟨f.ec, f.cnt, f.pub, none⟩ op t)

/-- R219: an engine instruction or copy issued with no open trick, and one that counts into a BOUND counter (R253), whose own
checks pass, faults with CTX_FAULT_ILLEGAL and enters no queue. -/
def Obligations.EngineNeedsOpenTrickAndLocalCounter : Prop :=
  ∀ (s : State) (c : CtxId) (x : Ctx) (f : CopyF),
    Takes s c x f.g f.legal [f.sDO, f.sSO, f.sEXT, f.sRC] → x.qc.length < 64 → (s.issueCopy x f).bad = none →
    x.tag = none ∨ (f.cnt = true ∧ (x.arch.ctr f.ec).bound.isSome) →
    exec (.copy c f) s = .next (s.raiseFault c x.tag stILLEGAL 0xFF x.arch.pc f.word 0)

/-- R4, R274, R275, R302 over every instruction word of the table: a word with a reserved bit or encoding set faults with
CTX_FAULT_ILLEGAL whatever its guard, or, with its guard true, with a greater code that another check of the same word gives (R12); a
legal word whose guard is false only advances the PC: nothing else of the machine changes. -/
def Obligations.IllegalWordFaultsAndFalseGuardSkips : Prop :=
  ∀ (s : State) (c : CtxId) (x : Ctx) (i : Instr) (g : Guard) (w : Dword) (legal : Bool), seatWord i = some (c, g, w, legal) →
    s.job.ctx? c = some x → x.canIssue = true → s.waitsBoundary x = false → x.arch.pc.toNat < s.job.code.length →
    (legal = false → checkedTogether i = false ∨ x.arch.pred g.pg = g.pn →
      exec i s = .next (s.raiseFault c x.tag stILLEGAL 0xFF x.arch.pc w 0)) ∧
    (legal = false → (∀ r, x.pendingReg r = false) → (∀ k, (x.queue k).length < 64) → ∃ st h d, st ≥ stILLEGAL ∧
      exec i s = .next (s.raiseFault c x.tag st h x.arch.pc w d)) ∧
    (legal = true → x.arch.pred g.pg = g.pn → exec i s = .next (s.withArch c x { x.arch with pc := x.arch.pc + 8 }))

/-! ### Engine work: grants, effects, completion -/

/-- R346 to R348: the unit granted on a die is that the grantee offers: it charges the grantee for the unit's kind by its charge times
floor(65,536 / share), modulo 2^64. A matrix unit whose output tile may receive its products has their effect; any other instruction
has its effect with its last unit, and with units left it goes on. With no context ready nothing is granted. -/
def Obligations.GrantChargesAndRunsEffect : Prop :=
  ∀ (s : State) (die : Fin 4) (kind : EngKind),
    (s.grantee kind die.val = none → exec (.engineWorkGrant die kind) s = .next s) ∧
    ∀ (c : CtxId) (x : Ctx) (q : QE) (us : List (Nat × Nat)) (i : Nat),
    s.grantee kind die.val = some (c, x) → s.job.ctx? c = some x → s.offer x kind die.val = some (q, us, i) →
    Ends (.engineWorkGrant die kind) s State.pump fun e =>
      ∃ e0 y, e0.job.ctx? c = some y ∧
        y.pass kind = x.pass kind + BitVec.ofNat 64 ((us.getD i (0, 0)).2 * (65536 / max 1 (match kind with
          | .matrix => x.shm | .vector => x.shv | .copy => x.shc).toNat)) ∧
        y.arch = x.arch ∧ e0.job.bufs = s.job.bufs ∧ (∀ d, d ≠ c → e0.job.ctx? d = s.job.ctx? d) ∧
        let last := (us.eraseIdx i).isEmpty
        let t := q.cells.getD i (0, 0)
        (∀ m l, q.op = .mma m → s.tileNeed q m t = .ready l → e = e0.runTile c q m t l last) ∧
        ((∀ m, q.op ≠ .mma m) →
          e = if last then e0.runFx c { q with begun := true, units := [], granted := false, wait := none } else e0)

/-- R348: the unit or epilogue a die begins is that of the context with the least pass value among those that have ready work of the
kind there, ties to the lower number. -/
def Obligations.GranteeHasLeastPass : Prop :=
  ∀ (s : State) (kind : EngKind) (die : Nat) (c : CtxId) (x : Ctx), s.grantee kind die = some (c, x) →
    s.job.ctx? c = some x ∧ s.readyOn c x kind die = true ∧
      ∀ d y, s.job.ctx? d = some y → s.readyOn d y kind die = true →
        (∀ a b z w, s.job.ctx? a = some z → s.job.ctx? b = some w → s.readyOn a z kind die = true → s.readyOn b w kind die = true →
          (z.pass kind - w.pass kind).toInt < 2 ^ 62 ∧ -(2 ^ 62) < (z.pass kind - w.pass kind).toInt) →
        0 ≤ (y.pass kind - x.pass kind).toInt ∧ (y.pass kind = x.pass kind → c ≤ d)

/-- R291: the effect of a FILL of a U32 or BYTE buffer writes the value's low bytes in every element of its block and leaves
every other element of the buffer, and every other buffer, as it was. -/
def Obligations.FillWritesItsBlock : Prop :=
  ∀ (s : State) (c : CtxId) (q : QE) (bd dr dc h w : Nat) (v : Word) (d : Buffer),
    q.op = .fill bd dr dc h w v → q.bkts = [] → s.job.buf? bd = some d → d.fmt = .u32 ∨ d.fmt = .byte →
    d.cls ≠ .host → d.cls ≠ .input → (∀ y ∈ s.job.bufs, y.cls ≠ .host ∧ y.cls ≠ .input) → d.scale = .none →
    dr + h ≤ d.rows → dc + w ≤ d.cols →
    ∃ e, (s.runFx c q).job.buf? bd = some e ∧
      (∀ r k, r < d.rows → k < d.cols → e.rawEl (r * d.cols + k) =
        if dr ≤ r ∧ r < dr + h ∧ dc ≤ k ∧ k < dc + w then v.toNat % 256 ^ d.fmt.bytes else d.rawEl (r * d.cols + k)) ∧
      ∀ n y, n ≠ bd → s.job.buf? n = some y → (s.runFx c q).job.buf? n = some y

/-- R76, R288, R289: the effect of a COPY between buffers of one format without scales moves the bits of every element of its
block unchanged, as if every source element were read before any is written, and leaves every other element as it was. -/
def Obligations.CopyMovesBitsUnchanged : Prop :=
  ∀ (s : State) (c : CtxId) (q : QE) (bd bs dr dc sr sc h w : Nat) (rc : Rc) (d b : Buffer),
    q.op = .copy bd bs dr dc sr sc h w rc → q.bkts = [] → s.job.buf? bd = some d → s.job.buf? bs = some b → d.fmt = b.fmt →
    d.scale = .none → b.scale = .none → (∀ y ∈ s.job.bufs, y.cls ≠ .host ∧ y.cls ≠ .input) →
    dr + h ≤ d.rows → dc + w ≤ d.cols → sr + h ≤ b.rows → sc + w ≤ b.cols →
    ∃ e, (s.runFx c q).job.buf? bd = some e ∧
      ∀ r k, r < d.rows → k < d.cols → e.rawEl (r * d.cols + k) =
        if dr ≤ r ∧ r < dr + h ∧ dc ≤ k ∧ k < dc + w then b.rawEl ((r - dr + sr) * b.cols + (k - dc + sc)) else d.rawEl (r * d.cols + k)

/-- R265, R287: an instruction all of whose effects are in place completes: it leaves its queue, its LOCAL counter counts one, a
summary register takes its value, its flags are set in CURRENT, and with PUB its destination's publish is made under its trick. -/
def Obligations.CompletionCountsAndPublishes : Prop :=
  ∀ (s : State) (c : CtxId) (x : Ctx) (kind : EngKind) (q : QE),
    s.job.ctx? c = some x → (x.queue kind).find? QE.settled = some q →
    Ends (.instructionComplete c kind) s State.pump fun e => ∃ d : State, ∃ y, d.job.ctx? c = some y ∧
      y.queue kind = (x.queue kind).filter (fun p => p.uid != q.uid) ∧ y.arch.pc = x.arch.pc ∧ y.arch.cur = x.arch.cur ||| q.flags ∧
      (∀ k, y.arch.ctr k = if q.ec = some k ∧ (x.arch.ctr k).bound = none then ⟨(x.arch.ctr k).val + 1, none⟩ else x.arch.ctr k) ∧
      (∀ r, y.arch.reg r = if q.sum = some r ∧ r ≠ 0 then q.sumVal else x.arch.reg r) ∧
      y.arch.hnds = x.arch.hnds ∧ y.arch.preds = x.arch.preds ∧
      (q.pub = none → d.job.bufs = s.job.bufs ∧ e = d) ∧
      (∀ b, q.pub = some b → d.job.bufs = (s.job.modBuf b fun z => z.publish q.trick).bufs ∧ e = d.emitPublished b q.trick)

/-- R134 to R136, R159, R306, R309: an output tile that has received its last product drains to its destination, or into the
finished-tile queue when it has an epilogue, with its values as the tile accumulated them; when its check fails VOID is voted with
cause ABFT and the tile suspected, at once or, where the result comes after the epilogue has begun, once that has run (Table 05-8).
R161, R348: a vector engine takes the next entry of the queue of the context whose turn it is on its die, charges it and runs its
epilogue; the entry leaves. -/
def Obligations.TilesDrainAndEpiloguesRun : Prop :=
  (∀ (s : State) (c : CtxId) (x : Ctx) (f : FinTile) (q : QE) (m : MmaOp) (err : TileErr),
    s.job.ctx? c = some x → x.mmaOf f.uid = some (q, m) → s.job.fins.find? (fun f => f.ctx == c && !f.epi) = some f →
    let g : FinTile := { f with acc := errValues err f.h f.w f.acc, chk := errRefs err f.chk }
    let s1 : State := { s with job := { s.job with fins := s.job.fins.map fun y => if y = f then g else y } }
    let voids (e : State) (k : CheckFail) : State := (e.voteVoid f.trick 1).raiseEvent 1 ⟨.tile, 56 * k.die + k.tile⟩
      (some (f.trick, ((e.trick? f.trick).getD .empty).att)) (abftWord k)
    let seen (e0 e : State) : Prop := (g.check = none → e = e0) ∧ ∀ k, g.check = some k → e = voids e0 k
    (m.epi = none → Ends (.outputTileDrain c err) s State.pump fun e =>
      seen (s1.tileDone g (s1.job.onBuckets q.bkts fun j => j.drainTile m g .zero)) e) ∧
    (m.epi.isSome → Ends (.outputTileDrain c err) s State.pump fun e => ∃ n,
      let e0 : State := { s1 with job := { s1.job with fins := s1.job.fins.erase g ++
        [{ g with epi := true, nfrec := n, fail := if err.late then g.check else none }] } }
      if err.late then e = e0 else seen e0 e)) ∧
  (∀ (s : State) (die : Fin 4) (c : CtxId) (x : Ctx) (f : FinTile) (q : QE) (m : MmaOp) (ep : Epi),
    s.grantee .vector die.val = some (c, x) → s.job.ctx? c = some x → s.job.epiEntry c die.val = some f →
    x.mmaOf f.uid = some (q, m) → m.epi = some ep →
    Ends (.epilogue die) s State.pump fun e => ∃ e0 e1 : State, ∃ y, e0.job.bufs = s.job.bufs ∧ e0.job.fins = s.job.fins ∧
      e0.job.ctx? c = some y ∧
      y.passV = x.passV + BitVec.ofNat 64 (ep.charge (f.h * f.w) * (65536 / max 1 x.shv.toNat)) ∧ y.arch = x.arch ∧
      e1 = e0.tileDone f (e0.job.onBuckets q.bkts fun j => j.runEpi m ep f .zero) ∧
      (f.fail = none → e = e1) ∧
      ∀ k, f.fail = some k → e = (e1.voteVoid f.trick 1).raiseEvent 1 ⟨.tile, 56 * k.die + k.tile⟩
        (some (f.trick, ((e1.trick? f.trick).getD .empty).att)) (abftWord k))

/-! ### Movements of the module's own, seats and swaps -/

/-- R53 to R56, R228: the oldest Pot reservation is granted in full once its space is free on every home die, and the oldest
staging request once its bytes are free: the instruction's grant is noted and the request leaves its queue.
R183, R190 to R192: the oldest room request whose units fit is met: a buffer is placed or begins to fill, a sum leaves its slot, or a
copy of it is kept; a spill, a fill and a move each end with the buffer spilled, placed or in place, the first two charged to the
owner; and with nothing in flight but room waits a request no spill could meet faults its context with STASH_EXHAUSTED, the instruction
that asked leaving its queue (R268). -/
def Obligations.GrantsAndMovements : Prop :=
  (∀ (s : State) (c : CtxId) (x : Ctx) (uid : Nat) (rest : List (Nat × CtxId)) (q : QE), s.job.ctx? c = some x → q.uid = uid →
    (∀ t, s.job.potQ = (uid, c) :: rest → x.qv.find? (fun q => q.uid == uid) = some q → q.op = .sts t → s.job.foldFits t = true →
      Ends .potReservationGrant s State.pump fun e => e.job.potQ = rest ∧
        e.job.bufs = (s.job.potReserve c t q.trick).bufs ∧
        ∃ y, e.job.ctx? c = some y ∧ ∀ p ∈ y.qv, p.uid = uid → p.granted = true ∧ p.wait = none) ∧
    (s.job.stageQ = (uid, c) :: rest → x.qc.find? (fun q => q.uid == uid) = some q →
      s.job.stageAsk q.trick (s.job.hostNeed q) = some true →
      Ends .hostStagingGrant s State.pump fun e => e.job.stageQ = rest ∧
        ∃ y, e.job.ctx? c = some y ∧ ∀ p ∈ y.qc, p.uid = uid → p.granted = true ∧ p.wait = none)) ∧
  (∀ (s : State) (r : RoomReq) (rest : List RoomReq) (need : List Nat), s.job.roomQ = r :: rest → s.job.roomNeed r = some need →
    (s.fits need noUnits = true → Ends .roomRequestGrant s State.pump fun e => e.job.roomQ = rest ∧
      match r.kind with
      | .place => ∃ b y, s.job.buf? r.buf = some b ∧ e.job.buf? r.buf = some y ∧ y = { b with place := .placed }
      | .fill => ∃ b y, s.job.buf? r.buf = some b ∧ e.job.buf? r.buf = some y ∧ y = { b with place := .filling }
      | .slot a b => ∃ o p, s.job.heldTile r.buf a b = some o ∧ e.job.heldTile r.buf a b = some p ∧ p = { o with lies := .store }
      | .copy a b t => ∃ o p, s.job.heldTile r.buf a b = some o ∧ e.job.heldTile r.buf a b = some p ∧
          p = { o with saved := ⟨t, o.acc, o.chk⟩ :: o.saved }) ∧
    (∀ x, s.job.ctx? r.ctx = some x → s.roomDead = true → s.makeRoom need = none →
      Ends .roomRequestFail s State.pump fun e => ∃ e0 : State, ∃ y, e0.job.roomQ = rest ∧ e0.stat.exh = true ∧
        e0.job.bufs = s.job.bufs ∧ e0.job.ctx? r.ctx = some y ∧ y.arch = x.arch ∧
        (∀ k, y.queue k = (x.queue k).filter fun q => r.uid = 0 || q.uid != r.uid) ∧
        (∀ d, d ≠ r.ctx → e0.job.ctx? d = s.job.ctx? d) ∧
        e = e0.raiseFault r.ctx r.trick stSTASH r.handle r.pc r.insn (BitVec.ofNat 64 (32768 * need.sum)))) ∧
  (∀ (s : State) (b : Buffer), s.job.buf? b.id = some b →
    let charged (e : State) : Prop := ∀ o, s.job.ctx? b.owner = some o → ∃ p, e.job.ctx? b.owner = some p ∧
      p.copy = min (o.copy + 2 * b.bytes) (2 ^ 63 - 1)
    (b.place = .spilling → Ends (.stashSpillComplete b.id) s State.pump fun e =>
      charged e ∧ ∃ y, e.job.buf? b.id = some y ∧ y = { b with place := .spilled }) ∧
    (b.place = .filling → Ends (.stashFillComplete b.id) s State.pump fun e =>
      charged e ∧ ∃ y, e.job.buf? b.id = some y ∧ y = { b with place := .placed, inAside := none }) ∧
    (b.moving = true → Ends (.relocationComplete b.id) s State.pump fun e =>
      (∀ d, (e.job.ctx? d).map Ctx.copy = (s.job.ctx? d).map Ctx.copy) ∧
        ∃ y, e.job.buf? b.id = some y ∧ y = { b with moving := false }))

/-- R117: a sum out of its slot returns, with its checksum state, to a slot of its tile once that tile has one, sums that hold them
going out first when the working store has room for them and no earlier request waits for room (R191).
R163 to R167: a duplicate's compare counts, and on a mismatch counts that, votes VOID with cause SPOT for the trick's current attempt
and has a third copy run where a third engine is left for it; the third copy's verdict is recorded. -/
def Obligations.SlotReloadAndSpotChecks : Prop :=
  ∀ (s : State) (die : Fin 4),
    (∀ c buf r col o l, s.job.heldTile buf r col = some o → o.ctx = c → o.lies ≠ .slot →
      spillsFor o.pair (s.job.slotSums o.die o.tile) (s.job.slotsAt o.die o.tile) = some l →
      l = [] ∨ (s.job.roomQ = [] ∧ ({ s with job := s.job.modTile buf r col fun y => { y with lies := .region none } } : State).fits
        (unitsAt o.die (l.map fun (y : OutTile) => 2 * y.slots).sum) noUnits = true) →
      Ends (.accumulatorSlotReload c buf r col) s State.pump fun e => ∃ k,
        e.job.heldTile buf r col = some { o with lies := .slot, slot := k }) ∧
    (∀ w, s.job.spotWait.find? (fun w => w.die == die.val) = some w →
      let n : Nat := min (s.stat.spotRun.get die + 1) (2 ^ 32 - 1)
      (Next (.spotDuplicateCompare die false) s fun t => t.job.spotWait = s.job.spotWait.erase w ∧ t.stat.spotRun.get die = n ∧
        t.stat.spotMis = s.stat.spotMis) ∧
      ∃ e e0 e1 : State, ∃ third, exec (.spotDuplicateCompare die true) s = .next e.settle ∧
        e0.stat.spotRun.get die = n ∧ e0.stat.spotMis.get die = min (s.stat.spotMis.get die + 1) (2 ^ 32 - 1) ∧
        e0.job.spotWait = s.job.spotWait.erase w ∧
        e1 = (if (s.trick? w.trick).map TrickRec.att = some w.att then e0.voteVoid w.trick 2 else e0) ∧
        third.die = die.val ∧ third.a = w.eng ∧ third.trick = w.trick ∧ third.att = w.att ∧
        (e = { e1 with job := { e1.job with spotThird := e1.job.spotThird ++ [third] } } ∨ e = e1.spotVerdict third 2)) ∧
    (∀ t v, s.job.spotThird.find? (fun t => t.die == die.val) = some t →
      Ends (.thirdCopyVerdict die v) s State.settle fun e =>
        e = { s with job := { s.job with spotThird := s.job.spotThird.erase t } }.spotVerdict t (match v with
          | .aSuspect => 0 | .bSuspect => 1 | .both => 2))

/-- R357, R360, R472: a swapped-out context leaves its seat and is counted (one that makes way for a rotation goes to the spare seat
instead); one loaded into a seat is resident there and executes its
instruction afresh; STUCK is set after 50,000 counts of the condition of R360. -/
def Obligations.SwapsMoveContexts : Prop :=
  ∀ (s : State) (c : CtxId) (x : Ctx), s.job.ctx? c = some x →
    (x.resid = .swapOut → x.entries.any QE.begun = false → s.job.fins.any (fun f => f.ctx == c) = false →
      ∃ e : State, exec (.swapOutComplete c) s = .next ((e.pump).lagSwapN s.job.lagLeft).settle ∧
        (∃ y, e.job.ctx? c = some y ∧ y.seat = s.seatSpare x.seat ∧ y.resid = (if (s.seatSpare x.seat).isSome then .swapIn else .out) ∧
          y.arch = x.arch ∧ y.entries = x.entries ∧ y.stall = x.stall ∧
          y.cswaps = min (x.cswaps + 1) (2 ^ 32 - 1)) ∧
        e.stat.swaps = (s.stat.swaps + 1) % 2 ^ 64 ∧ e.job.evict = none) ∧
    (x.resid = .swapIn → exec (.swapInComplete c) s = .next (withCtx s c (some { x with resid := .resident, stall := none })).pump) ∧
    (∀ t, s.job.stuckSince = some t → (s.aon.counter - t).toNat ≥ 50000 →
      exec .schedStuckTimeout s = .next { s with stat := { s.stat with stuck := true } })

/-- R272, R464: an uncorrectable error of a seat in service raises its event; the context on it loses its seat: with an open trick
not yet voted OK it is faulted and VOID voted, with none or one voted OK it is torn down with ABORTED; a corrected error is
counted. -/
def Obligations.SeatErrorsVoidOrTearDown : Prop :=
  ∀ (s : State) (seat : Fin 18),
    (∀ check : Byte, s.hl.inService ⟨.seat, seat.val⟩ = true → check ≠ 0 → check ≤ 5 →
      ∃ e e0 : State, ∃ tk, exec (.seatError seat check) s = .next (e.seatCheck).pump ∧
        e0 = s.raiseEvent 8 ⟨.seat, seat.val⟩ tk 0 ∧
        ((s.job.ctxList.find? fun x => x.2.seat == some seat) = none → e = e0) ∧
        ∀ c x, (s.job.ctxList.find? fun x => x.2.seat == some seat) = some (c, x) →
          let ts := x.joinedTricks
          let okd (t : Nat) : Prop := ((e0.trick? t).getD .empty).voted = some .ok
          (∀ t, ts.head? = some t → ¬ okd t →
            e = ({ e0 with job := e0.job.modCtx c fun y => { y with faulted := true } }.voteVoid t 5).settle) ∧
          ((∀ t, ts.head? = some t → okd t) → ∃ rec : List Byte, rec.take 2 = [stABORTED, BitVec.ofNat 8 c.val] ∧
            byteAt rec 4 = BitVec.ofNat 8 seat.val ∧
            e = (((e0.teardownCore c).ctxCompl ts.head? stABORTED rec).teardownVotes ts).settle)) ∧
    (∀ b,
      let x := s.hl.suspOf ⟨.seat, seat.val⟩
      let full : Prop := x.ce + 1 ≥ 2 ^ (s.cfg.esc.toNat / 2 ^ 24 % 16)
      (¬ full → exec (.seatCorrectedError seat b) s = .next ({ s with hl := s.hl.setSusp { x with ce := x.ce + 1 } } : State).pump) ∧
      (full → exec (.seatCorrectedError seat b) s =
        .next ({ s with hl := s.hl.setSusp { x with ce := 0 } }.raiseEvent 7 ⟨.seat, seat.val⟩
        (s.workTrick ⟨.seat, seat.val⟩) 0).pump))

/-! ### Votes, seals and voids -/

/-- R229, R233, R234: a module whose conditions hold votes OK; a child's vote of the current attempt is taken at this node, and
the parent's decision is applied and passed on. A context whose fault outlives a seal so applied has this module vote VOID (R268). -/
def Obligations.VotesAndDecisionsAreTaken : Prop :=
  ∀ (s : State) (h : FrameHdr) (v : Verdict) (commit : Bool) (cause : BitVec 4) (origin : BitVec 16),
    (∀ t : BitVec 48, s.voteReady t.toNat = true → Ends (.moduleVoteOk t) s (fun e => e.refault.pump) fun e => ∃ r e0,
      s.trick? t.toNat = some r ∧ e0 = s.modTrick t.toNat (fun r => { r with voted := some .ok }) ∧
      e = e0.nodeVote t.toNat ⟨none, .ok, r.upd.all fun u => !u.nf && !u.nf2, 0, 0xFFFF⟩) ∧
    (∀ r, JobFrame s h → (taken s h).trick? h.trick.toNat = some r → h.attempt = r.att → v ≠ .halt →
      (taken s h).children.contains (midOf h.src) = true →
      Ends (.sealVoteReceived h v commit cause origin) s (fun e => e.refault.forceDone.pump) fun e =>
        e = (taken s h).nodeVote h.trick.toNat ⟨some ((taken s h).rankOf (midOf h.src)), v, commit, cause, origin⟩) ∧
    (∀ r, JobFrame s h → (taken s h).trick? h.trick.toNat = some r → h.attempt = r.att → (taken s h).parent = some (midOf h.src) →
      s.fab.reconciling = false → (v = .ok → h.trick.toNat = s.stat.sealedN) →
      Ends (.sealDecisionReceived h v commit cause origin) s (fun e => e.takeHeldSeal.refault.forceDone.pump) fun e =>
        e = (taken s h).decided h.trick.toNat v commit cause origin)

/-- R230, R234: on a bench module, the root of its own tree, the module's OK vote for the oldest unsealed trick seals it: the
sealed count grows by one. -/
def Obligations.SoleMemberOkVoteSeals : Prop :=
  ∀ (s : State) (t : BitVec 48), s.fab.view = none → s.fab.reconciling = false → s.voteReady t.toNat = true →
    t.toNat = s.stat.sealedN → s.job.t0.votes = [] → s.job.t0.fwdOk = false → s.job.t0.fwdVoid = false → s.job.t1.fwdOk = false →
    Ends (.moduleVoteOk t) s (fun e => e.refault.pump) fun e => e.stat.sealedN = s.stat.sealedN + 1

/-- R236, R255, R286: a VOID decision on trick t restores every context that had joined t or a later open trick to the snapshot of its
oldest voided trick: PC, registers and predicates, its LOCAL counters with the completions of surviving tricks counted since, its
handles but those bound to an export that is withdrawn, CURRENT from SEALED (R109), with its tag open again; the attempt number
advances; a context that had joined none of them keeps its registers. No buffer declared in a voided trick is left. -/
def Obligations.VoidRestoresSnapshots : Prop :=
  ∀ (s : State) (t : Nat) (halt : Bool) (cause : BitVec 4) (origin : BitVec 16) (c : CtxId) (x : Ctx) (r : TrickRec),
    s.job.ctx? c = some x → s.trick? t = some r →
    let s' := s.applyVoid t halt cause origin
    let gone (h : Option Hnd) : Prop := ∃ k b i w n, h = some k ∧ k.owner = false ∧ b ∈ s.job.bufs ∧ b.id = k.buf ∧
      b.exp = some (i, w, some n) ∧ n ≥ t
    ∃ y, s'.job.ctx? c = some y ∧
      (∀ k ∈ x.joined, k.trick ≥ t → (∀ j ∈ x.joined, j.trick ≥ t → j ≠ k → k.trick < j.trick) →
        y.arch.pc = k.snap.pc ∧ y.arch.regs = k.snap.regs ∧ y.arch.preds = k.snap.preds ∧ y.arch.cur = x.sealedFl ∧
        (∀ e, y.arch.ctr e = if (k.snap.ctr e).bound = none then
          ⟨(k.snap.ctr e).val + BitVec.ofNat 32 (k.incs.filter fun p => decide (p.1 < t) && p.2 == e).length, none⟩ else k.snap.ctr e) ∧
        (∀ h, (gone (k.snap.hnd h) → y.arch.hnd h = none) ∧ (¬ gone (k.snap.hnd h) → y.arch.hnd h = k.snap.hnd h)) ∧
        y.tag = some k.trick ∧ y.faulted = false ∧ y.halted = halt) ∧
      ((∀ j ∈ x.joined, j.trick < t) → y.arch.pc = x.arch.pc ∧ y.arch.regs = x.arch.regs ∧ y.arch.preds = x.arch.preds ∧
        y.arch.ctrs = x.arch.ctrs ∧ y.arch.cur = x.sealedFl ∧ y.tag = x.tag) ∧
      (s'.trick? t).map TrickRec.att = some (r.att + 1) ∧
      ∀ b ∈ s'.job.bufs, ∀ k, b.declTrick = some k → k < t

/-! ### Host commands -/

/-- R335, R336: ADMIT from IDLE with a readable image makes the job ADMITTING with its JOBID, SEED, EPOCH and INPAGES, nothing else
of a job, notes whether a parameter is out of range, and reads the image; the image, when it passes every check, is loaded: the job
runs, its entry points and code are those of the image, counters are cleared, the starting trick is the sealed count, the completion
carries the level, and the issuing queue pair owns the job. -/
def Obligations.AdmissionLoadsJob : Prop :=
  ∀ (s : State) (h : HostCmd),
    (∀ (iregion : BitVec 16) (ilen : Word) (ioff seed : Dword) (jobid epoch inpages : Word) (trick cursor : BitVec 48),
      let b := s.takeCmd h;
      Turn s (.admitJob h iregion ilen ioff seed jobid epoch inpages trick cursor) → s.job.state = .idle →
      b.canRead iregion.toNat ioff.toNat ilen.toNat = true →
      Next (.admitJob h iregion ilen ioff seed jobid epoch inpages trick cursor) s fun t => ∃ e : State, ∃ bad,
        t = e.sendRead iregion.toNat ioff.toNat ilen.toNat ∧ e = { b with job := e.job } ∧ e.job.state = .admitting ∧
        e.job.jobid = jobid ∧ e.job.seed = seed ∧ e.job.epoch = epoch ∧ e.job.inpages = inpages.toNat ∧ e.job.bufs = [] ∧
        (∀ c, e.job.ctx? c = none) ∧
        e.job.admission = some ⟨h, trick.toNat, cursor.toNat, iregion.toNat, ilen.toNat, bad, jobid, epoch⟩ ∧
        (bad = false ↔ h.rsvSet = false ∧ h.flags = 0 ∧ 1 ≤ inpages.toNat ∧ inpages.toNat ≤ 251133952)) ∧
    (∀ (image : List Byte) (trick cursor rn : Nat) (jobid epoch : Word), s.job.state = .admitting →
      s.job.admission = some ⟨h, trick, cursor, rn, image.length, false, jobid, epoch⟩ → s.job.recov.rebuild = none →
      trick ≠ 2 ^ 48 - 1 →
      epoch = s.fab.epoch → s.inView jobid = true → imageForm image = true → s.fab.self ≠ .quarantine → s.fab.self ≠ .offered →
      s.hl.failed = false → fieldAt image 6 2 ≤ s.levelOf jobid → s.imageSigned image = true →
      ∃ e : State, exec (.admissionImageReceived image) s =
          .next ((e.complete h 0x01 stOK (leBytes (s.levelOf jobid) 2)).setOwner h.qp).settle ∧
        e.job.state = .running ∧ e.stat.sealedN = trick ∧ e.stat.cursor = cursor ∧ e.stat.voids = 0 ∧
        e.job.code = (image.drop (fieldAt image 16 4)).take (fieldAt image 20 4) ∧
        e.job.entries = (List.range (fieldAt image 12 2)).map fun i => fieldAt image (64 + 8 * i) 4)

/-- R337 to R339: END of a running job without FORCE drains it; the end of the drain tears every context down and begins the wipe;
the wipe's end leaves no job but the rings' counts, the halt and the attempts that SEAL.STATE reads (R537), no owner, and
completes every END that waited; END of an idle job completes with ALREADY. -/
def Obligations.EndDrainsAndWipes : Prop :=
  ∀ (s : State) (h : HostCmd),
    (CleanCmd s (.endJob h) → s.job.state = .idle ∨ s.job.state = .wiping →
      Completes (.endJob h) s id h 0x02 stALREADY [] fun e => e = s.takeCmd h) ∧
    (CleanCmd s (.endJob h) → s.job.state = .running → h.flags.getLsbD 0 = false → ∃ e : State,
      exec (.endJob h) s = .next (e.endIfDrained).pump ∧ e.job.state = .ending ∧ e.job.draining = true ∧
        e.job.ends = s.job.ends ++ [h] ∧ e.job.ctxs = s.job.ctxs ∧ e.job.bufs = s.job.bufs) ∧
    (s.job.state = .ending → s.drained = true → s.job.recov.ck = none → Ends .jobEndDrained s State.pump fun e =>
      e.job.state = .wiping ∧ ∀ c, e.job.ctx? c = none) ∧
    (s.job.state = .wiping → s.aon.braceAt = none → s.job.recov.ck = none → Next .wipeComplete s fun t =>
      t.job = { Job.cleared with
        rings := s.job.rings
        halt := s.job.halt
        t0 := { TrickRec.empty with att := s.job.t0.att, abase := s.job.t0.abase }
        t1 := { TrickRec.empty with att := s.job.t1.att, abase := s.job.t1.abase } } ∧ t.host.owner = none ∧ t.stat = s.stat ∧ t.cfg = s.cfg ∧
      ∃ e : State, t = (s.job.ends.foldl (fun e h => e.complete h 0x02 stOK []) e).flushHeld)

/-- R241, R430, R343, R344: RESUME of a halted job clears HALT, starts every open trick's attempt base anew and completes with OK;
OWN makes the issuing queue pair the owner; CREATE starts the lowest free context at its entry point with ARG in s1 and its
number in s2; KILL tears its context down. -/
def Obligations.ResumeOwnCreateKill : Prop :=
  ∀ (s : State) (h : HostCmd),
    (CleanCmd s (.resume h) → s.job.state = .running → s.job.halt = true →
      ∃ e : State, exec (.resume h) s = .next (((e.complete h 0x03 stOK []).castRecorded s.stat.sealedN).castRecorded
          (s.stat.sealedN + 1)).pump ∧
        e.job.halt = false ∧ e.job.t0 = { s.job.t0 with abase := s.job.t0.att } ∧ e.job.t1 = { s.job.t1 with abase := s.job.t1.att } ∧
        ∀ c, e.job.ctx? c = (s.job.ctx? c).map fun x => { x with halted := false }) ∧
    (CleanCmd s (.own h) → Next (.own h) s fun t => t.host.owner = some h.qp ∧ t.job = s.job ∧ t.stat = s.stat) ∧
    (∀ (entry : Byte) (shm shv shc : BitVec 16) (arg : Dword) (c : CtxId) (pc : Nat), CleanCmd s (.create h entry shm shv shc arg) → s.job.state = .running →
      s.job.entries[entry.toNat]? = some pc → s.job.ctx? c = none →
      (∀ d, d < c → (s.job.ctx? d).isSome) →
      Completes (.create h entry shm shv shc arg) s State.settle h 0x10 stOK [BitVec.ofNat 8 c.val] fun e =>
        ∃ y, e.job.ctx? c = some y ∧ y.arch.pc = BitVec.ofNat 64 pc ∧
          (∀ r, y.arch.reg r = if r = 1 then arg else if r = 2 then BitVec.ofNat 64 c.val else 0) ∧
          (∀ p, y.arch.pred p = decide (p = 0)) ∧ (∀ k, y.arch.ctr k = ⟨0, none⟩) ∧ (∀ b, y.arch.hnd b = none) ∧ y.arch.cur = 0 ∧
          y.shm = shm ∧ y.shv = shv ∧ y.shc = shc ∧ y.tag = none ∧ y.joined = [] ∧ (∀ d, d ≠ c → e.job.ctx? d = s.job.ctx? d)) ∧
    (∀ (ctx : Byte) (c : CtxId) (x : Ctx), CleanCmd s (.kill h ctx) → s.job.state = .running → ctx.toNat = c.val → s.job.ctx? c = some x →
      ∃ e : State, exec (.kill h ctx) s =
          .next (((e.complete h 0x11 stOK []).teardownVotes x.joinedTricks).forceDone).pump ∧
        e.job.ctx? c = none ∧ ∀ b ∈ e.job.bufs, b.owner = c → b.released = true)

/-- R420 to R423: a valid REGREG of a HOST region enters it, pending until it can take effect; of a PEER region it enters it with
the store queue pair being opened; REGDEL of a region nothing names marks it for deletion. -/
def Obligations.RegionsRegisterAndDelete : Prop :=
  ∀ (s : State) (h : HostCmd) (region : BitVec 16) (access : Byte) (rkey : Word) (vaddr length : Dword) (qpn : Word) (addr : BitVec 128),
    (∀ q, let b := s.takeCmd h;
      CleanCmd s (.regreg h region 0 access rkey vaddr length qpn 0) → region ≠ 0 → access.toNat ≤ 3 → length ≠ 0 →
      0x1000 ≤ qpn.toNat → qpn.toNat < 0x2000 →
      b.qp? (qpn.toNat - 0x1000) = some q → q.st = .ready → q.role = 1 ∨ q.role = 3 →
      b.host.regions.find? (fun r => r.num == region.toNat) = none →
      ∃ r : Region, exec (.regreg h region 0 access rkey vaddr length qpn 0) s =
          .next ((b.setRegions (b.host.regions ++ [r])).regTry region.toNat).pump ∧
        r.num = region.toNat ∧ r.peer = false ∧ r.qp.toNat = qpn.toNat - 0x1000 ∧ r.read = access.getLsbD 0 ∧ r.write = access.getLsbD 1 ∧
        r.rkey = rkey ∧ r.vaddr = vaddr.toNat ∧ r.length = length.toNat ∧ r.orphaned = false ∧ r.pending = some h) ∧
    (let b := s.takeCmd h;
      CleanCmd s (.regreg h region 1 access rkey vaddr length 0 addr) → region ≠ 0 → access.toNat ≤ 3 → length ≠ 0 →
      b.isBench = false → (b.storePort addr).isSome → b.freeSqp.isSome →
      b.host.regions.find? (fun r => r.num == region.toNat) = none →
      ∃ (e : State) (r : Region), exec (.regreg h region 1 access rkey vaddr length 0 addr) s =
          .next ((e.setRegions (e.host.regions ++ [r])).regTry region.toNat) ∧
        r.num = region.toNat ∧ r.peer = true ∧ r.addr = addr ∧ r.read = access.getLsbD 0 ∧ r.write = access.getLsbD 1 ∧
        r.length = length.toNat ∧ r.pending = some h ∧ r.sqp.isSome ∧ HostChange b e) ∧
    (∀ r, let b := s.takeCmd h;
      CleanCmd s (.regdel h region) → b.region? region.toNat = some r → b.regionNamed region.toNat = false → r.deleting = none →
      exec (.regdel h region) s = .next ((b.setRegions (b.host.regions.map fun r =>
        if r.num = region.toNat ∧ r.pending.isNone then { r with deleting := some h } else r)).regTry region.toNat))

/-- R419, R428, R429: INPUB adds one sealed publish to every live INPUT buffer overlapping its range and completes with their
count; CQBIND gives the CONTROL queue pair an empty ring at its place; SQBIND binds a submission ring to the queue pair. -/
def Obligations.InputPublishAndRingBinding : Prop :=
  ∀ (s : State) (h : HostCmd),
    (∀ offset length : Dword, CleanCmd s (.inpub h offset length) → s.job.state = .running → length ≠ 0 →
      offset.toNat + length.toNat ≤ s.job.inpages * 4096 →
      let hit (b : Buffer) : Bool := b.cls == .input && !b.dead &&
        decide (b.offset < offset.toNat + length.toNat ∧ offset.toNat < b.offset + b.bytes)
      Completes (.inpub h offset length) s State.pump h 0x22 stOK (leBytes (s.job.bufs.filter hit).length 4) fun e =>
        e.job.bufs = s.job.bufs.map (fun b => if hit b then { b with pubSealed := b.pubSealed + 1 } else b) ∧
        e.job.ctxs = s.job.ctxs) ∧
    (∀ (log2n : Byte) (region : BitVec 16) (offset : Dword) (r : Region) (q : Qp), let b := s.takeCmd h;
      CleanCmd s (.cqbind h log2n region offset) → 4 ≤ log2n.toNat → log2n.toNat ≤ 16 → offset.toNat % 64 = 0 → b.region? region.toNat = some r →
      r.write = true → offset.toNat + 64 * 2 ^ log2n.toNat ≤ r.length → b.qp? h.qp.toNat = some q →
      Completes (.cqbind h log2n region offset) s State.flushHolding h 0x23 stOK [] fun e =>
        e = b.setQp h.qp.toNat { q with ring := some ⟨region.toNat, offset.toNat, log2n.toNat, 0,
          (q.ring.map CRing.seen).getD b.host.told⟩ }) ∧
    (∀ ring : Byte, CleanCmd s (.sqbind h ring) → ring.toNat < 128 →
      Completes (.sqbind h ring) s id h 0x24 stOK [] fun e =>
        e.job.ring ring.toNat = { s.job.ring ring.toNat with bound := some h.qp } ∧
        ∀ k, k ≠ ring.toNat → e.job.ring k = s.job.ring k)

/-- R398, R401, R400: JOINVIEW on an unjoined module and OVERRIDE read their record, and a record that passes its checks is
installed with completion OK. Installing a view puts its epoch and entries in force, forgets promises and the rounds of the
old epoch, and makes this module ACTIVE or SPARE as its entry says, or QUARANTINE when it is DEAD or absent (R399, R400). -/
def Obligations.HostGivenViewsInstall : Prop :=
  ∀ (s : State) (h : HostCmd) (region : BitVec 16) (len : Word) (offset : Dword),
    (let b := s.takeCmd h;
      CleanCmd s (.joinview h region len offset) → b.canRead region.toNat offset.toNat len.toNat = true →
      exec (.joinview h region len offset) s =
        .next ({ b with host := { b.host with viewRead := b.host.viewRead ++ [(⟨h, false, region.toNat, len.toNat, false⟩ : ViewRead)] } }.sendRead region.toNat
          offset.toNat len.toNat)) ∧
    (let b := s.takeCmd h;
      CleanCmd s (.override h region len offset) → b.canRead region.toNat offset.toNat len.toNat = true →
      exec (.override h region len offset) s =
        .next ({ b with host := { b.host with viewRead := b.host.viewRead ++ [(⟨h, true, region.toNat, len.toNat, false⟩ : ViewRead)] } }.sendRead region.toNat
          offset.toNat len.toNat)) ∧
    (∀ (record : List Byte) (ovr : Bool) (rn : Nat) (rest : List ViewRead) (v : View),
      s.host.viewRead = ⟨h, ovr, rn, record.length, false⟩ :: rest → s.isBench = false →
      parseView (record.take (if ovr then record.length - 5396 else record.length)) = some v → v.sysid = s.cfgSysid →
      (if ovr then v.epoch > s.fab.epoch ∧
          s.opVerify permOVR (record.take (record.length - 5396)) (record.drop (record.length - 5396)) = true
        else s.fab.epoch = 0 ∧ v.epoch = 1 ∧ (v.entry? Config.ownMid).isSome ∧ s.roleBars v = false) →
      exec (.viewRecordReceived record) s = .next (((({ s with host := { s.host with viewRead := rest } }.readDone rn record.length).complete h
        (if ovr then 0x31 else 0x30) stOK []).install v ovr).carryOn)) ∧
    (∀ (v : View) (ovr : Bool), s.job.state = .idle → s.job.admission = none → s.fab.held = [] → (∀ c, s.job.ctx? c = none) →
      (s.install v ovr).fab.epoch = v.epoch ∧ (s.install v ovr).fab.view = some v ∧ (s.install v ovr).fab.promised = 0 ∧
      (s.install v ovr).fab.accepted = none ∧ (s.install v ovr).fab.coord = none ∧ (s.install v ovr).fab.overridden = ovr ∧
      (s.install v ovr).fab.self = (match v.entry? Config.ownMid with
        | none => .quarantine
        | some e => match e.state with
          | .dead => .quarantine
          | .spare => .spare
          | .active => .active))

/-- R399: a VIEWCHG the view in force allows is entered; the coordinator proposes it, another member sends it to the coordinator; and
one forwarded by a member is entered at the coordinator. -/
def Obligations.ViewChangesReachCoordinator : Prop :=
  ∀ (s : State) (h : HostCmd) (action : Byte) (mid rank spareMid : BitVec 16), let b := s.takeCmd h;
    CleanCmd s (.viewchg h action mid rank spareMid) → b.chgBad action mid rank spareMid = none →
    ∃ e : State, e = { b with fab := { b.fab with chgs := b.fab.chgs ++ [⟨action.toNat, mid, rank, spareMid, some h, b.isCoord⟩] } } ∧
      (e.isCoord = true → exec (.viewchg h action mid rank spareMid) s = .next e.carryOn) ∧
      (∀ m, e.isCoord = false → e.coordinator = some m → exec (.viewchg h action mid rank spareMid) s =
        .next (e.sendMemb m 10 0 0 (leBytes action.toNat 2 ++ leBytes mid.toNat 2 ++ leBytes rank.toNat 2 ++ leBytes spareMid.toNat 2) none))

/-- R439, R457, R458: CKPTCFG sets the intervals and targets, at once or after the refresh that runs; CKPTNOW asks for the next
sealed count; RESTORE reads its record, and a record that passes its checks becomes the shadow, the member's sealed count and
cursor those of the record. -/
def Obligations.CheckpointCommands : Prop :=
  ∀ (s : State) (h : HostCmd),
    (∀ (p : BitVec 16) (f : Word) (ta tb : BitVec 16) (aoff boff : Dword), CleanCmd s (.ckptcfg h p f ta tb aoff boff) → s.job.state = .running → p ≠ 0 →
      f.toNat % p.toNat = 0 → (s.takeCmd h).targetBad ta.toNat = false → (s.takeCmd h).targetBad tb.toNat = false →
      Completes (.ckptcfg h p f ta tb aoff boff) s id h 0x40 stOK [] fun e =>
        (s.job.recov.refresh = none → e.job.recov.p = p.toNat ∧ e.job.recov.f = f.toNat ∧ e.job.recov.ta = ta.toNat ∧
          e.job.recov.tb = tb.toNat ∧ e.job.recov.aoff = aoff.toNat ∧ e.job.recov.boff = boff.toNat) ∧
        (s.job.recov.refresh.isSome → e.job.recov.p = s.job.recov.p ∧
          e.job.recov.pendCfg = some (p.toNat, f.toNat, ta.toNat, tb.toNat, aoff.toNat, boff.toNat))) ∧
    (CleanCmd s (.ckptnow h) → s.job.state = .running → s.job.recov.ta ≠ 0 →
      Next (.ckptnow h) s fun t => t.job.recov = { s.job.recov with nowReqs := s.job.recov.nowReqs ++ [h] }) ∧
    (∀ (region : BitVec 16) (offset length : Dword), let b := s.takeCmd h;
      CleanCmd s (.restore h region offset length) → s.job.state = .running → s.job.recov.issuedT = false → s.job.recov.restored = false →
      b.canRead region.toNat offset.toNat length.toNat = true →
      exec (.restore h region offset length) s = .next ({ b with host := { b.host with
        restoreRead := b.host.restoreRead ++ [(⟨h, length.toNat, region.toNat, false⟩ : RestoreRead)] } }.sendRead region.toNat offset.toNat length.toNat)) ∧
    (∀ (record : List Byte) (rn : Nat) (rest : List RestoreRead),
      s.host.restoreRead = ⟨h, record.length, rn, false⟩ :: rest → RestoreGood s record →
      ∃ e : State, exec (.restoreRecordReceived record) s = .next (e.complete h 0x42
          (if fieldAt record 32 6 = fieldAt record 16 6 then stOK else stRNGSKEW) (leBytes (fieldAt record 16 6) 6)).settle ∧
        e.stat.sealedN = fieldAt record 16 6 ∧ e.stat.cursor = fieldAt record 24 6 ∧ e.job.recov.restored = true ∧
        ∃ k, e.job.recov.shadow = some k ∧ k.trick = fieldAt record 16 6)


/-! ### Queue pairs, store, packets -/

/-- R415, R416: a REQ with version 1, clear reserved bytes, a supported path MTU and a role is granted the lowest free entry,
CONNECTING, and answered with REP; a wrong form is answered with REJ code 2, a reserved role with 3, a full table with 1. RTU
makes the entry READY; DREQ is answered with DREP; DREQ and DREP free it; 50,000 counts free a CONNECTING entry and an ERROR
entry; exhausted retries put a READY one into ERROR. -/
def Obligations.QueuePairsOpenAndClose : Prop :=
  ∀ (s : State) (port : Fin 4) (role version : Byte) (rsvZero : Bool) (mtu : Nat) (peer : BitVec 24) (retry rnr : BitVec 3)
    (time : BitVec 5) (qp : BitVec 12),
    let ask := Instr.cmReq port role version rsvZero mtu ⟨peer, retry, rnr, time⟩;
    let formOk := version = 1 ∧ rsvZero = true ∧ (mtu = 1024 ∨ mtu = 2048 ∨ mtu = 4096);
    ((s.host.ports.get port).up = true →
      (¬ formOk → exec ask s = .next (s.send (.rej port 2))) ∧
      (formOk → ¬ (role = 1 ∨ role = 2 ∨ role = 3) → exec ask s = .next (s.send (.rej port 3))) ∧
      (formOk → role = 1 ∨ role = 2 ∨ role = 3 → (∀ i, i < 4096 → (s.qp? i).isSome) → exec ask s = .next (s.send (.rej port 1))) ∧
      (∀ i, formOk → role = 1 ∨ role = 2 ∨ role = 3 → i < 4096 → s.qp? i = none → (∀ j, j < i → (s.qp? j).isSome) →
        (role = 2 → (s.host.qps.filter fun p => p.2.role == 2).length < 16) →
        Next ask s fun t => HostChange s t ∧ Outputs s t [.rep port (BitVec.ofNat 12 i) (s.repData i)] ∧
          (∀ j, j ≠ i → t.qp? j = s.qp? j) ∧ ∃ q, t.qp? i = some q ∧ q.st = .connecting ∧ q.role = role ∧ q.port = port ∧
            q.mtu = mtu ∧ q.peer = peer ∧ q.retry = retry.toNat ∧ q.rnr = rnr.toNat ∧ q.tries = 0 ∧ (8 ≤ time.toNat → time.toNat ≤ 20 → q.timeout = time.toNat) ∧
            q.ring = none ∧ q.rx = [] ∧ q.since = s.aon.counter)) ∧
    (∀ q, s.qp? qp.toNat = some q →
      (Next (.cmRtu qp) s fun t => HostChange s t ∧ Outputs s t [] ∧ (∀ j, j ≠ qp.toNat → t.qp? j = s.qp? j) ∧
        t.qp? qp.toNat = some (if q.st = .connecting then { q with st := .ready } else q)) ∧
      (Ends (.cmDreq (.host qp)) s State.pump fun e => e.qp? qp.toNat = none ∧ Sends s e (.drep (.host qp)) ∧
        (q.st = .ready → ∀ r ∈ e.host.regions, r.peer = false → r.qp = qp → r.orphaned = true)) ∧
      (Ends (.cmDrep (.host qp)) s State.pump fun e => e.qp? qp.toNat = none ∧
        (q.st = .ready → ∀ r ∈ e.host.regions, r.peer = false → r.qp = qp → r.orphaned = true)) ∧
      (q.st = .connecting → 50000 ≤ (s.aon.counter - q.since).toNat → Next (.connectingTimeout qp) s fun t =>
        HostChange s t ∧ Outputs s t [] ∧ t.qp? qp.toNat = none ∧ ∀ j, j ≠ qp.toNat → t.qp? j = s.qp? j) ∧
      (q.st = .error → 50000 ≤ (s.aon.counter - q.since).toNat → Next (.qpErrorTimeout qp) s fun t =>
        HostChange s t ∧ Outputs s t [] ∧ t.qp? qp.toNat = none ∧ ∀ j, j ≠ qp.toNat → t.qp? j = s.qp? j) ∧
      (q.st = .ready → Ends (.qpRetryExhausted (.host qp)) s State.pump fun e => e.host.errQp = true ∧
        (∃ q', e.qp? qp.toNat = some q' ∧ q'.st = .error) ∧
        ∀ r ∈ e.host.regions, r.peer = false → r.qp = qp → r.orphaned = true))

/-- R421, R422: the store's REP makes the queue pair of the region being opened READY, answered with RTU, and ends the
region's orphanage; no answer within 5,000,000 counts, or REJ, ends the attempt; an ARP reply that resolves the store's
address sends the REQ; an orphaned region tries again after 50,000 counts; a store queue pair that is closed or lost leaves its
region orphaned, to be opened again. -/
def Obligations.StoreQueuePairsOpenAgain : Prop :=
  ∀ (s : State) (region : BitVec 16) (r : Region) (i : Nat) (q : SQp),
    (s.openingRegion region.toNat = some (r, i, q) → s.host.arp.any (fun e => e.1 == r.addr) = true →
      ∃ e : State, exec (.storeConnectReply region true) s = .next (e.regTry r.num).pump ∧ HostChange s e ∧
        alGet e.host.sqps i = some { q with ready := true } ∧ Outputs s e [.rtu (.store (BitVec.ofNat 6 i))] ∧
        (r.pending.isSome → e.host.regions = s.host.regions) ∧
        (r.pending = none → e.host.regions = s.host.regions.map fun x => if x = r then { x with orphaned := false, retry := none } else x)) ∧
    (∀ h, s.openingRegion region.toNat = some (r, i, q) → r.pending = some h →
      let gone (e : State) : Prop := alGet e.host.sqps i = none ∧ e.host.regions = s.host.regions.filter fun x => x != r;
      (s.host.arp.any (fun e => e.1 == r.addr) = true → Completes (.storeConnectReply region false) s id h 0x20 stBUFFER [] gone) ∧
      (5000000 ≤ (s.aon.counter - q.since).toNat → Completes (.storeConnectTimeout region) s id h 0x20 stBUFFER [] gone)) ∧
    (∀ mac, (s.fab.ports.get q.port).up = true → s.openingRegion region.toNat = some (r, i, q) →
      s.host.arp.any (fun e => e.1 == r.addr) = false → (∀ x ∈ s.host.regions, x.addr = r.addr → x = r) →
      s.host.regions.filter (fun x => x == r) = [r] →
      Next (.arpFrameReceived false q.port true r.addr mac) s fun t => HostChange s t ∧
        t.host.arp = s.host.arp ++ [(r.addr, mac)] ∧ Outputs s t [.storeReq q.port i r.addr 4096 7 7 14 0
          ([1, 4] ++ leBytes Config.serial.toNat 6 ++ leBytes s.fab.mid.toNat 2 ++ [0, 0] ++ leBytes s.fab.epoch.toNat 4)]) ∧
    (∀ port, s.host.regions.find? (fun r => r.num == region.toNat && r.peer && r.orphaned && r.pending.isNone) = some r →
      r.sqp = none → (∀ x, r.retry = some x → 50000 ≤ (s.aon.counter - x).toNat) → s.storePort r.addr = some port → s.freeSqp = some i →
      Next (.storeReconnectTimer region) s fun t => HostChange s t ∧
        (∃ q', alGet t.host.sqps i = some q' ∧ q'.port = port ∧ q'.ready = false ∧ q'.region = r.num) ∧
        t.host.regions = s.host.regions.map fun x => if x = r then { r with sqp := some i, retry := some s.aon.counter } else x) ∧
    (∀ k : BitVec 6, s.host.regions.find? (fun r => r.sqp == some k.toNat) = some r → alGet s.host.sqps k.toNat = some q →
      r.pending = none → r.deleting = none → (∀ x ∈ s.host.regions, x.num = r.num → x = r) →
      let again (e : State) : Prop := ∃ x ∈ e.host.regions, x.num = r.num ∧ x.addr = r.addr ∧ x.orphaned = true ∧
        x.retry = some s.aon.counter;
      Ends (.cmDreq (.store k)) s State.pump again ∧ Ends (.cmDrep (.store k)) s State.pump again ∧
      (q.ready = true → Ends (.qpRetryExhausted (.store k)) s State.pump again))

/-- R417, R414, R418, R425, R426: a 64-byte SEND on a CONTROL queue pair with a free credit is queued and acknowledged, an RNR
NAK answers one without, and one of another length or role is a refused request; one with a reserved opcode whose turn it is
completes with CTX_FAULT_ILLEGAL; a command behind an earlier SEND waits; RDMA WRITEs reach the submission area and, while the
job runs, the input region, and change no other byte; a refused packet without a connected queue pair is counted. -/
def Obligations.PacketsAreTakenOrRefused : Prop :=
  ∀ (s : State), (∀ i h opc mask ops, hostCmd i = some (h, opc, mask, ops) → s.behind h opc ops = true → exec i s = .next s) ∧
  ∀ (qp : BitVec 12) (q : Qp) (bytes : List Byte) (port : Fin 4), s.qp? qp.toNat = some q → q.st = .ready →
    (q.role = 1 → bytes.length = 64 → q.rx.length < 64 →
      (Ends (.controlSendReceived qp bytes) s State.skipReserved fun e => HostChange s e ∧ Outputs s e [.ack qp] ∧
        e.host.arrived = s.host.arrived ++ [qp] ∧ e.qp? qp.toNat = some { q with rx := q.rx ++ [bytes] } ∧
        ∀ j, j ≠ qp.toNat → e.qp? j = s.qp? j) ∧
      (s.host.arrived = [] → q.rx = [] → reservedOpc (byteAt bytes 0) = true →
        Completes (.controlSendReceived qp bytes) s id ⟨qp, byteAt bytes 1, BitVec.ofNat 64 (fieldAt bytes 8 8), true⟩ (byteAt bytes 0)
          stILLEGAL [] fun e => HostChange s e ∧ Outputs s e [.ack qp] ∧ e.host.arrived = [] ∧ e.qp? qp.toNat = some q) ∧
      (s.host.arrived = [] → q.rx = [] → reservedOpc (byteAt bytes 0) = false → Next (.controlSendReceived qp bytes) s fun t =>
        HostChange s t ∧ Outputs s t [.ack qp])) ∧
    (q.role = 1 → bytes.length = 64 → 64 ≤ q.rx.length → Next (.controlSendReceived qp bytes) s fun t =>
      HostChange s t ∧ Outputs s t [.nak qp 2] ∧ ∀ j, t.qp? j = s.qp? j) ∧
    (q.role ≠ 1 ∨ bytes.length ≠ 64 → Ends (.controlSendReceived qp bytes) s State.pump fun e =>
      Sends s e (.nak qp 0) ∧ ∃ q', e.qp? qp.toNat = some q' ∧ q'.st = .error) ∧
    (∀ vaddr : Dword, q.role = 1 ∨ q.role = 3 → vaddr.toNat + bytes.length ≤ 33554432 →
      Next (.rdmaWriteReceived qp 2 vaddr bytes) s fun t => Outputs s t [.ack qp] ∧ t.cfg = s.cfg ∧ t.stat = s.stat ∧
        t.job = { s.job with subArea := t.job.subArea } ∧
        ∀ a, memRead 0 t.job.subArea a = if vaddr.toNat ≤ a ∧ a < vaddr.toNat + bytes.length then
          bytes.getD (a - vaddr.toNat) 0 else memRead 0 s.job.subArea a) ∧
    (∀ vaddr : Dword, q.role = 1 ∨ q.role = 3 → s.job.state = .running → vaddr.toNat + bytes.length ≤ s.job.inpages * 4096 →
      Next (.rdmaWriteReceived qp 3 vaddr bytes) s fun t => Outputs s t [.ack qp] ∧ t.cfg = s.cfg ∧ t.stat = s.stat ∧
        t.job = { s.job with input := t.job.input } ∧
        ∀ a, memRead 0 t.job.input a = if vaddr.toNat ≤ a ∧ a < vaddr.toNat + bytes.length then
          bytes.getD (a - vaddr.toNat) 0 else memRead 0 s.job.input a) ∧
    (∀ (rkey : Word) (vaddr : Dword) (n : Nat), rkey ≠ 1 → Next (.rdmaReadReceived qp rkey vaddr n) s fun t =>
      HostChange s t ∧ Outputs s t [.nak qp 1]) ∧
    (∀ (vaddr : Dword) (n : Nat), q.role = 2 → vaddr.toNat % 4 = 0 → n % 4 = 0 → vaddr.toNat + n ≤ 2 ^ 24 →
      Next (.rdmaReadReceived qp 1 vaddr n) s fun t => ∃ ws : List Word, ws.length = n / 4 ∧ Sends s t (.readReply qp ws)) ∧
    (Next (.refusedRocePacket port none) s fun t => HostChange s t ∧ t.host.qps = s.host.qps ∧
      (t.host.ports.get port).dropped = min ((s.host.ports.get port).dropped + 1) (2 ^ 32 - 1)) ∧
    (Ends (.refusedRocePacket port (some qp)) s State.pump fun e => Sends s e (.nak qp 0) ∧
      ∃ q', e.qp? qp.toNat = some q' ∧ q'.st = .error) ∧
    (Next (.unsupportedHostFrame ⟨port, .unsupported⟩) s fun t => HostChange s t ∧ t.host.qps = s.host.qps ∧
      (t.host.ports.get port).dropped = min ((s.host.ports.get port).dropped + 1) (2 ^ 32 - 1)) ∧
    (Next (.unsupportedHostFrame ⟨port, .icrc⟩) s fun t => HostChange s t ∧ t.host.qps = s.host.qps ∧
      (t.host.ports.get port).icrc = min ((s.host.ports.get port).icrc + 1) (2 ^ 32 - 1)) ∧
    (Next (.unsupportedHostFrame ⟨port, .uncorrectable⟩) s fun t => HostChange s t ∧ t.host.qps = s.host.qps ∧
      (t.host.ports.get port).fec = min ((s.host.ports.get port).fec + 1) (2 ^ 32 - 1))

/-- R414, R424, R431, R456 and Table 15-2: an acknowledgement ends the module's oldest write on its queue pair and lets what waits for
it go on; a NAK for a sequence error, and the local ACK timeout of 4.096 µs times 2 to its exponent, send what is outstanding
again, until the retry count is used up: then the queue pair leaves READY; any other NAK drops the write, with ERR.WRLOST, or
ERR.RINGLOST for an entry of a token ring. -/
def Obligations.AcknowledgementsReleaseWrites : Prop :=
  ∀ (s : State) (qp : QpRef) (u : Unacked), s.host.unacked.find? (fun u => u.qp == qp) = some u →
    (∃ e : State, exec (.rdmaWriteAck qp) s = .next ((e.regTry u.region).flushHeld).pump ∧ HostChange s e ∧ Outputs s e [] ∧
      e.host.unacked = s.host.unacked.erase u ∧ ∀ n t k, s.retryOf qp = some (n, t, k) → e.retryOf qp = some (n, t, 0)) ∧
    (∀ retry t tries, s.retryOf qp = some (retry, t, tries) →
      let late := ∃ x ∈ s.sentOn qp, 4096 * 2 ^ t ≤ 20 * (s.aon.counter - x).toNat;
      let again (i : Instr) : Prop := Ends i s State.pump fun e => e = { s with host := e.host, outbox := e.outbox, heldTx := e.heldTx, job := e.job } ∧
        Outputs s e [.resend qp] ∧ e.retryOf qp = some (retry, t, tries + 1) ∧ (∀ x ∈ e.sentOn qp, x = s.aon.counter) ∧
        e.host.unacked.map (fun u => { u with sent := 0 }) = s.host.unacked.map fun u => { u with sent := 0 };
      let out (i : Instr) : Prop := match qp with
        | .host k => Ends i s State.pump fun e => ∀ q, s.qp? k.toNat = some q → q.st = .ready →
            ∃ q', e.qp? k.toNat = some q' ∧ q'.st = .error
        | .store k => exec i s = .next (s.storeLost k.toNat).pump;
      (late → tries < retry → again (.localAckTimeout qp)) ∧ (tries < retry → again (.roceNakReceived qp true)) ∧
      (late → retry ≤ tries → out (.localAckTimeout qp)) ∧ (retry ≤ tries → out (.roceNakReceived qp true)) ∧
      (¬ late → exec (.localAckTimeout qp) s = .next s)) ∧
    (∃ e : State, exec (.roceNakReceived qp false) s = .next ((e.regTry u.region).flushHeld).pump ∧ HostChange s e ∧ Outputs s e [] ∧
      e.host.unacked = s.host.unacked.erase u ∧ (u.what = .bytes → e.host.errWr = true) ∧ (u.what = .token → e.host.errRing = true))

/-- R413, R412, R386: with ECN on, a marked packet is answered with one notification per queue pair and 2,500 counts, counted by the
port; a notification lowers the rate to 7/8, not below 1 Gb/s, at most once per 2,500 counts; after 2,500 counts without one
the rate rises by 1 Gb/s, up to line rate. On a port that is up, an ARP request and an echo request for one of its own
addresses are answered; a pause is honoured on the configured priorities of a port alone, and what waited goes once it may. -/
def Obligations.PortsPaceAnswerAndPause : Prop :=
  ∀ (s : State) (port : Fin 4),
    (∀ (qp : BitVec 12) (q : Qp), s.qp? qp.toNat = some q →
      let quiet (x : Option Dword) : Prop := ∀ y, x = some y → 2500 ≤ (s.aon.counter - y).toNat;
      (s.cfg.hp.getLsbD 9 = true → quiet q.cnpSent → Next (.cePacketReceived port (.host qp)) s fun t =>
        HostChange s t ∧ Outputs s t [.cnp (.host qp)] ∧ t.qp? qp.toNat = some { q with cnpSent := some s.aon.counter } ∧
        (t.host.ports.get port).cnpSent = min ((s.host.ports.get port).cnpSent + 1) (2 ^ 16 - 1)) ∧
      (s.cfg.hp.getLsbD 9 = true → ¬ quiet q.cnpSent → exec (.cePacketReceived port (.host qp)) s = .next s) ∧
      (Next (.cnpReceived port (.host qp)) s fun t => HostChange s t ∧ Outputs s t [] ∧
        ∃ q', t.qp? qp.toNat = some q' ∧ (quiet q.lowered → q'.rate = max 1 (q.rate * 7 / 8)) ∧ (¬ quiet q.lowered → q'.rate = q.rate) ∧
          q'.cnpRcvd = some s.aon.counter) ∧
      (quiet q.cnpRcvd → quiet q.rateUp → Next (.rateIncreaseTimer (.host qp)) s fun t => HostChange s t ∧ Outputs s t [] ∧
        ∃ q', t.qp? qp.toNat = some q' ∧ q'.rate = min (q.rate + 1) s.lineRate)) ∧
    (∀ (isHost : Bool) (p : Fin 12) (addr : BitVec 128) (mac : BitVec 48) (payload : List Byte), s.portUp isHost p = true →
      s.ownAddr isHost p addr = true →
      exec (.arpFrameReceived isHost p false addr mac) s = .next (s.send (.arpReply isHost p addr)) ∧
      exec (.icmpEchoReceived isHost p addr payload) s = .next (s.send (.echoReply isHost p payload))) ∧
    (∀ (p : Fin 12) (priority : BitVec 3) (pause : Bool), p.val = port.val →
      (priority.toNat = s.cfg.hp.toNat % 8 → Ends (.pfcFrameReceived true p priority pause) s State.flushTx fun e =>
        HostChange s e ∧ Outputs s e [] ∧ ∀ k, k < 8 → (e.host.ports.get port).paused.getLsbD k =
          if k = priority.toNat then pause else (s.host.ports.get port).paused.getLsbD k) ∧
      (priority.toNat ≠ s.cfg.hp.toNat % 8 → exec (.pfcFrameReceived true p priority pause) s = .next s)) ∧
    (∀ (p : Fin 12) (priority : BitVec 3) (pause : Bool),
      let ours := priority.toNat = s.cfg.pp.toNat % 8 ∨ priority.toNat = s.cfg.pp.toNat / 8 % 8;
      (ours → Ends (.pfcFrameReceived false p priority pause) s (fun e => e.flushTx.flushWaiting) fun e => FabChange s e ∧ Outputs s e [] ∧
        ∀ k, k < 8 → (e.fab.ports.get p).paused.getLsbD k = if k = priority.toNat then pause else (s.fab.ports.get p).paused.getLsbD k) ∧
      (¬ ours → exec (.pfcFrameReceived false p priority pause) s = .next s))

/-! ### Serving -/

/-- R363 to R366, R371, R372, R379, R380: a tail write inside the ring and not behind the last is taken, any other is refused
and counted; a good SUBMIT entry becomes a held request with its arrival and deadline, a bad one is refused with no request; a
CANCEL of a request that is not in flight ends it, of one in flight waits with it, and one with a reserved byte set is refused; a passed deadline ends one; a plan holds one
GENERATE entry for every generating request, with its draft count, and prefill entries within the budget. -/
def Obligations.RequestsAreHeldPlannedAndEnded : Prop :=
  ∀ (s : State) (q : Fin 128), let r := s.job.ring q.val; let e := s.headEntry q; let reqid : Dword := BitVec.ofNat 64 (fieldAt e 8 8);
    let gone (t : State) (x : Req) : Prop := ∀ y ∈ t.job.reqs, y.sameAs x = false;
    (∀ value : Word, let n := (value.setWidth 12 - r.head).toNat;
      (n < 2 ^ s.ringLog2 q → (r.tail - r.head).toNat ≤ n → Next (.sqtailWrite q value) s fun t =>
        t = { s with job := { s.job with rings := t.job.rings } } ∧ t.job.ring q.val = { r with tail := value.setWidth 12 } ∧
        ∀ k, k ≠ q.val → t.job.ring k = s.job.ring k) ∧
      (2 ^ s.ringLog2 q ≤ n ∨ n < (r.tail - r.head).toNat → Next (.sqtailWrite q value) s fun t =>
        t.job.ring q.val = { r with refused := BitVec.ofNat 16 (min (r.refused.toNat + 1) (2 ^ 16 - 1)) } ∧
        t.stat = { s.stat with subErr := true } ∧ ∀ k, k ≠ q.val → t.job.ring k = s.job.ring k)) ∧
    (s.takes q = true → SubmitGood s q e → Next (.submitEntryTaken q) s fun t =>
      t.job.ring q.val = { r with head := r.head + 1 } ∧ t.stat = s.stat ∧ Outputs s t [] ∧
      ∃ x, t.job.reqs = s.job.reqs ++ [x] ∧ x.ring = q ∧ x.reqid = reqid ∧ x.arrival = s.aon.counter ∧
        x.deadline = (if fieldAt e 4 4 = 0 then none else some (s.aon.counter.toNat + 50 * fieldAt e 4 4)) ∧
        x.nlog2 = fieldAt e 1 1 ∧ x.promptOff = fieldAt e 16 8 ∧ x.promptLen = fieldAt e 24 4 ∧ x.maxNew = fieldAt e 28 4 ∧
        x.stop.toNat = fieldAt e 32 3 ∧ x.rregion = fieldAt e 36 2 ∧ x.ringOff = fieldAt e 40 8 ∧ x.param = (e.drop 48).take 16 ∧
        x.state = .queued ∧ x.slot = none ∧ x.produced = 0 ∧ x.wrote = 0) ∧
    (s.takes q = true → fieldAt e 0 1 ≠ 2 → ¬ SubmitGood s q e → Next (.submitEntryTaken q) s fun t =>
      t.job.reqs = s.job.reqs ∧ t.stat = { s.stat with subErr := true } ∧ t.job.ring q.val = { r with
        head := r.head + 1
        refused := BitVec.ofNat 16 (min (r.refused.toNat + 1) (2 ^ 16 - 1)) }) ∧
    (s.takes q = true → fieldAt e 0 1 = 2 → allZero ((e.drop 1).take 7) = true → allZero (e.drop 16) = true →
      (∀ x, s.job.reqs.find? (fun x => x.ring == q && x.reqid == reqid && x.state != .ended) = some x →
        (s.inFlight x = false → Next (.cancelEntryTaken q) s fun t => gone t x ∧ t.job.ring q.val = { r with head := r.head + 1 } ∧
          t.stat = { s.stat with endCan := min (s.stat.endCan + 1) (2 ^ 32 - 1) }) ∧
        (s.inFlight x = true → Next (.cancelEntryTaken q) s fun t => t.stat = s.stat ∧ Outputs s t [] ∧
          t.job.reqs = s.job.reqs.map fun y => if y.sameAs x then { x with cancels := x.cancels + 1 } else y)) ∧
      ((∀ x ∈ s.job.reqs, x.ring = q → x.reqid = reqid → x.state = .ended) → Next (.cancelEntryTaken q) s fun t =>
        t.job.reqs = s.job.reqs ∧ t.job.ring q.val = { r with head := r.head + 1 } ∧ t.stat = s.stat)) ∧
    (s.takes q = true → fieldAt e 0 1 = 2 → ¬ (allZero ((e.drop 1).take 7) = true ∧ allZero (e.drop 16) = true) →
      Next (.cancelEntryTaken q) s fun t => t.job.reqs = s.job.reqs ∧ t.stat = { s.stat with subErr := true } ∧
        t.job.ring q.val = { r with
          head := r.head + 1
          refused := BitVec.ofNat 16 (min (r.refused.toNat + 1) (2 ^ 16 - 1)) }) ∧
    (∀ x d, s.job.reqs.find? (fun y => y.ring == q && y.reqid == x.reqid && y.state != .ended) = some x → x.deadline = some d →
      d ≤ s.aon.counter.toNat → s.inFlight x = false → Next (.requestDeadlineExpiry q x.reqid) s fun t => gone t x ∧
        t.stat = { s.stat with endDl := min (s.stat.endDl + 1) (2 ^ 32 - 1) }) ∧
    (∀ n g, s.planTrick = some n → g ∈ s.job.reqs → g.state = .generate → g.emitEnded = false →
      (∀ x ∈ s.job.reqs, x.expired s.aon.counter = true → s.inFlight x = true ∨ x.state = .ended) →
      ∃ (t : State) (es : List PlanE), exec .planFreeze s = .next t.servePublish.settle ∧
        t.job.plans = s.job.plans ++ [⟨n, es, false, false⟩] ∧
        (∀ x ∈ s.job.reqs, x.state = .generate → x.emitEnded = false → ∃ y ∈ es, y.slot = x.slot.getD 0 ∧ y.kind = 3 ∧
          y.d = min (s.cfg.serve0.toNat / 4 % 16) (x.maxNew - x.produced - 1) ∧ y.count = y.d + 1 ∧ y.ring = x.ring ∧ y.reqid = x.reqid) ∧
        ((es.filter fun y => y.kind != 3).map PlanE.count).sum ≤ s.pbudget)

/-! ### Peer links -/

/-- R386, R388, R393 to R396, R402, R403, R408: LINK frames of an up route count as keepalives and apply their ACK; a route that sent
nothing for 500 counts sends KEEPALIVE; NAK and 1,000 counts without an acknowledgement send the window again, but for what a
fenced module may not send, until the tries are used up, which takes the route down, as DEAD intervals of silence do; a paused
port sends neither; HELLO teaches a route, or brings a down one back, and ends a suspicion that silence alone caused; LANECAP is
answered at its group address; FENCED is counted and the view asked for; a peer suspected long enough is proposed or reported;
frames that fail a check are counted. -/
def Obligations.LinksKeepAckAndRetry : Prop :=
  ∀ (s : State) (h : FrameHdr) (port : Fin 12) (peer : BitVec 9) (r : Route),
    (OnRoute s h r → exec (.keepaliveReceived h) s = .next (heard s h) ∧ exec (.linkAck h) s = .next (heard s h) ∧
      (s.fab.waiting = [] → Outputs s (heard s h) [] ∧ (heard s h).route? h.port (midOf h.src) =
        some { r with lastRx := s.aon.counter, window := r.window.filter fun f => seqGe f.seq h.ack }) ∧
      (∀ expected : Word, s.fab.waiting = [] → ∃ r', r'.window = (r.window.filter fun f => seqGe f.seq h.ack && seqGe f.seq expected) ∧
        exec (.linkNak h expected) s = .next (((heard s h).ackUpTo h.port (midOf h.src) expected).resend r').pump) ∧
      (∀ ep refused : Word, ∃ e : State, exec (.fenced h ep refused) s = .next (e.sendViewreq (midOf h.src)) ∧ e.fab.fenced = true ∧
        e.fab.fEvent = true ∧ e.fab.fRcvd = min (s.fab.fRcvd + 1) 32767 ∧ FabChange s e)) ∧
    (s.route? port peer = some r → r.up = true → s.pausedPort port = true →
      exec (.linkKeepalive port peer) s = .next s ∧
      (∀ f rest, r.window = f :: rest → 1000 ≤ (s.aon.counter - f.sent).toNat → exec (.retransmitTimeout port peer) s = .next s.pump)) ∧
    (s.route? port peer = some r → r.up = true → s.deadCounts ≤ (s.aon.counter - r.lastRx).toNat →
      TakesDown (.routeDownTimeout port peer) s r) ∧
    (s.route? port peer = some r → r.up = true → s.pausedPort port = false →
      (500 ≤ (s.aon.counter - r.lastTx).toNat → Next (.linkKeepalive port peer) s fun t => FabChange s t ∧
        Outputs s t [linkOut s port r.mac peer r.rev r.rxSeq [linkKEEP]] ∧
        t.route? port peer = some { r with lastTx := s.aon.counter }) ∧
      (∀ f rest, r.window = f :: rest → 1000 ≤ (s.aon.counter - f.sent).toNat →
        (s.retryMax + 1 ≤ f.tries → TakesDown (.retransmitTimeout port peer) s r) ∧
        (f.tries < s.retryMax + 1 → let l := r.window.filter fun f => !s.silenced f.cls;
          Ends (.retransmitTimeout port peer) s State.pump fun e => FabChange s e ∧
          Outputs s e (l.map (fun f => .frame r.mac s.pcp s.vlan
            (s.txHdr port peer r.rev true f.last f.epoch f.seq r.rxSeq f.trick f.att f.jobid) f.cls f.payload.length f.payload)) ∧
          (e.fab.ports.get port).retx = min ((s.fab.ports.get port).retx + l.length) (2 ^ 32 - 1)))) ∧
    (∀ (sysid : BitVec 16) (pp : Byte) (mac : BitVec 48) (lo hi : Byte), (s.fab.ports.get port).up = true → s.isBench = false →
      peer ≠ Config.ownMid → sysid = s.cfgSysid →
      (lo > 1 ∨ hi < 1 → Next (.hello port sysid peer pp mac lo hi) s fun t => FabChange s t ∧ t.fab.routes = s.fab.routes ∧
        Outputs s t [] ∧ (t.fab.ports.get port).errRev = true) ∧
      (lo ≤ 1 → 1 ≤ hi → (∀ x, s.route? port peer = some x → x.up = false) → Ends (.hello port sysid peer pp mac lo hi) s State.flushWaiting fun e =>
        FabChange s e ∧ Outputs s e [helloOut s port] ∧
        e.fab.suspects = (if peer ∈ s.fab.silentSus then s.fab.suspects.filter (· != peer) else s.fab.suspects) ∧
        ∃ r', e.route? port peer = some r' ∧ r'.up = true ∧ r'.rev = 1 ∧ r'.txSeq = 0 ∧ r'.rxSeq = 0 ∧ r'.window = [] ∧ r'.mac = mac ∧
          r'.peerPort = pp) ∧
      (lo ≤ 1 → 1 ≤ hi → s.route? port peer = some r → r.up = true → Next (.hello port sysid peer pp mac lo hi) s fun t =>
        FabChange s t ∧ Outputs s t [] ∧ t.route? port peer = some { r with lastRx := s.aon.counter, peerPort := pp, mac := mac })) ∧
    (s.isBench = false → Next .helloTimer s fun t => FabChange s t ∧
      Outputs s t (((List.finRange 12).filter fun p => (s.fab.ports.get p).up).map (helloOut s))) ∧
    (∀ reply : Bool, (s.fab.ports.get port).up = true → s.isBench = false → Next (.lanecap port reply) s fun t => FabChange s t ∧
      (t.fab.ports.get port).direct = true ∧ (reply = true → Outputs s t []) ∧
      (reply = false → Outputs s t [linkOut s port 0x0180C200000E groupDst 1 0 [linkCAP, 1]])) ∧
    (Next (.peerFrameDropped port .badCheck) s fun t => FabChange s t ∧ Outputs s t [] ∧
      (t.fab.ports.get port).crc = min ((s.fab.ports.get port).crc + 1) (2 ^ 32 - 1)) ∧
    (∀ why : DropWhy, why ≠ .badCheck → Next (.peerFrameDropped port why) s fun t => FabChange s t ∧ Outputs s t [] ∧
      (t.fab.ports.get port).dropped = min ((s.fab.ports.get port).dropped + 1) (2 ^ 16 - 1)) ∧
    (∀ trick : BitVec 48, exec (.ringOrHubFrameRetryExhausted trick) s = .next (s.voteVoid trick.toNat 3).pump) ∧
    (∀ (v : View) (x : ViewEntry), s.fab.view = some v → v.entry? peer = some x → x.state ≠ .dead → peer ≠ s.fab.mid →
      s.fab.suspects.contains peer = false → (∃ r ∈ s.fab.routes, r.peer = peer) →
      (∀ r ∈ s.fab.routes, r.peer = peer → r.up = false ∧ s.suspectCounts ≤ (s.aon.counter - r.downSince).toNat) →
      ∃ e : State, e = { s with fab := { s.fab with
        suspects := s.fab.suspects ++ [peer]
        silentSus := if (∀ r ∈ s.fab.routes, r.peer = peer → r.silent = true) then s.fab.silentSus ++ [peer] else s.fab.silentSus } } ∧
        (e.isCoord = true → exec (.peerSuspectTimeout peer) s = .next e.carryOn) ∧
        (e.isCoord = false → e.coordinator ≠ s.coordinator → exec (.peerSuspectTimeout peer) s = .next e.reRequest) ∧
        (∀ m, e.isCoord = false → e.coordinator = s.coordinator → e.coordinator = some m → exec (.peerSuspectTimeout peer) s =
          .next (e.sendMemb m 6 0 0 (leBytes peer.toNat 2) none)))

/-- R391, R224, R390, R402: a DATA frame in order, of the job and epoch, of the current attempt of its trick is accepted; of a later
attempt it is held; of an earlier one, or of a sealed trick, it changes nothing. A frame of another job is dropped and counted, of
an older epoch answered with FENCED, of a later one held while the view is asked for. -/
def Obligations.DataFramesAreAcceptedHeldOrFenced : Prop :=
  ∀ (s : State) (h : FrameHdr) (m : DataMsg), InOrder s h → let b := taken s h;
    (h.jobid = s.job.jobid → s.job.state ≠ .idle →
      (h.epoch = s.fab.epoch → s.fab.self ≠ .quarantine → s.fab.self ≠ .offered → ∀ r, b.trick? h.trick.toNat = some r → s.stat.sealedN ≤ h.trick.toNat →
        (h.attempt = r.att → exec (.dataFrameReceived h m) s =
          .next ({ b with job := b.job.acceptData (midOf h.src) h.trick.toNat h.attempt m }.afterData).pump) ∧
        (1 ≤ (h.attempt - r.att).toNat → (h.attempt - r.att).toNat < 128 → exec (.dataFrameReceived h m) s =
          .next { b with fab := { b.fab with held := b.fab.held ++ [Instr.dataFrameReceived h m] } }.pump) ∧
        (128 ≤ (h.attempt - r.att).toNat → exec (.dataFrameReceived h m) s = .next b.pump)) ∧
      (h.epoch = s.fab.epoch → s.fab.self ≠ .quarantine → s.fab.self ≠ .offered → h.trick.toNat < s.stat.sealedN → exec (.dataFrameReceived h m) s = .next b.pump) ∧
      (h.epoch < s.fab.epoch → exec (.dataFrameReceived h m) s = .next (b.sendFenced h.port (midOf h.src) h.seq)) ∧
      (h.epoch > s.fab.epoch → s.fab.self ≠ .quarantine → s.fab.self ≠ .offered → exec (.dataFrameReceived h m) s =
        .next ({ b with fab := { b.fab with held := b.fab.held ++ [Instr.dataFrameReceived h m] } }.sendViewreq (midOf h.src)))) ∧
    (h.jobid ≠ s.job.jobid ∨ s.job.state = .idle → exec (.dataFrameReceived h m) s = .next (b.dropFrame h.port))

/-- R439, R443 to R446, R449, R450, R452, R456, R460: what STATE traffic and the refresh do: a refusal fails the refresh of its
point, here and at the neighbours in the tree, also where this member has made no such point, and one under another P is refused
with MISMATCH; the length of a member's shard is counted toward S; a log copy is kept; a stripe request is answered with the
stripe and its scales, or told that this member has no such export or that it is damaged here too; a first trick that differs
stops the job; done and commit reports go to the refresh; the shadow copy ends a committed refresh; an acknowledged checkpoint
step goes on to the next. A substitute that holds every chunk, its parity and its log is at the recovery point and RUNNING, its
ADMIT completes with OK and the vacancy ends on every member; a refused rebuild ends it with ABORTED and a wipe. A repaired stripe
has the replica's bytes; a member without the export has the next rank asked, and a stripe none can give loses its owner. -/
def Obligations.RefreshAndRepairTraffic : Prop :=
  ∀ (s : State) (h : FrameHdr), let b := taken s h; let src := midOf h.src;
    (JobFrame s h →
      (∀ point, (∀ f, s.job.recov.refresh = some f → f.point ≠ point) → s.job.recov.failedAt ≠ some point →
        exec (.stateFrameReceived h (.refreshRefused point)) s = .next (((b.children ++ b.parent.toList).filter (· != src)).foldl
          (fun (s : State) m => s.sendState m 4 point 0 0 []) { b with
            stat := { b.stat with rfail := true }
            job := { b.job with recov := { b.job.recov with failedAt := some point } } }).pump) ∧
      (∀ point p len, p ≠ s.job.recov.p → exec (.stateFrameReceived h (.shardLength point p len)) s = .next
        ((({ b with stat := { b.stat with mismatch := true } } : State).sendState src 4 point 0 0 []).refuseRefresh point none).pump) ∧
      (∀ bytes, Ends (.stateFrameReceived h (.logCopy bytes)) s State.pump fun e => logOfBytes bytes ∈ e.job.recov.blog ∧
        e.job = { s.job with recov := e.job.recov } ∧ e.job.recov = { s.job.recov with blog := e.job.recov.blog }) ∧
      (∀ (bufid : BitVec 12) (stripe : Nat) (fmt : BitVec 3) (rows cols : Nat) (mode block dir : BitVec 2),
        let i := Instr.stateFrameReceived h (.stripeRequest bufid stripe fmt rows cols mode block dir);
        let answer (k : Nat) (d : List Byte) := exec i s = .next (b.sendState src 12 k bufid.toNat stripe d).pump;
        (s.job.stripeOf bufid fmt rows cols mode block dir = none → answer 1 []) ∧
        (∀ y, s.job.stripeOf bufid fmt rows cols mode block dir = some y →
          ((y.id, stripe) ∈ s.hl.lost → answer 2 []) ∧ ((y.id, stripe) ∉ s.hl.lost → answer 0 (s.job.stripeData y stripe)))) ∧
      (∀ t, exec (.stateFrameReceived h (.firstTrick t)) s = .next (if t = s.stat.sealedN then b else b.trickSkew).pump) ∧
      (∀ r, s.job.recov.rebuild = some r → ∃ e : State, exec (.stateFrameReceived h .rebuildRefused) s =
        .next (e.complete r.cmd 0x01 stABORTED []).pump ∧ e.job.state = .wiping ∧ e.job.recov.rebuild = none) ∧
      (∀ f, s.job.recov.refresh = some f → f.committed = false →
        exec (.stateFrameReceived h (.refreshRefused f.point)) s = .next (b.refuseRefresh f.point (some src)).pump ∧
        (∀ len, exec (.stateFrameReceived h (.shardLength f.point s.job.recov.p len)) s =
          .next (b.refreshLength (b.rankOf src) len).pump) ∧
        exec (.refreshDoneReceived h f.point true) s = .next (b.refuseRefresh f.point (some src)).pump ∧
        exec (.refreshDoneReceived h f.point false) s = .next (b.refreshDone (b.rankOf src)).pump ∧
        (∃ e : State, exec (.refreshCommitReceived h f.point) s =
            .next (e.children.foldl (fun s m => s.sendState m 3 f.point 0 0 []) e).pump ∧
          e.stat = { b.stat with gen := !b.stat.gen, rp := some f.point, degraded := false } ∧
          e.job.recov.refresh = some { f with committed := true } ∧
          (if b.stat.gen then e.job.recov.par0 else e.job.recov.par1) = some ⟨f.point, f.building⟩))) ∧
    (∀ f, s.job.recov.refresh = some f → f.committed = true → s.job.recov.ck = none →
      ∃ e : State, exec .shadowCopyComplete s =
          .next ((if f.ckpt then (e.endRefresh).ckBegin f.pinned f.tags else e.endRefresh)).pump ∧
        e = { s with job := { s.job with recov := { s.job.recov with shadow := some f.pinned } } }) ∧
    (∀ w, s.job.recov.ck = some w → w.awaitSeal = false → ∃ e : State, HostChange s e ∧ Outputs s e [] ∧
      (w.step < 2 → exec .checkpointWriteAck s = .next (e.ckStep { w with step := w.step + 1 })) ∧
      (2 ≤ w.step → w.target = 0 → exec .checkpointWriteAck s = .next (e.ckNextTarget { w with aOk := true })) ∧
      (2 ≤ w.step → w.target ≠ 0 → exec .checkpointWriteAck s = .next (e.ckNextTarget { w with bOk := true }))) ∧
    (∀ (r : Rebuild) (base g : Nat) (part : Nat → List Byte × Nat), s.job.recov.rebuild = some r → s.kitty = some (base, g) → r.size ≠ 0 →
      r.logGot = true → (∀ c, c < g - 1 → alGet r.chunks c = some (part c) ∧ r.size ≤ (part c).2) →
      (∀ k, base ≤ k → k < base + g → k ≠ s.myRank → ∃ n, alGet r.parGot k = some n ∧ r.size ≤ n) →
      let k := shardOfBytes ((List.range (g - 1)).flatMap fun c => (part c).1);
      ∃ e : State, exec .substituteRebuildComplete s =
          .next ((e.complete r.cmd 0x01 stOK (leBytes s.job.feature.toNat 2)).setOwner r.cmd.qp).settle ∧
        e.job.state = .running ∧ e.job.admission = none ∧ e.job.recov.rebuild = none ∧ e.job.recov.shadow = some k ∧
        e.stat.rp = some k.trick ∧ e.stat.sealedN = k.trick ∧ e.stat.cursor = k.cursor ∧
        (if s.stat.gen then e.job.recov.par1 else e.job.recov.par0) = some ⟨k.trick, r.par⟩) ∧
    (∀ (buf stripe : Nat) (from_ : BitVec 9) (data : List Byte) (y : Buffer), (buf, stripe) ∈ s.hl.lost → s.job.buf? buf = some y →
      let nextMem := (s.ranks.filter fun e => e.mid != s.fab.mid && decide (s.rankOf from_ < e.rank.toNat)).head?;
      let gone (a : StripeAns) : Prop := Ends (.streamStripeRepair buf stripe ⟨from_, a⟩) s
        (fun e => (e.dataLost y.owner (BitVec.ofNat 8 y.handle) (y.stripeFirst stripe)).pump) fun e =>
          e.job = s.job ∧ ∀ x ∈ e.hl.lost, x.1 ≠ buf;
      (Ends (.streamStripeRepair buf stripe ⟨from_, .stripe data⟩) s State.pump fun e => (buf, stripe) ∉ e.hl.lost ∧
        e.job = s.job.putStripe y stripe data) ∧
      gone .damaged ∧ (nextMem = none → gone .notHeld) ∧
      (∀ x id, nextMem = some x → (∃ w, y.exp = some (id, w)) → ∃ d, exec (.streamStripeRepair buf stripe ⟨from_, .notHeld⟩) s =
        .next (s.sendState x.mid 11 stripe id 0 d)))

/-! ### Ports, lanes, membership -/

/-- R388, R389, R408, R424: a host or peer port comes up, a peer port asking its partner with HELLO and LANECAP; a host port going
down puts its READY queue pairs into ERROR; a peer port going down takes its routes down; a failed lane of a direct link with its
spare left has the spare woken and trained, and the link returns over it; any other lane failure loses the link. What waited for a
port that goes down is lost. -/
def Obligations.PortsAndLanesComeAndGo : Prop :=
  ∀ (s : State) (port : Fin 12) (p : Fin 4) (pmd : BitVec 2) (lane : Fin 9),
    let x := s.fab.ports.get port; let spared := x.direct && x.spare != 15 && x.retiredLane == 15 && !s.hl.nopat;
    let lost (i : Instr) : Prop := ∃ e : State, let d := e.raiseEvent 9 ⟨.lane, 9 * port.val + lane.val⟩ none 0;
      exec i s = .next (if spared then d.wakeOne .lane port.val true else d).pump ∧
      (e.fab.ports.get port).errLane = true ∧ (e.fab.ports.get port).training = spared ∧ (e.fab.ports.get port).direct = spared;
    (s.aon.ready = true → s.aon.refOk = true →
      (p.val = port.val → Next (.portLinkUp true port pmd) s fun t => HostChange s t ∧ Outputs s t [] ∧ t.host.qps = s.host.qps ∧
        (t.host.ports.get p).up = true ∧ (t.host.ports.get p).pmd = pmd.getLsbD 0) ∧
      (s.isBench = false → (if s.aon.latch.getLsbD 11 then pmd = 2 else pmd = 0 ∨ pmd = 1) → Next (.portLinkUp false port pmd) s fun t => FabChange s t ∧ (t.fab.ports.get port).up = true ∧
        (t.fab.ports.get port).pmd = pmd ∧ (t.fab.ports.get port).direct = false ∧
        Outputs s t [helloOut s port, linkOut s port 0x0180C200000E groupDst 1 0 [linkCAP, 0]])) ∧
    (p.val = port.val → (s.host.ports.get p).up = true → Ends (.portLinkDown true port) s State.pump fun e =>
      (e.host.ports.get p).up = false ∧
      ∀ i q, s.qp? i = some q → q.port = p → q.st = .ready → ∃ q', e.qp? i = some q' ∧ q'.st = .error) ∧
    (x.up = true → ∃ e : State, e = { s with fab := { s.fab with ports := e.fab.ports }, heldTx := e.heldTx } ∧
      e.heldTx = s.heldTx.filter (fun o => s.via o.msg != some (false, some port.val)) ∧ (e.fab.ports.get port).up = false ∧
      (e.fab.ports.get port).errDown = true ∧
      (let d := e.routesDown port; exec (.portLinkDown false port) s =
        .next ((d.host.sqps.filter fun q => q.2.port == port).foldl (fun s q => s.storeLost q.1) d).pump) ∧
      ((∀ r ∈ s.fab.routes, r.port = port → r.window = []) → ∀ r ∈ (e.routesDown port).fab.routes, r.port = port → r.up = false)) ∧
    (x.up = true → x.spare.toNat ≠ lane.val → x.retiredLane.toNat ≠ lane.val → lost (.laneFailure port lane) ∧
      ∀ n, x.direct = true → 2 ^ (s.cfg.pp.toNat / 2 ^ 28) < n → lost (.laneFecWindow port lane n)) ∧
    (x.training = true → s.aon.refOk = true → s.hl.nopat = false → Next (.spareLaneTrained port) s fun t => (t.fab.ports.get port).up = true ∧
      (t.fab.ports.get port).training = false ∧ (t.fab.ports.get port).spare = 15 ∧ t.job = s.job ∧ t.host = s.host ∧
      Outputs s t [helloOut s port])

/-- R238, R396, R398 to R403, Table 14-6: a member promises a higher ballot and accepts one not below its promise, for the epoch after
its own; a coordinator collects promises and acceptances; a COMMIT or VIEW of a later epoch that names the module is installed; changes still wanted are proposed after it; a
suspicion is proposed; a quarantined module answers none; VIEWREQ is answered with the view; reports of survivors are collected or held; a round without quorum fails
after 25,000 counts and is tried again later; a quarantined module that passes self-test offers itself. -/
def Obligations.AgreementInstallsViews : Prop :=
  ∀ (s : State) (h : FrameHdr) (ep bal : Word) (v : View), let b := taken s h; let m := midOf h.src;
    (InOrder s h → s.fab.self = .quarantine → exec (.prepare h ep bal) s = .next b ∧ exec (.commit h v) s = .next b ∧
      exec (.view h v) s = .next b) ∧
    (InOrder s h → s.fab.self ≠ .quarantine → h.epoch < s.fab.epoch →
      exec (.prepare h ep bal) s = .next (b.sendFenced h.port m h.seq) ∧ exec (.commit h v) s = .next (b.sendFenced h.port m h.seq)) ∧
    (InOrder s h → s.fab.self ≠ .quarantine → ¬ h.epoch < s.fab.epoch →
      (s.fab.self = .active → s.fab.epoch ≠ 0 → ep = s.fab.epoch + 1 →
        (s.fab.promised < bal → exec (.prepare h ep bal) s = .next (match s.fab.accepted with
          | none => { b with fab := { b.fab with promised := bal } }.sendMemb m 2 bal ep [] none
          | some (x, w) => { b with fab := { b.fab with promised := bal } }.sendMemb m 2 bal ep (leBytes x.toNat 4) (some w))) ∧
        (¬ s.fab.promised < bal → exec (.prepare h ep bal) s = .next b) ∧
        (¬ bal < s.fab.promised → s.viewOk v = true → exec (.accept h ep bal v) s = .next ({ b with fab := { b.fab with
          promised := bal
          accepted := some (bal, v) } }.sendMemb m 4 bal ep [] none)) ∧
        (bal < s.fab.promised → exec (.accept h ep bal v) s = .next b)) ∧
      (∀ r, s.fab.coord = some r → r.newEpoch = ep → r.ballot = bal → r.failed = false → m ∈ s.viewMembers →
        (∀ a, r.accepting = false → (∀ x, a = some x → s.viewOk x.2 = true) → (∀ p ∈ r.promises, p.1 ≠ m) → exec (.promise h ep bal a) s =
          .next ((b.setCoord { r with promises := r.promises ++ [(m, a)] }).coordAccept).carryOn) ∧
        (r.accepting = true → m ∉ r.accepts → exec (.accepted h ep bal) s =
          .next ((b.setCoord { r with accepts := r.accepts ++ [m] }).coordCommit).carryOn)) ∧
      (s.viewOk v = true → s.fab.epoch < v.epoch → (v.entry? Config.ownMid).isSome →
        (s.roleBars v = false ∨ s.fab.self = .spare → exec (.commit h v) s = .next (b.install v false).carryOn) ∧
        (s.roleBars v = true → s.fab.self ≠ .spare → exec (.commit h v) s = .next (b.sendFenced h.port m h.seq))) ∧
      (∀ x, v.entry? Config.ownMid = some x → x.state = .active ∨ x.state = .spare → s.viewOk v = true →
        (v.epoch = s.fab.epoch → exec (.view h v) s = .next { b with fab := { b.fab with fenced := false } }) ∧
        (s.fab.epoch < v.epoch → s.roleBars v = false ∨ s.fab.self = .spare →
          exec (.view h v) s = .next (b.install v false).carryOn)) ∧
      (∀ mid, s.fab.self = .active → mid ≠ s.fab.mid → ∃ e : State, exec (.suspect h mid) s = .next e.carryOn ∧
        e = { b with fab := { b.fab with reported := e.fab.reported } } ∧ mid ∈ e.fab.reported) ∧
      (∀ d att t, (h.epoch = s.fab.epoch → exec (.recon h d att t) s = .next (b.takeRecon m d att t.toNat).forceDone.pump) ∧
        (s.fab.epoch < h.epoch → exec (.recon h d att t) s =
          .next { b with fab := { b.fab with held := b.fab.held ++ [Instr.recon h d att t] } })) ∧
      (∀ action mid rank spareMid, b.isCoord = true → b.chgBad action mid rank spareMid = none →
        (∀ k ∈ s.fab.chgs, ¬ (k.action = action.toNat ∧ k.mid = mid ∧ k.rank = rank ∧ k.spareMid = spareMid)) → exec (.forwardedViewchgReceived h action mid rank spareMid) s = .next ({ b with fab := { b.fab with
          chgs := b.fab.chgs ++ [(⟨action.toNat, mid, rank, spareMid, none, true⟩ : ChgReq)] } }).carryOn)) ∧
    (InOrder s h → ∀ w, s.fab.view = some w → exec (.viewreq h) s = .next (b.sendMemb m 8 0 w.epoch [] (some w))) ∧
    (∀ r, s.fab.coord = some r →
      (r.failed = false → 25000 ≤ (s.aon.counter - r.since).toNat → Next .quorumTimeout s fun t =>
        t = { s with fab := { s.fab with coord := some { r with failed := true, since := s.aon.counter } } }) ∧
      (r.failed = true → 10000 + 100 * s.fab.mid.toNat ≤ (s.aon.counter - r.since).toNat →
        exec .ballotRetryTimer s = .next ({ s with fab := { s.fab with coord := none } }).carryOn)) ∧
    (∀ failed, s.fab.self = .quarantine → s.fab.qstage = 4 → s.hl.selftest = true → s.aon.braceAt = none →
      let a := s.selfTest failed;
      (a.hl.failed = false → Next (.quarantineSelfTestComplete failed) s fun t => t.fab.self = .offered ∧ t.hl = a.hl) ∧
      (a.hl.failed = true → exec (.quarantineSelfTestComplete failed) s = .next a))

/-! ### Errors, rotation, self-test -/

/-- R22 to R24, R174, R341, R434, R452, R464, R465: a corrected error counts on its channel or bank, and at the threshold becomes an event
while the count returns to zero; an uncorrectable error in the Kitty area, in code or a STATE buffer, and the loss of a package, a hub
link or a second ring link fail the module with their causes, and a failed module stays failed; one in any other buffer, or in a sum
held in a spill region, tears down its owner and voids the trick that met it, or every trick in flight; an exported STREAM stripe is asked of the other members; a channel whose copy is complete waits for the next trick. -/
def Obligations.ErrorsAreCountedOrFail : Prop :=
  ∀ (s : State),
    let counts (i : Instr) (src lo : Nat) (u : Sys2Proof.PUnit) : Prop :=
      ((s.hl.suspOf u).ce + 1 < 2 ^ (s.cfg.esc.toNat / 2 ^ lo % 16) → Ends i s State.pump fun e =>
        e = { s with hl := s.hl.setSusp { s.hl.suspOf u with ce := (s.hl.suspOf u).ce + 1 } }) ∧
      (2 ^ (s.cfg.esc.toNat / 2 ^ lo % 16) ≤ (s.hl.suspOf u).ce + 1 → exec i s =
        .next ({ s with hl := s.hl.setSusp { s.hl.suspOf u with ce := 0 } }.raiseEvent src u (s.workTrick u) 0).pump);
    let fails (i : Instr) (fcause : Nat) (cause : BitVec 4) (e : State) : Prop := exec i s = .next (e.failModule fcause cause).pump;
    (∀ fcause cause, s.hl.failed = false → s.job.state ≠ .running → s.job.state ≠ .ending → s.failModule fcause cause =
      { s with hl := { s.hl with failed := true, fcause := fcause } }) ∧
    (∀ fcause cause, s.hl.failed = true → s.failModule fcause cause = s) ∧
    (∀ ch : Fin 156, counts (.dramCorrectableError ch) 6 20 ⟨.channel, ch.val⟩) ∧
    (∀ bank : Fin 528, counts (.workingStoreCorrectedError bank) 4 16 ⟨.bank, bank.val⟩) ∧
    fails (.dramUncorrectableError .kitty) 5 0xA s ∧ fails (.dramUncorrectableError .code) 5 0xA s ∧
    (∀ p, fails (.dramUncorrectableError (.package p)) 5 0xA (s.setChMap p.val { s.chMap p.val with lost := true })) ∧
    (∀ (buf off : Nat) (trick : Option (BitVec 48)) (b : Buffer), s.job.buf? buf = some b → let t := trick.map BitVec.toNat;
      (b.cls = .state → fails (.dramUncorrectableError (.buffer buf off trick)) 5 0xA s) ∧
      (b.cls = .input ∨ (b.cls = .stream ∧ b.exp = none) → exec (.dramUncorrectableError (.buffer buf off trick)) s =
        .next (s.loseBuffers [(buf, off)] t 0xA).pump) ∧
      (∀ x, b.cls = .stream → b.exp = some x → exec (.dramUncorrectableError (.buffer buf off trick)) s =
        .next (if (s.ranks.filter fun e => e.mid != s.fab.mid) = [] then s.loseBuffers [(buf, off)] t 0xA
          else (s.askStripe b x.1 (b.stripeOf off)).voidHit t 0xA).pump) ∧
      exec (.dramUncorrectableError (.spill buf off trick)) s = .next (s.loseBuffers [(buf, off)] t 0xA).pump) ∧
    (∀ (buf r c off : Nat) (trick : Option (BitVec 48)) (o : OutTile) (n : Option Nat) (x : Ctx), o.lies = .region n → o.live = true →
      s.job.tiles.find? (fun o => o.live && o.buf == buf && o.r == r && o.c == c) = some o → s.job.ctx? o.ctx = some x →
      ∃ k : Byte, exec (.dramUncorrectableError (.sum buf r c off trick)) s =
        .next (s.loseOwned [(o.ctx, k, off)] (trick.map BitVec.toNat) 0xA).pump) ∧
    (∀ ch, exec (.dramUncorrectableError (.channelLost ch)) s = .next (s.channelLost ch.val).pump) ∧
    (∀ (t : Nat) (cause : BitVec 4), s.voidHit (some t) cause = s.voteVoid t cause ∧ s.voidHit none cause = s.voidOpen cause) ∧
    (∀ (bank : Fin 528) (lost : List (Nat × Nat)), s.hl.isSpare ⟨.bank, bank.val⟩ = false → s.hl.isRet ⟨.bank, bank.val⟩ = false → exec (.wsue bank lost) s =
      .next ((s.raiseEvent 5 ⟨.bank, bank.val⟩ (s.openTricks.head?.map fun t => (t, ((s.trick? t).getD .empty).att)) 0).loseBuffers
        (lost.filter fun x => match s.job.buf? x.1 with
          | none => false
          | some b => b.cls == .resident || b.cls == .stash) none 5).pump) ∧
    (∀ (link : Fin 4) (r : Bool), s.hl.ringLost.getLsbD link.val = false → ∃ e : State, (∀ k, k < 4 → e.hl.ringLost.getLsbD k =
        (decide (k = link.val) || s.hl.ringLost.getLsbD k)) ∧ e = { s with hl := { s.hl with ringLost := e.hl.ringLost } } ∧
      (s.hl.ringLost ≠ 0 → fails (.ringLinkLoss link r) 7 3 e) ∧
      (s.hl.ringLost = 0 → exec (.ringLinkLoss link r) s = .next (if r then e.voidOpen 3 else e).pump)) ∧
    (∀ link : Fin 4, ∃ e : State, e.hl.hubLost.getLsbD link.val = true ∧ e = { s with hl := { s.hl with hubLost := e.hl.hubLost } } ∧
      fails (.hubLinkLoss link) 2 3 e) ∧
    (s.escWindow ≤ (s.aon.counter - s.hl.window).toNat → Next .escalationWindowExpiry s fun t =>
      (∀ x ∈ t.hl.susp, x.ce = 0) ∧ t.hl.window = s.aon.counter ∧ t.job = s.job ∧ t.hl.evCount = s.hl.evCount) ∧
    (∀ p : Fin 12, (s.chMap p.val).copying = true → Next (.spareChannelCopyComplete p) s fun t =>
      (t.chMap p.val).copying = false ∧ (t.chMap p.val).pendMove = true ∧ t.job = s.job)

/-- R466, R467, R471 to R478: a settled step at a boundary raises the domain's steps by those due, up to their limits; a rotation that is
due takes the next unit in service as its target; a woken spare that passes is ready, a channel's spare starts its copy, or takes the index of a channel
that could not be read, and one that fails loses the package; a target that passes becomes the spare, once it holds no data or sum,
and an engine returns at the boundary; a rotation that waits 60 s is tested inside the trick, and a tile's test counts as time assigned
to it; self-test retires what fails and boot goes on. -/
def Obligations.RotationsAndSelfTest : Prop :=
  ∀ (s : State),
    (∀ d : Fin 80, s.aon.braceAt = none → s.openTricks = [] → Ends (.escalationStepSettled d) s State.pump fun e =>
      (e.hl.vstep.get d).toNat = min ((s.hl.vstep.get d).toNat + (s.hl.due.filter fun x => x == .volt d.val).length) 8 ∧
      (e.hl.fstep.get d).toNat = min ((s.hl.fstep.get d).toNat + (s.hl.due.filter fun x => x == .clock d.val).length) 3 ∧
      (∀ k : Fin 80, k ≠ d → e.hl.vstep.get k = s.hl.vstep.get k ∧ e.hl.fstep.get k = s.hl.fstep.get k) ∧
      DueStep.volt d.val ∉ e.hl.due ∧ DueStep.clock d.val ∉ e.hl.due ∧ e.job = s.job) ∧
    (∀ (k : RotKind) (die : Fin 4) (r : Rot) (t : Nat), s.hl.nopat = false → s.aon.ready = true → s.rot? k die.val = some r →
      r.stage = 0 → s.rotPeriod k ≠ 0 → s.rotPeriod k ≤ (s.aon.counter - r.start).toNat → s.nextUnit r = some t →
      Next (.rotationDue k die) s fun u => (∃ r', u.rot? k die.val = some r' ∧ r'.stage = 1 ∧ r'.target = some t ∧ r'.due = true ∧
        r'.start = s.aon.counter ∧ r'.spare = none) ∧ s.hl.inService ⟨rotUnit k, t⟩ = true ∧ u.job = s.job) ∧
    (∀ (u : Sys2Proof.PUnit) (w : Wake), s.hl.wakes.find? (fun w => w.u == u && !w.passed) = some w → s.aon.braceAt = none → s.hl.nopat = false →
      (u.kind = .channel → u.idx < 156 → (s.chMap (u.idx / 13)).unread = false → Next (.spareTestComplete u true) s fun t =>
        (t.chMap (u.idx / 13)).copying = true ∧ (∀ x ∈ t.hl.wakes, x.u ≠ u) ∧ t.job = s.job) ∧
      (u.kind = .channel → u.idx < 156 → (s.chMap (u.idx / 13)).unread = true → Ends (.spareTestComplete u true) s State.pump fun e =>
        (e.chMap (u.idx / 13)).unread = false ∧ (e.chMap (u.idx / 13)).pendMove = true ∧ e.hl.isSpare u = false ∧ e.job = s.job) ∧
      (u.kind = .channel → exec (.spareTestComplete u false) s = .next ((s.raiseEvent 0xA u none 0).packageLost (u.idx / 13)).pump) ∧
      (u.kind = .lane → u.idx < 108 → Ends (.spareTestComplete u true) s (fun e => (e.laneTrained (Fin.ofNat 12 (u.idx / 9))).pump) fun e =>
        e = { s with aon := { s.aon with tgPll := e.aon.tgPll } }) ∧
      (u.kind ≠ .channel → u.kind ≠ .lane → Ends (.spareTestComplete u true) s State.pump fun e => e.job = s.job ∧
        ∀ x ∈ e.hl.wakes, x.u = u → x.passed = true) ∧
      (u.kind ≠ .channel → exec (.spareTestComplete u false) s =
        .next ((s.raiseEvent 0xA u none 0).wakeOne u.kind (unitDie u) w.forRetire).stopPlls.pump)) ∧
    (∀ (u : Sys2Proof.PUnit) (k : RotKind) (r : Rot), rotKindOf u.kind = some k → s.rot? k (unitDie u) = some r → r.target = some u.idx →
      s.aon.braceAt = none → s.hl.nopat = false →
      (r.stage = 3 → k = .engine → s.targetBusy k r u = false → Next (.rotationTargetTestComplete u true) s fun t => (∃ r', t.rot? k (unitDie u) = some r' ∧
        r' = { r with stage := 4 }) ∧ t.job = s.job) ∧
      (r.stage = 3 → s.targetBusy k r u = true → exec (.rotationTargetTestComplete u true) s = .next s) ∧
      (r.stage = 3 → k ≠ .engine → s.targetBusy k r u = false →
        (∀ w ∈ s.hl.wakes, w.u.kind = u.kind → unitDie w.u = unitDie u → w.forRetire = true) →
        Ends (.rotationTargetTestComplete u true) s State.pump fun e => e.job = s.job ∧
        u ∉ e.hl.off ∧ ∃ r', e.rot? k (unitDie u) = some r' ∧ r'.stage = 0 ∧ r'.target = none ∧ r'.lastUnit = some u.idx)) ∧
    (∀ (k : RotKind) (die : Fin 4) (r : Rot), k = .tile ∨ k = .engine → s.rot? k die.val = some r → r.due = true →
      r.stage = 1 ∨ r.stage = 2 → s.job.t0.begun = true ∨ s.job.t1.begun = true → s.hl.nopat = false → 3000000000 ≤ (s.aon.counter - r.dueSince).toNat →
      Ends (.longRotationTimeout k die) s State.pump fun e => e.hl.rotLong = true ∧
        (∃ l, (k = .engine → l = []) ∧ let more (r : TrickRec) : TrickRec := if r.begun = true then { r with dealt := r.dealt ++ l } else r;
          e.job = { s.job with t0 := more s.job.t0, t1 := more s.job.t1 }) ∧
        ∃ r', e.rot? k die.val = some r' ∧ r'.stage = 5 ∧ r'.target = r.target ∧ r'.spare = none) ∧
    (∀ failed, s.hl.selftest = true → s.aon.bootStep = 8 → s.aon.braceAt = none → Next (.selfTestComplete failed) s fun t =>
      t.aon.bootStep = 9 ∧ t.hl.selftest = false ∧
      (∀ d, d < 80 → t.hl.retest.getLsbD d = (s.hl.retest.getLsbD d && !t.aon.domOn.getLsbD d)) ∧
      ∀ u ∈ failed, u.kind = .engine ∨ u.kind = .bank → u.idx < 16 → t.hl.isRet u = true)

/-! ### Scoresheet and attestation -/

/-- R508, R510 to R515, R519, R524, R525: a page programmed has its bytes in the flash and no other byte changed; a record read back is
in force, one that does not match has its CRC spoiled and is written again, up to three times; a sector erased reads 0xFF; a device
that fails is used no more; each hour is counted for the domains that are on; a load is refused with its status or queued; a
signature uses the next leaf, which is then spent, and of the lower tree that the HSSLOW record names its key and upper signature
(R517, R524). -/
def Obligations.FlashRecordsAndLeaves : Prop :=
  ∀ s : State,
    (∀ w, s.score.cur = some w → w.dev ≤ 1 →
      (w.started = true → let page := (w.bytes.drop (256 * w.page)).take 256; let o := w.slot + 256 * w.page;
        (∃ e : State, exec (.pageProgramComplete true) s = .next e.resumeFlash ∧
          e.score.cur = some { w with done := w.done + 1, started := false } ∧
          (∀ a, memRead 0xFF (e.flash w.dev) a = if o ≤ a ∧ a < o + page.length then page.getD (a - o) 0
            else memRead 0xFF (s.flash w.dev) a) ∧
          e.flash (1 - w.dev) = s.flash (1 - w.dev) ∧ e = { s with score := e.score }) ∧
        exec (.pageProgramComplete false) s = .next (s.devFail w.dev)) ∧
      (s.devFail w.dev).okDev w.dev = false ∧
      (w.done = w.pages →
        exec (.recordReadbackComplete true) s =
          .next ((({ s with score := { s.score with cur := none } }).eraseAfter w).recWritten w.req).nextRec ∧
        ∃ e : State, e.job = s.job ∧ e.att = s.att ∧
          fieldAt (memReadN 0xFF (e.flash w.dev) w.slot 16) 12 4 ≠ fieldAt w.bytes 12 4 ∧
          (w.fails < 2 → exec (.recordReadbackComplete false) s = .next (e.beginRec w.req w.dev (w.fails + 1) (some w.slot))) ∧
          (2 ≤ w.fails → exec (.recordReadbackComplete false) s = .next (e.devFail w.dev)))) ∧
    (∀ d o rest, s.score.erases = (d, o) :: rest → s.score.suspended = false →
      (∃ e : State, exec (.sectorEraseComplete true) s = .next e.resumeFlash ∧ e.score.erases = rest ∧ e = { s with score := e.score } ∧
        ∀ a, memRead 0xFF (e.flash d) a = if o ≤ a ∧ a < o + 65536 then 0xFF else memRead 0xFF (s.flash d) a) ∧
      exec (.sectorEraseComplete false) s = .next (s.devFail d)) ∧
    (180000000000 ≤ (s.aon.counter - s.score.wearDue).toNat → ∃ h : Health, exec .wearTimer s = .next ({ s with
        hl := h
        score := { s.score with wearDue := s.aon.counter } }.requestRec 5 h.wearPayload) ∧
      ∀ (d : Fin 80) (v : Nat), h.hoursAt d.val v = if s.aon.domOn.getLsbD d.val = true ∧ v = (s.hl.vstep.get d).toNat then
        (s.hl.hoursAt d.val v + 1) % 2 ^ 32 else s.hl.hoursAt d.val v) ∧
    (∀ (l : LoadSt) (data : List Byte), s.score.load = some l → l.queued = false → data.length = l.len →
      let b := s.readDone l.region l.len;
      let bad := if l.kind = 2 then s.keyBad data else s.patBad data;
      (∀ st, bad = some st → Next (.scoreLoadDataReceived data) s fun t => t = { b with score := { b.score with
        load := none
        loadStatus := st
        loadDone := true } }) ∧
      (bad = none → exec (.scoreLoadDataReceived data) s = .next (if l.kind = 2
        then { b with score := { b.score with load := some { l with queued := true } } }.requestRec 3 (data.take 272)
        else { b with score := { b.score with load := some { l with queued := true } } }.requestRec 7 data))) ∧
    (∀ q, s.att.req = some q →
      (q.waitTree = true → s.lowTree = some (s.att.next / 32768) → exec .lowerTreeGenerated s =
        .next ({ s with att := { s.att with tree := some (s.att.next / 32768) } }).attStep) ∧
      (s.att.signed = [] → s.att.next < s.att.limit → s.att.next < 2 ^ 30 → s.score.nolms = false →
        s.att.tree = some (s.att.next / 32768) → (s.attStep).att.next = s.att.next + 1 ∧
        ∃ sig : List Byte, (s.attStep).att.signed = q.report ++ sig ∧ sig.length = 5396 ∧ word32 sig 0 = 1 ∧
          word32 sig 2728 = s.att.next % 32768 ∧ (s.score.hsslow.length = 2728 → fieldAt s.score.hsslow 0 4 = s.att.next / 32768 →
            (sig.drop 4).take 2668 = s.score.hsslow.drop 60 ∧ (sig.drop 2672).take 56 = (s.score.hsslow.drop 4).take 56)) ∧
      (s.att.signed ≠ [] →
        (∀ r, s.region? q.region = some r → r.peer = false → r.write = true → q.off + s.att.signed.length ≤ r.length →
          exec .attestReportWritten s = .next ((s.writeRegion none q.region q.off s.att.signed .bytes 0).attDone stOK)) ∧
        ((∀ r, s.region? q.region = some r → r.peer = true ∨ r.write = false ∨ r.length < q.off + s.att.signed.length) →
          Next .attestReportWritten s fun t => t.att.status = stBUFFER ∧ t.att.busy = false ∧ t.att.done = true ∧ Outputs s t [] ∧
            t.att.next = s.att.next)))

/-! ### Resets, supply, boot -/

/-- R498, with R482, R489, R490, R495 to R497 and R540 in part: RESETLEVEL, overvoltage, overtemperature, a stopped H-AON oscillator and the loss of the
H-AON domain reset the module cold; RESET_N and the key of PWR.MRESET reset it from boot step 3, with the counter going on, and any other value has no
effect; a bus
voltage beyond the absolute maximum is the one stop of the model. -/
def Obligations.ResetsClearTheModule : Prop :=
  ∀ s : State,
    (3 ≤ s.aon.bootStep →
      Resets .resetLevel s 1 0 id (fun _ => True) ∧
      (∀ mv, 58000 < mv → mv ≤ 65000 → Resets (.overvoltage mv) s 2 1 id fun t => t.aon.holdOv = true ∧ t.aon.vin.toNat = mv) ∧
      (∀ mv, 65000 < mv → exec (.overvoltage mv) s = .fault .beyondRatings) ∧
      Resets .overtemperature s 3 1 id (fun t => t.aon.holdOt = true) ∧
      Resets .aonOscillatorStop s 4 1 id (fun t => t.aon.oscOn = false) ∧
      (∀ lostLock, Resets (.domainFault 67 lostLock) s 4 1 id fun _ => True) ∧
      Resets .resetNAssert s 5 3 id (fun t => t.aon.holdRst = true ∧ t.aon.counter = s.aon.counter ∧ t.aon.latch = s.aon.latch)) ∧
    (∀ (qp : BitVec 12) (q : Qp), s.qp? qp.toNat = some q → q.st = .ready → q.role = 2 →
      Resets (.mresetWrite qp) s 6 3 State.pump fun t => t.aon.counter = s.aon.counter ∧ t.aon.latch = s.aon.latch) ∧
    (∀ v : Word, v.toNat % 65536 ≠ 0xA55A → s.writeReg 0x201C v = s) ∧
    (s.aon.bootStep = 0 → ∀ mv, 65000 < mv → exec (.powerOn mv) s = .fault .beyondRatings)

/-- R33 to R35, R482 to R494, R499, R501, R502: the regulator starts above 46 V and latches the straps at power-good, with the counter at
zero; brace is entered, counted and left with its duration once the bus has been above 44.0 V for 100,000 counts; hot and hold conditions come and go; a domain that faults goes off and
is flagged; boot goes through its steps in order. -/
def Obligations.SupplyBraceAndBoot : Prop :=
  ∀ s : State, let at_ (k : Nat) : Prop := s.aon.bootStep = k ∧ s.aon.braceAt = none ∧ s.aon.holdRst = false;
    (∀ mv, s.aon.bootStep = 0 → 46000 < mv → mv ≤ 65000 → Next (.powerOn mv) s fun t => t.aon.bootStep = 1 ∧
      t.aon.startFilter = true ∧ t.aon.vin.toNat = mv ∧ t = { s with aon := t.aon, fresh := t.fresh }) ∧
    (s.aon.bootStep = 1 → s.aon.holdOv = false → s.aon.holdOt = false → Next .startFilter s fun t => t.aon.bootStep = 3 ∧
      t.aon.latch = s.aon.contacts ∧ t.aon.counter = 0 ∧ t.aon.oscOn = true ∧ t.job = s.job) ∧
    (3 ≤ s.aon.bootStep → s.aon.braceAt = none → ∃ e : State, exec .brace s = .next (e.voidEach 6).forceDone.pump ∧
      e.aon.braceAt = some s.aon.counter ∧ e.aon.braces = min (s.aon.braces + 1) (2 ^ 32 - 1) ∧ e.job = s.job ∧
      e.aon.recover = none ∧ (s.aon.bootStep = 5 → e.aon.waves = 0) ∧
      (s.aon.bootStep = 6 → e.aon.hubLock = false ∧ e.aon.vsLock = 0 ∧ e.aon.tgPll = 0) ∧ e.score.suspended = !s.score.erases.isEmpty) ∧
    (∀ b, s.aon.braceAt = some b →
      (Next .recoveryFilterStart s fun t => t.aon.recover = some (s.aon.recover.getD s.aon.counter) ∧ t.job = s.job ∧ t.aon.braceAt = some b) ∧
      (3 ≤ s.aon.bootStep → Next .brace s fun t => t.aon.recover = none ∧ t.job = s.job ∧ t.aon.braceAt = some b ∧ t.aon.braces = s.aon.braces) ∧
      ((∀ r, s.aon.recover = some r → (s.aon.counter - r).toNat < 100000) → exec .braceEnd s = .next s) ∧
      ∀ r, s.aon.recover = some r → 100000 ≤ (s.aon.counter - r).toNat →
      ∃ e : State, exec .braceEnd s = .next e.resumeFlash.pump ∧ e.aon.braceAt = none ∧ e.aon.recover = none ∧
        e.aon.lastDur = BitVec.ofNat 31 ((s.aon.counter - b).toNat / 64) ∧ e.aon.lastValid = true ∧ e.score.suspended = false ∧ e.job = s.job) ∧
    (3 ≤ s.aon.bootStep → Next .junctionHot s fun t => t.aon.hot = true ∧ t.job = s.job) ∧
    (s.aon.hot = true → Next .hotCleared s fun t => t.aon.hot = false ∧ t.job = s.job) ∧
    (s.aon.holdOv = true → Next .overvoltageRelease s fun t => t.aon.holdOv = false ∧ t.aon.startFilter = true ∧ t.job = s.job) ∧
    (s.aon.holdOt = true → Next .overtemperatureRelease s fun t => t.aon.holdOt = false ∧ t.aon.startFilter = true ∧ t.job = s.job) ∧
    (∀ k, Next (.strapContactChange k) s fun t => t = { s with aon := { s.aon with contacts := k } }) ∧
    (Next .resetNRelease s fun t => t = { s with aon := { s.aon with holdRst := false } }) ∧
    (Next (.serdesReferenceChange true) s fun t => t = { s with aon := { s.aon with refOk := true } }) ∧
    (let e : State := { s with aon := { s.aon with refOk := false } }; exec (.serdesReferenceChange false) s =
      .next (((List.finRange 12).filter fun p => (s.fab.ports.get p).up).foldl State.peerPortDown
        (((List.finRange 4).filter fun p => (s.host.ports.get p).up).foldl State.hostPortDown e)).pump) ∧
    (∀ (d : Fin 80) (lostLock : Bool), d.val ≠ 67 → 5 ≤ s.aon.bootStep → s.aon.domOn.getLsbD d.val = true →
      let again := (alGet s.hl.domFltAt d.val).any fun t => decide ((s.aon.counter - t).toNat < s.escWindow);
      ∃ e f : State, exec (.domainFault d lostLock) s = .next (if again then f.keepOff d.val else f).lockStep.pump ∧
        e.aon.domOn.getLsbD d.val = false ∧ e.aon.domFlt.getLsbD d.val = true ∧ e.hl.retest.getLsbD d.val = true ∧ e.job = s.job ∧
        (∀ k, k ≠ d.val → e.aon.domOn.getLsbD k = s.aon.domOn.getLsbD k) ∧
        (vitalDomain d.val = true → f = e.failModule 3 4) ∧
        (vitalDomain d.val = false → d.val < 68 → f = (e.groupGone d.val).voidOpen 4) ∧
        (68 ≤ d.val → f = (e.setChMap (d.val - 68) { e.chMap (d.val - 68) with lost := true }).failModule 5 4)) ∧
    (∀ a b, at_ 3 → Next (.bootScoresheetRead a b) s fun t => t.aon.bootStep = 4 ∧ t.score.ok0 = a ∧ t.score.ok1 = b ∧
      t.score.f0 = s.score.f0 ∧ t.score.f1 = s.score.f1 ∧ t.att.next = t.att.limit ∧
      (a = true → b = true → (s.validRec 1 = none → t.score.nolms = true ∧ t.att.limit = 0) ∧
        ∀ p, s.validRec 1 = some p → t.score.nolms = false ∧ t.att.limit = min (fieldAt p 0 4 + 64) (2 ^ 30))) ∧
    (at_ 4 → s.aon.hold = false → Next .bootRepairLoad s fun t => t.aon.hold = s.aon.latch.getLsbD 9 ∧
      t.aon.bootStep = (if s.aon.latch.getLsbD 9 = true then 4 else 5) ∧ (s.score.ok0 = true → s.score.ok1 = true →
        (s.validRec 4 = none → t.hl.tret = s.hl.tret ∧ t.hl.sret = s.hl.sret) ∧
        ∀ p, s.validRec 4 = some p → t.hl.tret = BitVec.ofNat 224 (fieldAt p 0 28) ∧ t.hl.tspr = BitVec.ofNat 224 (fieldAt p 28 28) ∧
          t.hl.bret = BitVec.ofNat 528 (fieldAt p 60 66) ∧ t.hl.cret = BitVec.ofNat 156 (fieldAt p 192 20) ∧
          t.hl.sret = BitVec.ofNat 18 (fieldAt p 232 4) ∧ t.hl.lret = BitVec.ofNat 108 (fieldAt p 240 14))) ∧
    (s.aon.hold = true → s.aon.braceAt = none → Next .bootholdRelease s fun t => t.aon.hold = false ∧ t.aon.bootStep = 5 ∧ t.aon.waves = 0 ∧ t.job = s.job) ∧
    (at_ 5 → Next .bootDomainWave s fun t => t.aon.waves = s.aon.waves + 1 ∧ t.aon.bootStep = (if 4 ≤ s.aon.waves then 6 else 5) ∧
      ∀ d, d < 80 → t.aon.domOn.getLsbD d = if d ∈ waveDomains s.aon.waves then !s.hl.staysOff d && !s.aon.domFlt.getLsbD d else s.aon.domOn.getLsbD d) ∧
    (6 ≤ s.aon.bootStep → s.aon.bootStep ≠ 6 ∨ s.aon.braceAt = none →
      (s.aon.domOn.getLsbD 64 = true → Next (.pllLock .hub) s fun t => t.aon.hubLock = true) ∧
      (∀ n : Fin 4, s.aon.domOn.getLsbD (16 * n.val + 14) = true → Next (.pllLock (.die n)) s fun t => t.aon.vsLock.getLsbD n.val = true) ∧
      ∀ d : Fin 56, s.aon.domOn.getLsbD (16 * (d.val / 14) + d.val % 14) = true → s.groupNeeded d.val = true →
        Next (.pllLock (.group d)) s fun t => t.aon.tgPll.getLsbD d.val = true) ∧
    (at_ 7 → Next .dramTrainingComplete s fun t => t.aon.bootStep = 8 ∧ t.hl.selftest = true) ∧
    (at_ 9 → Next .bootReady s fun t => t.aon.bootStep = 10 ∧ t.aon.ready = true ∧ t.job = s.job)

/-! ### Registers and sideband -/

/-- R6 to R8, R113, R418, R519, R526, R532 to R535, R503, R549: a MANAGE queue pair's read of a LO captures its HI, which the next read
of the HI takes; a write of an RL field is refused while a job is admitted; the write-one bits of PWR.CLEAR, a load, an attestation
request start what they name; the sideband and the JTAG port answer from boot step 2 on. -/
def Obligations.RegistersAndSideband : Prop :=
  ∀ s : State,
    (∀ (qp : BitVec 12) (q : Qp), s.qp? qp.toNat = some q → q.st = .ready → q.role = 2 →
      (∀ off : BitVec 24, off.toNat % 4 = 0 → capturedLO off.toNat = true → Next (.loRegisterRead qp off) s fun t => HostChange s t ∧
        Outputs s t [.readReply qp [s.readReg off.toNat]] ∧
        ∃ q', t.qp? qp.toNat = some q' ∧ alGet q'.latches (off.toNat + 4) = some (s.readReg (off.toNat + 4))) ∧
      (∀ (off : BitVec 24) (v : Word), off.toNat % 4 = 0 → capturedLO off.toNat = false → 4 ≤ off.toNat → capturedLO (off.toNat - 4) = true →
        (alGet q.latches off.toNat = some v → Next (.hiRegisterRead qp off) s fun t => HostChange s t ∧
          Outputs s t [.readReply qp [v]] ∧ ∃ q', t.qp? qp.toNat = some q' ∧ alGet q'.latches off.toNat = none) ∧
        (alGet q.latches off.toNat = none → Next (.hiRegisterRead qp off) s fun t => HostChange s t ∧
          Outputs s t [.readReply qp [s.readReg off.toNat]])) ∧
      (∀ (off : BitVec 24) (v : Word), off.toNat % 4 = 0 → ∃ b : State, HostChange s b ∧ Outputs s b [] ∧ (∀ j, b.qp? j = s.qp? j) ∧
        exec (.registerWrite qp off v) s = .next ((b.writeReg off.toNat v).ackIf qp).pump) ∧
      (Ends (.vminclr qp) s State.pump fun e => e.aon = { s.aon with vmin := s.aon.vin } ∧ e.job = s.job) ∧
      (Ends (.peakclr qp) s State.pump fun e => e.aon = { s.aon with peak := s.aon.pin } ∧ e.job = s.job) ∧
      (∀ (region : BitVec 16) (kind3 : Bool), s.job.state = .idle → s.score.load = none →
        (Ends (.scoreLoadReservedKind qp region kind3) s State.pump fun e => e.score.load = none ∧ e.score.loadStatus = stILLEGAL ∧
          e.score.loadDone = true) ∧
        (∀ (r : Region), s.region? region.toNat = some r → s.canRead region.toNat (s.cfg.loadLo.toNat + 2 ^ 32 * s.cfg.loadHi.toNat)
            s.cfg.loadLen.toNat = true →
          (Ends (.scoreLoadPatternSet qp region) s State.pump fun e => e.score.load = some ⟨1, region.toNat, s.cfg.loadLen.toNat, false⟩) ∧
          (Ends (.scoreLoadKeySet qp region) s State.pump fun e => e.score.load = some ⟨2, region.toNat, s.cfg.loadLen.toNat, false⟩))) ∧
      (∀ region : BitVec 16, s.att.busy = true → Ends (.attestGo qp region) s State.pump fun e =>
        e.att = { s.att with overrun := true } ∧ e.job = s.job) ∧
      (∀ region : BitVec 16, s.att.busy = false → s.att.next < 2 ^ 30 → s.score.nolms = false → s.att.next < s.att.limit →
        s.att.tree = some (s.att.next / 32768) → Ends (.attestGo qp region) s State.pump fun e => e.att.busy = true ∧
          e.att.next = s.att.next + 1 ∧ e.att.signed.length = 384 + 5396 ∧ e.job = s.job)) ∧
    (∀ v : Word, s.job.state = .idle → (s.writeReg 0x9000 v).cfg.hp = v &&& 0x3FF ∧ (s.writeReg 0x8000 v).cfg.mem = v ∧
      (s.writeReg 0x7040 v).cfg.kcfg = v &&& 0x1F ∧ (s.writeReg 0x5004 v).cfg.esc = v &&& 0x0FFFFFFF) ∧
    (∀ (v : Word) (off : Nat), s.job.state ≠ .idle → off ∈ [0x5004, 0x5008, 0x5040, 0x7040, 0x8000, 0x9000, 0xA000, 0xB008, 0xB00C, 0xB010, 0xE000, 0xE004] →
      s.writeReg off v = { s with host := { s.host with errLocked := true } }) ∧
    (3 ≤ s.aon.bootStep → let word (i : Instr) (code : Byte) (w : BitVec 16) : Prop := exec i s = .next (s.send (.smbWord w (smbPec code w)));
      word .smbReadVin 1 s.aon.vin ∧ word .smbReadPin 2 s.aon.pin ∧ word .smbReadHubTemp 7 (s.aon.tempHub.setWidth 16) ∧
      word .smbReadDramTemp 8 (s.aon.tempDram.setWidth 16) ∧ (∀ die : Fin 4, word (.smbReadDieTemp die) (3 + BitVec.ofNat 8 die.val)
        ((s.aon.temps.get die).setWidth 16)) ∧
      (∃ w : BitVec 16, word .smbReadStatus 9 w ∧ w.toNat < 32 ∧ w.getLsbD 0 = s.aon.braceAt.isSome ∧ w.getLsbD 1 = s.aon.recover.isSome ∧
        w.getLsbD 2 = s.aon.ready ∧ w.getLsbD 3 = s.aon.hot ∧ w.getLsbD 4 = s.aon.hold)) ∧
    (∀ (isWrite : Bool) (code : Byte), isWrite = true ∨ code = 0 ∨ 9 < code.toNat →
      exec (.smbUndefinedAccess isWrite code) s = .next (s.send .smbNack)) ∧
    (3 ≤ s.aon.bootStep → let loads (i : Instr) (j : Tap) (sel : Nat) (v : Word) : Prop := Next i s fun t =>
        t = { s with aon := { s.aon with jtag := j }, outbox := s.outbox ++ [⟨none, .jtag sel v⟩] };
      loads .jtagBypass .bypass 0 0 ∧ loads .jtagIdcode .idcode 1 idcode ∧ loads .jtagSample .sample 2 0 ∧ loads .jtagPreload .preload 2 0 ∧
      loads .jtagExtest .extest (if s.aon.hold then 2 else 0) 0 ∧ loads .jtagExtestPulse .extestPulse (if s.aon.hold then 2 else 0) 0 ∧
      loads .jtagExtestTrain .extestTrain (if s.aon.hold then 2 else 0) 0) ∧
    idcode.toNat / 2 ^ 12 % 2 ^ 16 = 0x4B31 ∧ idcode.toNat % 2 ^ 12 = Config.jtagMaker.toNat % 2 ^ 12 ∧
    idcode.toNat / 2 ^ 28 = (dieRecord 4).toNat / 2 ^ 67 % 16

/-! ### The machine -/

/-- Derived (the queue is the model's way to take commands; the tick on an empty queue is log entry 2's choice): a step with a
command at the front of the queue is that command's effect on the state with the queue's rest, and with no command one count. -/
def Obligations.StepRunsFrontCommand : Prop :=
  ∀ (s : State), (∀ (c : Instr) (rest : List Instr), step { s with pending := c :: rest } = exec c { s with pending := rest }) ∧
    step { s with pending := [] } = .next { s with pending := [] }.tick ∧
    (s.aon.oscOn = true → s.tick.aon.counter = s.aon.counter + 1) ∧ (s.aon.oscOn = false → s.tick = s)

/-- Every command answers a next state from every state, but for a bus voltage beyond the absolute maximum (R540; log entry 19), and
no command is refused. -/
def Obligations.EveryCommandAnswers : Prop :=
  ∀ (i : Instr) (s : State), (∃ t, exec i s = .next t) ∨
    (exec i s = .fault .beyondRatings ∧ ∃ mv, 65000 < mv ∧ ((i = .overvoltage mv ∧ 3 ≤ s.aon.bootStep) ∨ (i = .powerOn mv ∧ s.aon.bootStep = 0)))

/-- Reset values of file 20 for registers of every block, read through the register window (Tables 05-11, 07-9, 08-8, 14-7, 14-9, 15-11,
17-7, 18-9, 13-7, 12-10), and that the machine at reset keeps the leaf reservation of R521. Values the spec gives no reset for are
not stated. -/
def Obligations.ResetValuesAreTheSpecs : Prop :=
  let r := State.reset;
  r.job.state = .idle ∧ r.pending = [] ∧ r.fab.epoch = 0 ∧ r.host.qps = [] ∧ r.host.regions = [] ∧ r.aon.counter = 0 ∧
    r.readReg 0x5004 = 0x04A60FB8 ∧ r.readReg 0x5008 = 0x20804010 ∧ r.readReg 0x5040 = 0x40 ∧ r.readReg 0x7000 = 0x8 ∧
    r.readReg 0x8000 = 0x64 ∧ r.readReg 0x9000 = 0x2D3 ∧ r.readReg 0xA000 = 0x829C001D ∧ r.readReg 0xD008 = 0x20400 ∧
    r.readReg 0xE000 = 0x0800400C ∧ r.readReg 0xE100 = 8 ∧ LeavesReserved r

/-- Derived from R521, R522 and R523: every step keeps the leaf reservation, whatever the command and the state: no signature is made
with a leaf that the Scoresheet has not reserved. -/
def Obligations.StepsKeepLeafReservation : Prop :=
  ∀ s t : State, LeavesReserved s → step s = .next t → LeavesReserved t
end

