-- ==== Sys2Proof/Laws/Kept.lean ====
section
/-! SUPPORT. What the shared operations leave alone: the waiting commands, the configuration registers and the attestation
unit. One lemma for each operation, so that a statement about these fields needs no operation unfolded; registers, resets and
attestation, which do write them, are not among the lemmas. -/

namespace Sys2Proof.Machine

/-- What only a register write, a reset, attestation or the queue itself changes: the waiting commands, the configuration registers, the
attestation unit. -/
def State.kept (s : State) : List Instr × Cfg × Att := (s.pending, s.cfg, s.att)
@[simp] theorem State.kept_mk (p o k f a c h fb ho j st at' sc) : (State.mk p o k f a c h fb ho j st at' sc).kept = (p, c, at') := rfl
@[simp] theorem State.kept_fold (s : State) : (s.pending, s.cfg, s.att) = s.kept := rfl
theorem kept_foldl {α : Type} {f : State → α → State} (h : ∀ s a, (f s a).kept = s.kept) (l : List α) (s : State) :
    (l.foldl f s).kept = s.kept := by
  induction l generalizing s with
  | nil => rfl
  | cons a r ih => exact (ih _).trans (h s a)

@[simp] theorem State.modTrick_kept (s : State) (t : Nat) (f : TrickRec → TrickRec) : (State.modTrick s t f).kept = s.kept := by
  unfold State.modTrick
  repeat' (first | with_reducible rfl | (simp; done) | with_reducible refine (kept_foldl (fun _ _ => ?_) _ _).trans ?_ | split | (simp only []) | simp)
@[simp] theorem State.send_kept (s : State) (o : Out) : (State.send s o).kept = s.kept := by
  unfold State.send
  repeat' (first | with_reducible rfl | (simp; done) | with_reducible refine (kept_foldl (fun _ _ => ?_) _ _).trans ?_ | split | (simp only []) | simp)
@[simp] theorem State.flushTx_kept (s : State) : (State.flushTx s).kept = s.kept := by
  unfold State.flushTx
  repeat' (first | with_reducible rfl | (simp; done) | with_reducible refine (kept_foldl (fun _ _ => ?_) _ _).trans ?_ | split | (simp only []) | simp)
@[simp] theorem State.dropTx_kept (s : State) (isHost : Bool) (p : Nat) : (State.dropTx s isHost p).kept = s.kept := by
  unfold State.dropTx
  repeat' (first | with_reducible rfl | (simp; done) | with_reducible refine (kept_foldl (fun _ _ => ?_) _ _).trans ?_ | split | (simp only []) | simp)
@[simp] theorem State.takeFresh_kept (s : State) : (State.takeFresh s).2.kept = s.kept := by
  unfold State.takeFresh
  repeat' (first | with_reducible rfl | (simp; done) | with_reducible refine (kept_foldl (fun _ _ => ?_) _ _).trans ?_ | split | (simp only []) | simp)
@[simp] theorem State.setQp_kept (s : State) (i : Nat) (q : Qp) : (State.setQp s i q).kept = s.kept := by
  unfold State.setQp
  repeat' (first | with_reducible rfl | (simp; done) | with_reducible refine (kept_foldl (fun _ _ => ?_) _ _).trans ?_ | split | (simp only []) | simp)
@[simp] theorem State.modQp_kept (s : State) (i : Nat) (f : Qp → Qp) : (State.modQp s i f).kept = s.kept := by
  unfold State.modQp
  repeat' (first | with_reducible rfl | (simp; done) | with_reducible refine (kept_foldl (fun _ _ => ?_) _ _).trans ?_ | split | (simp only []) | simp)
@[simp] theorem State.modHost_kept (s : State) (f : HostSt → HostSt) : (State.modHost s f).kept = s.kept := by
  unfold State.modHost
  repeat' (first | with_reducible rfl | (simp; done) | with_reducible refine (kept_foldl (fun _ _ => ?_) _ _).trans ?_ | split | (simp only []) | simp)
@[simp] theorem State.setTries_kept (s : State) (q : QpRef) (n : Nat) : (State.setTries s q n).kept = s.kept := by
  unfold State.setTries
  repeat' (first | with_reducible rfl | (simp; done) | with_reducible refine (kept_foldl (fun _ _ => ?_) _ _).trans ?_ | split | (simp only []) | simp)
@[simp] theorem State.modRegion_kept (s : State) (n : Nat) (f : Region → Region) : (State.modRegion s n f).kept = s.kept := by
  unfold State.modRegion
  repeat' (first | with_reducible rfl | (simp; done) | with_reducible refine (kept_foldl (fun _ _ => ?_) _ _).trans ?_ | split | (simp only []) | simp)
@[simp] theorem State.lose_kept (s : State) (w : Carried) : (State.lose s w).kept = s.kept := by cases w <;> rfl
@[simp] theorem State.writeRegion_kept (s : State) (trick : Option Nat) (rn off : Nat) (data : List Byte) (what : Carried) (tag : Nat) : (State.writeRegion s trick rn off data what tag).kept = s.kept := by
  unfold State.writeRegion
  repeat' (first | with_reducible rfl | (simp; done) | with_reducible refine (kept_foldl (fun _ _ => ?_) _ _).trans ?_ | split | (simp only []) | simp)
@[simp] theorem State.ringPut_kept (s : State) (qi : Nat) (trick : Option Nat) (c : Compl) (own : Bool) : (State.ringPut s qi trick c own).kept = s.kept := by
  unfold State.ringPut
  repeat' (first | with_reducible rfl | (simp; done) | with_reducible refine (kept_foldl (fun _ _ => ?_) _ _).trans ?_ | split | (simp only []) | simp)
@[simp] theorem State.ringWrite_kept (s : State) (qi : Nat) (trick : Option Nat) (c : Compl) (own : Bool) : (State.ringWrite s qi trick c own).kept = s.kept := by
  unfold State.ringWrite
  repeat' (first | with_reducible rfl | (simp; done) | with_reducible refine (kept_foldl (fun _ _ => ?_) _ _).trans ?_ | split | (simp only []) | simp)
@[simp] theorem State.dropCompl_kept (s : State) : (State.dropCompl s).kept = s.kept := by
  unfold State.dropCompl
  repeat' (first | with_reducible rfl | (simp; done) | with_reducible refine (kept_foldl (fun _ _ => ?_) _ _).trans ?_ | split | (simp only []) | simp)
@[simp] theorem State.postTo_kept (s : State) (qi : Nat) (trick : Option Nat) (c : Compl) : (State.postTo s qi trick c).kept = s.kept := by
  unfold State.postTo
  repeat' (first | with_reducible rfl | (simp; done) | with_reducible refine (kept_foldl (fun _ _ => ?_) _ _).trans ?_ | split | (simp only []) | simp)
@[simp] theorem State.postOwner_kept (s : State) (trick : Option Nat) (c : Compl) : (State.postOwner s trick c).kept = s.kept := by
  unfold State.postOwner
  repeat' (first | with_reducible rfl | (simp; done) | with_reducible refine (kept_foldl (fun _ _ => ?_) _ _).trans ?_ | split | (simp only []) | simp)
@[simp] theorem State.complete_kept (s : State) (h : HostCmd) (opc status : Byte) (payload : List Byte) : (State.complete s h opc status payload).kept = s.kept := by
  unfold State.complete
  repeat' (first | with_reducible rfl | (simp; done) | with_reducible refine (kept_foldl (fun _ _ => ?_) _ _).trans ?_ | split | (simp only []) | simp)
@[simp] theorem State.doOut_kept (s : State) (a2 : HeldOut) : (State.doOut s a2).kept = s.kept := by
  unfold State.doOut
  repeat' (first | with_reducible rfl | (simp; done) | with_reducible refine (kept_foldl (fun _ _ => ?_) _ _).trans ?_ | split | (simp only []) | simp)
@[simp] theorem State.release_kept (s : State) (h : HeldOut) : (State.release s h).kept = s.kept := by
  unfold State.release
  repeat' (first | with_reducible rfl | (simp; done) | with_reducible refine (kept_foldl (fun _ _ => ?_) _ _).trans ?_ | split | (simp only []) | simp)
@[simp] theorem State.flushHeldGo_kept (s : State) (a2 : Nat) : (State.flushHeldGo s a2).kept = s.kept := by
  induction a2 generalizing s with
  | zero => rfl
  | succ n ih =>
    unfold State.flushHeldGo
    repeat' (first | with_reducible rfl | (simp [ih]; done) | with_reducible refine (kept_foldl (fun _ _ => ?_) _ _).trans ?_ | split | simp [ih])
@[simp] theorem State.flushHeld_kept (s : State) : (State.flushHeld s).kept = s.kept := by
  unfold State.flushHeld
  repeat' (first | with_reducible rfl | (simp; done) | with_reducible refine (kept_foldl (fun _ _ => ?_) _ _).trans ?_ | split | (simp only []) | simp)
@[simp] theorem State.flushHolding_kept (s : State) : (State.flushHolding s).kept = s.kept := by
  unfold State.flushHolding
  repeat' (first | with_reducible rfl | (simp; done) | with_reducible refine (kept_foldl (fun _ _ => ?_) _ _).trans ?_ | split | (simp only []) | simp)
@[simp] theorem State.setOwner_kept (s : State) (q : BitVec 12) : (State.setOwner s q).kept = s.kept := by
  unfold State.setOwner
  repeat' (first | with_reducible rfl | (simp; done) | with_reducible refine (kept_foldl (fun _ _ => ?_) _ _).trans ?_ | split | (simp only []) | simp)
@[simp] theorem State.jobEvent_kept (s : State) (status : Byte) (trick : Nat) (cause event : Nat) : (State.jobEvent s status trick cause event).kept = s.kept := by
  unfold State.jobEvent
  repeat' (first | with_reducible rfl | (simp; done) | with_reducible refine (kept_foldl (fun _ _ => ?_) _ _).trans ?_ | split | (simp only []) | simp)
@[simp] theorem State.modRoute_kept (s : State) (p : Fin 12) (m : BitVec 9) (f : Route → Route) : (State.modRoute s p m f).kept = s.kept := by
  unfold State.modRoute
  repeat' (first | with_reducible rfl | (simp; done) | with_reducible refine (kept_foldl (fun _ _ => ?_) _ _).trans ?_ | split | (simp only []) | simp)
@[simp] theorem State.setPPort_kept (s : State) (p : Fin 12) (f : PPort → PPort) : (State.setPPort s p f).kept = s.kept := by
  unfold State.setPPort
  repeat' (first | with_reducible rfl | (simp; done) | with_reducible refine (kept_foldl (fun _ _ => ?_) _ _).trans ?_ | split | (simp only []) | simp)
@[simp] theorem State.putFrame_kept (s : State) (r : Route) (f : TxFrame) (retx : Bool) : (State.putFrame s r f retx).kept = s.kept := by
  unfold State.putFrame
  repeat' (first | with_reducible rfl | (simp; done) | with_reducible refine (kept_foldl (fun _ _ => ?_) _ _).trans ?_ | split | (simp only []) | simp)
@[simp] theorem State.sendLink_kept (s : State) (p : Fin 12) (m : BitVec 9) (payload : List Byte) : (State.sendLink s p m payload).kept = s.kept := by
  unfold State.sendLink
  repeat' (first | with_reducible rfl | (simp; done) | with_reducible refine (kept_foldl (fun _ _ => ?_) _ _).trans ?_ | split | (simp only []) | simp)
@[simp] theorem State.sendPeer_kept (s : State) (m : BitVec 9) (cls : Byte) (trick : Nat) (att : Byte) (payload : List Byte) (last : Bool) : (State.sendPeer s m cls trick att payload last).kept = s.kept := by
  unfold State.sendPeer
  repeat' (first | with_reducible rfl | (simp; done) | with_reducible refine (kept_foldl (fun _ _ => ?_) _ _).trans ?_ | split | (simp only []) | simp)
@[simp] theorem State.sendXferGo_kept (s : State) (m : BitVec 9) (t : Nat) (a : Byte) (head : List Byte) (a13 : Nat) (a17 : Nat) (a21 : List Byte) : (State.sendXferGo s m t a head a13 a17 a21).kept = s.kept := by
  induction a13 generalizing s a17 a21 with
  | zero => rfl
  | succ n ih =>
    unfold State.sendXferGo
    repeat' (first | with_reducible rfl | (simp [ih]; done) | with_reducible refine (kept_foldl (fun _ _ => ?_) _ _).trans ?_ | split | simp [ih])
@[simp] theorem State.flushWaiting_kept (s : State) : (State.flushWaiting s).kept = s.kept := by
  unfold State.flushWaiting
  repeat' (first | with_reducible rfl | (simp; done) | with_reducible refine (kept_foldl (fun _ _ => ?_) _ _).trans ?_ | split | (simp only []) | simp)
@[simp] theorem State.startOut_kept (s : State) (c : CtxId) : (State.startOut s c).kept = s.kept := by
  unfold State.startOut
  repeat' (first | with_reducible rfl | (simp; done) | with_reducible refine (kept_foldl (fun _ _ => ?_) _ _).trans ?_ | split | (simp only []) | simp)
@[simp] theorem State.noteBlocked_kept (s : State) : (State.noteBlocked s).kept = s.kept := by
  unfold State.noteBlocked
  repeat' (first | with_reducible rfl | (simp; done) | with_reducible refine (kept_foldl (fun _ _ => ?_) _ _).trans ?_ | split | (simp only []) | simp)
@[simp] theorem State.fillSeats_kept (s : State) (a2 : Nat) : (State.fillSeats s a2).kept = s.kept := by
  induction a2 generalizing s with
  | zero => rfl
  | succ n ih =>
    unfold State.fillSeats
    repeat' (first | with_reducible rfl | (simp [ih]; done) | with_reducible refine (kept_foldl (fun _ _ => ?_) _ _).trans ?_ | split | simp [ih])
@[simp] theorem State.schedule_kept (s : State) : (State.schedule s).kept = s.kept := by
  unfold State.schedule
  repeat' (first | with_reducible rfl | (simp; done) | with_reducible refine (kept_foldl (fun _ _ => ?_) _ _).trans ?_ | split | (simp only []) | simp)
@[simp] theorem State.lagSwapN_kept (s : State) (n : Nat) : (State.lagSwapN s n).kept = s.kept := by
  unfold State.lagSwapN
  repeat' (first | with_reducible rfl | (simp; done) | with_reducible refine (kept_foldl (fun _ _ => ?_) _ _).trans ?_ | split | (simp only []) | simp)
@[simp] theorem State.lagSwap_kept (s : State) : (State.lagSwap s).kept = s.kept := by
  unfold State.lagSwap
  repeat' (first | with_reducible rfl | (simp; done) | with_reducible refine (kept_foldl (fun _ _ => ?_) _ _).trans ?_ | split | (simp only []) | simp)
@[simp] theorem State.settle_kept (s : State) : (State.settle s).kept = s.kept := by
  unfold State.settle
  repeat' (first | with_reducible rfl | (simp; done) | with_reducible refine (kept_foldl (fun _ _ => ?_) _ _).trans ?_ | split | (simp only []) | simp)
@[simp] theorem State.sumsOut_kept (s : State) (need : List Nat) (gone : List Nat) (a12 : List OutTile) : (State.sumsOut s need gone a12).kept = s.kept := by
  induction a12 generalizing s with
  | nil => rfl
  | cons a r ih =>
    unfold State.sumsOut
    repeat' (first | with_reducible rfl | (simp [ih]; done) | with_reducible refine (kept_foldl (fun _ _ => ?_) _ _).trans ?_ | split | simp [ih])
theorem State.makeRoom_kept {s t : State} {u : List Nat} {b : Bool} (h : s.makeRoom u = some (b, t)) : t.kept = s.kept := by
  unfold State.makeRoom at h
  split at h
  · cases h; rfl
  · split at h
    · dsimp only at h
      split at h
      · cases h; simp
      · cases h
    · cases h; rfl
@[simp] theorem State.modReq_kept (s : State) (r : Req) (f : Req → Req) : (State.modReq s r f).kept = s.kept := by
  unfold State.modReq
  repeat' (first | with_reducible rfl | (simp; done) | with_reducible refine (kept_foldl (fun _ _ => ?_) _ _).trans ?_ | split | (simp only []) | simp)
@[simp] theorem State.ringEntry_kept (s : State) (r : Req) (hold : Option Nat) (bytes : List Byte) : (State.ringEntry s r hold bytes).kept = s.kept := by
  unfold State.ringEntry
  repeat' (first | with_reducible rfl | (simp; done) | with_reducible refine (kept_foldl (fun _ _ => ?_) _ _).trans ?_ | split | (simp only []) | simp)
@[simp] theorem State.reqCompl_kept (s : State) (ring : Fin 128) (hold : Option Nat) (status : Byte) (reqid : Dword) (kind : Byte) : (State.reqCompl s ring hold status reqid kind).kept = s.kept := by
  unfold State.reqCompl
  repeat' (first | with_reducible rfl | (simp; done) | with_reducible refine (kept_foldl (fun _ _ => ?_) _ _).trans ?_ | split | (simp only []) | simp)
@[simp] theorem State.countEnd_kept (s : State) (status : Byte) : (State.countEnd s status).kept = s.kept := by
  unfold State.countEnd
  repeat' (first | with_reducible rfl | (simp; done) | with_reducible refine (kept_foldl (fun _ _ => ?_) _ _).trans ?_ | split | (simp only []) | simp)
@[simp] theorem State.cancelsDone_kept (s : State) (r : Req) (hold : Option Nat) (status : Byte) (a16 : Nat) : (State.cancelsDone s r hold status a16).kept = s.kept := by
  induction a16 generalizing s with
  | zero => rfl
  | succ n ih =>
    unfold State.cancelsDone
    repeat' (first | with_reducible rfl | (simp [ih]; done) | with_reducible refine (kept_foldl (fun _ _ => ?_) _ _).trans ?_ | split | simp [ih])
@[simp] theorem State.endReq_kept (s : State) (r : Req) (status : Byte) (hold : Option Nat) (step : Nat) : (State.endReq s r status hold step).kept = s.kept := by
  unfold State.endReq
  repeat' (first | with_reducible rfl | (simp; done) | with_reducible refine (kept_foldl (fun _ _ => ?_) _ _).trans ?_ | split | (simp only []) | simp)
@[simp] theorem State.gcReqs_kept (s : State) : (State.gcReqs s).kept = s.kept := by
  unfold State.gcReqs
  repeat' (first | with_reducible rfl | (simp; done) | with_reducible refine (kept_foldl (fun _ _ => ?_) _ _).trans ?_ | split | (simp only []) | simp)
@[simp] theorem State.releaseToks_kept (s : State) (n : Nat) (slot : Nat) (a9 : List TokStage) : (State.releaseToks s n slot a9).kept = s.kept := by
  induction a9 generalizing s with
  | nil => rfl
  | cons a r ih =>
    unfold State.releaseToks
    repeat' (first | with_reducible rfl | (simp [ih]; done) | with_reducible refine (kept_foldl (fun _ _ => ?_) _ _).trans ?_ | split | simp [ih])
@[simp] theorem State.resolveReq_kept (s : State) (n : Nat) (e : PlanE) : (State.resolveReq s n e).kept = s.kept := by
  unfold State.resolveReq
  repeat' (first | with_reducible rfl | (simp; done) | with_reducible refine (kept_foldl (fun _ _ => ?_) _ _).trans ?_ | split | (simp only []) | simp)
@[simp] theorem State.resolvePlan_kept (s : State) (n : Nat) : (State.resolvePlan s n).kept = s.kept := by
  unfold State.resolvePlan
  repeat' (first | with_reducible rfl | (simp; done) | with_reducible refine (kept_foldl (fun _ _ => ?_) _ _).trans ?_ | split | (simp only []) | simp)
@[simp] theorem State.releaseStaged_kept (s : State) (n : Nat) : (State.releaseStaged s n).kept = s.kept := by
  unfold State.releaseStaged
  repeat' (first | with_reducible rfl | (simp; done) | with_reducible refine (kept_foldl (fun _ _ => ?_) _ _).trans ?_ | split | (simp only []) | simp)
@[simp] theorem State.voidServe_kept (s : State) (t : Nat) : (State.voidServe s t).kept = s.kept := by
  unfold State.voidServe
  repeat' (first | with_reducible rfl | (simp; done) | with_reducible refine (kept_foldl (fun _ _ => ?_) _ _).trans ?_ | split | (simp only []) | simp)
@[simp] theorem State.abortReqs_kept (s : State) : (State.abortReqs s).kept = s.kept := by
  unfold State.abortReqs
  repeat' (first | with_reducible rfl | (simp; done) | with_reducible refine (kept_foldl (fun _ _ => ?_) _ _).trans ?_ | split | (simp only []) | simp)
@[simp] theorem State.servePublish_kept (s : State) : (State.servePublish s).kept = s.kept := by
  unfold State.servePublish
  repeat' (first | with_reducible rfl | (simp; done) | with_reducible refine (kept_foldl (fun _ _ => ?_) _ _).trans ?_ | split | (simp only []) | simp)
@[simp] theorem State.serveAttach_kept (s : State) : (State.serveAttach s).kept = s.kept := by
  unfold State.serveAttach
  repeat' (first | with_reducible rfl | (simp; done) | with_reducible refine (kept_foldl (fun _ _ => ?_) _ _).trans ?_ | split | (simp only []) | simp)
@[simp] theorem State.emitEntry_kept (s : State) (t : Nat) (data : List Byte) (i : Nat) (e : PlanE) : (State.emitEntry s t data i e).kept = s.kept := by
  unfold State.emitEntry
  repeat' (first | with_reducible rfl | (simp; done) | with_reducible refine (kept_foldl (fun _ _ => ?_) _ _).trans ?_ | split | (simp only []) | simp)
@[simp] theorem State.emitPublished_kept (s : State) (buf t : Nat) : (State.emitPublished s buf t).kept = s.kept := by
  unfold State.emitPublished
  repeat' (first | with_reducible rfl | (simp; done) | with_reducible refine (kept_foldl (fun _ _ => ?_) _ _).trans ?_ | split | (simp only []) | simp)
@[simp] theorem State.sendState_kept (s : State) (m : BitVec 9) (ty point p off : Nat) (data : List Byte) : (State.sendState s m ty point p off data).kept = s.kept := by
  unfold State.sendState
  repeat' (first | with_reducible rfl | (simp; done) | with_reducible refine (kept_foldl (fun _ _ => ?_) _ _).trans ?_ | split | (simp only []) | simp)
@[simp] theorem State.sendPieces_kept (s : State) (m : BitVec 9) (ty : Nat) (point : Nat) (p : Nat) (a15 : Nat) (a19 : Nat) (a23 : List Byte) : (State.sendPieces s m ty point p a15 a19 a23).kept = s.kept := by
  induction a15 generalizing s a19 a23 with
  | zero => rfl
  | succ n ih =>
    unfold State.sendPieces
    repeat' (first | with_reducible rfl | (simp [ih]; done) | with_reducible refine (kept_foldl (fun _ _ => ?_) _ _).trans ?_ | split | simp [ih])
@[simp] theorem State.sendBytes_kept (s : State) (m : BitVec 9) (ty point p : Nat) (d : List Byte) : (State.sendBytes s m ty point p d).kept = s.kept := by
  unfold State.sendBytes
  repeat' (first | with_reducible rfl | (simp; done) | with_reducible refine (kept_foldl (fun _ _ => ?_) _ _).trans ?_ | split | (simp only []) | simp)
@[simp] theorem State.setRecov_kept (s : State) (f : Recov → Recov) : (State.setRecov s f).kept = s.kept := by
  unfold State.setRecov
  repeat' (first | with_reducible rfl | (simp; done) | with_reducible refine (kept_foldl (fun _ _ => ?_) _ _).trans ?_ | split | (simp only []) | simp)
@[simp] theorem State.ckFinish_kept (s : State) (w : CkWrite) : (State.ckFinish s w).kept = s.kept := by
  unfold State.ckFinish
  repeat' (first | with_reducible rfl | (simp; done) | with_reducible refine (kept_foldl (fun _ _ => ?_) _ _).trans ?_ | split | (simp only []) | simp)
@[simp] theorem State.ckPut_kept (s : State) (w : CkWrite) : (State.ckPut s w).2.kept = s.kept := by
  unfold State.ckPut
  repeat' split
  all_goals rfl
@[simp] theorem State.ckNextTarget_kept (s : State) (w : CkWrite) : (State.ckNextTarget s w).kept = s.kept := by
  unfold State.ckNextTarget
  repeat' (first | with_reducible rfl | (simp; done) | with_reducible refine (kept_foldl (fun _ _ => ?_) _ _).trans ?_ | split | (simp only []) | simp)
@[simp] theorem State.ckStep_kept (s : State) (w : CkWrite) : (State.ckStep s w).kept = s.kept := by
  have k := State.ckPut_kept s w
  revert k
  unfold State.ckStep
  generalize s.ckPut w = y
  obtain ⟨b, t⟩ := y
  intro k
  dsimp only at k ⊢
  repeat' (first | with_reducible rfl | (simp [k]; done) | with_reducible refine (kept_foldl (fun _ _ => ?_) _ _).trans ?_ | split | simp [k])
@[simp] theorem State.ckBegin_kept (s : State) (k : Shard) (tags : List HostCmd) : (State.ckBegin s k tags).kept = s.kept := by
  unfold State.ckBegin
  repeat' (first | with_reducible rfl | (simp; done) | with_reducible refine (kept_foldl (fun _ _ => ?_) _ _).trans ?_ | split | (simp only []) | simp)
@[simp] theorem State.ckEnd_kept (s : State) : (State.ckEnd s).kept = s.kept := by
  unfold State.ckEnd
  repeat' (first | with_reducible rfl | (simp; done) | with_reducible refine (kept_foldl (fun _ _ => ?_) _ _).trans ?_ | split | (simp only []) | simp)
@[simp] theorem State.ckAbandon_kept (s : State) : (State.ckAbandon s).kept = s.kept := by
  unfold State.ckAbandon
  repeat' (first | with_reducible rfl | (simp; done) | with_reducible refine (kept_foldl (fun _ _ => ?_) _ _).trans ?_ | split | (simp only []) | simp)
@[simp] theorem State.endRefresh_kept (s : State) : (State.endRefresh s).kept = s.kept := by
  unfold State.endRefresh
  repeat' (first | with_reducible rfl | (simp; done) | with_reducible refine (kept_foldl (fun _ _ => ?_) _ _).trans ?_ | split | (simp only []) | simp)
@[simp] theorem State.failRefresh_kept (s : State) : (State.failRefresh s).kept = s.kept := by
  unfold State.failRefresh
  repeat' (first | with_reducible rfl | (simp; done) | with_reducible refine (kept_foldl (fun _ _ => ?_) _ _).trans ?_ | split | (simp only []) | simp)
@[simp] theorem State.commitRefresh_kept (s : State) : (State.commitRefresh s).kept = s.kept := by
  unfold State.commitRefresh
  repeat' (first | with_reducible rfl | (simp; done) | with_reducible refine (kept_foldl (fun _ _ => ?_) _ _).trans ?_ | split | (simp only []) | simp)
@[simp] theorem State.checkDone_kept (s : State) : (State.checkDone s).kept = s.kept := by
  unfold State.checkDone
  repeat' (first | with_reducible rfl | (simp; done) | with_reducible refine (kept_foldl (fun _ _ => ?_) _ _).trans ?_ | split | (simp only []) | simp)
@[simp] theorem State.refuseRefresh_kept (s : State) (point : Nat) (from? : Option (BitVec 9)) : (State.refuseRefresh s point from?).kept = s.kept := by
  unfold State.refuseRefresh
  repeat' (first | with_reducible rfl | (simp; done) | with_reducible refine (kept_foldl (fun _ _ => ?_) _ _).trans ?_ | split | (simp only []) | simp)
@[simp] theorem State.refreshSettle_kept (s : State) : (State.refreshSettle s).kept = s.kept := by
  unfold State.refreshSettle
  repeat' (first | with_reducible rfl | (simp; done) | with_reducible refine (kept_foldl (fun _ _ => ?_) _ _).trans ?_ | split | (simp only []) | simp)
@[simp] theorem State.refreshPiece_kept (s : State) (rank off : Nat) (data : List Byte) : (State.refreshPiece s rank off data).kept = s.kept := by
  unfold State.refreshPiece
  repeat' (first | with_reducible rfl | (simp; done) | with_reducible refine (kept_foldl (fun _ _ => ?_) _ _).trans ?_ | split | (simp only []) | simp)
@[simp] theorem State.refreshDone_kept (s : State) (rank : Nat) : (State.refreshDone s rank).kept = s.kept := by
  unfold State.refreshDone
  repeat' (first | with_reducible rfl | (simp; done) | with_reducible refine (kept_foldl (fun _ _ => ?_) _ _).trans ?_ | split | (simp only []) | simp)
@[simp] theorem State.sendChunks_kept (s : State) (f : Refresh) (z : Nat) : (State.sendChunks s f z).kept = s.kept := by
  unfold State.sendChunks
  repeat' (first | with_reducible rfl | (simp; done) | with_reducible refine (kept_foldl (fun _ _ => ?_) _ _).trans ?_ | split | (simp only []) | simp)
@[simp] theorem State.refreshLength_kept (s : State) (rank len : Nat) : (State.refreshLength s rank len).kept = s.kept := by
  unfold State.refreshLength
  repeat' (first | with_reducible rfl | (simp; done) | with_reducible refine (kept_foldl (fun _ _ => ?_) _ _).trans ?_ | split | (simp only []) | simp)
@[simp] theorem State.refreshTake_kept (s : State) (point rank : Nat) (src : Option (BitVec 9)) (m : RefreshMsg) :
    (State.refreshTake s point rank src m).kept = s.kept := by
  cases m <;> simp [State.refreshTake]
@[simp] theorem State.refreshMsg_kept (s : State) (src : BitVec 9) (point : Nat) (m : RefreshMsg) : (State.refreshMsg s src point m).kept = s.kept := by
  unfold State.refreshMsg
  repeat' (first | with_reducible rfl | (simp; done) | with_reducible refine (kept_foldl (fun _ _ => ?_) _ _).trans ?_ | split | (simp only []) | simp)
@[simp] theorem State.takeEarly_kept (s : State) : (State.takeEarly s).kept = s.kept := by
  unfold State.takeEarly
  repeat' (first | with_reducible rfl | (simp; done) | with_reducible refine (kept_foldl (fun _ _ => ?_) _ _).trans ?_ | split | (simp only []) | simp)
@[simp] theorem State.startRefresh_kept (s : State) (ckpt fromShadow : Bool) : (State.startRefresh s ckpt fromShadow).kept = s.kept := by
  unfold State.startRefresh
  repeat' (first | with_reducible rfl | (simp; done) | with_reducible refine (kept_foldl (fun _ _ => ?_) _ _).trans ?_ | split | (simp only []) | simp)
@[simp] theorem State.pointCheck_kept (s : State) : (State.pointCheck s).kept = s.kept := by
  unfold State.pointCheck
  repeat' (first | with_reducible rfl | (simp; done) | with_reducible refine (kept_foldl (fun _ _ => ?_) _ _).trans ?_ | split | (simp only []) | simp)
@[simp] theorem State.copyShadow_kept (s : State) : (State.copyShadow s).kept = s.kept := by
  unfold State.copyShadow
  repeat' (first | with_reducible rfl | (simp; done) | with_reducible refine (kept_foldl (fun _ _ => ?_) _ _).trans ?_ | split | (simp only []) | simp)
@[simp] theorem State.relocSums_kept (s : State) (place : List (Nat × Nat)) : (State.relocSums s place).kept = s.kept := by
  unfold State.relocSums
  repeat' (first | with_reducible rfl | (simp; done) | with_reducible refine (kept_foldl (fun _ _ => ?_) _ _).trans ?_ | split | (simp only []) | simp)
@[simp] theorem State.sealUpdate_kept (s : State) (t : Nat) (commit : Bool) : (State.sealUpdate s t commit).kept = s.kept := by
  unfold State.sealUpdate
  repeat' (first | with_reducible rfl | (simp; done) | with_reducible refine (kept_foldl (fun _ _ => ?_) _ _).trans ?_ | split | (simp only []) | simp)
@[simp] theorem State.sealCounts_kept (s : State) (t : Nat) : (State.sealCounts s t).kept = s.kept := by
  unfold State.sealCounts
  repeat' (first | with_reducible rfl | (simp; done) | with_reducible refine (kept_foldl (fun _ _ => ?_) _ _).trans ?_ | split | (simp only []) | simp)
@[simp] theorem State.takeHeldData_kept (s : State) : (State.takeHeldData s).kept = s.kept := by
  unfold State.takeHeldData
  repeat' (first | with_reducible rfl | (simp; done) | with_reducible refine (kept_foldl (fun _ _ => ?_) _ _).trans ?_ | split | (simp only []) | simp)
@[simp] theorem State.applySeal_kept (s : State) (commit : Bool) : (State.applySeal s commit).kept = s.kept := by
  unfold State.applySeal
  repeat' (first | with_reducible rfl | (simp; done) | with_reducible refine (kept_foldl (fun _ _ => ?_) _ _).trans ?_ | split | (simp only []) | simp)
@[simp] theorem State.noteVoid_kept (s : State) (t : Nat) (cause : BitVec 4) (origin : BitVec 16) : (State.noteVoid s t cause origin).kept = s.kept := by
  unfold State.noteVoid
  repeat' (first | with_reducible rfl | (simp; done) | with_reducible refine (kept_foldl (fun _ _ => ?_) _ _).trans ?_ | split | (simp only []) | simp)
@[simp] theorem State.applyVoid_kept (s : State) (t : Nat) (halt : Bool) (cause : BitVec 4) (origin : BitVec 16) : (State.applyVoid s t halt cause origin).kept = s.kept := by
  unfold State.applyVoid
  repeat' (first | with_reducible rfl | (simp; done) | with_reducible refine (kept_foldl (fun _ _ => ?_) _ _).trans ?_ | split | (simp only []) | simp)
@[simp] theorem State.sendVote_kept (s : State) (t : Nat) (a : Byte) (v : Verdict) (commit : Bool) (cause : BitVec 4) (origin : BitVec 16) : (State.sendVote s t a v commit cause origin).kept = s.kept := by
  unfold State.sendVote
  repeat' (first | with_reducible rfl | (simp; done) | with_reducible refine (kept_foldl (fun _ _ => ?_) _ _).trans ?_ | split | (simp only []) | simp)
@[simp] theorem State.sendDecision_kept (s : State) (t : Nat) (a : Byte) (v : Verdict) (commit : Bool) (cause : BitVec 4) (origin : BitVec 16) : (State.sendDecision s t a v commit cause origin).kept = s.kept := by
  unfold State.sendDecision
  repeat' (first | with_reducible rfl | (simp; done) | with_reducible refine (kept_foldl (fun _ _ => ?_) _ _).trans ?_ | split | (simp only []) | simp)
@[simp] theorem State.applied_kept (s : State) (t : Nat) (v : Verdict) (commit : Bool) (cause : BitVec 4) (origin : BitVec 16) : (State.applied s t v commit cause origin).kept = s.kept := by
  unfold State.applied
  repeat' (first | with_reducible rfl | (simp; done) | with_reducible refine (kept_foldl (fun _ _ => ?_) _ _).trans ?_ | split | (simp only []) | simp)
@[simp] theorem State.decided_kept (s : State) (t : Nat) (v : Verdict) (commit : Bool) (cause : BitVec 4) (origin : BitVec 16) : (State.decided s t v commit cause origin).kept = s.kept := by
  unfold State.decided
  repeat' (first | with_reducible rfl | (simp; done) | with_reducible refine (kept_foldl (fun _ _ => ?_) _ _).trans ?_ | split | (simp only []) | simp)
@[simp] theorem State.rootVoid_kept (s : State) (t : Nat) (r : TrickRec) (cause : BitVec 4) (origin : BitVec 16) : (State.rootVoid s t r cause origin).kept = s.kept := by
  unfold State.rootVoid
  repeat' (first | with_reducible rfl | (simp; done) | with_reducible refine (kept_foldl (fun _ _ => ?_) _ _).trans ?_ | split | (simp only []) | simp)
@[simp] theorem State.rootSeal_kept (s : State) : (State.rootSeal s).kept = s.kept := by
  unfold State.rootSeal
  repeat' (first | with_reducible rfl | (simp; done) | with_reducible refine (kept_foldl (fun _ _ => ?_) _ _).trans ?_ | split | (simp only []) | simp)
@[simp] theorem State.nodeVote_kept (s : State) (t : Nat) (v : VoteR) : (State.nodeVote s t v).kept = s.kept := by
  unfold State.nodeVote
  repeat' (first | with_reducible rfl | (simp; done) | with_reducible refine (kept_foldl (fun _ _ => ?_) _ _).trans ?_ | split | (simp only []) | simp)
@[simp] theorem State.reVote_kept (s : State) (t : Nat) : (State.reVote s t).kept = s.kept := by
  unfold State.reVote
  repeat' (first | with_reducible rfl | (simp; done) | with_reducible refine (kept_foldl (fun _ _ => ?_) _ _).trans ?_ | split | (simp only []) | simp)
@[simp] theorem State.voteVoid_kept (s : State) (t : Nat) (cause : BitVec 4) : (State.voteVoid s t cause).kept = s.kept := by
  unfold State.voteVoid
  repeat' (first | with_reducible rfl | (simp; done) | with_reducible refine (kept_foldl (fun _ _ => ?_) _ _).trans ?_ | split | (simp only []) | simp)
@[simp] theorem State.refault_kept (s : State) : (State.refault s).kept = s.kept := by
  unfold State.refault
  repeat' (first | with_reducible rfl | (simp; done) | with_reducible refine (kept_foldl (fun _ _ => ?_) _ _).trans ?_ | split | (simp only []) | simp)
@[simp] theorem State.voteEach_kept (s : State) (cause : BitVec 4) (a8 : List Nat) : (State.voteEach s cause a8).kept = s.kept := by
  induction a8 generalizing s with
  | nil => rfl
  | cons a r ih =>
    unfold State.voteEach
    repeat' (first | with_reducible rfl | (simp [ih]; done) | with_reducible refine (kept_foldl (fun _ _ => ?_) _ _).trans ?_ | split | simp [ih])
@[simp] theorem State.voidEach_kept (s : State) (cause : BitVec 4) : (State.voidEach s cause).kept = s.kept := by
  unfold State.voidEach
  repeat' (first | with_reducible rfl | (simp; done) | with_reducible refine (kept_foldl (fun _ _ => ?_) _ _).trans ?_ | split | (simp only []) | simp)
@[simp] theorem State.voidOpen_kept (s : State) (cause : BitVec 4) : (State.voidOpen s cause).kept = s.kept := by
  unfold State.voidOpen
  repeat' (first | with_reducible rfl | (simp; done) | with_reducible refine (kept_foldl (fun _ _ => ?_) _ _).trans ?_ | split | (simp only []) | simp)
@[simp] theorem State.ctxCompl_kept (s : State) (trick : Option Nat) (status : Byte) (record : List Byte) : (State.ctxCompl s trick status record).kept = s.kept := by
  unfold State.ctxCompl
  repeat' (first | with_reducible rfl | (simp; done) | with_reducible refine (kept_foldl (fun _ _ => ?_) _ _).trans ?_ | split | (simp only []) | simp)
@[simp] theorem State.dropCtx_kept (s : State) (c : CtxId) (rel : Buffer → Buffer) : (State.dropCtx s c rel).kept = s.kept := by
  unfold State.dropCtx
  repeat' (first | with_reducible rfl | (simp; done) | with_reducible refine (kept_foldl (fun _ _ => ?_) _ _).trans ?_ | split | (simp only []) | simp)
@[simp] theorem State.teardownCore_kept (s : State) (c : CtxId) : (State.teardownCore s c).kept = s.kept := by
  unfold State.teardownCore
  repeat' (first | with_reducible rfl | (simp; done) | with_reducible refine (kept_foldl (fun _ _ => ?_) _ _).trans ?_ | split | (simp only []) | simp)
@[simp] theorem State.teardownVotes_kept (s : State) (ts : List Nat) : (State.teardownVotes s ts).kept = s.kept := by
  unfold State.teardownVotes
  repeat' (first | with_reducible rfl | (simp; done) | with_reducible refine (kept_foldl (fun _ _ => ?_) _ _).trans ?_ | split | (simp only []) | simp)
@[simp] theorem State.teardown_kept (s : State) (c : CtxId) : (State.teardown s c).kept = s.kept := by
  unfold State.teardown
  repeat' (first | with_reducible rfl | (simp; done) | with_reducible refine (kept_foldl (fun _ _ => ?_) _ _).trans ?_ | split | (simp only []) | simp)
@[simp] theorem State.teardownAll_kept (s : State) (status : Byte) : (State.teardownAll s status).kept = s.kept := by
  unfold State.teardownAll
  repeat' (first | with_reducible rfl | (simp; done) | with_reducible refine (kept_foldl (fun _ _ => ?_) _ _).trans ?_ | split | (simp only []) | simp)
@[simp] theorem State.teardownQuiet_kept (s : State) (status : Byte) : (State.teardownQuiet s status).kept = s.kept := by
  unfold State.teardownQuiet
  repeat' (first | with_reducible rfl | (simp; done) | with_reducible refine (kept_foldl (fun _ _ => ?_) _ _).trans ?_ | split | (simp only []) | simp)
@[simp] theorem State.raiseFault_kept (s : State) (c : CtxId) (inOpen : Option Nat) (status handle : Byte) (pc insn detail : Dword) : (State.raiseFault s c inOpen status handle pc insn detail).kept = s.kept := by
  unfold State.raiseFault
  repeat' (first | with_reducible rfl | (simp; done) | with_reducible refine (kept_foldl (fun _ _ => ?_) _ _).trans ?_ | split | (simp only []) | simp)
@[simp] theorem State.setFlash_kept (s : State) (d : Nat) (m : Memory) : (State.setFlash s d m).kept = s.kept := by
  unfold State.setFlash
  repeat' (first | with_reducible rfl | (simp; done) | with_reducible refine (kept_foldl (fun _ _ => ?_) _ _).trans ?_ | split | (simp only []) | simp)
@[simp] theorem State.beginRec_kept (s : State) (req : WReq) (dev fails : Nat) (prev : Option Nat) : (State.beginRec s req dev fails prev).kept = s.kept := by
  unfold State.beginRec
  repeat' (first | with_reducible rfl | (simp; done) | with_reducible refine (kept_foldl (fun _ _ => ?_) _ _).trans ?_ | split | (simp only []) | simp)
@[simp] theorem State.nextRec_kept (s : State) : (State.nextRec s).kept = s.kept := by
  unfold State.nextRec
  repeat' (first | with_reducible rfl | (simp; done) | with_reducible refine (kept_foldl (fun _ _ => ?_) _ _).trans ?_ | split | (simp only []) | simp)
@[simp] theorem State.requestRec_kept (s : State) (region : Nat) (payload : List Byte) : (State.requestRec s region payload).kept = s.kept := by
  unfold State.requestRec
  repeat' (first | with_reducible rfl | (simp; done) | with_reducible refine (kept_foldl (fun _ _ => ?_) _ _).trans ?_ | split | (simp only []) | simp)
@[simp] theorem State.saveRepair_kept (s : State) : (State.saveRepair s).kept = s.kept := by
  unfold State.saveRepair
  repeat' (first | with_reducible rfl | (simp; done) | with_reducible refine (kept_foldl (fun _ _ => ?_) _ _).trans ?_ | split | (simp only []) | simp)
@[simp] theorem State.wakeOne_kept (s : State) (k : UnitKind) (die : Nat) (forRetire : Bool) : (State.wakeOne s k die forRetire).kept = s.kept := by
  unfold State.wakeOne
  repeat' (first | with_reducible rfl | (simp; done) | with_reducible refine (kept_foldl (fun _ _ => ?_) _ _).trans ?_ | split | (simp only []) | simp)
@[simp] theorem State.modRot_kept (s : State) (k : RotKind) (die : Nat) (f : Rot → Rot) : (State.modRot s k die f).kept = s.kept := by
  unfold State.modRot
  repeat' (first | with_reducible rfl | (simp; done) | with_reducible refine (kept_foldl (fun _ _ => ?_) _ _).trans ?_ | split | (simp only []) | simp)
@[simp] theorem State.freshSpares_kept (s : State) : (State.freshSpares s).kept = s.kept := by
  unfold State.freshSpares
  repeat' (first | with_reducible rfl | (simp; done) | with_reducible refine (kept_foldl (fun _ _ => ?_) _ _).trans ?_ | split | (simp only []) | simp)
@[simp] theorem State.stopPlls_kept (s : State) : (State.stopPlls s).kept = s.kept := by
  unfold State.stopPlls
  repeat' (first | with_reducible rfl | (simp; done) | with_reducible refine (kept_foldl (fun _ _ => ?_) _ _).trans ?_ | split | (simp only []) | simp)
@[simp] theorem State.leaveSeat_kept (s : State) (i : Nat) : (State.leaveSeat s i).kept = s.kept := by
  unfold State.leaveSeat
  repeat' (first | with_reducible rfl | (simp; done) | with_reducible refine (kept_foldl (fun _ _ => ?_) _ _).trans ?_ | split | (simp only []) | simp)
@[simp] theorem State.retireNow_kept (s : State) (u : PUnit) : (State.retireNow s u).kept = s.kept := by
  unfold State.retireNow
  repeat' (first | with_reducible rfl | (simp; done) | with_reducible refine (kept_foldl (fun _ _ => ?_) _ _).trans ?_ | split | (simp only []) | simp)
@[simp] theorem State.retireDue_kept (s : State) : (State.retireDue s).kept = s.kept := by
  unfold State.retireDue
  repeat' (first | with_reducible rfl | (simp; done) | with_reducible refine (kept_foldl (fun _ _ => ?_) _ _).trans ?_ | split | (simp only []) | simp)
@[simp] theorem State.endIfDrained_kept (s : State) : (State.endIfDrained s).kept = s.kept := by
  unfold State.endIfDrained
  repeat' (first | with_reducible rfl | (simp; done) | with_reducible refine (kept_foldl (fun _ _ => ?_) _ _).trans ?_ | split | (simp only []) | simp)
@[simp] theorem State.forceDone_kept (s : State) : (State.forceDone s).kept = s.kept := by
  unfold State.forceDone
  repeat' (first | with_reducible rfl | (simp; done) | with_reducible refine (kept_foldl (fun _ _ => ?_) _ _).trans ?_ | split | (simp only []) | simp)
@[simp] theorem State.endForce_kept (s : State) : (State.endForce s).kept = s.kept := by
  unfold State.endForce
  repeat' (first | with_reducible rfl | (simp; done) | with_reducible refine (kept_foldl (fun _ _ => ?_) _ _).trans ?_ | split | (simp only []) | simp)
@[simp] theorem State.voidEnd_kept (s : State) (cause : BitVec 4) : (State.voidEnd s cause).kept = s.kept := by
  unfold State.voidEnd
  repeat' (first | with_reducible rfl | (simp; done) | with_reducible refine (kept_foldl (fun _ _ => ?_) _ _).trans ?_ | split | (simp only []) | simp)
@[simp] theorem State.failModule_kept (s : State) (fcause : Nat) (cause : BitVec 4) : (State.failModule s fcause cause).kept = s.kept := by
  unfold State.failModule
  repeat' (first | with_reducible rfl | (simp; done) | with_reducible refine (kept_foldl (fun _ _ => ?_) _ _).trans ?_ | split | (simp only []) | simp)
@[simp] theorem State.wakeFor_kept (s : State) (k : UnitKind) (die : Nat) : (State.wakeFor s k die).kept = s.kept := by
  unfold State.wakeFor
  repeat' (first | with_reducible rfl | (simp; done) | with_reducible refine (kept_foldl (fun _ _ => ?_) _ _).trans ?_ | split | (simp only []) | simp)
@[simp] theorem State.refill_kept (s : State) (k : UnitKind) (die : Nat) : (State.refill s k die).kept = s.kept := by
  unfold State.refill
  repeat' (first | with_reducible rfl | (simp; done) | with_reducible refine (kept_foldl (fun _ _ => ?_) _ _).trans ?_ | split | (simp only []) | simp)
@[simp] theorem State.setChMap_kept (s : State) (p : Nat) (m : ChMap) : (State.setChMap s p m).kept = s.kept := by
  unfold State.setChMap
  repeat' (first | with_reducible rfl | (simp; done) | with_reducible refine (kept_foldl (fun _ _ => ?_) _ _).trans ?_ | split | (simp only []) | simp)
@[simp] theorem State.packageLost_kept (s : State) (p : Nat) : (State.packageLost s p).kept = s.kept := by
  unfold State.packageLost
  repeat' (first | with_reducible rfl | (simp; done) | with_reducible refine (kept_foldl (fun _ _ => ?_) _ _).trans ?_ | split | (simp only []) | simp)
@[simp] theorem State.retireChannel_kept (s : State) (u : PUnit) : (State.retireChannel s u).kept = s.kept := by
  unfold State.retireChannel
  repeat' (first | with_reducible rfl | (simp; done) | with_reducible refine (kept_foldl (fun _ _ => ?_) _ _).trans ?_ | split | (simp only []) | simp)
theorem State.raiseTail_kept (s : State) (step source : Nat) (u : Sys2Proof.PUnit) (dueR : Bool) : (
    if step = 1 then { s with hl := { s.hl with due := s.hl.due ++ [DueStep.volt (unitDomain u)] } }
    else if step = 2 then { s with hl := { s.hl with due := s.hl.due ++ [DueStep.clock (unitDomain u)] } }
    else if step = 3 then
      if u.kind = .channel then s.retireChannel u
      else if u.kind = .lane ∨ source = srcSPAREFAIL then s.retireNow u
      else if source = srcSEATERR ∨ source = srcWSUE then
        if dueR || !s.hl.inService u then s.retireNow u else (s.retireNow u).wakeFor u.kind (unitDie u)
      else if dueR then s
      else
        let busy := s.hl.inService u
        let ts := s.workOf u
        let s := { s with hl := { s.hl with due := s.hl.due ++ [DueStep.retire u] } }
        let s := if u.kind = .engine || !busy then s else s.wakeFor u.kind (unitDie u)
        if source = srcSCAN then s else s.voteEach 5 ts
    else s).kept = s.kept := by
  repeat' (first | with_reducible rfl | (simp; done) | split)
  all_goals dsimp only
  all_goals repeat' (first | with_reducible rfl | (simp; done) | split)
@[simp] theorem State.raiseEvent_kept (s : State) (source : Nat) (u : Sys2Proof.PUnit) (tk : Option (Nat × Byte)) (detail : Word) : (State.raiseEvent s source u tk detail).kept = s.kept := by
  unfold State.raiseEvent
  extract_lets dup now x near n dueR step trick h1 h2 s1 s2
  by_cases hd : dup = true
  · rw [if_pos hd]
  · rw [if_neg hd]
    refine (State.raiseTail_kept s2 step source u dueR).trans ?_
    exact (State.requestRec_kept _ _ _).trans rfl
@[simp] theorem State.countCorrected_kept (s : State) (source : Nat) (u : PUnit) (lo : Nat) : (State.countCorrected s source u lo).kept = s.kept := by
  unfold State.countCorrected
  repeat' (first | with_reducible rfl | (simp; done) | with_reducible refine (kept_foldl (fun _ _ => ?_) _ _).trans ?_ | split | (simp only []) | simp)
@[simp] theorem State.seatCheck_kept (s : State) : (State.seatCheck s).kept = s.kept := by
  unfold State.seatCheck
  repeat' (first | with_reducible rfl | (simp; done) | with_reducible refine (kept_foldl (fun _ _ => ?_) _ _).trans ?_ | split | (simp only []) | simp)
@[simp] theorem State.enterSpare_kept (s : State) (u : PUnit) : (State.enterSpare s u).kept = s.kept := by
  unfold State.enterSpare
  repeat' (first | with_reducible rfl | (simp; done) | with_reducible refine (kept_foldl (fun _ _ => ?_) _ _).trans ?_ | split | (simp only []) | simp)
@[simp] theorem State.relocate_kept (s : State) (l : List Nat) : (State.relocate s l).kept = s.kept := by
  unfold State.relocate
  repeat' (first | with_reducible rfl | (simp; done) | with_reducible refine (kept_foldl (fun _ _ => ?_) _ _).trans ?_ | split | (simp only []) | simp)
@[simp] theorem State.exchange_kept (s : State) (k : RotKind) (die t p : Nat) : (State.exchange s k die t p).kept = s.kept := by
  unfold State.exchange
  repeat' (first | with_reducible rfl | (simp; done) | with_reducible refine (kept_foldl (fun _ _ => ?_) _ _).trans ?_ | split | (simp only []) | simp)
@[simp] theorem State.seatMove_kept (s : State) : (State.seatMove s).kept = s.kept := by
  unfold State.seatMove
  repeat' (first | with_reducible rfl | (simp; done) | with_reducible refine (kept_foldl (fun _ _ => ?_) _ _).trans ?_ | split | (simp only []) | simp)
@[simp] theorem State.rotateAt_kept (s : State) (r : Rot) : (State.rotateAt s r).kept = s.kept := by
  unfold State.rotateAt
  repeat' (first | with_reducible rfl | (simp; done) | with_reducible refine (kept_foldl (fun _ _ => ?_) _ _).trans ?_ | split | (simp only []) | simp)
@[simp] theorem State.boundaryUnits_kept (s : State) : (State.boundaryUnits s).kept = s.kept := by
  unfold State.boundaryUnits
  repeat' (first | with_reducible rfl | (simp; done) | with_reducible refine (kept_foldl (fun _ _ => ?_) _ _).trans ?_ | split | (simp only []) | simp)
@[simp] theorem State.boundary_kept (s : State) (t : Nat) : (State.boundary s t).kept = s.kept := by
  unfold State.boundary
  repeat' (first | with_reducible rfl | (simp; done) | with_reducible refine (kept_foldl (fun _ _ => ?_) _ _).trans ?_ | split | (simp only []) | simp)
@[simp] theorem State.applySteps_kept (s : State) (p : Nat → Bool) : (State.applySteps s p).kept = s.kept := by
  unfold State.applySteps
  repeat' (first | with_reducible rfl | (simp; done) | with_reducible refine (kept_foldl (fun _ _ => ?_) _ _).trans ?_ | split | (simp only []) | simp)
@[simp] theorem State.enter_kept (s : State) (c : CtxId) : (State.enter s c).kept = s.kept := by
  unfold State.enter
  repeat' (first | with_reducible rfl | (simp; done) | with_reducible refine (kept_foldl (fun _ _ => ?_) _ _).trans ?_ | split | (simp only []) | simp)
@[simp] theorem State.modArch_kept (s : State) (c : CtxId) (f : Arch → Arch) : (State.modArch s c f).kept = s.kept := by
  unfold State.modArch
  repeat' (first | with_reducible rfl | (simp; done) | with_reducible refine (kept_foldl (fun _ _ => ?_) _ _).trans ?_ | split | (simp only []) | simp)
@[simp] theorem State.seatFault_kept (s : State) (c : CtxId) (x : Ctx) (status handle : Byte) (insn detail : Dword) : (State.seatFault s c x status handle insn detail).kept = s.kept := by
  unfold State.seatFault
  repeat' (first | with_reducible rfl | (simp; done) | with_reducible refine (kept_foldl (fun _ _ => ?_) _ _).trans ?_ | split | (simp only []) | simp)
@[simp] theorem State.lateFault_kept (s : State) (c : CtxId) (x : Ctx) (word : Dword) (b : Late) : (State.lateFault s c x word b).kept = s.kept := by
  unfold State.lateFault
  repeat' (first | with_reducible rfl | (simp; done) | with_reducible refine (kept_foldl (fun _ _ => ?_) _ _).trans ?_ | split | (simp only []) | simp)
@[simp] theorem State.stallFor_kept (s : State) (c : CtxId) (x : Ctx) (word : Dword) (b : Buffer) : (State.stallFor s c x word b).kept = s.kept := by
  unfold State.stallFor
  repeat' (first | with_reducible rfl | (simp; done) | with_reducible refine (kept_foldl (fun _ _ => ?_) _ _).trans ?_ | split | (simp only []) | simp)
@[simp] theorem State.endCtx_kept (s : State) (c : CtxId) : (State.endCtx s c).kept = s.kept := by
  unfold State.endCtx
  repeat' (first | with_reducible rfl | (simp; done) | with_reducible refine (kept_foldl (fun _ _ => ?_) _ _).trans ?_ | split | (simp only []) | simp)
@[simp] theorem State.declPut_kept (s : State) (c : CtxId) (x : Ctx) (f : DeclF) (b : Buffer) (write ask : Bool) : (State.declPut s c x f b write ask).kept = s.kept := by
  unfold State.declPut
  repeat' (first | with_reducible rfl | (simp; done) | with_reducible refine (kept_foldl (fun _ _ => ?_) _ _).trans ?_ | split | (simp only []) | simp)
@[simp] theorem State.declGo_kept (s : State) (c : CtxId) (x : Ctx) (f : DeclF) (q : DeclReq) (b : Buffer) : (State.declGo s c x f q b).kept = s.kept := by
  unfold State.declGo
  dsimp only
  cases q.cls with
  | resident =>
    dsimp only
    split <;> first | (rename_i h; simpa using State.makeRoom_kept h) | rfl
  | stash => dsimp only; split <;> simp
  | host => simp
  | _ => simp
@[simp] theorem State.view_kept (s : State) (b : Buffer) : (State.view s b).2.kept = s.kept := by
  unfold State.view
  repeat' (first | with_reducible rfl | (simp; done) | with_reducible refine (kept_foldl (fun _ _ => ?_) _ _).trans ?_ | split | (simp only []) | simp)
@[simp] theorem State.withView_kept (s : State) (b : Buffer) : (State.withView s b).kept = s.kept := by
  unfold State.withView
  repeat' (first | with_reducible rfl | (simp; done) | with_reducible refine (kept_foldl (fun _ _ => ?_) _ _).trans ?_ | split | (simp only []) | simp)
@[simp] theorem fxOk_kept (s : State) (a : Acc) : (fxOk s a).s.kept = s.kept := rfl
@[simp] theorem fxLate_kept (s : State) (l : Late) : (fxLate s l).s.kept = s.kept := rfl
@[simp] theorem State.runMove_kept (s : State) (q : QE) (c : CtxId) (bd : Nat) (cells : List (Nat × Nat)) (f : Job → FM Job) : (State.runMove s q c bd cells f).s.kept = s.kept := by
  unfold State.runMove
  repeat' (first | with_reducible rfl | (simp; done) | with_reducible refine (kept_foldl (fun _ _ => ?_) _ _).trans ?_ | split | simp)
@[simp] theorem State.viewAll_kept (s : State) (l : List Nat) : (State.viewAll s l).kept = s.kept := by
  unfold State.viewAll
  repeat' (first | with_reducible rfl | (simp; done) | with_reducible refine (kept_foldl (fun _ _ => ?_) _ _).trans ?_ | split | (simp only []) | simp)
@[simp] theorem State.fxCopy_kept (s : State) (c : CtxId) (q : QE) : (State.fxCopy s c q).s.kept = s.kept := by
  unfold State.fxCopy
  repeat' (first | with_reducible rfl | (simp; done) | with_reducible refine (kept_foldl (fun _ _ => ?_) _ _).trans ?_ | split | simp)
@[simp] theorem State.fxVec_kept (s : State) (q : QE) : (State.fxVec s q).s.kept = s.kept := by
  unfold State.fxVec
  repeat' (first | with_reducible rfl | (simp; done) | with_reducible refine (kept_foldl (fun _ _ => ?_) _ _).trans ?_ | split | simp)
@[simp] theorem State.fxMma_kept (s : State) (c : CtxId) (q : QE) (m : MmaOp) (t : Nat × Nat) (die tile slot : Nat) : (State.fxMma s c q m t die tile slot).s.kept = s.kept := by
  unfold State.fxMma
  repeat' (first | with_reducible rfl | (simp; done) | with_reducible refine (kept_foldl (fun _ _ => ?_) _ _).trans ?_ | split | simp)
@[simp] theorem State.fxSts_kept (s : State) (q : QE) : (State.fxSts s q).s.kept = s.kept := by
  unfold State.fxSts
  repeat' (first | with_reducible rfl | (simp; done) | with_reducible refine (kept_foldl (fun _ _ => ?_) _ _).trans ?_ | split | simp)
@[simp] theorem State.noteUpd_kept (s : State) (c : CtxId) (uid trick : Nat) (pc : Dword) (u : UpdOp) : (State.noteUpd s c uid trick pc u).kept = s.kept := by
  unfold State.noteUpd
  repeat' (first | with_reducible rfl | (simp; done) | with_reducible refine (kept_foldl (fun _ _ => ?_) _ _).trans ?_ | split | (simp only []) | simp)
@[simp] theorem State.sendNorms_kept (s : State) (m : BitVec 9) (t : Nat) (a : Byte) (r : UpdRec) : (State.sendNorms s m t a r).kept = s.kept := by
  unfold State.sendNorms
  repeat' (first | with_reducible rfl | (simp; done) | with_reducible refine (kept_foldl (fun _ _ => ?_) _ _).trans ?_ | split | (simp only []) | simp)
theorem State.normStep_kept (s : State) (t : Nat) : (s.normStep t).1.kept = s.kept := by
  unfold State.normStep
  repeat' (first | with_reducible rfl | (simp; done) | with_reducible refine (kept_foldl (fun _ _ => ?_) _ _).trans ?_ | split | simp)
@[simp] theorem State.fxUpd_kept (s : State) (q : QE) : (State.fxUpd s q).s.kept = s.kept := by
  unfold State.fxUpd
  split
  · dsimp only
    split
    · exact (State.normStep_kept _ _).trans (by simp)
    all_goals repeat' (first | with_reducible rfl | (simp; done) | with_reducible refine (kept_foldl (fun _ _ => ?_) _ _).trans ?_ | split | simp)
  · simp
@[simp] theorem State.noteColl_kept (s : State) (c : CtxId) (t : Nat) (o : CollOp) : (State.noteColl s c t o).kept = s.kept := by
  unfold State.noteColl
  repeat' (first | with_reducible rfl | (simp; done) | with_reducible refine (kept_foldl (fun _ _ => ?_) _ _).trans ?_ | split | (simp only []) | simp)
@[simp] theorem State.sendXfer_kept (s : State) (m : BitVec 9) (t : Nat) (a : Byte) (c : CtxId) (e : Desc) (d : List Byte) : (State.sendXfer s m t a c e d).kept = s.kept := by
  unfold State.sendXfer
  repeat' (first | with_reducible rfl | (simp; done) | with_reducible refine (kept_foldl (fun _ _ => ?_) _ _).trans ?_ | split | (simp only []) | simp)
@[simp] theorem State.putWords_kept (s : State) (c : CtxId) (t bd : Nat) (l : List (Nat × Nat)) (a : Acc) : (State.putWords s c t bd l a).s.kept = s.kept := by
  unfold State.putWords
  repeat' (first | with_reducible rfl | (simp; done) | with_reducible refine (kept_foldl (fun _ _ => ?_) _ _).trans ?_ | split | simp)
@[simp] theorem State.stallAt_kept (s : State) (c : CtxId) (k : Stall) : (State.stallAt s c k).kept = s.kept := by
  unfold State.stallAt
  repeat' (first | with_reducible rfl | (simp; done) | with_reducible refine (kept_foldl (fun _ _ => ?_) _ _).trans ?_ | split | (simp only []) | simp)
@[simp] theorem State.unstall_kept (s : State) (c : CtxId) (f : Arch → Arch) : (State.unstall s c f).kept = s.kept := by
  unfold State.unstall
  repeat' (first | with_reducible rfl | (simp; done) | with_reducible refine (kept_foldl (fun _ _ => ?_) _ _).trans ?_ | split | (simp only []) | simp)
@[simp] theorem State.observe_kept (s : State) (c : CtxId) (x : Ctx) (b : Option Nat) : (State.observe s c x b).kept = s.kept := by
  unfold State.observe
  repeat' (first | with_reducible rfl | (simp; done) | with_reducible refine (kept_foldl (fun _ _ => ?_) _ _).trans ?_ | split | (simp only []) | simp)
@[simp] theorem State.reportFirst_kept (s : State) : (State.reportFirst s).kept = s.kept := by
  unfold State.reportFirst
  repeat' (first | with_reducible rfl | (simp; done) | with_reducible refine (kept_foldl (fun _ _ => ?_) _ _).trans ?_ | split | (simp only []) | simp)
@[simp] theorem State.join_kept (s : State) (c : CtxId) (t : Nat) (sd : SReg) : (State.join s c t sd).kept = s.kept := by
  unfold State.join
  repeat' (first | with_reducible rfl | (simp; done) | with_reducible refine (kept_foldl (fun _ _ => ?_) _ _).trans ?_ | split | (simp only []) | simp)
@[simp] theorem State.doQuery_kept (s : State) (c : CtxId) (x : Ctx) (sel : Nat) (sd sa : SReg) : (State.doQuery s c x sel sd sa).kept = s.kept := by
  unfold State.doQuery
  repeat' (first | with_reducible rfl | (simp; done) | with_reducible refine (kept_foldl (fun _ _ => ?_) _ _).trans ?_ | split | (simp only []) | simp)
@[simp] theorem State.swapSums_kept (s : State) (c : CtxId) (a4 : List OutTile) : (State.swapSums s c a4).kept = s.kept := by
  induction a4 generalizing s with
  | nil => rfl
  | cons a r ih =>
    unfold State.swapSums
    repeat' (first | with_reducible rfl | (simp [ih]; done) | with_reducible refine (kept_foldl (fun _ _ => ?_) _ _).trans ?_ | split | simp [ih])
theorem State.readyTile_kept (s : State) (q : QE) (m : MmaOp) (t : Nat × Nat) (l : List OutTile) : (s.readyTile q m t l).1.kept = s.kept := by
  unfold State.readyTile
  split <;> rfl
@[simp] theorem State.askTiles_kept (s : State) (c : CtxId) (q : QE) (m : MmaOp) (cells : List (Nat × Nat)) : (State.askTiles s c q m cells).kept = s.kept := by
  unfold State.askTiles
  repeat' (first | with_reducible rfl | (simp; done) | with_reducible refine (kept_foldl (fun _ _ => ?_) _ _).trans ?_ | split | (simp only []) | simp)
@[simp] theorem State.modQE_kept (s : State) (c : CtxId) (uid : Nat) (f : QE → QE) : (State.modQE s c uid f).kept = s.kept := by
  unfold State.modQE
  repeat' (first | with_reducible rfl | (simp; done) | with_reducible refine (kept_foldl (fun _ _ => ?_) _ _).trans ?_ | split | (simp only []) | simp)
@[simp] theorem State.dropQE_kept (s : State) (c : CtxId) (uid : Nat) : (State.dropQE s c uid).kept = s.kept := by
  unfold State.dropQE
  repeat' (first | with_reducible rfl | (simp; done) | with_reducible refine (kept_foldl (fun _ _ => ?_) _ _).trans ?_ | split | (simp only []) | simp)
@[simp] theorem State.engineFault_kept (s : State) (c : CtxId) (q : QE) (l : Late) : (State.engineFault s c q l).kept = s.kept := by
  unfold State.engineFault
  repeat' (first | with_reducible rfl | (simp; done) | with_reducible refine (kept_foldl (fun _ _ => ?_) _ _).trans ?_ | split | (simp only []) | simp)
@[simp] theorem State.askMma_kept (s : State) (c : CtxId) (q : QE) : (State.askMma s c q).kept = s.kept := by
  unfold State.askMma
  repeat' (first | with_reducible rfl | (simp; done) | with_reducible refine (kept_foldl (fun _ _ => ?_) _ _).trans ?_ | split | (simp only []) | simp)
@[simp] theorem State.pumpOne_kept (s : State) (c : CtxId) (k : EngKind) : (State.pumpOne s c k).kept = s.kept := by
  unfold State.pumpOne
  repeat' (first | with_reducible rfl | (simp; done) | with_reducible refine (kept_foldl (fun _ _ => ?_) _ _).trans ?_ | split | (simp only []) | simp)
@[simp] theorem State.pumpBegun_kept (s : State) (c : CtxId) : (State.pumpBegun s c).kept = s.kept := by
  unfold State.pumpBegun
  repeat' (first | with_reducible rfl | (simp; done) | with_reducible refine (kept_foldl (fun _ _ => ?_) _ _).trans ?_ | split | (simp only []) | simp)
@[simp] theorem State.noteIssue_kept (s : State) (c : CtxId) (uid : Nat) (trick : Nat) (pc : Dword) (a17 : EOp) : (State.noteIssue s c uid trick pc a17).kept = s.kept := by
  unfold State.noteIssue
  repeat' (first | with_reducible rfl | (simp; done) | with_reducible refine (kept_foldl (fun _ _ => ?_) _ _).trans ?_ | split | (simp only []) | simp)
@[simp] theorem State.enqueue_kept (s : State) (c : CtxId) (x : Ctx) (k : EngKind) (word : Dword) (f : Fin3) (i : Issue) (op : EOp) (t : Nat) : (State.enqueue s c x k word f i op t).kept = s.kept := by
  unfold State.enqueue
  repeat' (first | with_reducible rfl | (simp; done) | with_reducible refine (kept_foldl (fun _ _ => ?_) _ _).trans ?_ | split | (simp only []) | simp)
@[simp] theorem State.addCounts_kept (s : State) (t : Nat) (n : NumCnt) : (State.addCounts s t n).kept = s.kept := by
  unfold State.addCounts
  repeat' (first | with_reducible rfl | (simp; done) | with_reducible refine (kept_foldl (fun _ _ => ?_) _ _).trans ?_ | split | (simp only []) | simp)
@[simp] theorem State.takeFx_kept (s : State) (c : CtxId) (q : QE) (r : FxR) : (State.takeFx s c q r).kept = r.s.kept := by
  unfold State.takeFx
  repeat' (first | with_reducible rfl | (simp; done) | with_reducible refine (kept_foldl (fun _ _ => ?_) _ _).trans ?_ | split | simp)
def CollKeeps (s : State) (r : CollR) : Prop := r.s.kept = s.kept ∧ ∀ f, r.fx = some f → f.s.kept = s.kept
theorem collKeeps_mk {s t : State} {up : Bool} {fx : Option FxR} (h : t.kept = s.kept) (k : ∀ f, fx = some f → f.s.kept = t.kept) :
  CollKeeps s ⟨t, up, fx⟩ := ⟨h, fun f hf => (k f hf).trans h⟩
theorem collKeeps_none {s t : State} {up : Bool} (h : t.kept = s.kept) : CollKeeps s ⟨t, up, .none⟩ := ⟨h, fun f hf => by cases hf⟩
theorem collKeeps_some {s t : State} {up : Bool} {r : FxR} (h : t.kept = s.kept) (k : r.s.kept = t.kept) : CollKeeps s ⟨t, up, .some r⟩ :=
  ⟨h, fun f hf => by cases hf; exact k.trans h⟩
theorem State.xferTry_keeps (s : State) (c : CtxId) (q : QE) (o : CollOp) (up : Bool) : CollKeeps s (s.xferTry c q o up) := by
  unfold State.xferTry
  dsimp only
  split
  · refine collKeeps_mk ?_ fun f hf => ?_
    · repeat' (first | with_reducible rfl | (simp; done) | with_reducible refine (kept_foldl (fun _ _ => ?_) _ _).trans ?_ | split | simp)
    · simp at hf; obtain ⟨-, hf, rfl⟩ := hf; simp
  · have hs : ∀ s' : State, s' = (if up = true then s else s.sendXfer ((s.midOfRank o.rank).getD 0) q.trick ((s.trick? q.trick).getD .empty).att c ⟨5, o.tag, o.k, 0, 0, 0, o.first, o.count, 0⟩ []) → s'.kept = s.kept := by
      rintro _ rfl; repeat' (first | with_reducible rfl | (simp; done) | with_reducible refine (kept_foldl (fun _ _ => ?_) _ _).trans ?_ | split | simp)
    split
    · split
      · exact collKeeps_none (by (repeat' (first | with_reducible rfl | (simp; done) | with_reducible refine (kept_foldl (fun _ _ => ?_) _ _).trans ?_ | split | simp)))
      · split
        · exact collKeeps_some (by (repeat' (first | with_reducible rfl | (simp; done) | with_reducible refine (kept_foldl (fun _ _ => ?_) _ _).trans ?_ | split | simp))) (by (repeat' (first | with_reducible rfl | (simp; done) | with_reducible refine (kept_foldl (fun _ _ => ?_) _ _).trans ?_ | split | simp)))
        · split
          · exact collKeeps_some (by (repeat' (first | with_reducible rfl | (simp; done) | with_reducible refine (kept_foldl (fun _ _ => ?_) _ _).trans ?_ | split | simp))) (by (repeat' (first | with_reducible rfl | (simp; done) | with_reducible refine (kept_foldl (fun _ _ => ?_) _ _).trans ?_ | split | simp)))
          · split
            · exact collKeeps_some (by (repeat' (first | with_reducible rfl | (simp; done) | with_reducible refine (kept_foldl (fun _ _ => ?_) _ _).trans ?_ | split | simp))) (by (repeat' (first | with_reducible rfl | (simp; done) | with_reducible refine (kept_foldl (fun _ _ => ?_) _ _).trans ?_ | split | simp)))
            · exact collKeeps_some (by (repeat' (first | with_reducible rfl | (simp; done) | with_reducible refine (kept_foldl (fun _ _ => ?_) _ _).trans ?_ | split | simp))) (by (repeat' (first | with_reducible rfl | (simp; done) | with_reducible refine (kept_foldl (fun _ _ => ?_) _ _).trans ?_ | split | simp)))
    · exact collKeeps_none (by (repeat' (first | with_reducible rfl | (simp; done) | with_reducible refine (kept_foldl (fun _ _ => ?_) _ _).trans ?_ | split | simp)))

theorem State.collTry_keeps (s : State) (c : CtxId) (q : QE) (o : CollOp) (up : Bool) : CollKeeps s (s.collTry c q o up) := by
  unfold State.collTry
  dsimp only
  split
  · exact collKeeps_some (by (repeat' (first | with_reducible rfl | (simp; done) | with_reducible refine (kept_foldl (fun _ _ => ?_) _ _).trans ?_ | split | simp))) (by (repeat' (first | with_reducible rfl | (simp; done) | with_reducible refine (kept_foldl (fun _ _ => ?_) _ _).trans ?_ | split | simp)))
  · split
    · split
      · exact collKeeps_none (by (repeat' (first | with_reducible rfl | (simp; done) | with_reducible refine (kept_foldl (fun _ _ => ?_) _ _).trans ?_ | split | simp)))
      · split
        · split
          exact collKeeps_some (by (repeat' (first | with_reducible rfl | (simp; done) | with_reducible refine (kept_foldl (fun _ _ => ?_) _ _).trans ?_ | split | simp))) (by (repeat' (first | with_reducible rfl | (simp; done) | with_reducible refine (kept_foldl (fun _ _ => ?_) _ _).trans ?_ | split | simp)))
        · split
          · exact collKeeps_none (by (repeat' (first | with_reducible rfl | (simp; done) | with_reducible refine (kept_foldl (fun _ _ => ?_) _ _).trans ?_ | split | simp)))
          · exact collKeeps_some (by (repeat' (first | with_reducible rfl | (simp; done) | with_reducible refine (kept_foldl (fun _ _ => ?_) _ _).trans ?_ | split | simp))) (by (repeat' (first | with_reducible rfl | (simp; done) | with_reducible refine (kept_foldl (fun _ _ => ?_) _ _).trans ?_ | split | simp)))
    · split
      · exact collKeeps_none (by (repeat' (first | with_reducible rfl | (simp; done) | with_reducible refine (kept_foldl (fun _ _ => ?_) _ _).trans ?_ | split | simp)))
      · split
        · exact collKeeps_none (by (repeat' (first | with_reducible rfl | (simp; done) | with_reducible refine (kept_foldl (fun _ _ => ?_) _ _).trans ?_ | split | simp)))
        · refine collKeeps_some ?_ (by (repeat' (first | with_reducible rfl | (simp; done) | with_reducible refine (kept_foldl (fun _ _ => ?_) _ _).trans ?_ | split | simp)))
          refine (kept_foldl (fun _ _ => ?_) _ _).trans (by (repeat' (first | with_reducible rfl | (simp; done) | with_reducible refine (kept_foldl (fun _ _ => ?_) _ _).trans ?_ | split | simp)))
          refine (kept_foldl (fun _ _ => ?_) _ _).trans ?_ <;> simp
    · split
      · split
        · exact collKeeps_none (by (repeat' (first | with_reducible rfl | (simp; done) | with_reducible refine (kept_foldl (fun _ _ => ?_) _ _).trans ?_ | split | simp)))
        · split
          · exact collKeeps_none (by (repeat' (first | with_reducible rfl | (simp; done) | with_reducible refine (kept_foldl (fun _ _ => ?_) _ _).trans ?_ | split | simp)))
          · exact collKeeps_some (by (repeat' (first | with_reducible rfl | (simp; done) | with_reducible refine (kept_foldl (fun _ _ => ?_) _ _).trans ?_ | split | simp))) (by (repeat' (first | with_reducible rfl | (simp; done) | with_reducible refine (kept_foldl (fun _ _ => ?_) _ _).trans ?_ | split | simp)))
      · split
        · exact collKeeps_none (by (repeat' (first | with_reducible rfl | (simp; done) | with_reducible refine (kept_foldl (fun _ _ => ?_) _ _).trans ?_ | split | simp)))
        · split
          · exact collKeeps_none (by (repeat' (first | with_reducible rfl | (simp; done) | with_reducible refine (kept_foldl (fun _ _ => ?_) _ _).trans ?_ | split | simp)))
          · split
            split
            · exact collKeeps_some (by (repeat' (first | with_reducible rfl | (simp; done) | with_reducible refine (kept_foldl (fun _ _ => ?_) _ _).trans ?_ | split | simp))) (by (repeat' (first | with_reducible rfl | (simp; done) | with_reducible refine (kept_foldl (fun _ _ => ?_) _ _).trans ?_ | split | simp)))
            · exact collKeeps_none (by (repeat' (first | with_reducible rfl | (simp; done) | with_reducible refine (kept_foldl (fun _ _ => ?_) _ _).trans ?_ | split | simp)))

theorem State.goColl_keeps (s : State) (c : CtxId) (q : QE) (o : CollOp) (up : Bool) : CollKeeps s (s.goColl c q o up) := by
  unfold State.goColl
  split
  · exact State.collTry_keeps s c q o up
  · exact State.xferTry_keeps s c q o up
@[simp] theorem State.collStep_kept (s : State) (c : CtxId) (q : QE) (o : CollOp) : (State.collStep s c q o).kept = s.kept := by
  unfold State.collStep
  have h := State.goColl_keeps s c q o q.granted
  dsimp only
  split
  · rename_i f hf
    simpa using h.2 f hf
  · simpa using h.1
@[simp] theorem State.proofCheck_kept (s : State) (t : Nat) : (State.proofCheck s t).kept = s.kept := by
  unfold State.proofCheck
  repeat' (first | with_reducible rfl | (simp; done) | with_reducible refine (kept_foldl (fun _ _ => ?_) _ _).trans ?_ | split | (simp only []) | simp)
theorem State.onBuckets_kept (s : State) (q : QE) {f : State → State} (h : ∀ s, (f s).kept = s.kept) : (State.onBuckets s q f).kept = s.kept := by
  unfold State.onBuckets
  split
  · exact h s
  · simp [h]
@[simp] theorem State.fxGo_kept (s : State) (c : CtxId) (q : QE) : (State.fxGo s c q).kept = s.kept := by
  unfold State.fxGo
  repeat' (first | with_reducible rfl | (simp; done) | with_reducible refine (kept_foldl (fun _ _ => ?_) _ _).trans ?_ | split | (simp only []) | simp)
@[simp] theorem State.runFx_kept (s : State) (c : CtxId) (q : QE) : (State.runFx s c q).kept = s.kept := by
  exact State.onBuckets_kept s q fun _ => by simp
@[simp] theorem State.runTile_kept (s : State) (c : CtxId) (q : QE) (m : MmaOp) (t : Nat × Nat) (spills : List OutTile) (last : Bool) : (State.runTile s c q m t spills last).kept = s.kept := by
  unfold State.runTile
  have k := s.readyTile_kept q m t spills
  revert k
  generalize s.readyTile q m t spills = y
  obtain ⟨z, die, tile, slot⟩ := y
  intro k
  dsimp only at k ⊢
  rw [State.modQE_kept]
  exact (State.onBuckets_kept z q fun _ => by simp).trans k
@[simp] theorem State.spotOp_kept (s : State) (d : Fin 4) (trick : Nat) : (State.spotOp s d trick).kept = s.kept := by
  unfold State.spotOp
  repeat' (first | with_reducible rfl | (simp; done) | with_reducible refine (kept_foldl (fun _ _ => ?_) _ _).trans ?_ | split | (simp only []) | simp)
@[simp] theorem State.spotVerdict_kept (s : State) (t : Third) (v : Nat) : (State.spotVerdict s t v).kept = s.kept := by
  unfold State.spotVerdict
  repeat' (first | with_reducible rfl | (simp; done) | with_reducible refine (kept_foldl (fun _ _ => ?_) _ _).trans ?_ | split | (simp only []) | simp)
@[simp] theorem State.noteReady_kept (s : State) : (State.noteReady s).kept = s.kept := by
  unfold State.noteReady
  repeat' (first | with_reducible rfl | (simp; done) | with_reducible refine (kept_foldl (fun _ _ => ?_) _ _).trans ?_ | split | (simp only []) | simp)
@[simp] theorem State.pump_kept (s : State) : (State.pump s).kept = s.kept := by
  unfold State.pump
  repeat' (first | with_reducible rfl | (simp; done) | with_reducible refine (kept_foldl (fun _ _ => ?_) _ _).trans ?_ | split | (simp only []) | simp)
@[simp] theorem State.grantUnit_kept (s : State) (die : Fin 4) (kind : EngKind) (c : CtxId) (q : QE) (us : List (Nat × Nat)) (i : Nat) : (State.grantUnit s die kind c q us i).kept = s.kept := by
  unfold State.grantUnit
  repeat' (first | with_reducible rfl | (simp; done) | with_reducible refine (kept_foldl (fun _ _ => ?_) _ _).trans ?_ | split | (simp only []) | simp)
@[simp] theorem State.tileDone_kept (s : State) (f : FinTile) (r : Job × Acc) : (State.tileDone s f r).kept = s.kept := by
  unfold State.tileDone
  repeat' (first | with_reducible rfl | (simp; done) | with_reducible refine (kept_foldl (fun _ _ => ?_) _ _).trans ?_ | split | (simp only []) | simp)
@[simp] theorem State.abft_kept (s : State) (trick : Nat) (k : CheckFail) : (State.abft s trick k).kept = s.kept := by
  unfold State.abft
  repeat' (first | with_reducible rfl | (simp; done) | with_reducible refine (kept_foldl (fun _ _ => ?_) _ _).trans ?_ | split | (simp only []) | simp)
@[simp] theorem State.setRing_kept (s : State) (q : Nat) (r : SRing) : (State.setRing s q r).kept = s.kept := by
  unfold State.setRing
  repeat' (first | with_reducible rfl | (simp; done) | with_reducible refine (kept_foldl (fun _ _ => ?_) _ _).trans ?_ | split | (simp only []) | simp)
@[simp] theorem State.subErr_kept (s : State) (q : Nat) : (State.subErr s q).kept = s.kept := by
  unfold State.subErr
  repeat' (first | with_reducible rfl | (simp; done) | with_reducible refine (kept_foldl (fun _ _ => ?_) _ _).trans ?_ | split | (simp only []) | simp)
@[simp] theorem State.pastHead_kept (s : State) (q : Fin 128) : (State.pastHead s q).kept = s.kept := by
  unfold State.pastHead
  repeat' (first | with_reducible rfl | (simp; done) | with_reducible refine (kept_foldl (fun _ _ => ?_) _ _).trans ?_ | split | (simp only []) | simp)
@[simp] theorem State.sendAck_kept (s : State) (p : Fin 12) (m : BitVec 9) : (State.sendAck s p m).kept = s.kept := by
  unfold State.sendAck
  repeat' (first | with_reducible rfl | (simp; done) | with_reducible refine (kept_foldl (fun _ _ => ?_) _ _).trans ?_ | split | (simp only []) | simp)
@[simp] theorem State.sendNak_kept (s : State) (p : Fin 12) (m : BitVec 9) (want : Word) : (State.sendNak s p m want).kept = s.kept := by
  unfold State.sendNak
  repeat' (first | with_reducible rfl | (simp; done) | with_reducible refine (kept_foldl (fun _ _ => ?_) _ _).trans ?_ | split | (simp only []) | simp)
@[simp] theorem State.sendFenced_kept (s : State) (p : Fin 12) (m : BitVec 9) (seq : Word) : (State.sendFenced s p m seq).kept = s.kept := by
  unfold State.sendFenced
  repeat' (first | with_reducible rfl | (simp; done) | with_reducible refine (kept_foldl (fun _ _ => ?_) _ _).trans ?_ | split | (simp only []) | simp)
@[simp] theorem State.sendMemb_kept (s : State) (m : BitVec 9) (ty : Nat) (ballot newEpoch : Word) (extra : List Byte) (v : Option View) : (State.sendMemb s m ty ballot newEpoch extra v).kept = s.kept := by
  unfold State.sendMemb
  repeat' (first | with_reducible rfl | (simp; done) | with_reducible refine (kept_foldl (fun _ _ => ?_) _ _).trans ?_ | split | (simp only []) | simp)
@[simp] theorem State.sendViewreq_kept (s : State) (m : BitVec 9) : (State.sendViewreq s m).kept = s.kept := by
  unfold State.sendViewreq
  repeat' (first | with_reducible rfl | (simp; done) | with_reducible refine (kept_foldl (fun _ _ => ?_) _ _).trans ?_ | split | (simp only []) | simp)
@[simp] theorem State.dropFrame_kept (s : State) (p : Fin 12) : (State.dropFrame s p).kept = s.kept := by
  unfold State.dropFrame
  repeat' (first | with_reducible rfl | (simp; done) | with_reducible refine (kept_foldl (fun _ _ => ?_) _ _).trans ?_ | split | (simp only []) | simp)
@[simp] theorem State.ackUpTo_kept (s : State) (p : Fin 12) (m : BitVec 9) (ack : Word) : (State.ackUpTo s p m ack).kept = s.kept := by
  unfold State.ackUpTo
  repeat' (first | with_reducible rfl | (simp; done) | with_reducible refine (kept_foldl (fun _ _ => ?_) _ _).trans ?_ | split | (simp only []) | simp)
@[simp] theorem State.withdraw_kept (s : State) (m : BitVec 9) : (State.withdraw s m).kept = s.kept := by
  unfold State.withdraw
  repeat' (first | with_reducible rfl | (simp; done) | with_reducible refine (kept_foldl (fun _ _ => ?_) _ _).trans ?_ | split | (simp only []) | simp)
@[simp] theorem State.rxFrame_kept (s : State) (h : FrameHdr) : (State.rxFrame s h).2.kept = s.kept := by
  unfold State.rxFrame
  repeat' (first | with_reducible rfl | (simp; done) | with_reducible refine (kept_foldl (fun _ _ => ?_) _ _).trans ?_ | split | (simp only []) | simp)
@[simp] theorem State.epochGate_kept (s : State) (h : FrameHdr) (i : Instr) : (State.epochGate s h i).2.kept = s.kept := by
  unfold State.epochGate
  repeat' (first | with_reducible rfl | (simp; done) | with_reducible refine (kept_foldl (fun _ _ => ?_) _ _).trans ?_ | split | (simp only []) | simp)
@[simp] theorem State.rxJob_kept (s : State) (h : FrameHdr) (i : Instr) : (State.rxJob s h i).2.kept = s.kept := by
  have k := State.rxFrame_kept s h
  revert k
  unfold State.rxJob
  generalize s.rxFrame h = y
  obtain ⟨b, t⟩ := y
  intro k
  dsimp only at k ⊢
  repeat' (first | with_reducible rfl | (simp [k]; done) | with_reducible refine (kept_foldl (fun _ _ => ?_) _ _).trans ?_ | split | simp [k])
@[simp] theorem State.seatLost_kept (s : State) (c : CtxId) (x : Ctx) (seat : Fin 18) (check : Byte) : (State.seatLost s c x seat check).kept = s.kept := by
  unfold State.seatLost
  repeat' (first | with_reducible rfl | (simp; done) | with_reducible refine (kept_foldl (fun _ _ => ?_) _ _).trans ?_ | split | (simp only []) | simp)
@[simp] theorem State.trickSkew_kept (s : State) : (State.trickSkew s).kept = s.kept := by
  unfold State.trickSkew
  split
  · rfl
  · simp only [State.jobEvent_kept, State.teardownAll_kept]
    refine (kept_foldl (fun _ _ => ?_) _ _).trans ?_ <;> simp
@[simp] theorem State.takeVote_kept (s : State) (h : FrameHdr) (v : Verdict) (commit : Bool) (cause : BitVec 4) (origin : BitVec 16) : (State.takeVote s h v commit cause origin).kept = s.kept := by
  unfold State.takeVote
  repeat' (first | with_reducible rfl | (simp; done) | with_reducible refine (kept_foldl (fun _ _ => ?_) _ _).trans ?_ | split | (simp only []) | simp)
@[simp] theorem State.takeHeldSeal_kept (s : State) : (State.takeHeldSeal s).kept = s.kept := by
  unfold State.takeHeldSeal
  repeat' (first | with_reducible rfl | (simp; done) | with_reducible refine (kept_foldl (fun _ _ => ?_) _ _).trans ?_ | split | (simp only []) | simp)
@[simp] theorem State.arm_kept (s : State) (k : Shard) (proof : Option LogE) (status : Byte) : (State.arm s k proof status).kept = s.kept := by
  unfold State.arm
  repeat' (first | with_reducible rfl | (simp; done) | with_reducible refine (kept_foldl (fun _ _ => ?_) _ _).trans ?_ | split | (simp only []) | simp)
@[simp] theorem State.setTrick_kept (s : State) (t cursor : Nat) : (State.setTrick s t cursor).kept = s.kept := by
  unfold State.setTrick
  repeat' (first | with_reducible rfl | (simp; done) | with_reducible refine (kept_foldl (fun _ _ => ?_) _ _).trans ?_ | split | (simp only []) | simp)
@[simp] theorem State.rewind_kept (s : State) : (State.rewind s).kept = s.kept := by
  unfold State.rewind
  repeat' (first | with_reducible rfl | (simp; done) | with_reducible refine (kept_foldl (fun _ _ => ?_) _ _).trans ?_ | split | (simp only []) | simp)
@[simp] theorem State.rewindIf_kept (s : State) : (State.rewindIf s).kept = s.kept := by
  unfold State.rewindIf
  repeat' (first | with_reducible rfl | (simp; done) | with_reducible refine (kept_foldl (fun _ _ => ?_) _ _).trans ?_ | split | (simp only []) | simp)
@[simp] theorem State.endRecon_kept (s : State) : (State.endRecon s).kept = s.kept := by
  unfold State.endRecon
  repeat' (first | with_reducible rfl | (simp; done) | with_reducible refine (kept_foldl (fun _ _ => ?_) _ _).trans ?_ | split | (simp only []) | simp)
@[simp] theorem State.takeReconciled_kept (s : State) (t : Nat) (a : Byte) (v : Verdict) (commit : Bool) (cause : BitVec 4) (origin : BitVec 16) : (State.takeReconciled s t a v commit cause origin).kept = s.kept := by
  unfold State.takeReconciled
  repeat' (first | with_reducible rfl | (simp; done) | with_reducible refine (kept_foldl (fun _ _ => ?_) _ _).trans ?_ | split | (simp only []) | simp)
@[simp] theorem State.takeDecision_kept (s : State) (h : FrameHdr) (v : Verdict) (commit : Bool) (cause : BitVec 4) (origin : BitVec 16) : (State.takeDecision s h v commit cause origin).kept = s.kept := by
  unfold State.takeDecision
  repeat' (first | with_reducible rfl | (simp; done) | with_reducible refine (kept_foldl (fun _ _ => ?_) _ _).trans ?_ | split | (simp only []) | simp)
@[simp] theorem State.assistDone_kept (s : State) : (State.assistDone s).kept = s.kept := by
  unfold State.assistDone
  repeat' (first | with_reducible rfl | (simp; done) | with_reducible refine (kept_foldl (fun _ _ => ?_) _ _).trans ?_ | split | (simp only []) | simp)
@[simp] theorem State.setDegraded_kept (s : State) : (State.setDegraded s).kept = s.kept := by
  unfold State.setDegraded
  repeat' (first | with_reducible rfl | (simp; done) | with_reducible refine (kept_foldl (fun _ _ => ?_) _ _).trans ?_ | split | (simp only []) | simp)
@[simp] theorem State.rebuildFor_kept (s : State) (m : BitVec 9) : (State.rebuildFor s m).kept = s.kept := by
  unfold State.rebuildFor
  repeat' (first | with_reducible rfl | (simp; done) | with_reducible refine (kept_foldl (fun _ _ => ?_) _ _).trans ?_ | split | (simp only []) | simp)
@[simp] theorem State.rebuildFail_kept (s : State) (cmd : HostCmd) : (State.rebuildFail s cmd).kept = s.kept := by
  unfold State.rebuildFail
  repeat' (first | with_reducible rfl | (simp; done) | with_reducible refine (kept_foldl (fun _ _ => ?_) _ _).trans ?_ | split | (simp only []) | simp)
@[simp] theorem State.takeRefused_kept (s : State) : (State.takeRefused s).kept = s.kept := by
  unfold State.takeRefused
  repeat' (first | with_reducible rfl | (simp; done) | with_reducible refine (kept_foldl (fun _ _ => ?_) _ _).trans ?_ | split | (simp only []) | simp)
@[simp] theorem State.rebuildPiece_kept (s : State) (rank chunk size off : Nat) (data : List Byte) : (State.rebuildPiece s rank chunk size off data).kept = s.kept := by
  unfold State.rebuildPiece
  repeat' (first | with_reducible rfl | (simp; done) | with_reducible refine (kept_foldl (fun _ _ => ?_) _ _).trans ?_ | split | (simp only []) | simp)
@[simp] theorem State.otherP_kept (s : State) (src : BitVec 9) (point : Nat) : (State.otherP s src point).kept = s.kept := by
  unfold State.otherP
  repeat' (first | with_reducible rfl | (simp; done) | with_reducible refine (kept_foldl (fun _ _ => ?_) _ _).trans ?_ | split | (simp only []) | simp)
@[simp] theorem State.takeState_kept (s : State) (h : FrameHdr) (m : StateMsg) : (State.takeState s h m).kept = s.kept := by
  unfold State.takeState
  repeat' (first | with_reducible rfl | (simp; done) | with_reducible refine (kept_foldl (fun _ _ => ?_) _ _).trans ?_ | split | (simp only []) | simp)
@[simp] theorem State.takeDone_kept (s : State) (h : FrameHdr) (point : Nat) (refused : Bool) : (State.takeDone s h point refused).kept = s.kept := by
  unfold State.takeDone
  repeat' (first | with_reducible rfl | (simp; done) | with_reducible refine (kept_foldl (fun _ _ => ?_) _ _).trans ?_ | split | (simp only []) | simp)
@[simp] theorem State.takeCommit_kept (s : State) (point : Nat) : (State.takeCommit s point).kept = s.kept := by
  unfold State.takeCommit
  repeat' (first | with_reducible rfl | (simp; done) | with_reducible refine (kept_foldl (fun _ _ => ?_) _ _).trans ?_ | split | (simp only []) | simp)
@[simp] theorem State.dataLost_kept (s : State) (c : CtxId) (h : Byte) (off : Nat) : (State.dataLost s c h off).kept = s.kept := by
  unfold State.dataLost
  repeat' (first | with_reducible rfl | (simp; done) | with_reducible refine (kept_foldl (fun _ _ => ?_) _ _).trans ?_ | split | (simp only []) | simp)
@[simp] theorem State.askFrom_kept (s : State) (b : Buffer) (bufid stripe r : Nat) : (State.askFrom s b bufid stripe r).kept = s.kept := by
  unfold State.askFrom
  repeat' (first | with_reducible rfl | (simp; done) | with_reducible refine (kept_foldl (fun _ _ => ?_) _ _).trans ?_ | split | (simp only []) | simp)
@[simp] theorem State.askStripe_kept (s : State) (b : Buffer) (bufid stripe : Nat) : (State.askStripe s b bufid stripe).kept = s.kept := by
  unfold State.askStripe
  repeat' (first | with_reducible rfl | (simp; done) | with_reducible refine (kept_foldl (fun _ _ => ?_) _ _).trans ?_ | split | (simp only []) | simp)
@[simp] theorem State.reAsk_kept (s : State) : (State.reAsk s).kept = s.kept := by
  unfold State.reAsk
  repeat' (first | with_reducible rfl | (simp; done) | with_reducible refine (kept_foldl (fun _ _ => ?_) _ _).trans ?_ | split | (simp only []) | simp)
@[simp] theorem State.stripeGone_kept (s : State) (b : Buffer) (stripe : Nat) : (State.stripeGone s b stripe).kept = s.kept := by
  unfold State.stripeGone
  repeat' (first | with_reducible rfl | (simp; done) | with_reducible refine (kept_foldl (fun _ _ => ?_) _ _).trans ?_ | split | (simp only []) | simp)
@[simp] theorem State.afterData_kept (s : State) : (State.afterData s).kept = s.kept := by
  unfold State.afterData
  refine (kept_foldl (fun _ _ => ?_) _ _).trans ((kept_foldl (fun s t => ?_) _ _).trans rfl)
  · split
    · split
      · exact State.onBuckets_kept _ _ fun _ => by simp
      · rfl
    · rfl
  · refine Eq.trans ?_ (State.normStep_kept s t)
    dsimp only
    split <;> simp
@[simp] theorem State.takeData_kept (s : State) (h : FrameHdr) (m : DataMsg) : (State.takeData s h m).kept = s.kept := by
  unfold State.takeData
  repeat' (first | with_reducible rfl | (simp; done) | with_reducible refine (kept_foldl (fun _ _ => ?_) _ _).trans ?_ | split | (simp only []) | simp)
@[simp] theorem State.quarantine_kept (s : State) : (State.quarantine s).kept = s.kept := by
  unfold State.quarantine
  repeat' (first | with_reducible rfl | (simp; done) | with_reducible refine (kept_foldl (fun _ _ => ?_) _ _).trans ?_ | split | (simp only []) | simp)
@[simp] theorem State.reconDecide_kept (s : State) : (State.reconDecide s).kept = s.kept := by
  unfold State.reconDecide
  dsimp only
  split
  · split <;> simp
  · split
    · rfl
    · have sends : ∀ (l : List (BitVec 9)) (t : Nat) (a : Byte) (p : List Byte) (s : State),
          (l.foldl (fun s m => s.sendPeer m classSEAL t a p false) s).kept = s.kept := fun l t a p s =>
        kept_foldl (fun _ _ => by simp) l s
      split <;> simp only [State.endRecon_kept] <;> repeat' (first | (simp [sends]; done) | split)
@[simp] theorem State.takeRecon_kept (s : State) (m : BitVec 9) (d : Option Verdict) (att : Byte) (t : Nat) : (State.takeRecon s m d att t).kept = s.kept := by
  unfold State.takeRecon
  repeat' (first | with_reducible rfl | (simp; done) | with_reducible refine (kept_foldl (fun _ _ => ?_) _ _).trans ?_ | split | (simp only []) | simp)
@[simp] theorem State.startRecon_kept (s : State) (old : List (BitVec 9)) : (State.startRecon s old).kept = s.kept := by
  unfold State.startRecon
  repeat' (first | with_reducible rfl | (simp; done) | with_reducible refine (kept_foldl (fun _ _ => ?_) _ _).trans ?_ | split | (simp only []) | simp)
@[simp] theorem State.takeHeldEpoch_kept (s : State) : (State.takeHeldEpoch s).kept = s.kept := by
  unfold State.takeHeldEpoch
  repeat' (first | with_reducible rfl | (simp; done) | with_reducible refine (kept_foldl (fun _ _ => ?_) _ _).trans ?_ | split | (simp only []) | simp)
@[simp] theorem State.forwardChg_kept (s : State) (m : BitVec 9) (c : ChgReq) : (State.forwardChg s m c).kept = s.kept := by
  unfold State.forwardChg
  repeat' (first | with_reducible rfl | (simp; done) | with_reducible refine (kept_foldl (fun _ _ => ?_) _ _).trans ?_ | split | (simp only []) | simp)
@[simp] theorem State.settleChgs_kept (s : State) : (State.settleChgs s).kept = s.kept := by
  unfold State.settleChgs
  repeat' (first | with_reducible rfl | (simp; done) | with_reducible refine (kept_foldl (fun _ _ => ?_) _ _).trans ?_ | split | (simp only []) | simp)
@[simp] theorem State.reRequest_kept (s : State) : (State.reRequest s).kept = s.kept := by
  unfold State.reRequest
  repeat' (first | with_reducible rfl | (simp; done) | with_reducible refine (kept_foldl (fun _ _ => ?_) _ _).trans ?_ | split | (simp only []) | simp)
@[simp] theorem State.install_kept (s : State) (v : View) (ovr : Bool) : (State.install s v ovr).kept = s.kept := by
  unfold State.install
  repeat' (first | with_reducible rfl | (simp; done) | with_reducible refine (kept_foldl (fun _ _ => ?_) _ _).trans ?_ | split | (simp only []) | simp)
@[simp] theorem State.proposal_kept (s : State) : (State.proposal s).2.kept = s.kept := by
  unfold State.proposal
  repeat' (first | with_reducible rfl | (simp; done) | with_reducible refine (kept_foldl (fun _ _ => ?_) _ _).trans ?_ | split | (simp only []) | simp)
@[simp] theorem State.setCoord_kept (s : State) (r : Round) : (State.setCoord s r).kept = s.kept := by
  unfold State.setCoord
  repeat' (first | with_reducible rfl | (simp; done) | with_reducible refine (kept_foldl (fun _ _ => ?_) _ _).trans ?_ | split | (simp only []) | simp)
@[simp] theorem State.coordCommit_kept (s : State) : (State.coordCommit s).kept = s.kept := by
  unfold State.coordCommit
  repeat' (first | with_reducible rfl | (simp; done) | with_reducible refine (kept_foldl (fun _ _ => ?_) _ _).trans ?_ | split | (simp only []) | simp)
@[simp] theorem State.coordAccept_kept (s : State) : (State.coordAccept s).kept = s.kept := by
  unfold State.coordAccept
  repeat' (first | with_reducible rfl | (simp; done) | with_reducible refine (kept_foldl (fun _ _ => ?_) _ _).trans ?_ | split | (simp only []) | simp)
@[simp] theorem State.coordRound_kept (s : State) : (State.coordRound s).kept = s.kept := by
  unfold State.coordRound
  repeat' (first | with_reducible rfl | (simp; done) | with_reducible refine (kept_foldl (fun _ _ => ?_) _ _).trans ?_ | split | (simp only []) | simp)
@[simp] theorem State.propose_kept (s : State) : (State.propose s).kept = s.kept := by
  unfold State.propose
  repeat' (first | with_reducible rfl | (simp; done) | with_reducible refine (kept_foldl (fun _ _ => ?_) _ _).trans ?_ | split | (simp only []) | simp)
@[simp] theorem State.carryOn_kept (s : State) : (State.carryOn s).kept = s.kept := by
  unfold State.carryOn
  repeat' (first | with_reducible rfl | (simp; done) | with_reducible refine (kept_foldl (fun _ _ => ?_) _ _).trans ?_ | split | (simp only []) | simp)
@[simp] theorem State.popSend_kept (s : State) (q : BitVec 12) : (State.popSend s q).kept = s.kept := by
  unfold State.popSend
  repeat' (first | with_reducible rfl | (simp; done) | with_reducible refine (kept_foldl (fun _ _ => ?_) _ _).trans ?_ | split | (simp only []) | simp)
@[simp] theorem State.skipGo_kept (s : State) (a2 : Nat) : (State.skipGo s a2).kept = s.kept := by
  induction a2 generalizing s with
  | zero => rfl
  | succ n ih =>
    unfold State.skipGo
    repeat' (first | with_reducible rfl | (simp [ih]; done) | with_reducible refine (kept_foldl (fun _ _ => ?_) _ _).trans ?_ | split | simp [ih])
@[simp] theorem State.skipReserved_kept (s : State) : (State.skipReserved s).kept = s.kept := by
  unfold State.skipReserved
  repeat' (first | with_reducible rfl | (simp; done) | with_reducible refine (kept_foldl (fun _ _ => ?_) _ _).trans ?_ | split | (simp only []) | simp)
@[simp] theorem State.takeCmd_kept (s : State) (h : HostCmd) : (State.takeCmd s h).kept = s.kept := by
  unfold State.takeCmd
  repeat' (first | with_reducible rfl | (simp; done) | with_reducible refine (kept_foldl (fun _ _ => ?_) _ _).trans ?_ | split | (simp only []) | simp)
@[simp] theorem State.sendRead_kept (s : State) (rn off len : Nat) : (State.sendRead s rn off len).kept = s.kept := by
  unfold State.sendRead
  repeat' (first | with_reducible rfl | (simp; done) | with_reducible refine (kept_foldl (fun _ _ => ?_) _ _).trans ?_ | split | (simp only []) | simp)
@[simp] theorem State.readDone_kept (s : State) (rn len : Nat) : (State.readDone s rn len).kept = s.kept := by
  unfold State.readDone
  repeat' (first | with_reducible rfl | (simp; done) | with_reducible refine (kept_foldl (fun _ _ => ?_) _ _).trans ?_ | split | (simp only []) | simp)
@[simp] theorem State.clearCounters_kept (s : State) : (State.clearCounters s).kept = s.kept := by
  unfold State.clearCounters
  repeat' (first | with_reducible rfl | (simp; done) | with_reducible refine (kept_foldl (fun _ _ => ?_) _ _).trans ?_ | split | (simp only []) | simp)
@[simp] theorem State.refuseAdmit_kept (s : State) (h : HostCmd) (st : Byte) : (State.refuseAdmit s h st).kept = s.kept := by
  unfold State.refuseAdmit
  repeat' (first | with_reducible rfl | (simp; done) | with_reducible refine (kept_foldl (fun _ _ => ?_) _ _).trans ?_ | split | (simp only []) | simp)
@[simp] theorem State.askRebuild_kept (s : State) (h : HostCmd) : (State.askRebuild s h).kept = s.kept := by
  unfold State.askRebuild
  repeat' (first | with_reducible rfl | (simp; done) | with_reducible refine (kept_foldl (fun _ _ => ?_) _ _).trans ?_ | split | (simp only []) | simp)
@[simp] theorem State.abortCmds_kept (s : State) : (State.abortCmds s).kept = s.kept := by
  unfold State.abortCmds
  repeat' (first | with_reducible rfl | (simp; done) | with_reducible refine (kept_foldl (fun _ _ => ?_) _ _).trans ?_ | split | (simp only []) | simp)
@[simp] theorem State.castRecorded_kept (s : State) (t : Nat) : (State.castRecorded s t).kept = s.kept := by
  unfold State.castRecorded
  repeat' (first | with_reducible rfl | (simp; done) | with_reducible refine (kept_foldl (fun _ _ => ?_) _ _).trans ?_ | split | (simp only []) | simp)
@[simp] theorem State.viewCmd_kept (s : State) (h : HostCmd) (opc : Byte) (rn len off : Nat) : (State.viewCmd s h opc rn len off).kept = s.kept := by
  unfold State.viewCmd
  repeat' (first | with_reducible rfl | (simp; done) | with_reducible refine (kept_foldl (fun _ _ => ?_) _ _).trans ?_ | split | (simp only []) | simp)
@[simp] theorem State.modHPort_kept (s : State) (p : Fin 4) (f : HPort → HPort) : (State.modHPort s p f).kept = s.kept := by
  unfold State.modHPort
  repeat' (first | with_reducible rfl | (simp; done) | with_reducible refine (kept_foldl (fun _ _ => ?_) _ _).trans ?_ | split | (simp only []) | simp)
@[simp] theorem State.setRegions_kept (s : State) (l : List Region) : (State.setRegions s l).kept = s.kept := by
  unfold State.setRegions
  repeat' (first | with_reducible rfl | (simp; done) | with_reducible refine (kept_foldl (fun _ _ => ?_) _ _).trans ?_ | split | (simp only []) | simp)
@[simp] theorem State.dropSqp_kept (s : State) (i : Nat) : (State.dropSqp s i).kept = s.kept := by
  unfold State.dropSqp
  repeat' (first | with_reducible rfl | (simp; done) | with_reducible refine (kept_foldl (fun _ _ => ?_) _ _).trans ?_ | split | (simp only []) | simp)
@[simp] theorem State.closeRegion_kept (s : State) (r : Region) : (State.closeRegion s r).kept = s.kept := by
  unfold State.closeRegion
  repeat' (first | with_reducible rfl | (simp; done) | with_reducible refine (kept_foldl (fun _ _ => ?_) _ _).trans ?_ | split | (simp only []) | simp)
@[simp] theorem State.regTry_kept (s : State) (n : Nat) : (State.regTry s n).kept = s.kept := by
  unfold State.regTry
  repeat' (first | with_reducible rfl | (simp; done) | with_reducible refine (kept_foldl (fun _ _ => ?_) _ _).trans ?_ | split | (simp only []) | simp)
@[simp] theorem State.regTryAll_kept (s : State) : (State.regTryAll s).kept = s.kept := by
  unfold State.regTryAll
  repeat' (first | with_reducible rfl | (simp; done) | with_reducible refine (kept_foldl (fun _ _ => ?_) _ _).trans ?_ | split | (simp only []) | simp)
theorem State.openStore_kept {s t : State} {r : Region} {i : Nat} (h : s.openStore r = some (i, t)) : t.kept = s.kept := by
  unfold State.openStore at h
  split at h
  · dsimp only at h
    split at h <;> simp only [Option.some.injEq, Prod.mk.injEq] at h <;> rw [← h.2] <;> simp
  · simp at h
@[simp] theorem State.reopen_kept (s : State) (r : Region) : (State.reopen s r).kept = s.kept := by
  unfold State.reopen
  split
  · rfl
  · rename_i h
    simpa using State.openStore_kept h
@[simp] theorem State.readsFail_kept (s : State) (has : Nat → Bool) : (State.readsFail s has).kept = s.kept := by
  unfold State.readsFail
  repeat' (first | with_reducible rfl | (simp; done) | with_reducible refine (kept_foldl (fun _ _ => ?_) _ _).trans ?_ | split | (simp only []) | simp)
@[simp] theorem State.storeLost_kept (s : State) (i : Nat) : (State.storeLost s i).kept = s.kept := by
  unfold State.storeLost
  repeat' (first | with_reducible rfl | (simp; done) | with_reducible refine (kept_foldl (fun _ _ => ?_) _ _).trans ?_ | split | (simp only []) | simp)
@[simp] theorem State.storeFail_kept (s : State) (r : Region) (i : Nat) : (State.storeFail s r i).kept = s.kept := by
  unfold State.storeFail
  repeat' (first | with_reducible rfl | (simp; done) | with_reducible refine (kept_foldl (fun _ _ => ?_) _ _).trans ?_ | split | (simp only []) | simp)
@[simp] theorem State.trimHolding_kept (s : State) : (State.trimHolding s).kept = s.kept := by
  unfold State.trimHolding
  repeat' (first | with_reducible rfl | (simp; done) | with_reducible refine (kept_foldl (fun _ _ => ?_) _ _).trans ?_ | split | (simp only []) | simp)
@[simp] theorem State.qpOff_kept (s : State) (i : Nat) : (State.qpOff s i).kept = s.kept := by
  unfold State.qpOff
  repeat' (first | with_reducible rfl | (simp; done) | with_reducible refine (kept_foldl (fun _ _ => ?_) _ _).trans ?_ | split | (simp only []) | simp)
@[simp] theorem State.qpFree_kept (s : State) (i : Nat) : (State.qpFree s i).kept = s.kept := by
  unfold State.qpFree
  repeat' (first | with_reducible rfl | (simp; done) | with_reducible refine (kept_foldl (fun _ _ => ?_) _ _).trans ?_ | split | (simp only []) | simp)
@[simp] theorem State.qpError_kept (s : State) (i : Nat) : (State.qpError s i).kept = s.kept := by
  unfold State.qpError
  repeat' (first | with_reducible rfl | (simp; done) | with_reducible refine (kept_foldl (fun _ _ => ?_) _ _).trans ?_ | split | (simp only []) | simp)
@[simp] theorem State.touch_kept (s : State) (i : Nat) : (State.touch s i).kept = s.kept := by
  unfold State.touch
  repeat' (first | with_reducible rfl | (simp; done) | with_reducible refine (kept_foldl (fun _ _ => ?_) _ _).trans ?_ | split | (simp only []) | simp)
@[simp] theorem State.refuse_kept (s : State) (q : BitVec 12) : (State.refuse s q).kept = s.kept := by
  unfold State.refuse
  repeat' (first | with_reducible rfl | (simp; done) | with_reducible refine (kept_foldl (fun _ _ => ?_) _ _).trans ?_ | split | (simp only []) | simp)
@[simp] theorem State.dropHost_kept (s : State) (port : Fin 4) : (State.dropHost s port).kept = s.kept := by
  unfold State.dropHost
  repeat' (first | with_reducible rfl | (simp; done) | with_reducible refine (kept_foldl (fun _ _ => ?_) _ _).trans ?_ | split | (simp only []) | simp)
@[simp] theorem State.routeDown_kept (s : State) (r : Route) (silent : Bool) : (State.routeDown s r silent).kept = s.kept := by
  unfold State.routeDown
  repeat' (first | with_reducible rfl | (simp; done) | with_reducible refine (kept_foldl (fun _ _ => ?_) _ _).trans ?_ | split | (simp only []) | simp)
@[simp] theorem State.routesDown_kept (s : State) (p : Fin 12) : (State.routesDown s p).kept = s.kept := by
  unfold State.routesDown
  repeat' (first | with_reducible rfl | (simp; done) | with_reducible refine (kept_foldl (fun _ _ => ?_) _ _).trans ?_ | split | (simp only []) | simp)
@[simp] theorem State.resend_kept (s : State) (r : Route) : (State.resend s r).kept = s.kept := by
  unfold State.resend
  repeat' (first | with_reducible rfl | (simp; done) | with_reducible refine (kept_foldl (fun _ _ => ?_) _ _).trans ?_ | split | (simp only []) | simp)
@[simp] theorem State.rxLink_kept (s : State) (h : FrameHdr) : (State.rxLink s h).2.kept = s.kept := by
  unfold State.rxLink
  repeat' (first | with_reducible rfl | (simp; done) | with_reducible refine (kept_foldl (fun _ _ => ?_) _ _).trans ?_ | split | (simp only []) | simp)
@[simp] theorem State.sendGroup_kept (s : State) (p : Fin 12) (mac : BitVec 48) (payload : List Byte) : (State.sendGroup s p mac payload).kept = s.kept := by
  unfold State.sendGroup
  repeat' (first | with_reducible rfl | (simp; done) | with_reducible refine (kept_foldl (fun _ _ => ?_) _ _).trans ?_ | split | (simp only []) | simp)
@[simp] theorem State.sendHello_kept (s : State) (p : Fin 12) : (State.sendHello s p).kept = s.kept := by
  unfold State.sendHello
  repeat' (first | with_reducible rfl | (simp; done) | with_reducible refine (kept_foldl (fun _ _ => ?_) _ _).trans ?_ | split | (simp only []) | simp)
@[simp] theorem State.peerPortDown_kept (s : State) (p : Fin 12) : (State.peerPortDown s p).kept = s.kept := by
  unfold State.peerPortDown
  repeat' (first | with_reducible rfl | (simp; done) | with_reducible refine (kept_foldl (fun _ _ => ?_) _ _).trans ?_ | split | (simp only []) | simp)
@[simp] theorem State.hostPortDown_kept (s : State) (p : Fin 4) : (State.hostPortDown s p).kept = s.kept := by
  unfold State.hostPortDown
  repeat' (first | with_reducible rfl | (simp; done) | with_reducible refine (kept_foldl (fun _ _ => ?_) _ _).trans ?_ | split | (simp only []) | simp)
@[simp] theorem State.laneLost_kept (s : State) (port : Fin 12) (lane : Fin 9) : (State.laneLost s port lane).kept = s.kept := by
  unfold State.laneLost
  repeat' (first | with_reducible rfl | (simp; done) | with_reducible refine (kept_foldl (fun _ _ => ?_) _ _).trans ?_ | split | (simp only []) | simp)
@[simp] theorem State.laneTrained_kept (s : State) (port : Fin 12) : (State.laneTrained s port).kept = s.kept := by
  unfold State.laneTrained
  repeat' (first | with_reducible rfl | (simp; done) | with_reducible refine (kept_foldl (fun _ _ => ?_) _ _).trans ?_ | split | (simp only []) | simp)
@[simp] theorem State.loseVotes_kept (s : State) (cause : BitVec 4) (hit : Nat → Bool) (torn : Nat → Bool) (a17 : List Nat) : (State.loseVotes s cause hit torn a17).kept = s.kept := by
  induction a17 generalizing s with
  | nil => rfl
  | cons a r ih =>
    unfold State.loseVotes
    repeat' (first | with_reducible rfl | (simp [ih]; done) | with_reducible refine (kept_foldl (fun _ _ => ?_) _ _).trans ?_ | split | simp [ih])
@[simp] theorem State.loseOwned_kept (s : State) (l : List (CtxId × Byte × Nat)) (trick : Option Nat) (cause : BitVec 4) : (State.loseOwned s l trick cause).kept = s.kept := by
  unfold State.loseOwned
  repeat' (first | with_reducible rfl | (simp; done) | with_reducible refine (kept_foldl (fun _ _ => ?_) _ _).trans ?_ | split | (simp only []) | simp)
@[simp] theorem State.loseBuffers_kept (s : State) (l : List (Nat × Nat)) (trick : Option Nat) (cause : BitVec 4) : (State.loseBuffers s l trick cause).kept = s.kept := by
  unfold State.loseBuffers
  repeat' (first | with_reducible rfl | (simp; done) | with_reducible refine (kept_foldl (fun _ _ => ?_) _ _).trans ?_ | split | (simp only []) | simp)
@[simp] theorem State.voidHit_kept (s : State) (trick : Option Nat) (cause : BitVec 4) : (State.voidHit s trick cause).kept = s.kept := by
  unfold State.voidHit
  repeat' (first | with_reducible rfl | (simp; done) | with_reducible refine (kept_foldl (fun _ _ => ?_) _ _).trans ?_ | split | (simp only []) | simp)
@[simp] theorem State.contentsLost_kept (s : State) (p l : Nat) : (State.contentsLost s p l).kept = s.kept := by
  unfold State.contentsLost
  repeat' (first | with_reducible rfl | (simp; done) | with_reducible refine (kept_foldl (fun _ _ => ?_) _ _).trans ?_ | split | (simp only []) | simp)
@[simp] theorem State.channelLost_kept (s : State) (ch : Nat) : (State.channelLost s ch).kept = s.kept := by
  unfold State.channelLost
  repeat' (first | with_reducible rfl | (simp; done) | with_reducible refine (kept_foldl (fun _ _ => ?_) _ _).trans ?_ | split | (simp only []) | simp)
@[simp] theorem State.pllRuns_kept (s : State) (u : PUnit) : (State.pllRuns s u).kept = s.kept := by
  unfold State.pllRuns
  repeat' (first | with_reducible rfl | (simp; done) | with_reducible refine (kept_foldl (fun _ _ => ?_) _ _).trans ?_ | split | (simp only []) | simp)
@[simp] theorem State.endRotation_kept (s : State) (k : RotKind) (die : Nat) : (State.endRotation s k die).kept = s.kept := by
  unfold State.endRotation
  repeat' (first | with_reducible rfl | (simp; done) | with_reducible refine (kept_foldl (fun _ _ => ?_) _ _).trans ?_ | split | (simp only []) | simp)
@[simp] theorem State.selfFail_kept (s : State) (u : PUnit) : (State.selfFail s u).kept = s.kept := by
  unfold State.selfFail
  repeat' (first | with_reducible rfl | (simp; done) | with_reducible refine (kept_foldl (fun _ _ => ?_) _ _).trans ?_ | split | (simp only []) | simp)
@[simp] theorem State.keepOff_kept (s : State) (d : Nat) : (State.keepOff s d).kept = s.kept := by
  unfold State.keepOff
  repeat' (first | with_reducible rfl | (simp; done) | with_reducible refine (kept_foldl (fun _ _ => ?_) _ _).trans ?_ | split | (simp only []) | simp)
@[simp] theorem State.selfTest_kept (s : State) (failed : List PUnit) : (State.selfTest s failed).kept = s.kept := by
  unfold State.selfTest
  repeat' (first | with_reducible rfl | (simp; done) | with_reducible refine (kept_foldl (fun _ _ => ?_) _ _).trans ?_ | split | (simp only []) | simp)
@[simp] theorem State.rxMemb_kept (s : State) (h : FrameHdr) : (State.rxMemb s h).2.kept = s.kept := by
  have k := State.rxFrame_kept s h
  revert k
  unfold State.rxMemb
  generalize s.rxFrame h = y
  obtain ⟨b, t⟩ := y
  intro k
  dsimp only at k ⊢
  repeat' (first | with_reducible rfl | (simp [k]; done) | with_reducible refine (kept_foldl (fun _ _ => ?_) _ _).trans ?_ | split | simp [k])
@[simp] theorem State.answering_kept (s : State) : (State.answering s).kept = s.kept := by
  unfold State.answering
  repeat' (first | with_reducible rfl | (simp; done) | with_reducible refine (kept_foldl (fun _ _ => ?_) _ _).trans ?_ | split | (simp only []) | simp)
@[simp] theorem State.repairHash_kept (s : State) : (State.repairHash s).2.kept = s.kept := by
  unfold State.repairHash
  repeat' (first | with_reducible rfl | (simp; done) | with_reducible refine (kept_foldl (fun _ _ => ?_) _ _).trans ?_ | split | (simp only []) | simp)
@[simp] theorem State.loadDone_kept (s : State) (st : Byte) : (State.loadDone s st).kept = s.kept := by
  unfold State.loadDone
  repeat' (first | with_reducible rfl | (simp; done) | with_reducible refine (kept_foldl (fun _ _ => ?_) _ _).trans ?_ | split | (simp only []) | simp)
@[simp] theorem State.loadGo_kept (s : State) (region kind : Nat) : (State.loadGo s region kind).kept = s.kept := by
  unfold State.loadGo
  repeat' (first | with_reducible rfl | (simp; done) | with_reducible refine (kept_foldl (fun _ _ => ?_) _ _).trans ?_ | split | (simp only []) | simp)
@[simp] theorem State.resumeFlash_kept (s : State) : (State.resumeFlash s).kept = s.kept := by
  unfold State.resumeFlash
  repeat' (first | with_reducible rfl | (simp; done) | with_reducible refine (kept_foldl (fun _ _ => ?_) _ _).trans ?_ | split | (simp only []) | simp)
@[simp] theorem State.devFail_kept (s : State) (d : Nat) : (State.devFail s d).kept = s.kept := by
  unfold State.devFail
  repeat' (first | with_reducible rfl | (simp; done) | with_reducible refine (kept_foldl (fun _ _ => ?_) _ _).trans ?_ | split | (simp only []) | simp)
@[simp] theorem State.eraseAfter_kept (s : State) (w : Writing) : (State.eraseAfter s w).kept = s.kept := by
  unfold State.eraseAfter
  repeat' (first | with_reducible rfl | (simp; done) | with_reducible refine (kept_foldl (fun _ _ => ?_) _ _).trans ?_ | split | (simp only []) | simp)
@[simp] theorem State.supply_kept (s : State) (v : BitVec 16) : (State.supply s v).kept = s.kept := by
  unfold State.supply
  repeat' (first | with_reducible rfl | (simp; done) | with_reducible refine (kept_foldl (fun _ _ => ?_) _ _).trans ?_ | split | (simp only []) | simp)
@[simp] theorem State.newVin_kept (s : State) : (State.newVin s).kept = s.kept := by
  unfold State.newVin
  repeat' (first | with_reducible rfl | (simp; done) | with_reducible refine (kept_foldl (fun _ _ => ?_) _ _).trans ?_ | split | (simp only []) | simp)
@[simp] theorem State.newTemps_kept (s : State) : (State.newTemps s).kept = s.kept := by
  unfold State.newTemps
  repeat' (first | with_reducible rfl | (simp; done) | with_reducible refine (kept_foldl (fun _ _ => ?_) _ _).trans ?_ | split | (simp only []) | simp)
@[simp] theorem State.flashStop_kept (s : State) (lost : Bool) : (State.flashStop s lost).kept = s.kept := by
  unfold State.flashStop
  repeat' (first | with_reducible rfl | (simp; done) | with_reducible refine (kept_foldl (fun _ _ => ?_) _ _).trans ?_ | split | (simp only []) | simp)
@[simp] theorem State.domainOff_kept (s : State) (d : Nat) (lostLock : Bool) : (State.domainOff s d lostLock).kept = s.kept := by
  unfold State.domainOff
  repeat' (first | with_reducible rfl | (simp; done) | with_reducible refine (kept_foldl (fun _ _ => ?_) _ _).trans ?_ | split | (simp only []) | simp)
@[simp] theorem State.groupGone_kept (s : State) (d : Nat) : (State.groupGone s d).kept = s.kept := by
  unfold State.groupGone
  repeat' (first | with_reducible rfl | (simp; done) | with_reducible refine (kept_foldl (fun _ _ => ?_) _ _).trans ?_ | split | (simp only []) | simp)
@[simp] theorem State.lockStep_kept (s : State) : (State.lockStep s).kept = s.kept := by
  unfold State.lockStep
  repeat' (first | with_reducible rfl | (simp; done) | with_reducible refine (kept_foldl (fun _ _ => ?_) _ _).trans ?_ | split | (simp only []) | simp)
@[simp] theorem State.loadRepair_kept (s : State) (p : List Byte) : (State.loadRepair s p).kept = s.kept := by
  unfold State.loadRepair
  repeat' (first | with_reducible rfl | (simp; done) | with_reducible refine (kept_foldl (fun _ _ => ?_) _ _).trans ?_ | split | (simp only []) | simp)
end Sys2Proof.Machine
end

