-- ==== Sys2Proof/Laws/Memory.lean ====
section
/-! SUPPORT. The laws of sparse memory: a read after a write, and that every write keeps the canonical form. -/

namespace Sys2Proof.Machine

theorem memRead_memDel (d : Byte) (m : Memory) (a k : Nat) :
    memRead d (memDel m a) k = if k = a then d else memRead d m k := by
  induction m with
  | nil => simp [memDel, memRead]
  | cons p r ih =>
    obtain ⟨x, b⟩ := p
    by_cases hx : x = a
    · subst hx
      have : memDel ((x, b) :: r) x = memDel r x := by simp [memDel]
      rw [this, ih]
      by_cases hk : k = x
      · simp [hk]
      · have : x ≠ k := fun e => hk e.symm
        simp [hk, memRead, this]
    · have : memDel ((x, b) :: r) a = (x, b) :: memDel r a := by simp [memDel, hx]
      rw [this]
      by_cases hk : x = k
      · subst hk; simp [memRead, hx]
      · simp [memRead, hk, ih]

theorem memRead_memIns (d : Byte) (m : Memory) (a k : Nat) (v : Byte) (h : ∀ q ∈ m, q.1 ≠ a) :
    memRead d (memIns m a v) k = if k = a then v else memRead d m k := by
  induction m with
  | nil =>
    by_cases hk : k = a
    · simp [memIns, memRead, hk]
    · have : a ≠ k := fun e => hk e.symm
      simp [memIns, memRead, hk, this]
  | cons p r ih =>
    obtain ⟨x, b⟩ := p
    have hx : x ≠ a := h (x, b) (by simp)
    have hr := ih fun q hq => h q (by simp [hq])
    unfold memIns
    split
    · by_cases hk : k = a
      · simp [memRead, hk]
      · have : a ≠ k := fun e => hk e.symm
        simp [memRead, hk, this]
    · by_cases hk : x = k
      · subst hk; simp [memRead, hx]
      · simp [memRead, hk, hr]

theorem memDel_ne (m : Memory) (a : Nat) : ∀ q ∈ memDel m a, q.1 ≠ a := by
  intro q hq; simpa using (List.mem_filter.1 hq).2

/-- One byte written: it reads back, and every other address reads as before. -/
theorem memRead_memWrite (d : Byte) (m : Memory) (a k : Nat) (v : Byte) :
    memRead d (memWrite d m a v) k = if k = a then v else memRead d m k := by
  unfold memWrite
  split
  · rename_i hv; rw [memRead_memDel, hv]
  · rw [memRead_memIns _ _ _ _ _ (memDel_ne m a), memRead_memDel]
    split <;> rfl

/-- A string of bytes written: each reads back, and every other address reads as before. -/
theorem memRead_memWriteN (d : Byte) (l : List Byte) (m : Memory) (a k : Nat) :
    memRead d (memWriteN d m a l) k = if a ≤ k ∧ k < a + l.length then l.getD (k - a) 0 else memRead d m k := by
  induction l generalizing m a with
  | nil => simp [memWriteN]
  | cons b r ih =>
    rw [memWriteN, ih, memRead_memWrite]
    by_cases h1 : k = a
    · subst h1; simp
    · by_cases h2 : a + 1 ≤ k ∧ k < a + 1 + r.length
      · have h3 : a ≤ k ∧ k < a + (b :: r).length := by simp; omega
        rw [if_pos h2, if_pos h3, show k - a = (k - (a + 1)) + 1 by omega]
        rfl
      · have h3 : ¬(a ≤ k ∧ k < a + (b :: r).length) := by simp; omega
        rw [if_neg h2, if_neg h3, if_neg h1]

/-- The canonical form, read as rising addresses and no entry at the unlisted value. -/
theorem Memory.wf_cons (d : Byte) (x : Nat) (b : Byte) (r : Memory) :
    Memory.wf d ((x, b) :: r) = true ↔ b ≠ d ∧ (∀ q ∈ r, x < q.1) ∧ Memory.wf d r = true := by
  induction r generalizing x b with
  | nil => simp [Memory.wf]
  | cons p r ih =>
    obtain ⟨y, c⟩ := p
    have := ih y c
    simp only [Memory.wf, Bool.and_eq_true, bne_iff_ne, decide_eq_true_eq, List.mem_cons, forall_eq_or_imp]
    constructor
    · rintro ⟨⟨h1, h2⟩, h3⟩
      exact ⟨h1, ⟨h2, fun q hq => lt_trans h2 ((this.1 h3).2.1 q hq)⟩, h3⟩
    · rintro ⟨h1, ⟨h2, _⟩, h3⟩
      exact ⟨⟨h1, h2⟩, h3⟩

theorem memDel_wf (d : Byte) (m : Memory) (a : Nat) (h : Memory.wf d m = true) : Memory.wf d (memDel m a) = true := by
  induction m with
  | nil => rfl
  | cons p r ih =>
    obtain ⟨x, b⟩ := p
    have hc := (Memory.wf_cons d x b r).1 h
    by_cases hx : x = a
    · have : memDel ((x, b) :: r) a = memDel r a := by simp [memDel, hx]
      rw [this]; exact ih hc.2.2
    · have : memDel ((x, b) :: r) a = (x, b) :: memDel r a := by simp [memDel, hx]
      rw [this]
      exact (Memory.wf_cons ..).2 ⟨hc.1, fun q hq => hc.2.1 q (List.mem_filter.1 hq).1, ih hc.2.2⟩

theorem memIns_low (m : Memory) (a k : Nat) (v : Byte) (h : ∀ q ∈ m, k < q.1) (ha : k < a) : ∀ q ∈ memIns m a v, k < q.1 := by
  induction m with
  | nil => simp [memIns, ha]
  | cons p r ih =>
    obtain ⟨x, b⟩ := p
    have hx : k < x := h (x, b) (by simp)
    have hr : ∀ q ∈ r, k < q.1 := fun q hq => h q (by simp [hq])
    unfold memIns
    intro q hq
    split at hq
    · rcases List.mem_cons.1 hq with rfl | hq
      · exact ha
      · exact h q hq
    · rcases List.mem_cons.1 hq with rfl | hq
      · exact hx
      · exact ih hr q hq

theorem memIns_wf (d : Byte) (m : Memory) (a : Nat) (v : Byte) (hv : v ≠ d) (hn : ∀ q ∈ m, q.1 ≠ a) (h : Memory.wf d m = true) :
    Memory.wf d (memIns m a v) = true := by
  induction m with
  | nil => simp [memIns, hv, Memory.wf]
  | cons p r ih =>
    obtain ⟨x, b⟩ := p
    have hc := (Memory.wf_cons d x b r).1 h
    have hx : x ≠ a := hn (x, b) (by simp)
    unfold memIns
    split
    · rename_i hax
      refine (Memory.wf_cons ..).2 ⟨hv, ?_, h⟩
      intro q hq
      rcases List.mem_cons.1 hq with rfl | hq
      · exact hax
      · exact lt_trans hax (hc.2.1 q hq)
    · exact (Memory.wf_cons ..).2 ⟨hc.1, memIns_low r a x v hc.2.1 (by omega), ih (fun q hq => hn q (by simp [hq])) hc.2.2⟩

/-- One byte written keeps the canonical form. -/
theorem memWrite_wf (d : Byte) (m : Memory) (a : Nat) (v : Byte) (h : Memory.wf d m = true) :
    Memory.wf d (memWrite d m a v) = true := by
  unfold memWrite
  split
  · exact memDel_wf d m a h
  · rename_i hv
    exact memIns_wf d _ a v hv (memDel_ne m a) (memDel_wf d m a h)

/-- A string of bytes written keeps the canonical form. -/
theorem memWriteN_wf (d : Byte) (l : List Byte) (m : Memory) (a : Nat) (h : Memory.wf d m = true) :
    Memory.wf d (memWriteN d m a l) = true := by
  induction l generalizing m a with
  | nil => exact h
  | cons b r ih => exact ih _ _ (memWrite_wf d m a b h)

/-- No memory entry lies below a bound: it reads as unlisted there. -/
theorem memRead_low (d : Byte) (m : Memory) (a : Nat) (h : ∀ q ∈ m, a < q.1) : memRead d m a = d := by
  induction m with
  | nil => rfl
  | cons p r ih =>
    obtain ⟨y, c⟩ := p
    have := h (y, c) (by simp)
    have hne : y ≠ a := by simp at this; omega
    simp only [memRead, hne, if_false]
    exact ih fun q hq => h q (by simp [hq])

/-- Equal reads from two memories in canonical form make them equal data. -/
theorem Memory.ext_of_wf (d : Byte) (m k : Memory) (hm : Memory.wf d m = true) (hk : Memory.wf d k = true)
    (h : ∀ a, memRead d m a = memRead d k a) : m = k := by
  induction m generalizing k with
  | nil =>
    cases k with
    | nil => rfl
    | cons p r =>
      obtain ⟨y, c⟩ := p
      have := h y
      simp [memRead] at this
      exact absurd this.symm ((Memory.wf_cons ..).1 hk).1
  | cons p r ih =>
    obtain ⟨x, b⟩ := p
    have h1 := (Memory.wf_cons ..).1 hm
    cases k with
    | nil =>
      have := h x
      simp [memRead] at this
      exact absurd this h1.1
    | cons q k =>
      obtain ⟨y, c⟩ := q
      have h2 := (Memory.wf_cons ..).1 hk
      have low (x y : Nat) (c : Byte) (k : Memory) (hl : x < y) (hk : ∀ q ∈ k, y < q.1) : memRead d ((y, c) :: k) x = d :=
        memRead_low _ _ _ fun q hq => by
          rcases List.mem_cons.1 hq with rfl | hq
          · exact hl
          · exact lt_trans hl (hk q hq)
      have hxy : x = y := by
        rcases Nat.lt_trichotomy x y with hl | he | hl
        · have := h x
          rw [low x y c k hl h2.2.1] at this
          simp [memRead] at this
          exact absurd this h1.1
        · exact he
        · have := h y
          rw [low y x b r hl h1.2.1] at this
          simp [memRead] at this
          exact absurd this.symm h2.1
      subst hxy
      have hbc : b = c := by simpa [memRead] using h x
      subst hbc
      congr 1
      refine ih k h1.2.2 h2.2.2 fun a => ?_
      by_cases ha : x = a
      · subst ha
        rw [memRead_low d r x h1.2.1, memRead_low d k x h2.2.1]
      · simpa [memRead, ha] using h a

end Sys2Proof.Machine
end

