-- ==== Sys2Proof/Laws/PerInstr.lean ====
section
/-! SUPPORT. A fact about every command as syntax, one lemma per constructor: a command that is an instruction word is well
formed exactly when its word is legal (R4, R275). -/

namespace Sys2Proof.Laws.Table

/-- The well-formedness of an instruction word is the legality its meaning checks. -/
def Statement (i : Instr) : Prop := ∀ c g w l, Claim.seatWord i = some (c, g, w, l) → i.wf = l

theorem alu (c) (f) : Statement (.alu c f) := fun _ _ _ _ h => congrArg (fun p => p.2.2.2) (Option.some.inj h)
theorem alui (c) (f) : Statement (.alui c f) := fun _ _ _ _ h => congrArg (fun p => p.2.2.2) (Option.some.inj h)
theorem li (c) (f) : Statement (.li c f) := fun _ _ _ _ h => congrArg (fun p => p.2.2.2) (Option.some.inj h)
theorem cmp (c) (f) : Statement (.cmp c f) := fun _ _ _ _ h => congrArg (fun p => p.2.2.2) (Option.some.inj h)
theorem plog (c) (f) : Statement (.plog c f) := fun _ _ _ _ h => congrArg (fun p => p.2.2.2) (Option.some.inj h)
theorem br (c) (f) : Statement (.br c f) := fun _ _ _ _ h => congrArg (fun p => p.2.2.2) (Option.some.inj h)
theorem jal (c) (f) : Statement (.jal c f) := fun _ _ _ _ h => congrArg (fun p => p.2.2.2) (Option.some.inj h)
theorem sld (c) (f) : Statement (.sld c f) := fun _ _ _ _ h => congrArg (fun p => p.2.2.2) (Option.some.inj h)
theorem sst (c) (f) : Statement (.sst c f) := fun _ _ _ _ h => congrArg (fun p => p.2.2.2) (Option.some.inj h)
theorem exit (c) (f) : Statement (.exit c f) := fun _ _ _ _ h => congrArg (fun p => p.2.2.2) (Option.some.inj h)
theorem exitComplete (c) : Statement (.exitComplete c) := fun _ _ _ _ h => nomatch h
theorem decl (c) (f) : Statement (.decl c f) := fun _ _ _ _ h => congrArg (fun p => p.2.2.2) (Option.some.inj h)
theorem spillr (c) (f) : Statement (.spillr c f) := fun _ _ _ _ h => congrArg (fun p => p.2.2.2) (Option.some.inj h)
theorem rel (c) (f) : Statement (.rel c f) := fun _ _ _ _ h => congrArg (fun p => p.2.2.2) (Option.some.inj h)
theorem shareExport (c) (f) : Statement (.shareExport c f) := fun _ _ _ _ h => congrArg (fun p => p.2.2.2) (Option.some.inj h)
theorem shareBind (c) (f) : Statement (.shareBind c f) := fun _ _ _ _ h => congrArg (fun p => p.2.2.2) (Option.some.inj h)
theorem copy (c) (f) : Statement (.copy c f) := fun _ _ _ _ h => congrArg (fun p => p.2.2.2) (Option.some.inj h)
theorem gather (c) (f) : Statement (.gather c f) := fun _ _ _ _ h => congrArg (fun p => p.2.2.2) (Option.some.inj h)
theorem scatter (c) (f) : Statement (.scatter c f) := fun _ _ _ _ h => congrArg (fun p => p.2.2.2) (Option.some.inj h)
theorem fill (c) (f) : Statement (.fill c f) := fun _ _ _ _ h => congrArg (fun p => p.2.2.2) (Option.some.inj h)
theorem wait (c) (f) : Statement (.wait c f) := fun _ _ _ _ h => congrArg (fun p => p.2.2.2) (Option.some.inj h)
theorem waitSatisfied (c) : Statement (.waitSatisfied c) := fun _ _ _ _ h => nomatch h
theorem evtRead (c) (f) : Statement (.evtRead c f) := fun _ _ _ _ h => congrArg (fun p => p.2.2.2) (Option.some.inj h)
theorem evtSet (c) (f) : Statement (.evtSet c f) := fun _ _ _ _ h => congrArg (fun p => p.2.2.2) (Option.some.inj h)
theorem evtAdd (c) (f) : Statement (.evtAdd c f) := fun _ _ _ _ h => congrArg (fun p => p.2.2.2) (Option.some.inj h)
theorem evtBind (c) (f) : Statement (.evtBind c f) := fun _ _ _ _ h => congrArg (fun p => p.2.2.2) (Option.some.inj h)
theorem evtLocal (c) (f) : Statement (.evtLocal c f) := fun _ _ _ _ h => congrArg (fun p => p.2.2.2) (Option.some.inj h)
theorem fence (c) (f) : Statement (.fence c f) := fun _ _ _ _ h => congrArg (fun p => p.2.2.2) (Option.some.inj h)
theorem fenceDrained (c) : Statement (.fenceDrained c) := fun _ _ _ _ h => nomatch h
theorem tbegin (c) (f) : Statement (.tbegin c f) := fun _ _ _ _ h => congrArg (fun p => p.2.2.2) (Option.some.inj h)
theorem stalledTbeginResume (c) : Statement (.stalledTbeginResume c) := fun _ _ _ _ h => nomatch h
theorem tseal (c) (f) : Statement (.tseal c f) := fun _ _ _ _ h => congrArg (fun p => p.2.2.2) (Option.some.inj h)
theorem queryTag (c) (f) : Statement (.queryTag c f) := fun _ _ _ _ h => congrArg (fun p => p.2.2.2) (Option.some.inj h)
theorem queryLastjoin (c) (f) : Statement (.queryLastjoin c f) := fun _ _ _ _ h => congrArg (fun p => p.2.2.2) (Option.some.inj h)
theorem queryFlags (c) (f) : Statement (.queryFlags c f) := fun _ _ _ _ h => congrArg (fun p => p.2.2.2) (Option.some.inj h)
theorem queryUpdstat (c) (f) : Statement (.queryUpdstat c f) := fun _ _ _ _ h => congrArg (fun p => p.2.2.2) (Option.some.inj h)
theorem queryFeature (c) (f) : Statement (.queryFeature c f) := fun _ _ _ _ h => congrArg (fun p => p.2.2.2) (Option.some.inj h)
theorem queryMembers (c) (f) : Statement (.queryMembers c f) := fun _ _ _ _ h => congrArg (fun p => p.2.2.2) (Option.some.inj h)
theorem queryNumshare (c) (f) : Statement (.queryNumshare c f) := fun _ _ _ _ h => congrArg (fun p => p.2.2.2) (Option.some.inj h)
theorem sealedQueryResume (c) : Statement (.sealedQueryResume c) := fun _ _ _ _ h => nomatch h
theorem mma (c) (f) : Statement (.mma c f) := fun _ _ _ _ h => congrArg (fun p => p.2.2.2) (Option.some.inj h)
theorem vew (c) (f) : Statement (.vew c f) := fun _ _ _ _ h => congrArg (fun p => p.2.2.2) (Option.some.inj h)
theorem vsel (c) (f) : Statement (.vsel c f) := fun _ _ _ _ h => congrArg (fun p => p.2.2.2) (Option.some.inj h)
theorem vcmp (c) (f) : Statement (.vcmp c f) := fun _ _ _ _ h => congrArg (fun p => p.2.2.2) (Option.some.inj h)
theorem vlut (c) (f) : Statement (.vlut c f) := fun _ _ _ _ h => congrArg (fun p => p.2.2.2) (Option.some.inj h)
theorem vred (c) (f) : Statement (.vred c f) := fun _ _ _ _ h => congrArg (fun p => p.2.2.2) (Option.some.inj h)
theorem fold (c) (f) : Statement (.fold c f) := fun _ _ _ _ h => congrArg (fun p => p.2.2.2) (Option.some.inj h)
theorem loss (c) (f) : Statement (.loss c f) := fun _ _ _ _ h => congrArg (fun p => p.2.2.2) (Option.some.inj h)
theorem finish (c) (f) : Statement (.finish c f) := fun _ _ _ _ h => congrArg (fun p => p.2.2.2) (Option.some.inj h)
theorem grad (c) (f) : Statement (.grad c f) := fun _ _ _ _ h => congrArg (fun p => p.2.2.2) (Option.some.inj h)
theorem pass1 (c) (f) : Statement (.pass1 c f) := fun _ _ _ _ h => congrArg (fun p => p.2.2.2) (Option.some.inj h)
theorem pass2 (c) (f) : Statement (.pass2 c f) := fun _ _ _ _ h => congrArg (fun p => p.2.2.2) (Option.some.inj h)
theorem rebuild (c) (f) : Statement (.rebuild c f) := fun _ _ _ _ h => congrArg (fun p => p.2.2.2) (Option.some.inj h)
theorem ared (c) (f) : Statement (.ared c f) := fun _ _ _ _ h => congrArg (fun p => p.2.2.2) (Option.some.inj h)
theorem rscat (c) (f) : Statement (.rscat c f) := fun _ _ _ _ h => congrArg (fun p => p.2.2.2) (Option.some.inj h)
theorem agath (c) (f) : Statement (.agath c f) := fun _ _ _ _ h => congrArg (fun p => p.2.2.2) (Option.some.inj h)
theorem bcast (c) (f) : Statement (.bcast c f) := fun _ _ _ _ h => congrArg (fun p => p.2.2.2) (Option.some.inj h)
theorem send (c) (f) : Statement (.send c f) := fun _ _ _ _ h => congrArg (fun p => p.2.2.2) (Option.some.inj h)
theorem recv (c) (f) : Statement (.recv c f) := fun _ _ _ _ h => congrArg (fun p => p.2.2.2) (Option.some.inj h)
theorem engineWorkGrant (die) (kind) : Statement (.engineWorkGrant die kind) := fun _ _ _ _ h => nomatch h
theorem outputTileDrain (c) (err) : Statement (.outputTileDrain c err) := fun _ _ _ _ h => nomatch h
theorem epilogue (die) : Statement (.epilogue die) := fun _ _ _ _ h => nomatch h
theorem accumulatorSlotReload (c) (buf) (r) (col) : Statement (.accumulatorSlotReload c buf r col) := fun _ _ _ _ h => nomatch h
theorem spotDuplicateCompare (die) (mismatch) : Statement (.spotDuplicateCompare die mismatch) := fun _ _ _ _ h => nomatch h
theorem thirdCopyVerdict (die) (v) : Statement (.thirdCopyVerdict die v) := fun _ _ _ _ h => nomatch h
theorem instructionComplete (c) (kind) : Statement (.instructionComplete c kind) := fun _ _ _ _ h => nomatch h
theorem potReservationGrant : Statement (.potReservationGrant) := fun _ _ _ _ h => nomatch h
theorem roomRequestGrant : Statement (.roomRequestGrant) := fun _ _ _ _ h => nomatch h
theorem roomRequestFail : Statement (.roomRequestFail) := fun _ _ _ _ h => nomatch h
theorem stashSpillComplete (buf) : Statement (.stashSpillComplete buf) := fun _ _ _ _ h => nomatch h
theorem stashFillComplete (buf) : Statement (.stashFillComplete buf) := fun _ _ _ _ h => nomatch h
theorem relocationComplete (buf) : Statement (.relocationComplete buf) := fun _ _ _ _ h => nomatch h
theorem hostStagingGrant : Statement (.hostStagingGrant) := fun _ _ _ _ h => nomatch h
theorem seatError (seat) (check) : Statement (.seatError seat check) := fun _ _ _ _ h => nomatch h
theorem moduleVoteOk (trick) : Statement (.moduleVoteOk trick) := fun _ _ _ _ h => nomatch h
theorem sealVoteReceived (h) (verdict) (commit) (cause) (origin) : Statement (.sealVoteReceived h verdict commit cause origin) := fun _ _ _ _ h => nomatch h
theorem sealDecisionReceived (h) (verdict) (commit) (cause) (origin) : Statement (.sealDecisionReceived h verdict commit cause origin) := fun _ _ _ _ h => nomatch h
theorem swapOutComplete (c) : Statement (.swapOutComplete c) := fun _ _ _ _ h => nomatch h
theorem swapInComplete (c) : Statement (.swapInComplete c) := fun _ _ _ _ h => nomatch h
theorem schedStuckTimeout : Statement (.schedStuckTimeout) := fun _ _ _ _ h => nomatch h
theorem admitJob (h) (iregion) (ilen) (ioff) (seed) (jobid) (epoch) (inpages) (trick) (cursor) : Statement (.admitJob h iregion ilen ioff seed jobid epoch inpages trick cursor) := fun _ _ _ _ h => nomatch h
theorem admissionImageReceived (image) : Statement (.admissionImageReceived image) := fun _ _ _ _ h => nomatch h
theorem endJob (h) : Statement (.endJob h) := fun _ _ _ _ h => nomatch h
theorem jobEndDrained : Statement (.jobEndDrained) := fun _ _ _ _ h => nomatch h
theorem wipeComplete : Statement (.wipeComplete) := fun _ _ _ _ h => nomatch h
theorem resume (h) : Statement (.resume h) := fun _ _ _ _ h => nomatch h
theorem own (h) : Statement (.own h) := fun _ _ _ _ h => nomatch h
theorem create (h) (entry) (shm) (shv) (shc) (arg) : Statement (.create h entry shm shv shc arg) := fun _ _ _ _ h => nomatch h
theorem kill (h) (ctx) : Statement (.kill h ctx) := fun _ _ _ _ h => nomatch h
theorem regreg (h) (region) (path) (access) (rkey) (vaddr) (length) (qpn) (addr) : Statement (.regreg h region path access rkey vaddr length qpn addr) := fun _ _ _ _ h => nomatch h
theorem regdel (h) (region) : Statement (.regdel h region) := fun _ _ _ _ h => nomatch h
theorem inpub (h) (offset) (length) : Statement (.inpub h offset length) := fun _ _ _ _ h => nomatch h
theorem cqbind (h) (log2n) (region) (offset) : Statement (.cqbind h log2n region offset) := fun _ _ _ _ h => nomatch h
theorem sqbind (h) (ring) : Statement (.sqbind h ring) := fun _ _ _ _ h => nomatch h
theorem joinview (h) (region) (len) (offset) : Statement (.joinview h region len offset) := fun _ _ _ _ h => nomatch h
theorem override (h) (region) (len) (offset) : Statement (.override h region len offset) := fun _ _ _ _ h => nomatch h
theorem viewchg (h) (action) (mid) (rank) (spareMid) : Statement (.viewchg h action mid rank spareMid) := fun _ _ _ _ h => nomatch h
theorem ckptcfg (h) (p) (f) (ta) (tb) (aoff) (boff) : Statement (.ckptcfg h p f ta tb aoff boff) := fun _ _ _ _ h => nomatch h
theorem ckptnow (h) : Statement (.ckptnow h) := fun _ _ _ _ h => nomatch h
theorem restore (h) (region) (offset) (length) : Statement (.restore h region offset length) := fun _ _ _ _ h => nomatch h
theorem cmReq (port) (role) (version) (rsvZero) (mtu) (peer) : Statement (.cmReq port role version rsvZero mtu peer) := fun _ _ _ _ h => nomatch h
theorem cmRtu (qp) : Statement (.cmRtu qp) := fun _ _ _ _ h => nomatch h
theorem cmDreq (qp) : Statement (.cmDreq qp) := fun _ _ _ _ h => nomatch h
theorem cmDrep (qp) : Statement (.cmDrep qp) := fun _ _ _ _ h => nomatch h
theorem connectingTimeout (qp) : Statement (.connectingTimeout qp) := fun _ _ _ _ h => nomatch h
theorem qpErrorTimeout (qp) : Statement (.qpErrorTimeout qp) := fun _ _ _ _ h => nomatch h
theorem qpRetryExhausted (qp) : Statement (.qpRetryExhausted qp) := fun _ _ _ _ h => nomatch h
theorem controlSendReceived (qp) (bytes) : Statement (.controlSendReceived qp bytes) := fun _ _ _ _ h => nomatch h
theorem rdmaWriteReceived (qp) (rkey) (vaddr) (data) : Statement (.rdmaWriteReceived qp rkey vaddr data) := fun _ _ _ _ h => nomatch h
theorem rdmaReadReceived (qp) (rkey) (vaddr) (len) : Statement (.rdmaReadReceived qp rkey vaddr len) := fun _ _ _ _ h => nomatch h
theorem rdmaWriteAck (qp) : Statement (.rdmaWriteAck qp) := fun _ _ _ _ h => nomatch h
theorem cePacketReceived (port) (qp) : Statement (.cePacketReceived port qp) := fun _ _ _ _ h => nomatch h
theorem cnpReceived (port) (qp) : Statement (.cnpReceived port qp) := fun _ _ _ _ h => nomatch h
theorem rateIncreaseTimer (qp) : Statement (.rateIncreaseTimer qp) := fun _ _ _ _ h => nomatch h
theorem storeConnectReply (region) (accepted) : Statement (.storeConnectReply region accepted) := fun _ _ _ _ h => nomatch h
theorem storeConnectTimeout (region) : Statement (.storeConnectTimeout region) := fun _ _ _ _ h => nomatch h
theorem storeReconnectTimer (region) : Statement (.storeReconnectTimer region) := fun _ _ _ _ h => nomatch h
theorem sqtailWrite (ring) (value) : Statement (.sqtailWrite ring value) := fun _ _ _ _ h => nomatch h
theorem submitEntryTaken (ring) : Statement (.submitEntryTaken ring) := fun _ _ _ _ h => nomatch h
theorem cancelEntryTaken (ring) : Statement (.cancelEntryTaken ring) := fun _ _ _ _ h => nomatch h
theorem planFreeze : Statement (.planFreeze) := fun _ _ _ _ h => nomatch h
theorem requestDeadlineExpiry (ring) (reqid) : Statement (.requestDeadlineExpiry ring reqid) := fun _ _ _ _ h => nomatch h
theorem dataFrameReceived (h) (m) : Statement (.dataFrameReceived h m) := fun _ _ _ _ h => nomatch h
theorem stateFrameReceived (h) (m) : Statement (.stateFrameReceived h m) := fun _ _ _ _ h => nomatch h
theorem refreshDoneReceived (h) (point) (refused) : Statement (.refreshDoneReceived h point refused) := fun _ _ _ _ h => nomatch h
theorem refreshCommitReceived (h) (point) : Statement (.refreshCommitReceived h point) := fun _ _ _ _ h => nomatch h
theorem shadowCopyComplete : Statement (.shadowCopyComplete) := fun _ _ _ _ h => nomatch h
theorem checkpointWriteAck : Statement (.checkpointWriteAck) := fun _ _ _ _ h => nomatch h
theorem substituteRebuildComplete : Statement (.substituteRebuildComplete) := fun _ _ _ _ h => nomatch h
theorem streamStripeRepair (buf) (stripe) (reply) : Statement (.streamStripeRepair buf stripe reply) := fun _ _ _ _ h => nomatch h
theorem linkKeepalive (port) (peer) : Statement (.linkKeepalive port peer) := fun _ _ _ _ h => nomatch h
theorem linkAck (h) : Statement (.linkAck h) := fun _ _ _ _ h => nomatch h
theorem linkNak (h) (expected) : Statement (.linkNak h expected) := fun _ _ _ _ h => nomatch h
theorem retransmitTimeout (port) (peer) : Statement (.retransmitTimeout port peer) := fun _ _ _ _ h => nomatch h
theorem hello (port) (sysid) (peer) (peerPort) (peerMac) (revMin) (revMax) : Statement (.hello port sysid peer peerPort peerMac revMin revMax) := fun _ _ _ _ h => nomatch h
theorem helloTimer : Statement (.helloTimer) := fun _ _ _ _ h => nomatch h
theorem lanecap (port) (reply) : Statement (.lanecap port reply) := fun _ _ _ _ h => nomatch h
theorem fenced (h) (epoch) (refusedSeq) : Statement (.fenced h epoch refusedSeq) := fun _ _ _ _ h => nomatch h
theorem routeDownTimeout (port) (peer) : Statement (.routeDownTimeout port peer) := fun _ _ _ _ h => nomatch h
theorem peerSuspectTimeout (peer) : Statement (.peerSuspectTimeout peer) := fun _ _ _ _ h => nomatch h
theorem laneFailure (port) (lane) : Statement (.laneFailure port lane) := fun _ _ _ _ h => nomatch h
theorem laneFecWindow (port) (lane) (symbolErrors) : Statement (.laneFecWindow port lane symbolErrors) := fun _ _ _ _ h => nomatch h
theorem spareLaneTrained (port) : Statement (.spareLaneTrained port) := fun _ _ _ _ h => nomatch h
theorem portLinkUp (isHost) (port) (pmd) : Statement (.portLinkUp isHost port pmd) := fun _ _ _ _ h => nomatch h
theorem portLinkDown (isHost) (port) : Statement (.portLinkDown isHost port) := fun _ _ _ _ h => nomatch h
theorem prepare (h) (newEpoch) (ballot) : Statement (.prepare h newEpoch ballot) := fun _ _ _ _ h => nomatch h
theorem promise (h) (newEpoch) (ballot) (accepted) : Statement (.promise h newEpoch ballot accepted) := fun _ _ _ _ h => nomatch h
theorem accept (h) (newEpoch) (ballot) (view) : Statement (.accept h newEpoch ballot view) := fun _ _ _ _ h => nomatch h
theorem accepted (h) (newEpoch) (ballot) : Statement (.accepted h newEpoch ballot) := fun _ _ _ _ h => nomatch h
theorem commit (h) (view) : Statement (.commit h view) := fun _ _ _ _ h => nomatch h
theorem suspect (h) (mid) : Statement (.suspect h mid) := fun _ _ _ _ h => nomatch h
theorem viewreq (h) : Statement (.viewreq h) := fun _ _ _ _ h => nomatch h
theorem view (h) (v) : Statement (.view h v) := fun _ _ _ _ h => nomatch h
theorem recon (h) (decision) (attempt) (trick) : Statement (.recon h decision attempt trick) := fun _ _ _ _ h => nomatch h
theorem quorumTimeout : Statement (.quorumTimeout) := fun _ _ _ _ h => nomatch h
theorem ballotRetryTimer : Statement (.ballotRetryTimer) := fun _ _ _ _ h => nomatch h
theorem quarantineSelfTestComplete (failed) : Statement (.quarantineSelfTestComplete failed) := fun _ _ _ _ h => nomatch h
theorem dramUncorrectableError (hit) : Statement (.dramUncorrectableError hit) := fun _ _ _ _ h => nomatch h
theorem dramCorrectableError (ch) : Statement (.dramCorrectableError ch) := fun _ _ _ _ h => nomatch h
theorem spareChannelCopyComplete (p) : Statement (.spareChannelCopyComplete p) := fun _ _ _ _ h => nomatch h
theorem workingStoreCorrectedError (bank) : Statement (.workingStoreCorrectedError bank) := fun _ _ _ _ h => nomatch h
theorem wsue (bank) (lost) : Statement (.wsue bank lost) := fun _ _ _ _ h => nomatch h
theorem ringLinkLoss (link) (retryFailed) : Statement (.ringLinkLoss link retryFailed) := fun _ _ _ _ h => nomatch h
theorem hubLinkLoss (link) : Statement (.hubLinkLoss link) := fun _ _ _ _ h => nomatch h
theorem escalationWindowExpiry : Statement (.escalationWindowExpiry) := fun _ _ _ _ h => nomatch h
theorem escalationStepSettled (domain) : Statement (.escalationStepSettled domain) := fun _ _ _ _ h => nomatch h
theorem rotationDue (kind) (die) : Statement (.rotationDue kind die) := fun _ _ _ _ h => nomatch h
theorem spareTestComplete (u) (pass) : Statement (.spareTestComplete u pass) := fun _ _ _ _ h => nomatch h
theorem rotationTargetTestComplete (u) (pass) : Statement (.rotationTargetTestComplete u pass) := fun _ _ _ _ h => nomatch h
theorem longRotationTimeout (kind) (die) : Statement (.longRotationTimeout kind die) := fun _ _ _ _ h => nomatch h
theorem selfTestComplete (failed) : Statement (.selfTestComplete failed) := fun _ _ _ _ h => nomatch h
theorem wearTimer : Statement (.wearTimer) := fun _ _ _ _ h => nomatch h
theorem pageProgramComplete (ok) : Statement (.pageProgramComplete ok) := fun _ _ _ _ h => nomatch h
theorem recordReadbackComplete (matched) : Statement (.recordReadbackComplete matched) := fun _ _ _ _ h => nomatch h
theorem sectorEraseComplete (ok) : Statement (.sectorEraseComplete ok) := fun _ _ _ _ h => nomatch h
theorem startFilter : Statement (.startFilter) := fun _ _ _ _ h => nomatch h
theorem brace : Statement (.brace) := fun _ _ _ _ h => nomatch h
theorem braceEnd : Statement (.braceEnd) := fun _ _ _ _ h => nomatch h
theorem resetLevel : Statement (.resetLevel) := fun _ _ _ _ h => nomatch h
theorem overvoltage (millivolts) : Statement (.overvoltage millivolts) := fun _ _ _ _ h => nomatch h
theorem overvoltageRelease : Statement (.overvoltageRelease) := fun _ _ _ _ h => nomatch h
theorem junctionHot : Statement (.junctionHot) := fun _ _ _ _ h => nomatch h
theorem overtemperature : Statement (.overtemperature) := fun _ _ _ _ h => nomatch h
theorem overtemperatureRelease : Statement (.overtemperatureRelease) := fun _ _ _ _ h => nomatch h
theorem aonOscillatorStop : Statement (.aonOscillatorStop) := fun _ _ _ _ h => nomatch h
theorem domainFault (d) (lostLock) : Statement (.domainFault d lostLock) := fun _ _ _ _ h => nomatch h
theorem serdesReferenceChange (isPresent) : Statement (.serdesReferenceChange isPresent) := fun _ _ _ _ h => nomatch h
theorem resetNAssert : Statement (.resetNAssert) := fun _ _ _ _ h => nomatch h
theorem resetNRelease : Statement (.resetNRelease) := fun _ _ _ _ h => nomatch h
theorem bootScoresheetRead (sfdp0) (sfdp1) : Statement (.bootScoresheetRead sfdp0 sfdp1) := fun _ _ _ _ h => nomatch h
theorem bootRepairLoad : Statement (.bootRepairLoad) := fun _ _ _ _ h => nomatch h
theorem bootholdRelease : Statement (.bootholdRelease) := fun _ _ _ _ h => nomatch h
theorem bootDomainWave : Statement (.bootDomainWave) := fun _ _ _ _ h => nomatch h
theorem pllLock (p) : Statement (.pllLock p) := fun _ _ _ _ h => nomatch h
theorem dramTrainingComplete : Statement (.dramTrainingComplete) := fun _ _ _ _ h => nomatch h
theorem bootReady : Statement (.bootReady) := fun _ _ _ _ h => nomatch h
theorem mresetWrite (qp) : Statement (.mresetWrite qp) := fun _ _ _ _ h => nomatch h
theorem vminclr (qp) : Statement (.vminclr qp) := fun _ _ _ _ h => nomatch h
theorem peakclr (qp) : Statement (.peakclr qp) := fun _ _ _ _ h => nomatch h
theorem scoreLoadPatternSet (qp) (region) : Statement (.scoreLoadPatternSet qp region) := fun _ _ _ _ h => nomatch h
theorem scoreLoadKeySet (qp) (region) : Statement (.scoreLoadKeySet qp region) := fun _ _ _ _ h => nomatch h
theorem scoreLoadReservedKind (qp) (region) (kind3) : Statement (.scoreLoadReservedKind qp region kind3) := fun _ _ _ _ h => nomatch h
theorem scoreLoadDataReceived (data) : Statement (.scoreLoadDataReceived data) := fun _ _ _ _ h => nomatch h
theorem attestGo (qp) (region) : Statement (.attestGo qp region) := fun _ _ _ _ h => nomatch h
theorem lowerTreeGenerated : Statement (.lowerTreeGenerated) := fun _ _ _ _ h => nomatch h
theorem attestReportWritten : Statement (.attestReportWritten) := fun _ _ _ _ h => nomatch h
theorem loRegisterRead (qp) (offset) : Statement (.loRegisterRead qp offset) := fun _ _ _ _ h => nomatch h
theorem hiRegisterRead (qp) (offset) : Statement (.hiRegisterRead qp offset) := fun _ _ _ _ h => nomatch h
theorem registerWrite (qp) (offset) (value) : Statement (.registerWrite qp offset value) := fun _ _ _ _ h => nomatch h
theorem smbReadVin : Statement (.smbReadVin) := fun _ _ _ _ h => nomatch h
theorem smbReadPin : Statement (.smbReadPin) := fun _ _ _ _ h => nomatch h
theorem smbReadDieTemp (die) : Statement (.smbReadDieTemp die) := fun _ _ _ _ h => nomatch h
theorem smbReadHubTemp : Statement (.smbReadHubTemp) := fun _ _ _ _ h => nomatch h
theorem smbReadDramTemp : Statement (.smbReadDramTemp) := fun _ _ _ _ h => nomatch h
theorem smbReadStatus : Statement (.smbReadStatus) := fun _ _ _ _ h => nomatch h
theorem smbUndefinedAccess (isWrite) (code) : Statement (.smbUndefinedAccess isWrite code) := fun _ _ _ _ h => nomatch h
theorem jtagBypass : Statement (.jtagBypass) := fun _ _ _ _ h => nomatch h
theorem jtagIdcode : Statement (.jtagIdcode) := fun _ _ _ _ h => nomatch h
theorem jtagSample : Statement (.jtagSample) := fun _ _ _ _ h => nomatch h
theorem jtagPreload : Statement (.jtagPreload) := fun _ _ _ _ h => nomatch h
theorem jtagExtest : Statement (.jtagExtest) := fun _ _ _ _ h => nomatch h
theorem jtagExtestPulse : Statement (.jtagExtestPulse) := fun _ _ _ _ h => nomatch h
theorem jtagExtestTrain : Statement (.jtagExtestTrain) := fun _ _ _ _ h => nomatch h
theorem powerOn (millivolts) : Statement (.powerOn millivolts) := fun _ _ _ _ h => nomatch h
theorem recoveryFilterStart : Statement (.recoveryFilterStart) := fun _ _ _ _ h => nomatch h
theorem hotCleared : Statement (.hotCleared) := fun _ _ _ _ h => nomatch h
theorem strapContactChange (contacts) : Statement (.strapContactChange contacts) := fun _ _ _ _ h => nomatch h
theorem seatCorrectedError (seat) (refetch) : Statement (.seatCorrectedError seat refetch) := fun _ _ _ _ h => nomatch h
theorem ringOrHubFrameRetryExhausted (trick) : Statement (.ringOrHubFrameRetryExhausted trick) := fun _ _ _ _ h => nomatch h
theorem viewRecordReceived (record) : Statement (.viewRecordReceived record) := fun _ _ _ _ h => nomatch h
theorem restoreRecordReceived (record) : Statement (.restoreRecordReceived record) := fun _ _ _ _ h => nomatch h
theorem forwardedViewchgReceived (h) (action) (mid) (rank) (spareMid) : Statement (.forwardedViewchgReceived h action mid rank spareMid) := fun _ _ _ _ h => nomatch h
theorem keepaliveReceived (h) : Statement (.keepaliveReceived h) := fun _ _ _ _ h => nomatch h
theorem peerFrameDropped (port) (why) : Statement (.peerFrameDropped port why) := fun _ _ _ _ h => nomatch h
theorem arpFrameReceived (isHost) (port) (isReply) (addr) (mac) : Statement (.arpFrameReceived isHost port isReply addr mac) := fun _ _ _ _ h => nomatch h
theorem icmpEchoReceived (isHost) (port) (dst) (payload) : Statement (.icmpEchoReceived isHost port dst payload) := fun _ _ _ _ h => nomatch h
theorem pfcFrameReceived (isHost) (port) (priority) (pause) : Statement (.pfcFrameReceived isHost port priority pause) := fun _ _ _ _ h => nomatch h
theorem unsupportedHostFrame (frame) : Statement (.unsupportedHostFrame frame) := fun _ _ _ _ h => nomatch h
theorem refusedRocePacket (port) (qp) : Statement (.refusedRocePacket port qp) := fun _ _ _ _ h => nomatch h
theorem localAckTimeout (qp) : Statement (.localAckTimeout qp) := fun _ _ _ _ h => nomatch h
theorem roceNakReceived (qp) (sequence) : Statement (.roceNakReceived qp sequence) := fun _ _ _ _ h => nomatch h

end Sys2Proof.Laws.Table
end

