-- ==== Sys2Proof/Laws/State.lean ====
section
/-! SUPPORT. What each named update of the state leaves as it was, one lemma per field, and what it writes. -/

namespace Sys2Proof.Machine

@[simp] theorem State.send_pending (s : State) (o : Out) : (s.send o).pending = s.pending := rfl
@[simp] theorem State.send_fresh (s : State) (o : Out) : (s.send o).fresh = s.fresh := rfl
@[simp] theorem State.send_aon (s : State) (o : Out) : (s.send o).aon = s.aon := rfl
@[simp] theorem State.send_cfg (s : State) (o : Out) : (s.send o).cfg = s.cfg := rfl
@[simp] theorem State.send_hl (s : State) (o : Out) : (s.send o).hl = s.hl := rfl
@[simp] theorem State.send_fab (s : State) (o : Out) : (s.send o).fab = s.fab := rfl
@[simp] theorem State.send_host (s : State) (o : Out) : (s.send o).host = s.host := rfl
@[simp] theorem State.send_job (s : State) (o : Out) : (s.send o).job = s.job := rfl
@[simp] theorem State.send_stat (s : State) (o : Out) : (s.send o).stat = s.stat := rfl
@[simp] theorem State.send_att (s : State) (o : Out) : (s.send o).att = s.att := rfl
@[simp] theorem State.send_score (s : State) (o : Out) : (s.send o).score = s.score := rfl
@[simp] theorem State.send_outbox (s : State) (o : Out) :
    (s.send o).outbox = s.outbox ++ (if s.pausedTo o then [] else [s.stamp o]) := rfl
@[simp] theorem State.send_heldTx (s : State) (o : Out) :
    (s.send o).heldTx = s.heldTx ++ (if s.pausedTo o then [s.stamp o] else []) := rfl
@[simp] theorem State.flushTx_pending (s : State)  : (s.flushTx).pending = s.pending := rfl
@[simp] theorem State.flushTx_fresh (s : State)  : (s.flushTx).fresh = s.fresh := rfl
@[simp] theorem State.flushTx_aon (s : State)  : (s.flushTx).aon = s.aon := rfl
@[simp] theorem State.flushTx_cfg (s : State)  : (s.flushTx).cfg = s.cfg := rfl
@[simp] theorem State.flushTx_hl (s : State)  : (s.flushTx).hl = s.hl := rfl
@[simp] theorem State.flushTx_fab (s : State)  : (s.flushTx).fab = s.fab := rfl
@[simp] theorem State.flushTx_host (s : State)  : (s.flushTx).host = s.host := rfl
@[simp] theorem State.flushTx_job (s : State)  : (s.flushTx).job = s.job := rfl
@[simp] theorem State.flushTx_stat (s : State)  : (s.flushTx).stat = s.stat := rfl
@[simp] theorem State.flushTx_att (s : State)  : (s.flushTx).att = s.att := rfl
@[simp] theorem State.flushTx_score (s : State)  : (s.flushTx).score = s.score := rfl
@[simp] theorem State.dropTx_pending (s : State) (h : Bool) (p : Nat) : (s.dropTx h p).pending = s.pending := rfl
@[simp] theorem State.dropTx_outbox (s : State) (h : Bool) (p : Nat) : (s.dropTx h p).outbox = s.outbox := rfl
@[simp] theorem State.dropTx_fresh (s : State) (h : Bool) (p : Nat) : (s.dropTx h p).fresh = s.fresh := rfl
@[simp] theorem State.dropTx_aon (s : State) (h : Bool) (p : Nat) : (s.dropTx h p).aon = s.aon := rfl
@[simp] theorem State.dropTx_cfg (s : State) (h : Bool) (p : Nat) : (s.dropTx h p).cfg = s.cfg := rfl
@[simp] theorem State.dropTx_hl (s : State) (h : Bool) (p : Nat) : (s.dropTx h p).hl = s.hl := rfl
@[simp] theorem State.dropTx_fab (s : State) (h : Bool) (p : Nat) : (s.dropTx h p).fab = s.fab := rfl
@[simp] theorem State.dropTx_host (s : State) (h : Bool) (p : Nat) : (s.dropTx h p).host = s.host := rfl
@[simp] theorem State.dropTx_job (s : State) (h : Bool) (p : Nat) : (s.dropTx h p).job = s.job := rfl
@[simp] theorem State.dropTx_stat (s : State) (h : Bool) (p : Nat) : (s.dropTx h p).stat = s.stat := rfl
@[simp] theorem State.dropTx_att (s : State) (h : Bool) (p : Nat) : (s.dropTx h p).att = s.att := rfl
@[simp] theorem State.dropTx_score (s : State) (h : Bool) (p : Nat) : (s.dropTx h p).score = s.score := rfl
@[simp] theorem State.modHost_pending (s : State) (f : HostSt → HostSt) : (s.modHost f).pending = s.pending := rfl
@[simp] theorem State.modHost_outbox (s : State) (f : HostSt → HostSt) : (s.modHost f).outbox = s.outbox := rfl
@[simp] theorem State.modHost_heldTx (s : State) (f : HostSt → HostSt) : (s.modHost f).heldTx = s.heldTx := rfl
@[simp] theorem State.modHost_fresh (s : State) (f : HostSt → HostSt) : (s.modHost f).fresh = s.fresh := rfl
@[simp] theorem State.modHost_aon (s : State) (f : HostSt → HostSt) : (s.modHost f).aon = s.aon := rfl
@[simp] theorem State.modHost_cfg (s : State) (f : HostSt → HostSt) : (s.modHost f).cfg = s.cfg := rfl
@[simp] theorem State.modHost_hl (s : State) (f : HostSt → HostSt) : (s.modHost f).hl = s.hl := rfl
@[simp] theorem State.modHost_fab (s : State) (f : HostSt → HostSt) : (s.modHost f).fab = s.fab := rfl
@[simp] theorem State.modHost_job (s : State) (f : HostSt → HostSt) : (s.modHost f).job = s.job := rfl
@[simp] theorem State.modHost_stat (s : State) (f : HostSt → HostSt) : (s.modHost f).stat = s.stat := rfl
@[simp] theorem State.modHost_att (s : State) (f : HostSt → HostSt) : (s.modHost f).att = s.att := rfl
@[simp] theorem State.modHost_score (s : State) (f : HostSt → HostSt) : (s.modHost f).score = s.score := rfl
@[simp] theorem State.modHost_host (s : State) (f : HostSt → HostSt) : (s.modHost f).host = f s.host := rfl
@[simp] theorem State.lose_pending (s : State) (w : Carried) : (s.lose w).pending = s.pending := by
  cases w <;> rfl
@[simp] theorem State.lose_outbox (s : State) (w : Carried) : (s.lose w).outbox = s.outbox := by
  cases w <;> rfl
@[simp] theorem State.lose_heldTx (s : State) (w : Carried) : (s.lose w).heldTx = s.heldTx := by
  cases w <;> rfl
@[simp] theorem State.lose_fresh (s : State) (w : Carried) : (s.lose w).fresh = s.fresh := by
  cases w <;> rfl
@[simp] theorem State.lose_aon (s : State) (w : Carried) : (s.lose w).aon = s.aon := by
  cases w <;> rfl
@[simp] theorem State.lose_cfg (s : State) (w : Carried) : (s.lose w).cfg = s.cfg := by
  cases w <;> rfl
@[simp] theorem State.lose_hl (s : State) (w : Carried) : (s.lose w).hl = s.hl := by
  cases w <;> rfl
@[simp] theorem State.lose_fab (s : State) (w : Carried) : (s.lose w).fab = s.fab := by
  cases w <;> rfl
@[simp] theorem State.lose_job (s : State) (w : Carried) : (s.lose w).job = s.job := by
  cases w <;> rfl
@[simp] theorem State.lose_stat (s : State) (w : Carried) : (s.lose w).stat = s.stat := by
  cases w <;> rfl
@[simp] theorem State.lose_att (s : State) (w : Carried) : (s.lose w).att = s.att := by
  cases w <;> rfl
@[simp] theorem State.lose_score (s : State) (w : Carried) : (s.lose w).score = s.score := by
  cases w <;> rfl
@[simp] theorem State.takeFresh_pending (s : State)  : (s.takeFresh.2).pending = s.pending := rfl
@[simp] theorem State.takeFresh_outbox (s : State)  : (s.takeFresh.2).outbox = s.outbox := rfl
@[simp] theorem State.takeFresh_heldTx (s : State)  : (s.takeFresh.2).heldTx = s.heldTx := rfl
@[simp] theorem State.takeFresh_aon (s : State)  : (s.takeFresh.2).aon = s.aon := rfl
@[simp] theorem State.takeFresh_cfg (s : State)  : (s.takeFresh.2).cfg = s.cfg := rfl
@[simp] theorem State.takeFresh_hl (s : State)  : (s.takeFresh.2).hl = s.hl := rfl
@[simp] theorem State.takeFresh_fab (s : State)  : (s.takeFresh.2).fab = s.fab := rfl
@[simp] theorem State.takeFresh_host (s : State)  : (s.takeFresh.2).host = s.host := rfl
@[simp] theorem State.takeFresh_job (s : State)  : (s.takeFresh.2).job = s.job := rfl
@[simp] theorem State.takeFresh_stat (s : State)  : (s.takeFresh.2).stat = s.stat := rfl
@[simp] theorem State.takeFresh_att (s : State)  : (s.takeFresh.2).att = s.att := rfl
@[simp] theorem State.takeFresh_score (s : State)  : (s.takeFresh.2).score = s.score := rfl
@[simp] theorem State.takeFresh_fresh (s : State) : s.takeFresh.2.fresh = s.fresh + 1 := rfl
@[simp] theorem State.modArch_pending (s : State) (c : CtxId) (f : Arch → Arch) : (s.modArch c f).pending = s.pending := rfl
@[simp] theorem State.modArch_outbox (s : State) (c : CtxId) (f : Arch → Arch) : (s.modArch c f).outbox = s.outbox := rfl
@[simp] theorem State.modArch_heldTx (s : State) (c : CtxId) (f : Arch → Arch) : (s.modArch c f).heldTx = s.heldTx := rfl
@[simp] theorem State.modArch_fresh (s : State) (c : CtxId) (f : Arch → Arch) : (s.modArch c f).fresh = s.fresh := rfl
@[simp] theorem State.modArch_aon (s : State) (c : CtxId) (f : Arch → Arch) : (s.modArch c f).aon = s.aon := rfl
@[simp] theorem State.modArch_cfg (s : State) (c : CtxId) (f : Arch → Arch) : (s.modArch c f).cfg = s.cfg := rfl
@[simp] theorem State.modArch_hl (s : State) (c : CtxId) (f : Arch → Arch) : (s.modArch c f).hl = s.hl := rfl
@[simp] theorem State.modArch_fab (s : State) (c : CtxId) (f : Arch → Arch) : (s.modArch c f).fab = s.fab := rfl
@[simp] theorem State.modArch_host (s : State) (c : CtxId) (f : Arch → Arch) : (s.modArch c f).host = s.host := rfl
@[simp] theorem State.modArch_stat (s : State) (c : CtxId) (f : Arch → Arch) : (s.modArch c f).stat = s.stat := rfl
@[simp] theorem State.modArch_att (s : State) (c : CtxId) (f : Arch → Arch) : (s.modArch c f).att = s.att := rfl
@[simp] theorem State.modArch_score (s : State) (c : CtxId) (f : Arch → Arch) : (s.modArch c f).score = s.score := rfl
@[simp] theorem State.modArch_job (s : State) (c : CtxId) (f : Arch → Arch) :
    (s.modArch c f).job = s.job.modCtx c fun x => { x with arch := f x.arch } := rfl
@[simp] theorem State.setQp_pending (s : State) (i : Nat) (q : Qp) : (s.setQp i q).pending = s.pending := rfl
@[simp] theorem State.setQp_outbox (s : State) (i : Nat) (q : Qp) : (s.setQp i q).outbox = s.outbox := rfl
@[simp] theorem State.setQp_heldTx (s : State) (i : Nat) (q : Qp) : (s.setQp i q).heldTx = s.heldTx := rfl
@[simp] theorem State.setQp_fresh (s : State) (i : Nat) (q : Qp) : (s.setQp i q).fresh = s.fresh := rfl
@[simp] theorem State.setQp_aon (s : State) (i : Nat) (q : Qp) : (s.setQp i q).aon = s.aon := rfl
@[simp] theorem State.setQp_cfg (s : State) (i : Nat) (q : Qp) : (s.setQp i q).cfg = s.cfg := rfl
@[simp] theorem State.setQp_hl (s : State) (i : Nat) (q : Qp) : (s.setQp i q).hl = s.hl := rfl
@[simp] theorem State.setQp_fab (s : State) (i : Nat) (q : Qp) : (s.setQp i q).fab = s.fab := rfl
@[simp] theorem State.setQp_job (s : State) (i : Nat) (q : Qp) : (s.setQp i q).job = s.job := rfl
@[simp] theorem State.setQp_stat (s : State) (i : Nat) (q : Qp) : (s.setQp i q).stat = s.stat := rfl
@[simp] theorem State.setQp_att (s : State) (i : Nat) (q : Qp) : (s.setQp i q).att = s.att := rfl
@[simp] theorem State.setQp_score (s : State) (i : Nat) (q : Qp) : (s.setQp i q).score = s.score := rfl
@[simp] theorem State.modRegion_pending (s : State) (n : Nat) (f : Region → Region) : (s.modRegion n f).pending = s.pending := rfl
@[simp] theorem State.modRegion_outbox (s : State) (n : Nat) (f : Region → Region) : (s.modRegion n f).outbox = s.outbox := rfl
@[simp] theorem State.modRegion_heldTx (s : State) (n : Nat) (f : Region → Region) : (s.modRegion n f).heldTx = s.heldTx := rfl
@[simp] theorem State.modRegion_fresh (s : State) (n : Nat) (f : Region → Region) : (s.modRegion n f).fresh = s.fresh := rfl
@[simp] theorem State.modRegion_aon (s : State) (n : Nat) (f : Region → Region) : (s.modRegion n f).aon = s.aon := rfl
@[simp] theorem State.modRegion_cfg (s : State) (n : Nat) (f : Region → Region) : (s.modRegion n f).cfg = s.cfg := rfl
@[simp] theorem State.modRegion_hl (s : State) (n : Nat) (f : Region → Region) : (s.modRegion n f).hl = s.hl := rfl
@[simp] theorem State.modRegion_fab (s : State) (n : Nat) (f : Region → Region) : (s.modRegion n f).fab = s.fab := rfl
@[simp] theorem State.modRegion_job (s : State) (n : Nat) (f : Region → Region) : (s.modRegion n f).job = s.job := rfl
@[simp] theorem State.modRegion_stat (s : State) (n : Nat) (f : Region → Region) : (s.modRegion n f).stat = s.stat := rfl
@[simp] theorem State.modRegion_att (s : State) (n : Nat) (f : Region → Region) : (s.modRegion n f).att = s.att := rfl
@[simp] theorem State.modRegion_score (s : State) (n : Nat) (f : Region → Region) : (s.modRegion n f).score = s.score := rfl
@[simp] theorem State.modRoute_pending (s : State) (p : Fin 12) (m : BitVec 9) (f : Route → Route) : (s.modRoute p m f).pending = s.pending := rfl
@[simp] theorem State.modRoute_outbox (s : State) (p : Fin 12) (m : BitVec 9) (f : Route → Route) : (s.modRoute p m f).outbox = s.outbox := rfl
@[simp] theorem State.modRoute_heldTx (s : State) (p : Fin 12) (m : BitVec 9) (f : Route → Route) : (s.modRoute p m f).heldTx = s.heldTx := rfl
@[simp] theorem State.modRoute_fresh (s : State) (p : Fin 12) (m : BitVec 9) (f : Route → Route) : (s.modRoute p m f).fresh = s.fresh := rfl
@[simp] theorem State.modRoute_aon (s : State) (p : Fin 12) (m : BitVec 9) (f : Route → Route) : (s.modRoute p m f).aon = s.aon := rfl
@[simp] theorem State.modRoute_cfg (s : State) (p : Fin 12) (m : BitVec 9) (f : Route → Route) : (s.modRoute p m f).cfg = s.cfg := rfl
@[simp] theorem State.modRoute_hl (s : State) (p : Fin 12) (m : BitVec 9) (f : Route → Route) : (s.modRoute p m f).hl = s.hl := rfl
@[simp] theorem State.modRoute_host (s : State) (p : Fin 12) (m : BitVec 9) (f : Route → Route) : (s.modRoute p m f).host = s.host := rfl
@[simp] theorem State.modRoute_job (s : State) (p : Fin 12) (m : BitVec 9) (f : Route → Route) : (s.modRoute p m f).job = s.job := rfl
@[simp] theorem State.modRoute_stat (s : State) (p : Fin 12) (m : BitVec 9) (f : Route → Route) : (s.modRoute p m f).stat = s.stat := rfl
@[simp] theorem State.modRoute_att (s : State) (p : Fin 12) (m : BitVec 9) (f : Route → Route) : (s.modRoute p m f).att = s.att := rfl
@[simp] theorem State.modRoute_score (s : State) (p : Fin 12) (m : BitVec 9) (f : Route → Route) : (s.modRoute p m f).score = s.score := rfl
@[simp] theorem State.setPPort_pending (s : State) (p : Fin 12) (f : PPort → PPort) : (s.setPPort p f).pending = s.pending := rfl
@[simp] theorem State.setPPort_outbox (s : State) (p : Fin 12) (f : PPort → PPort) : (s.setPPort p f).outbox = s.outbox := rfl
@[simp] theorem State.setPPort_heldTx (s : State) (p : Fin 12) (f : PPort → PPort) : (s.setPPort p f).heldTx = s.heldTx := rfl
@[simp] theorem State.setPPort_fresh (s : State) (p : Fin 12) (f : PPort → PPort) : (s.setPPort p f).fresh = s.fresh := rfl
@[simp] theorem State.setPPort_aon (s : State) (p : Fin 12) (f : PPort → PPort) : (s.setPPort p f).aon = s.aon := rfl
@[simp] theorem State.setPPort_cfg (s : State) (p : Fin 12) (f : PPort → PPort) : (s.setPPort p f).cfg = s.cfg := rfl
@[simp] theorem State.setPPort_hl (s : State) (p : Fin 12) (f : PPort → PPort) : (s.setPPort p f).hl = s.hl := rfl
@[simp] theorem State.setPPort_host (s : State) (p : Fin 12) (f : PPort → PPort) : (s.setPPort p f).host = s.host := rfl
@[simp] theorem State.setPPort_job (s : State) (p : Fin 12) (f : PPort → PPort) : (s.setPPort p f).job = s.job := rfl
@[simp] theorem State.setPPort_stat (s : State) (p : Fin 12) (f : PPort → PPort) : (s.setPPort p f).stat = s.stat := rfl
@[simp] theorem State.setPPort_att (s : State) (p : Fin 12) (f : PPort → PPort) : (s.setPPort p f).att = s.att := rfl
@[simp] theorem State.setPPort_score (s : State) (p : Fin 12) (f : PPort → PPort) : (s.setPPort p f).score = s.score := rfl
@[simp] theorem State.modTrick_pending (s : State) (n : Nat) (f : TrickRec → TrickRec) : (s.modTrick n f).pending = s.pending := by
  unfold State.modTrick; split <;> [rfl; (split <;> rfl)]
@[simp] theorem State.modTrick_outbox (s : State) (n : Nat) (f : TrickRec → TrickRec) : (s.modTrick n f).outbox = s.outbox := by
  unfold State.modTrick; split <;> [rfl; (split <;> rfl)]
@[simp] theorem State.modTrick_heldTx (s : State) (n : Nat) (f : TrickRec → TrickRec) : (s.modTrick n f).heldTx = s.heldTx := by
  unfold State.modTrick; split <;> [rfl; (split <;> rfl)]
@[simp] theorem State.modTrick_fresh (s : State) (n : Nat) (f : TrickRec → TrickRec) : (s.modTrick n f).fresh = s.fresh := by
  unfold State.modTrick; split <;> [rfl; (split <;> rfl)]
@[simp] theorem State.modTrick_aon (s : State) (n : Nat) (f : TrickRec → TrickRec) : (s.modTrick n f).aon = s.aon := by
  unfold State.modTrick; split <;> [rfl; (split <;> rfl)]
@[simp] theorem State.modTrick_cfg (s : State) (n : Nat) (f : TrickRec → TrickRec) : (s.modTrick n f).cfg = s.cfg := by
  unfold State.modTrick; split <;> [rfl; (split <;> rfl)]
@[simp] theorem State.modTrick_hl (s : State) (n : Nat) (f : TrickRec → TrickRec) : (s.modTrick n f).hl = s.hl := by
  unfold State.modTrick; split <;> [rfl; (split <;> rfl)]
@[simp] theorem State.modTrick_fab (s : State) (n : Nat) (f : TrickRec → TrickRec) : (s.modTrick n f).fab = s.fab := by
  unfold State.modTrick; split <;> [rfl; (split <;> rfl)]
@[simp] theorem State.modTrick_host (s : State) (n : Nat) (f : TrickRec → TrickRec) : (s.modTrick n f).host = s.host := by
  unfold State.modTrick; split <;> [rfl; (split <;> rfl)]
@[simp] theorem State.modTrick_stat (s : State) (n : Nat) (f : TrickRec → TrickRec) : (s.modTrick n f).stat = s.stat := by
  unfold State.modTrick; split <;> [rfl; (split <;> rfl)]
@[simp] theorem State.modTrick_att (s : State) (n : Nat) (f : TrickRec → TrickRec) : (s.modTrick n f).att = s.att := by
  unfold State.modTrick; split <;> [rfl; (split <;> rfl)]
@[simp] theorem State.modTrick_score (s : State) (n : Nat) (f : TrickRec → TrickRec) : (s.modTrick n f).score = s.score := by
  unfold State.modTrick; split <;> [rfl; (split <;> rfl)]
@[simp] theorem State.modQp_pending (s : State) (i : Nat) (f : Qp → Qp) : (s.modQp i f).pending = s.pending := by
  unfold State.modQp; split <;> rfl
@[simp] theorem State.modQp_outbox (s : State) (i : Nat) (f : Qp → Qp) : (s.modQp i f).outbox = s.outbox := by
  unfold State.modQp; split <;> rfl
@[simp] theorem State.modQp_heldTx (s : State) (i : Nat) (f : Qp → Qp) : (s.modQp i f).heldTx = s.heldTx := by
  unfold State.modQp; split <;> rfl
@[simp] theorem State.modQp_fresh (s : State) (i : Nat) (f : Qp → Qp) : (s.modQp i f).fresh = s.fresh := by
  unfold State.modQp; split <;> rfl
@[simp] theorem State.modQp_aon (s : State) (i : Nat) (f : Qp → Qp) : (s.modQp i f).aon = s.aon := by
  unfold State.modQp; split <;> rfl
@[simp] theorem State.modQp_cfg (s : State) (i : Nat) (f : Qp → Qp) : (s.modQp i f).cfg = s.cfg := by
  unfold State.modQp; split <;> rfl
@[simp] theorem State.modQp_hl (s : State) (i : Nat) (f : Qp → Qp) : (s.modQp i f).hl = s.hl := by
  unfold State.modQp; split <;> rfl
@[simp] theorem State.modQp_fab (s : State) (i : Nat) (f : Qp → Qp) : (s.modQp i f).fab = s.fab := by
  unfold State.modQp; split <;> rfl
@[simp] theorem State.modQp_job (s : State) (i : Nat) (f : Qp → Qp) : (s.modQp i f).job = s.job := by
  unfold State.modQp; split <;> rfl
@[simp] theorem State.modQp_stat (s : State) (i : Nat) (f : Qp → Qp) : (s.modQp i f).stat = s.stat := by
  unfold State.modQp; split <;> rfl
@[simp] theorem State.modQp_att (s : State) (i : Nat) (f : Qp → Qp) : (s.modQp i f).att = s.att := by
  unfold State.modQp; split <;> rfl
@[simp] theorem State.modQp_score (s : State) (i : Nat) (f : Qp → Qp) : (s.modQp i f).score = s.score := by
  unfold State.modQp; split <;> rfl
@[simp] theorem State.setTries_pending (s : State) (q : QpRef) (n : Nat) : (s.setTries q n).pending = s.pending := by
  unfold State.setTries; split <;> [simp; (split <;> simp)]
@[simp] theorem State.setTries_outbox (s : State) (q : QpRef) (n : Nat) : (s.setTries q n).outbox = s.outbox := by
  unfold State.setTries; split <;> [simp; (split <;> simp)]
@[simp] theorem State.setTries_heldTx (s : State) (q : QpRef) (n : Nat) : (s.setTries q n).heldTx = s.heldTx := by
  unfold State.setTries; split <;> [simp; (split <;> simp)]
@[simp] theorem State.setTries_fresh (s : State) (q : QpRef) (n : Nat) : (s.setTries q n).fresh = s.fresh := by
  unfold State.setTries; split <;> [simp; (split <;> simp)]
@[simp] theorem State.setTries_aon (s : State) (q : QpRef) (n : Nat) : (s.setTries q n).aon = s.aon := by
  unfold State.setTries; split <;> [simp; (split <;> simp)]
@[simp] theorem State.setTries_cfg (s : State) (q : QpRef) (n : Nat) : (s.setTries q n).cfg = s.cfg := by
  unfold State.setTries; split <;> [simp; (split <;> simp)]
@[simp] theorem State.setTries_hl (s : State) (q : QpRef) (n : Nat) : (s.setTries q n).hl = s.hl := by
  unfold State.setTries; split <;> [simp; (split <;> simp)]
@[simp] theorem State.setTries_fab (s : State) (q : QpRef) (n : Nat) : (s.setTries q n).fab = s.fab := by
  unfold State.setTries; split <;> [simp; (split <;> simp)]
@[simp] theorem State.setTries_job (s : State) (q : QpRef) (n : Nat) : (s.setTries q n).job = s.job := by
  unfold State.setTries; split <;> [simp; (split <;> simp)]
@[simp] theorem State.setTries_stat (s : State) (q : QpRef) (n : Nat) : (s.setTries q n).stat = s.stat := by
  unfold State.setTries; split <;> [simp; (split <;> simp)]
@[simp] theorem State.setTries_att (s : State) (q : QpRef) (n : Nat) : (s.setTries q n).att = s.att := by
  unfold State.setTries; split <;> [simp; (split <;> simp)]
@[simp] theorem State.setTries_score (s : State) (q : QpRef) (n : Nat) : (s.setTries q n).score = s.score := by
  unfold State.setTries; split <;> [simp; (split <;> simp)]
@[simp] theorem State.dropCompl_pending (s : State)  : (s.dropCompl).pending = s.pending := rfl
@[simp] theorem State.dropCompl_outbox (s : State)  : (s.dropCompl).outbox = s.outbox := rfl
@[simp] theorem State.dropCompl_heldTx (s : State)  : (s.dropCompl).heldTx = s.heldTx := rfl
@[simp] theorem State.dropCompl_fresh (s : State)  : (s.dropCompl).fresh = s.fresh := rfl
@[simp] theorem State.dropCompl_aon (s : State)  : (s.dropCompl).aon = s.aon := rfl
@[simp] theorem State.dropCompl_cfg (s : State)  : (s.dropCompl).cfg = s.cfg := rfl
@[simp] theorem State.dropCompl_hl (s : State)  : (s.dropCompl).hl = s.hl := rfl
@[simp] theorem State.dropCompl_fab (s : State)  : (s.dropCompl).fab = s.fab := rfl
@[simp] theorem State.dropCompl_job (s : State)  : (s.dropCompl).job = s.job := rfl
@[simp] theorem State.dropCompl_stat (s : State)  : (s.dropCompl).stat = s.stat := rfl
@[simp] theorem State.dropCompl_att (s : State)  : (s.dropCompl).att = s.att := rfl
@[simp] theorem State.dropCompl_score (s : State)  : (s.dropCompl).score = s.score := rfl
@[simp] theorem Job.setCtx_state (j : Job) (c : CtxId) (x : Option Ctx) : (j.setCtx c x).state = j.state := rfl
@[simp] theorem Job.setCtx_jobid (j : Job) (c : CtxId) (x : Option Ctx) : (j.setCtx c x).jobid = j.jobid := rfl
@[simp] theorem Job.setCtx_seed (j : Job) (c : CtxId) (x : Option Ctx) : (j.setCtx c x).seed = j.seed := rfl
@[simp] theorem Job.setCtx_epoch (j : Job) (c : CtxId) (x : Option Ctx) : (j.setCtx c x).epoch = j.epoch := rfl
@[simp] theorem Job.setCtx_inpages (j : Job) (c : CtxId) (x : Option Ctx) : (j.setCtx c x).inpages = j.inpages := rfl
@[simp] theorem Job.setCtx_feature (j : Job) (c : CtxId) (x : Option Ctx) : (j.setCtx c x).feature = j.feature := rfl
@[simp] theorem Job.setCtx_a2 (j : Job) (c : CtxId) (x : Option Ctx) : (j.setCtx c x).a2 = j.a2 := rfl
@[simp] theorem Job.setCtx_code (j : Job) (c : CtxId) (x : Option Ctx) : (j.setCtx c x).code = j.code := rfl
@[simp] theorem Job.setCtx_entries (j : Job) (c : CtxId) (x : Option Ctx) : (j.setCtx c x).entries = j.entries := rfl
@[simp] theorem Job.setCtx_input (j : Job) (c : CtxId) (x : Option Ctx) : (j.setCtx c x).input = j.input := rfl
@[simp] theorem Job.setCtx_admission (j : Job) (c : CtxId) (x : Option Ctx) : (j.setCtx c x).admission = j.admission := rfl
@[simp] theorem Job.setCtx_ends (j : Job) (c : CtxId) (x : Option Ctx) : (j.setCtx c x).ends = j.ends := rfl
@[simp] theorem Job.setCtx_draining (j : Job) (c : CtxId) (x : Option Ctx) : (j.setCtx c x).draining = j.draining := rfl
@[simp] theorem Job.setCtx_dead (j : Job) (c : CtxId) (x : Option Ctx) : (j.setCtx c x).dead = j.dead := rfl
@[simp] theorem Job.setCtx_bufs (j : Job) (c : CtxId) (x : Option Ctx) : (j.setCtx c x).bufs = j.bufs := rfl
@[simp] theorem Job.setCtx_nextBuf (j : Job) (c : CtxId) (x : Option Ctx) : (j.setCtx c x).nextBuf = j.nextBuf := rfl
@[simp] theorem Job.setCtx_nextUid (j : Job) (c : CtxId) (x : Option Ctx) : (j.setCtx c x).nextUid = j.nextUid := rfl
@[simp] theorem Job.setCtx_tiles (j : Job) (c : CtxId) (x : Option Ctx) : (j.setCtx c x).tiles = j.tiles := rfl
@[simp] theorem Job.setCtx_fins (j : Job) (c : CtxId) (x : Option Ctx) : (j.setCtx c x).fins = j.fins := rfl
@[simp] theorem Job.setCtx_stay (j : Job) (c : CtxId) (x : Option Ctx) : (j.setCtx c x).stay = j.stay := rfl
@[simp] theorem Job.setCtx_potQ (j : Job) (c : CtxId) (x : Option Ctx) : (j.setCtx c x).potQ = j.potQ := rfl
@[simp] theorem Job.setCtx_roomQ (j : Job) (c : CtxId) (x : Option Ctx) : (j.setCtx c x).roomQ = j.roomQ := rfl
@[simp] theorem Job.setCtx_stageQ (j : Job) (c : CtxId) (x : Option Ctx) : (j.setCtx c x).stageQ = j.stageQ := rfl
@[simp] theorem Job.setCtx_staged (j : Job) (c : CtxId) (x : Option Ctx) : (j.setCtx c x).staged = j.staged := rfl
@[simp] theorem Job.setCtx_toks (j : Job) (c : CtxId) (x : Option Ctx) : (j.setCtx c x).toks = j.toks := rfl
@[simp] theorem Job.setCtx_buckets (j : Job) (c : CtxId) (x : Option Ctx) : (j.setCtx c x).buckets = j.buckets := rfl
@[simp] theorem Job.setCtx_fixed (j : Job) (c : CtxId) (x : Option Ctx) : (j.setCtx c x).fixed = j.fixed := rfl
@[simp] theorem Job.setCtx_t0 (j : Job) (c : CtxId) (x : Option Ctx) : (j.setCtx c x).t0 = j.t0 := rfl
@[simp] theorem Job.setCtx_t1 (j : Job) (c : CtxId) (x : Option Ctx) : (j.setCtx c x).t1 = j.t1 := rfl
@[simp] theorem Job.setCtx_halt (j : Job) (c : CtxId) (x : Option Ctx) : (j.setCtx c x).halt = j.halt := rfl
@[simp] theorem Job.setCtx_haltCause (j : Job) (c : CtxId) (x : Option Ctx) : (j.setCtx c x).haltCause = j.haltCause := rfl
@[simp] theorem Job.setCtx_evict (j : Job) (c : CtxId) (x : Option Ctx) : (j.setCtx c x).evict = j.evict := rfl
@[simp] theorem Job.setCtx_lagLeft (j : Job) (c : CtxId) (x : Option Ctx) : (j.setCtx c x).lagLeft = j.lagLeft := rfl
@[simp] theorem Job.setCtx_stuckSince (j : Job) (c : CtxId) (x : Option Ctx) : (j.setCtx c x).stuckSince = j.stuckSince := rfl
@[simp] theorem Job.setCtx_updNf (j : Job) (c : CtxId) (x : Option Ctx) : (j.setCtx c x).updNf = j.updNf := rfl
@[simp] theorem Job.setCtx_updNf2 (j : Job) (c : CtxId) (x : Option Ctx) : (j.setCtx c x).updNf2 = j.updNf2 := rfl
@[simp] theorem Job.setCtx_updCommit (j : Job) (c : CtxId) (x : Option Ctx) : (j.setCtx c x).updCommit = j.updCommit := rfl
@[simp] theorem Job.setCtx_wdirty (j : Job) (c : CtxId) (x : Option Ctx) : (j.setCtx c x).wdirty = j.wdirty := rfl
@[simp] theorem Job.setCtx_updSel (j : Job) (c : CtxId) (x : Option Ctx) : (j.setCtx c x).updSel = j.updSel := rfl
@[simp] theorem Job.setCtx_updC (j : Job) (c : CtxId) (x : Option Ctx) : (j.setCtx c x).updC = j.updC := rfl
@[simp] theorem Job.setCtx_spotCnt (j : Job) (c : CtxId) (x : Option Ctx) : (j.setCtx c x).spotCnt = j.spotCnt := rfl
@[simp] theorem Job.setCtx_spotWait (j : Job) (c : CtxId) (x : Option Ctx) : (j.setCtx c x).spotWait = j.spotWait := rfl
@[simp] theorem Job.setCtx_spotThird (j : Job) (c : CtxId) (x : Option Ctx) : (j.setCtx c x).spotThird = j.spotThird := rfl
@[simp] theorem Job.setCtx_subArea (j : Job) (c : CtxId) (x : Option Ctx) : (j.setCtx c x).subArea = j.subArea := rfl
@[simp] theorem Job.setCtx_rings (j : Job) (c : CtxId) (x : Option Ctx) : (j.setCtx c x).rings = j.rings := rfl
@[simp] theorem Job.setCtx_reqs (j : Job) (c : CtxId) (x : Option Ctx) : (j.setCtx c x).reqs = j.reqs := rfl
@[simp] theorem Job.setCtx_plans (j : Job) (c : CtxId) (x : Option Ctx) : (j.setCtx c x).plans = j.plans := rfl
@[simp] theorem Job.setCtx_xfers (j : Job) (c : CtxId) (x : Option Ctx) : (j.setCtx c x).xfers = j.xfers := rfl
@[simp] theorem Job.setCtx_norms (j : Job) (c : CtxId) (x : Option Ctx) : (j.setCtx c x).norms = j.norms := rfl
@[simp] theorem Job.setCtx_recov (j : Job) (c : CtxId) (x : Option Ctx) : (j.setCtx c x).recov = j.recov := rfl
@[simp] theorem Job.setCtx_ranks0 (j : Job) (c : CtxId) (x : Option Ctx) : (j.setCtx c x).ranks0 = j.ranks0 := rfl
@[simp] theorem Job.setCtx_shareRegs (j : Job) (c : CtxId) (x : Option Ctx) : (j.setCtx c x).shareRegs = j.shareRegs := rfl
@[simp] theorem Job.mapCtxs_state (j : Job) (f : CtxId → Ctx → Ctx) : (j.mapCtxs f).state = j.state := by
  simp only [Job.mapCtxs]
@[simp] theorem Job.mapCtxs_jobid (j : Job) (f : CtxId → Ctx → Ctx) : (j.mapCtxs f).jobid = j.jobid := by
  simp only [Job.mapCtxs]
@[simp] theorem Job.mapCtxs_seed (j : Job) (f : CtxId → Ctx → Ctx) : (j.mapCtxs f).seed = j.seed := by
  simp only [Job.mapCtxs]
@[simp] theorem Job.mapCtxs_epoch (j : Job) (f : CtxId → Ctx → Ctx) : (j.mapCtxs f).epoch = j.epoch := by
  simp only [Job.mapCtxs]
@[simp] theorem Job.mapCtxs_inpages (j : Job) (f : CtxId → Ctx → Ctx) : (j.mapCtxs f).inpages = j.inpages := by
  simp only [Job.mapCtxs]
@[simp] theorem Job.mapCtxs_feature (j : Job) (f : CtxId → Ctx → Ctx) : (j.mapCtxs f).feature = j.feature := by
  simp only [Job.mapCtxs]
@[simp] theorem Job.mapCtxs_a2 (j : Job) (f : CtxId → Ctx → Ctx) : (j.mapCtxs f).a2 = j.a2 := by
  simp only [Job.mapCtxs]
@[simp] theorem Job.mapCtxs_code (j : Job) (f : CtxId → Ctx → Ctx) : (j.mapCtxs f).code = j.code := by
  simp only [Job.mapCtxs]
@[simp] theorem Job.mapCtxs_entries (j : Job) (f : CtxId → Ctx → Ctx) : (j.mapCtxs f).entries = j.entries := by
  simp only [Job.mapCtxs]
@[simp] theorem Job.mapCtxs_input (j : Job) (f : CtxId → Ctx → Ctx) : (j.mapCtxs f).input = j.input := by
  simp only [Job.mapCtxs]
@[simp] theorem Job.mapCtxs_admission (j : Job) (f : CtxId → Ctx → Ctx) : (j.mapCtxs f).admission = j.admission := by
  simp only [Job.mapCtxs]
@[simp] theorem Job.mapCtxs_ends (j : Job) (f : CtxId → Ctx → Ctx) : (j.mapCtxs f).ends = j.ends := by
  simp only [Job.mapCtxs]
@[simp] theorem Job.mapCtxs_draining (j : Job) (f : CtxId → Ctx → Ctx) : (j.mapCtxs f).draining = j.draining := by
  simp only [Job.mapCtxs]
@[simp] theorem Job.mapCtxs_dead (j : Job) (f : CtxId → Ctx → Ctx) : (j.mapCtxs f).dead = j.dead := by
  simp only [Job.mapCtxs]
@[simp] theorem Job.mapCtxs_bufs (j : Job) (f : CtxId → Ctx → Ctx) : (j.mapCtxs f).bufs = j.bufs := by
  simp only [Job.mapCtxs]
@[simp] theorem Job.mapCtxs_nextBuf (j : Job) (f : CtxId → Ctx → Ctx) : (j.mapCtxs f).nextBuf = j.nextBuf := by
  simp only [Job.mapCtxs]
@[simp] theorem Job.mapCtxs_nextUid (j : Job) (f : CtxId → Ctx → Ctx) : (j.mapCtxs f).nextUid = j.nextUid := by
  simp only [Job.mapCtxs]
@[simp] theorem Job.mapCtxs_tiles (j : Job) (f : CtxId → Ctx → Ctx) : (j.mapCtxs f).tiles = j.tiles := by
  simp only [Job.mapCtxs]
@[simp] theorem Job.mapCtxs_fins (j : Job) (f : CtxId → Ctx → Ctx) : (j.mapCtxs f).fins = j.fins := by
  simp only [Job.mapCtxs]
@[simp] theorem Job.mapCtxs_stay (j : Job) (f : CtxId → Ctx → Ctx) : (j.mapCtxs f).stay = j.stay := by
  simp only [Job.mapCtxs]
@[simp] theorem Job.mapCtxs_potQ (j : Job) (f : CtxId → Ctx → Ctx) : (j.mapCtxs f).potQ = j.potQ := by
  simp only [Job.mapCtxs]
@[simp] theorem Job.mapCtxs_roomQ (j : Job) (f : CtxId → Ctx → Ctx) : (j.mapCtxs f).roomQ = j.roomQ := by
  simp only [Job.mapCtxs]
@[simp] theorem Job.mapCtxs_stageQ (j : Job) (f : CtxId → Ctx → Ctx) : (j.mapCtxs f).stageQ = j.stageQ := by
  simp only [Job.mapCtxs]
@[simp] theorem Job.mapCtxs_staged (j : Job) (f : CtxId → Ctx → Ctx) : (j.mapCtxs f).staged = j.staged := by
  simp only [Job.mapCtxs]
@[simp] theorem Job.mapCtxs_toks (j : Job) (f : CtxId → Ctx → Ctx) : (j.mapCtxs f).toks = j.toks := by
  simp only [Job.mapCtxs]
@[simp] theorem Job.mapCtxs_buckets (j : Job) (f : CtxId → Ctx → Ctx) : (j.mapCtxs f).buckets = j.buckets := by
  simp only [Job.mapCtxs]
@[simp] theorem Job.mapCtxs_fixed (j : Job) (f : CtxId → Ctx → Ctx) : (j.mapCtxs f).fixed = j.fixed := by
  simp only [Job.mapCtxs]
@[simp] theorem Job.mapCtxs_t0 (j : Job) (f : CtxId → Ctx → Ctx) : (j.mapCtxs f).t0 = j.t0 := by
  simp only [Job.mapCtxs]
@[simp] theorem Job.mapCtxs_t1 (j : Job) (f : CtxId → Ctx → Ctx) : (j.mapCtxs f).t1 = j.t1 := by
  simp only [Job.mapCtxs]
@[simp] theorem Job.mapCtxs_halt (j : Job) (f : CtxId → Ctx → Ctx) : (j.mapCtxs f).halt = j.halt := by
  simp only [Job.mapCtxs]
@[simp] theorem Job.mapCtxs_haltCause (j : Job) (f : CtxId → Ctx → Ctx) : (j.mapCtxs f).haltCause = j.haltCause := by
  simp only [Job.mapCtxs]
@[simp] theorem Job.mapCtxs_evict (j : Job) (f : CtxId → Ctx → Ctx) : (j.mapCtxs f).evict = j.evict := by
  simp only [Job.mapCtxs]
@[simp] theorem Job.mapCtxs_lagLeft (j : Job) (f : CtxId → Ctx → Ctx) : (j.mapCtxs f).lagLeft = j.lagLeft := by
  simp only [Job.mapCtxs]
@[simp] theorem Job.mapCtxs_stuckSince (j : Job) (f : CtxId → Ctx → Ctx) : (j.mapCtxs f).stuckSince = j.stuckSince := by
  simp only [Job.mapCtxs]
@[simp] theorem Job.mapCtxs_updNf (j : Job) (f : CtxId → Ctx → Ctx) : (j.mapCtxs f).updNf = j.updNf := by
  simp only [Job.mapCtxs]
@[simp] theorem Job.mapCtxs_updNf2 (j : Job) (f : CtxId → Ctx → Ctx) : (j.mapCtxs f).updNf2 = j.updNf2 := by
  simp only [Job.mapCtxs]
@[simp] theorem Job.mapCtxs_updCommit (j : Job) (f : CtxId → Ctx → Ctx) : (j.mapCtxs f).updCommit = j.updCommit := by
  simp only [Job.mapCtxs]
@[simp] theorem Job.mapCtxs_wdirty (j : Job) (f : CtxId → Ctx → Ctx) : (j.mapCtxs f).wdirty = j.wdirty := by
  simp only [Job.mapCtxs]
@[simp] theorem Job.mapCtxs_updSel (j : Job) (f : CtxId → Ctx → Ctx) : (j.mapCtxs f).updSel = j.updSel := by
  simp only [Job.mapCtxs]
@[simp] theorem Job.mapCtxs_updC (j : Job) (f : CtxId → Ctx → Ctx) : (j.mapCtxs f).updC = j.updC := by
  simp only [Job.mapCtxs]
@[simp] theorem Job.mapCtxs_spotCnt (j : Job) (f : CtxId → Ctx → Ctx) : (j.mapCtxs f).spotCnt = j.spotCnt := by
  simp only [Job.mapCtxs]
@[simp] theorem Job.mapCtxs_spotWait (j : Job) (f : CtxId → Ctx → Ctx) : (j.mapCtxs f).spotWait = j.spotWait := by
  simp only [Job.mapCtxs]
@[simp] theorem Job.mapCtxs_spotThird (j : Job) (f : CtxId → Ctx → Ctx) : (j.mapCtxs f).spotThird = j.spotThird := by
  simp only [Job.mapCtxs]
@[simp] theorem Job.mapCtxs_subArea (j : Job) (f : CtxId → Ctx → Ctx) : (j.mapCtxs f).subArea = j.subArea := by
  simp only [Job.mapCtxs]
@[simp] theorem Job.mapCtxs_rings (j : Job) (f : CtxId → Ctx → Ctx) : (j.mapCtxs f).rings = j.rings := by
  simp only [Job.mapCtxs]
@[simp] theorem Job.mapCtxs_reqs (j : Job) (f : CtxId → Ctx → Ctx) : (j.mapCtxs f).reqs = j.reqs := by
  simp only [Job.mapCtxs]
@[simp] theorem Job.mapCtxs_plans (j : Job) (f : CtxId → Ctx → Ctx) : (j.mapCtxs f).plans = j.plans := by
  simp only [Job.mapCtxs]
@[simp] theorem Job.mapCtxs_xfers (j : Job) (f : CtxId → Ctx → Ctx) : (j.mapCtxs f).xfers = j.xfers := by
  simp only [Job.mapCtxs]
@[simp] theorem Job.mapCtxs_norms (j : Job) (f : CtxId → Ctx → Ctx) : (j.mapCtxs f).norms = j.norms := by
  simp only [Job.mapCtxs]
@[simp] theorem Job.mapCtxs_recov (j : Job) (f : CtxId → Ctx → Ctx) : (j.mapCtxs f).recov = j.recov := by
  simp only [Job.mapCtxs]
@[simp] theorem Job.mapCtxs_ranks0 (j : Job) (f : CtxId → Ctx → Ctx) : (j.mapCtxs f).ranks0 = j.ranks0 := by
  simp only [Job.mapCtxs]
@[simp] theorem Job.mapCtxs_shareRegs (j : Job) (f : CtxId → Ctx → Ctx) : (j.mapCtxs f).shareRegs = j.shareRegs := by
  simp only [Job.mapCtxs]
@[simp] theorem Job.modBuf_state (j : Job) (n : Nat) (f : Buffer → Buffer) : (j.modBuf n f).state = j.state := rfl
@[simp] theorem Job.modBuf_jobid (j : Job) (n : Nat) (f : Buffer → Buffer) : (j.modBuf n f).jobid = j.jobid := rfl
@[simp] theorem Job.modBuf_seed (j : Job) (n : Nat) (f : Buffer → Buffer) : (j.modBuf n f).seed = j.seed := rfl
@[simp] theorem Job.modBuf_epoch (j : Job) (n : Nat) (f : Buffer → Buffer) : (j.modBuf n f).epoch = j.epoch := rfl
@[simp] theorem Job.modBuf_inpages (j : Job) (n : Nat) (f : Buffer → Buffer) : (j.modBuf n f).inpages = j.inpages := rfl
@[simp] theorem Job.modBuf_feature (j : Job) (n : Nat) (f : Buffer → Buffer) : (j.modBuf n f).feature = j.feature := rfl
@[simp] theorem Job.modBuf_a2 (j : Job) (n : Nat) (f : Buffer → Buffer) : (j.modBuf n f).a2 = j.a2 := rfl
@[simp] theorem Job.modBuf_code (j : Job) (n : Nat) (f : Buffer → Buffer) : (j.modBuf n f).code = j.code := rfl
@[simp] theorem Job.modBuf_entries (j : Job) (n : Nat) (f : Buffer → Buffer) : (j.modBuf n f).entries = j.entries := rfl
@[simp] theorem Job.modBuf_input (j : Job) (n : Nat) (f : Buffer → Buffer) : (j.modBuf n f).input = j.input := rfl
@[simp] theorem Job.modBuf_admission (j : Job) (n : Nat) (f : Buffer → Buffer) : (j.modBuf n f).admission = j.admission := rfl
@[simp] theorem Job.modBuf_ends (j : Job) (n : Nat) (f : Buffer → Buffer) : (j.modBuf n f).ends = j.ends := rfl
@[simp] theorem Job.modBuf_draining (j : Job) (n : Nat) (f : Buffer → Buffer) : (j.modBuf n f).draining = j.draining := rfl
@[simp] theorem Job.modBuf_ctxs (j : Job) (n : Nat) (f : Buffer → Buffer) : (j.modBuf n f).ctxs = j.ctxs := rfl
@[simp] theorem Job.modBuf_dead (j : Job) (n : Nat) (f : Buffer → Buffer) : (j.modBuf n f).dead = j.dead := rfl
@[simp] theorem Job.modBuf_nextBuf (j : Job) (n : Nat) (f : Buffer → Buffer) : (j.modBuf n f).nextBuf = j.nextBuf := rfl
@[simp] theorem Job.modBuf_nextUid (j : Job) (n : Nat) (f : Buffer → Buffer) : (j.modBuf n f).nextUid = j.nextUid := rfl
@[simp] theorem Job.modBuf_tiles (j : Job) (n : Nat) (f : Buffer → Buffer) : (j.modBuf n f).tiles = j.tiles := rfl
@[simp] theorem Job.modBuf_fins (j : Job) (n : Nat) (f : Buffer → Buffer) : (j.modBuf n f).fins = j.fins := rfl
@[simp] theorem Job.modBuf_stay (j : Job) (n : Nat) (f : Buffer → Buffer) : (j.modBuf n f).stay = j.stay := rfl
@[simp] theorem Job.modBuf_potQ (j : Job) (n : Nat) (f : Buffer → Buffer) : (j.modBuf n f).potQ = j.potQ := rfl
@[simp] theorem Job.modBuf_roomQ (j : Job) (n : Nat) (f : Buffer → Buffer) : (j.modBuf n f).roomQ = j.roomQ := rfl
@[simp] theorem Job.modBuf_stageQ (j : Job) (n : Nat) (f : Buffer → Buffer) : (j.modBuf n f).stageQ = j.stageQ := rfl
@[simp] theorem Job.modBuf_staged (j : Job) (n : Nat) (f : Buffer → Buffer) : (j.modBuf n f).staged = j.staged := rfl
@[simp] theorem Job.modBuf_toks (j : Job) (n : Nat) (f : Buffer → Buffer) : (j.modBuf n f).toks = j.toks := rfl
@[simp] theorem Job.modBuf_buckets (j : Job) (n : Nat) (f : Buffer → Buffer) : (j.modBuf n f).buckets = j.buckets := rfl
@[simp] theorem Job.modBuf_fixed (j : Job) (n : Nat) (f : Buffer → Buffer) : (j.modBuf n f).fixed = j.fixed := rfl
@[simp] theorem Job.modBuf_t0 (j : Job) (n : Nat) (f : Buffer → Buffer) : (j.modBuf n f).t0 = j.t0 := rfl
@[simp] theorem Job.modBuf_t1 (j : Job) (n : Nat) (f : Buffer → Buffer) : (j.modBuf n f).t1 = j.t1 := rfl
@[simp] theorem Job.modBuf_halt (j : Job) (n : Nat) (f : Buffer → Buffer) : (j.modBuf n f).halt = j.halt := rfl
@[simp] theorem Job.modBuf_haltCause (j : Job) (n : Nat) (f : Buffer → Buffer) : (j.modBuf n f).haltCause = j.haltCause := rfl
@[simp] theorem Job.modBuf_evict (j : Job) (n : Nat) (f : Buffer → Buffer) : (j.modBuf n f).evict = j.evict := rfl
@[simp] theorem Job.modBuf_lagLeft (j : Job) (n : Nat) (f : Buffer → Buffer) : (j.modBuf n f).lagLeft = j.lagLeft := rfl
@[simp] theorem Job.modBuf_stuckSince (j : Job) (n : Nat) (f : Buffer → Buffer) : (j.modBuf n f).stuckSince = j.stuckSince := rfl
@[simp] theorem Job.modBuf_updNf (j : Job) (n : Nat) (f : Buffer → Buffer) : (j.modBuf n f).updNf = j.updNf := rfl
@[simp] theorem Job.modBuf_updNf2 (j : Job) (n : Nat) (f : Buffer → Buffer) : (j.modBuf n f).updNf2 = j.updNf2 := rfl
@[simp] theorem Job.modBuf_updCommit (j : Job) (n : Nat) (f : Buffer → Buffer) : (j.modBuf n f).updCommit = j.updCommit := rfl
@[simp] theorem Job.modBuf_wdirty (j : Job) (n : Nat) (f : Buffer → Buffer) : (j.modBuf n f).wdirty = j.wdirty := rfl
@[simp] theorem Job.modBuf_updSel (j : Job) (n : Nat) (f : Buffer → Buffer) : (j.modBuf n f).updSel = j.updSel := rfl
@[simp] theorem Job.modBuf_updC (j : Job) (n : Nat) (f : Buffer → Buffer) : (j.modBuf n f).updC = j.updC := rfl
@[simp] theorem Job.modBuf_spotCnt (j : Job) (n : Nat) (f : Buffer → Buffer) : (j.modBuf n f).spotCnt = j.spotCnt := rfl
@[simp] theorem Job.modBuf_spotWait (j : Job) (n : Nat) (f : Buffer → Buffer) : (j.modBuf n f).spotWait = j.spotWait := rfl
@[simp] theorem Job.modBuf_spotThird (j : Job) (n : Nat) (f : Buffer → Buffer) : (j.modBuf n f).spotThird = j.spotThird := rfl
@[simp] theorem Job.modBuf_subArea (j : Job) (n : Nat) (f : Buffer → Buffer) : (j.modBuf n f).subArea = j.subArea := rfl
@[simp] theorem Job.modBuf_rings (j : Job) (n : Nat) (f : Buffer → Buffer) : (j.modBuf n f).rings = j.rings := rfl
@[simp] theorem Job.modBuf_reqs (j : Job) (n : Nat) (f : Buffer → Buffer) : (j.modBuf n f).reqs = j.reqs := rfl
@[simp] theorem Job.modBuf_plans (j : Job) (n : Nat) (f : Buffer → Buffer) : (j.modBuf n f).plans = j.plans := rfl
@[simp] theorem Job.modBuf_xfers (j : Job) (n : Nat) (f : Buffer → Buffer) : (j.modBuf n f).xfers = j.xfers := rfl
@[simp] theorem Job.modBuf_norms (j : Job) (n : Nat) (f : Buffer → Buffer) : (j.modBuf n f).norms = j.norms := rfl
@[simp] theorem Job.modBuf_recov (j : Job) (n : Nat) (f : Buffer → Buffer) : (j.modBuf n f).recov = j.recov := rfl
@[simp] theorem Job.modBuf_ranks0 (j : Job) (n : Nat) (f : Buffer → Buffer) : (j.modBuf n f).ranks0 = j.ranks0 := rfl
@[simp] theorem Job.modBuf_shareRegs (j : Job) (n : Nat) (f : Buffer → Buffer) : (j.modBuf n f).shareRegs = j.shareRegs := rfl
@[simp] theorem Job.dropBuf_state (j : Job) (n : Nat) : (j.dropBuf n).state = j.state := rfl
@[simp] theorem Job.dropBuf_jobid (j : Job) (n : Nat) : (j.dropBuf n).jobid = j.jobid := rfl
@[simp] theorem Job.dropBuf_seed (j : Job) (n : Nat) : (j.dropBuf n).seed = j.seed := rfl
@[simp] theorem Job.dropBuf_epoch (j : Job) (n : Nat) : (j.dropBuf n).epoch = j.epoch := rfl
@[simp] theorem Job.dropBuf_inpages (j : Job) (n : Nat) : (j.dropBuf n).inpages = j.inpages := rfl
@[simp] theorem Job.dropBuf_feature (j : Job) (n : Nat) : (j.dropBuf n).feature = j.feature := rfl
@[simp] theorem Job.dropBuf_a2 (j : Job) (n : Nat) : (j.dropBuf n).a2 = j.a2 := rfl
@[simp] theorem Job.dropBuf_code (j : Job) (n : Nat) : (j.dropBuf n).code = j.code := rfl
@[simp] theorem Job.dropBuf_entries (j : Job) (n : Nat) : (j.dropBuf n).entries = j.entries := rfl
@[simp] theorem Job.dropBuf_input (j : Job) (n : Nat) : (j.dropBuf n).input = j.input := rfl
@[simp] theorem Job.dropBuf_admission (j : Job) (n : Nat) : (j.dropBuf n).admission = j.admission := rfl
@[simp] theorem Job.dropBuf_ends (j : Job) (n : Nat) : (j.dropBuf n).ends = j.ends := rfl
@[simp] theorem Job.dropBuf_draining (j : Job) (n : Nat) : (j.dropBuf n).draining = j.draining := rfl
@[simp] theorem Job.dropBuf_ctxs (j : Job) (n : Nat) : (j.dropBuf n).ctxs = j.ctxs := rfl
@[simp] theorem Job.dropBuf_dead (j : Job) (n : Nat) : (j.dropBuf n).dead = j.dead := rfl
@[simp] theorem Job.dropBuf_nextBuf (j : Job) (n : Nat) : (j.dropBuf n).nextBuf = j.nextBuf := rfl
@[simp] theorem Job.dropBuf_nextUid (j : Job) (n : Nat) : (j.dropBuf n).nextUid = j.nextUid := rfl
@[simp] theorem Job.dropBuf_tiles (j : Job) (n : Nat) : (j.dropBuf n).tiles = j.tiles := rfl
@[simp] theorem Job.dropBuf_fins (j : Job) (n : Nat) : (j.dropBuf n).fins = j.fins := rfl
@[simp] theorem Job.dropBuf_stay (j : Job) (n : Nat) : (j.dropBuf n).stay = j.stay := rfl
@[simp] theorem Job.dropBuf_potQ (j : Job) (n : Nat) : (j.dropBuf n).potQ = j.potQ := rfl
@[simp] theorem Job.dropBuf_roomQ (j : Job) (n : Nat) : (j.dropBuf n).roomQ = j.roomQ := rfl
@[simp] theorem Job.dropBuf_stageQ (j : Job) (n : Nat) : (j.dropBuf n).stageQ = j.stageQ := rfl
@[simp] theorem Job.dropBuf_staged (j : Job) (n : Nat) : (j.dropBuf n).staged = j.staged := rfl
@[simp] theorem Job.dropBuf_toks (j : Job) (n : Nat) : (j.dropBuf n).toks = j.toks := rfl
@[simp] theorem Job.dropBuf_buckets (j : Job) (n : Nat) : (j.dropBuf n).buckets = j.buckets := rfl
@[simp] theorem Job.dropBuf_fixed (j : Job) (n : Nat) : (j.dropBuf n).fixed = j.fixed := rfl
@[simp] theorem Job.dropBuf_t0 (j : Job) (n : Nat) : (j.dropBuf n).t0 = j.t0 := rfl
@[simp] theorem Job.dropBuf_t1 (j : Job) (n : Nat) : (j.dropBuf n).t1 = j.t1 := rfl
@[simp] theorem Job.dropBuf_halt (j : Job) (n : Nat) : (j.dropBuf n).halt = j.halt := rfl
@[simp] theorem Job.dropBuf_haltCause (j : Job) (n : Nat) : (j.dropBuf n).haltCause = j.haltCause := rfl
@[simp] theorem Job.dropBuf_evict (j : Job) (n : Nat) : (j.dropBuf n).evict = j.evict := rfl
@[simp] theorem Job.dropBuf_lagLeft (j : Job) (n : Nat) : (j.dropBuf n).lagLeft = j.lagLeft := rfl
@[simp] theorem Job.dropBuf_stuckSince (j : Job) (n : Nat) : (j.dropBuf n).stuckSince = j.stuckSince := rfl
@[simp] theorem Job.dropBuf_updNf (j : Job) (n : Nat) : (j.dropBuf n).updNf = j.updNf := rfl
@[simp] theorem Job.dropBuf_updNf2 (j : Job) (n : Nat) : (j.dropBuf n).updNf2 = j.updNf2 := rfl
@[simp] theorem Job.dropBuf_updCommit (j : Job) (n : Nat) : (j.dropBuf n).updCommit = j.updCommit := rfl
@[simp] theorem Job.dropBuf_wdirty (j : Job) (n : Nat) : (j.dropBuf n).wdirty = j.wdirty := rfl
@[simp] theorem Job.dropBuf_updSel (j : Job) (n : Nat) : (j.dropBuf n).updSel = j.updSel := rfl
@[simp] theorem Job.dropBuf_updC (j : Job) (n : Nat) : (j.dropBuf n).updC = j.updC := rfl
@[simp] theorem Job.dropBuf_spotCnt (j : Job) (n : Nat) : (j.dropBuf n).spotCnt = j.spotCnt := rfl
@[simp] theorem Job.dropBuf_spotWait (j : Job) (n : Nat) : (j.dropBuf n).spotWait = j.spotWait := rfl
@[simp] theorem Job.dropBuf_spotThird (j : Job) (n : Nat) : (j.dropBuf n).spotThird = j.spotThird := rfl
@[simp] theorem Job.dropBuf_subArea (j : Job) (n : Nat) : (j.dropBuf n).subArea = j.subArea := rfl
@[simp] theorem Job.dropBuf_rings (j : Job) (n : Nat) : (j.dropBuf n).rings = j.rings := rfl
@[simp] theorem Job.dropBuf_reqs (j : Job) (n : Nat) : (j.dropBuf n).reqs = j.reqs := rfl
@[simp] theorem Job.dropBuf_plans (j : Job) (n : Nat) : (j.dropBuf n).plans = j.plans := rfl
@[simp] theorem Job.dropBuf_xfers (j : Job) (n : Nat) : (j.dropBuf n).xfers = j.xfers := rfl
@[simp] theorem Job.dropBuf_norms (j : Job) (n : Nat) : (j.dropBuf n).norms = j.norms := rfl
@[simp] theorem Job.dropBuf_recov (j : Job) (n : Nat) : (j.dropBuf n).recov = j.recov := rfl
@[simp] theorem Job.dropBuf_ranks0 (j : Job) (n : Nat) : (j.dropBuf n).ranks0 = j.ranks0 := rfl
@[simp] theorem Job.dropBuf_shareRegs (j : Job) (n : Nat) : (j.dropBuf n).shareRegs = j.shareRegs := rfl
@[simp] theorem Job.touch_state (j : Job) (l : List Nat) (n : Nat) : (j.touch l n).state = j.state := rfl
@[simp] theorem Job.touch_jobid (j : Job) (l : List Nat) (n : Nat) : (j.touch l n).jobid = j.jobid := rfl
@[simp] theorem Job.touch_seed (j : Job) (l : List Nat) (n : Nat) : (j.touch l n).seed = j.seed := rfl
@[simp] theorem Job.touch_epoch (j : Job) (l : List Nat) (n : Nat) : (j.touch l n).epoch = j.epoch := rfl
@[simp] theorem Job.touch_inpages (j : Job) (l : List Nat) (n : Nat) : (j.touch l n).inpages = j.inpages := rfl
@[simp] theorem Job.touch_feature (j : Job) (l : List Nat) (n : Nat) : (j.touch l n).feature = j.feature := rfl
@[simp] theorem Job.touch_a2 (j : Job) (l : List Nat) (n : Nat) : (j.touch l n).a2 = j.a2 := rfl
@[simp] theorem Job.touch_code (j : Job) (l : List Nat) (n : Nat) : (j.touch l n).code = j.code := rfl
@[simp] theorem Job.touch_entries (j : Job) (l : List Nat) (n : Nat) : (j.touch l n).entries = j.entries := rfl
@[simp] theorem Job.touch_input (j : Job) (l : List Nat) (n : Nat) : (j.touch l n).input = j.input := rfl
@[simp] theorem Job.touch_admission (j : Job) (l : List Nat) (n : Nat) : (j.touch l n).admission = j.admission := rfl
@[simp] theorem Job.touch_ends (j : Job) (l : List Nat) (n : Nat) : (j.touch l n).ends = j.ends := rfl
@[simp] theorem Job.touch_draining (j : Job) (l : List Nat) (n : Nat) : (j.touch l n).draining = j.draining := rfl
@[simp] theorem Job.touch_ctxs (j : Job) (l : List Nat) (n : Nat) : (j.touch l n).ctxs = j.ctxs := rfl
@[simp] theorem Job.touch_dead (j : Job) (l : List Nat) (n : Nat) : (j.touch l n).dead = j.dead := rfl
@[simp] theorem Job.touch_nextBuf (j : Job) (l : List Nat) (n : Nat) : (j.touch l n).nextBuf = j.nextBuf := rfl
@[simp] theorem Job.touch_nextUid (j : Job) (l : List Nat) (n : Nat) : (j.touch l n).nextUid = j.nextUid := rfl
@[simp] theorem Job.touch_tiles (j : Job) (l : List Nat) (n : Nat) : (j.touch l n).tiles = j.tiles := rfl
@[simp] theorem Job.touch_fins (j : Job) (l : List Nat) (n : Nat) : (j.touch l n).fins = j.fins := rfl
@[simp] theorem Job.touch_stay (j : Job) (l : List Nat) (n : Nat) : (j.touch l n).stay = j.stay := rfl
@[simp] theorem Job.touch_potQ (j : Job) (l : List Nat) (n : Nat) : (j.touch l n).potQ = j.potQ := rfl
@[simp] theorem Job.touch_roomQ (j : Job) (l : List Nat) (n : Nat) : (j.touch l n).roomQ = j.roomQ := rfl
@[simp] theorem Job.touch_stageQ (j : Job) (l : List Nat) (n : Nat) : (j.touch l n).stageQ = j.stageQ := rfl
@[simp] theorem Job.touch_staged (j : Job) (l : List Nat) (n : Nat) : (j.touch l n).staged = j.staged := rfl
@[simp] theorem Job.touch_toks (j : Job) (l : List Nat) (n : Nat) : (j.touch l n).toks = j.toks := rfl
@[simp] theorem Job.touch_buckets (j : Job) (l : List Nat) (n : Nat) : (j.touch l n).buckets = j.buckets := rfl
@[simp] theorem Job.touch_fixed (j : Job) (l : List Nat) (n : Nat) : (j.touch l n).fixed = j.fixed := rfl
@[simp] theorem Job.touch_t0 (j : Job) (l : List Nat) (n : Nat) : (j.touch l n).t0 = j.t0 := rfl
@[simp] theorem Job.touch_t1 (j : Job) (l : List Nat) (n : Nat) : (j.touch l n).t1 = j.t1 := rfl
@[simp] theorem Job.touch_halt (j : Job) (l : List Nat) (n : Nat) : (j.touch l n).halt = j.halt := rfl
@[simp] theorem Job.touch_haltCause (j : Job) (l : List Nat) (n : Nat) : (j.touch l n).haltCause = j.haltCause := rfl
@[simp] theorem Job.touch_evict (j : Job) (l : List Nat) (n : Nat) : (j.touch l n).evict = j.evict := rfl
@[simp] theorem Job.touch_lagLeft (j : Job) (l : List Nat) (n : Nat) : (j.touch l n).lagLeft = j.lagLeft := rfl
@[simp] theorem Job.touch_stuckSince (j : Job) (l : List Nat) (n : Nat) : (j.touch l n).stuckSince = j.stuckSince := rfl
@[simp] theorem Job.touch_updNf (j : Job) (l : List Nat) (n : Nat) : (j.touch l n).updNf = j.updNf := rfl
@[simp] theorem Job.touch_updNf2 (j : Job) (l : List Nat) (n : Nat) : (j.touch l n).updNf2 = j.updNf2 := rfl
@[simp] theorem Job.touch_updCommit (j : Job) (l : List Nat) (n : Nat) : (j.touch l n).updCommit = j.updCommit := rfl
@[simp] theorem Job.touch_wdirty (j : Job) (l : List Nat) (n : Nat) : (j.touch l n).wdirty = j.wdirty := rfl
@[simp] theorem Job.touch_updSel (j : Job) (l : List Nat) (n : Nat) : (j.touch l n).updSel = j.updSel := rfl
@[simp] theorem Job.touch_updC (j : Job) (l : List Nat) (n : Nat) : (j.touch l n).updC = j.updC := rfl
@[simp] theorem Job.touch_spotCnt (j : Job) (l : List Nat) (n : Nat) : (j.touch l n).spotCnt = j.spotCnt := rfl
@[simp] theorem Job.touch_spotWait (j : Job) (l : List Nat) (n : Nat) : (j.touch l n).spotWait = j.spotWait := rfl
@[simp] theorem Job.touch_spotThird (j : Job) (l : List Nat) (n : Nat) : (j.touch l n).spotThird = j.spotThird := rfl
@[simp] theorem Job.touch_subArea (j : Job) (l : List Nat) (n : Nat) : (j.touch l n).subArea = j.subArea := rfl
@[simp] theorem Job.touch_rings (j : Job) (l : List Nat) (n : Nat) : (j.touch l n).rings = j.rings := rfl
@[simp] theorem Job.touch_reqs (j : Job) (l : List Nat) (n : Nat) : (j.touch l n).reqs = j.reqs := rfl
@[simp] theorem Job.touch_plans (j : Job) (l : List Nat) (n : Nat) : (j.touch l n).plans = j.plans := rfl
@[simp] theorem Job.touch_xfers (j : Job) (l : List Nat) (n : Nat) : (j.touch l n).xfers = j.xfers := rfl
@[simp] theorem Job.touch_norms (j : Job) (l : List Nat) (n : Nat) : (j.touch l n).norms = j.norms := rfl
@[simp] theorem Job.touch_recov (j : Job) (l : List Nat) (n : Nat) : (j.touch l n).recov = j.recov := rfl
@[simp] theorem Job.touch_ranks0 (j : Job) (l : List Nat) (n : Nat) : (j.touch l n).ranks0 = j.ranks0 := rfl
@[simp] theorem Job.touch_shareRegs (j : Job) (l : List Nat) (n : Nat) : (j.touch l n).shareRegs = j.shareRegs := rfl
@[simp] theorem Job.modCtx_state (j : Job) (c : CtxId) (f : Ctx → Ctx) : (j.modCtx c f).state = j.state := by
  unfold Job.modCtx; split <;> rfl
@[simp] theorem Job.modCtx_jobid (j : Job) (c : CtxId) (f : Ctx → Ctx) : (j.modCtx c f).jobid = j.jobid := by
  unfold Job.modCtx; split <;> rfl
@[simp] theorem Job.modCtx_seed (j : Job) (c : CtxId) (f : Ctx → Ctx) : (j.modCtx c f).seed = j.seed := by
  unfold Job.modCtx; split <;> rfl
@[simp] theorem Job.modCtx_epoch (j : Job) (c : CtxId) (f : Ctx → Ctx) : (j.modCtx c f).epoch = j.epoch := by
  unfold Job.modCtx; split <;> rfl
@[simp] theorem Job.modCtx_inpages (j : Job) (c : CtxId) (f : Ctx → Ctx) : (j.modCtx c f).inpages = j.inpages := by
  unfold Job.modCtx; split <;> rfl
@[simp] theorem Job.modCtx_feature (j : Job) (c : CtxId) (f : Ctx → Ctx) : (j.modCtx c f).feature = j.feature := by
  unfold Job.modCtx; split <;> rfl
@[simp] theorem Job.modCtx_a2 (j : Job) (c : CtxId) (f : Ctx → Ctx) : (j.modCtx c f).a2 = j.a2 := by
  unfold Job.modCtx; split <;> rfl
@[simp] theorem Job.modCtx_code (j : Job) (c : CtxId) (f : Ctx → Ctx) : (j.modCtx c f).code = j.code := by
  unfold Job.modCtx; split <;> rfl
@[simp] theorem Job.modCtx_entries (j : Job) (c : CtxId) (f : Ctx → Ctx) : (j.modCtx c f).entries = j.entries := by
  unfold Job.modCtx; split <;> rfl
@[simp] theorem Job.modCtx_input (j : Job) (c : CtxId) (f : Ctx → Ctx) : (j.modCtx c f).input = j.input := by
  unfold Job.modCtx; split <;> rfl
@[simp] theorem Job.modCtx_admission (j : Job) (c : CtxId) (f : Ctx → Ctx) : (j.modCtx c f).admission = j.admission := by
  unfold Job.modCtx; split <;> rfl
@[simp] theorem Job.modCtx_ends (j : Job) (c : CtxId) (f : Ctx → Ctx) : (j.modCtx c f).ends = j.ends := by
  unfold Job.modCtx; split <;> rfl
@[simp] theorem Job.modCtx_draining (j : Job) (c : CtxId) (f : Ctx → Ctx) : (j.modCtx c f).draining = j.draining := by
  unfold Job.modCtx; split <;> rfl
@[simp] theorem Job.modCtx_dead (j : Job) (c : CtxId) (f : Ctx → Ctx) : (j.modCtx c f).dead = j.dead := by
  unfold Job.modCtx; split <;> rfl
@[simp] theorem Job.modCtx_bufs (j : Job) (c : CtxId) (f : Ctx → Ctx) : (j.modCtx c f).bufs = j.bufs := by
  unfold Job.modCtx; split <;> rfl
@[simp] theorem Job.modCtx_nextBuf (j : Job) (c : CtxId) (f : Ctx → Ctx) : (j.modCtx c f).nextBuf = j.nextBuf := by
  unfold Job.modCtx; split <;> rfl
@[simp] theorem Job.modCtx_nextUid (j : Job) (c : CtxId) (f : Ctx → Ctx) : (j.modCtx c f).nextUid = j.nextUid := by
  unfold Job.modCtx; split <;> rfl
@[simp] theorem Job.modCtx_tiles (j : Job) (c : CtxId) (f : Ctx → Ctx) : (j.modCtx c f).tiles = j.tiles := by
  unfold Job.modCtx; split <;> rfl
@[simp] theorem Job.modCtx_fins (j : Job) (c : CtxId) (f : Ctx → Ctx) : (j.modCtx c f).fins = j.fins := by
  unfold Job.modCtx; split <;> rfl
@[simp] theorem Job.modCtx_stay (j : Job) (c : CtxId) (f : Ctx → Ctx) : (j.modCtx c f).stay = j.stay := by
  unfold Job.modCtx; split <;> rfl
@[simp] theorem Job.modCtx_potQ (j : Job) (c : CtxId) (f : Ctx → Ctx) : (j.modCtx c f).potQ = j.potQ := by
  unfold Job.modCtx; split <;> rfl
@[simp] theorem Job.modCtx_roomQ (j : Job) (c : CtxId) (f : Ctx → Ctx) : (j.modCtx c f).roomQ = j.roomQ := by
  unfold Job.modCtx; split <;> rfl
@[simp] theorem Job.modCtx_stageQ (j : Job) (c : CtxId) (f : Ctx → Ctx) : (j.modCtx c f).stageQ = j.stageQ := by
  unfold Job.modCtx; split <;> rfl
@[simp] theorem Job.modCtx_staged (j : Job) (c : CtxId) (f : Ctx → Ctx) : (j.modCtx c f).staged = j.staged := by
  unfold Job.modCtx; split <;> rfl
@[simp] theorem Job.modCtx_toks (j : Job) (c : CtxId) (f : Ctx → Ctx) : (j.modCtx c f).toks = j.toks := by
  unfold Job.modCtx; split <;> rfl
@[simp] theorem Job.modCtx_buckets (j : Job) (c : CtxId) (f : Ctx → Ctx) : (j.modCtx c f).buckets = j.buckets := by
  unfold Job.modCtx; split <;> rfl
@[simp] theorem Job.modCtx_fixed (j : Job) (c : CtxId) (f : Ctx → Ctx) : (j.modCtx c f).fixed = j.fixed := by
  unfold Job.modCtx; split <;> rfl
@[simp] theorem Job.modCtx_t0 (j : Job) (c : CtxId) (f : Ctx → Ctx) : (j.modCtx c f).t0 = j.t0 := by
  unfold Job.modCtx; split <;> rfl
@[simp] theorem Job.modCtx_t1 (j : Job) (c : CtxId) (f : Ctx → Ctx) : (j.modCtx c f).t1 = j.t1 := by
  unfold Job.modCtx; split <;> rfl
@[simp] theorem Job.modCtx_halt (j : Job) (c : CtxId) (f : Ctx → Ctx) : (j.modCtx c f).halt = j.halt := by
  unfold Job.modCtx; split <;> rfl
@[simp] theorem Job.modCtx_haltCause (j : Job) (c : CtxId) (f : Ctx → Ctx) : (j.modCtx c f).haltCause = j.haltCause := by
  unfold Job.modCtx; split <;> rfl
@[simp] theorem Job.modCtx_evict (j : Job) (c : CtxId) (f : Ctx → Ctx) : (j.modCtx c f).evict = j.evict := by
  unfold Job.modCtx; split <;> rfl
@[simp] theorem Job.modCtx_lagLeft (j : Job) (c : CtxId) (f : Ctx → Ctx) : (j.modCtx c f).lagLeft = j.lagLeft := by
  unfold Job.modCtx; split <;> rfl
@[simp] theorem Job.modCtx_stuckSince (j : Job) (c : CtxId) (f : Ctx → Ctx) : (j.modCtx c f).stuckSince = j.stuckSince := by
  unfold Job.modCtx; split <;> rfl
@[simp] theorem Job.modCtx_updNf (j : Job) (c : CtxId) (f : Ctx → Ctx) : (j.modCtx c f).updNf = j.updNf := by
  unfold Job.modCtx; split <;> rfl
@[simp] theorem Job.modCtx_updNf2 (j : Job) (c : CtxId) (f : Ctx → Ctx) : (j.modCtx c f).updNf2 = j.updNf2 := by
  unfold Job.modCtx; split <;> rfl
@[simp] theorem Job.modCtx_updCommit (j : Job) (c : CtxId) (f : Ctx → Ctx) : (j.modCtx c f).updCommit = j.updCommit := by
  unfold Job.modCtx; split <;> rfl
@[simp] theorem Job.modCtx_wdirty (j : Job) (c : CtxId) (f : Ctx → Ctx) : (j.modCtx c f).wdirty = j.wdirty := by
  unfold Job.modCtx; split <;> rfl
@[simp] theorem Job.modCtx_updSel (j : Job) (c : CtxId) (f : Ctx → Ctx) : (j.modCtx c f).updSel = j.updSel := by
  unfold Job.modCtx; split <;> rfl
@[simp] theorem Job.modCtx_updC (j : Job) (c : CtxId) (f : Ctx → Ctx) : (j.modCtx c f).updC = j.updC := by
  unfold Job.modCtx; split <;> rfl
@[simp] theorem Job.modCtx_spotCnt (j : Job) (c : CtxId) (f : Ctx → Ctx) : (j.modCtx c f).spotCnt = j.spotCnt := by
  unfold Job.modCtx; split <;> rfl
@[simp] theorem Job.modCtx_spotWait (j : Job) (c : CtxId) (f : Ctx → Ctx) : (j.modCtx c f).spotWait = j.spotWait := by
  unfold Job.modCtx; split <;> rfl
@[simp] theorem Job.modCtx_spotThird (j : Job) (c : CtxId) (f : Ctx → Ctx) : (j.modCtx c f).spotThird = j.spotThird := by
  unfold Job.modCtx; split <;> rfl
@[simp] theorem Job.modCtx_subArea (j : Job) (c : CtxId) (f : Ctx → Ctx) : (j.modCtx c f).subArea = j.subArea := by
  unfold Job.modCtx; split <;> rfl
@[simp] theorem Job.modCtx_rings (j : Job) (c : CtxId) (f : Ctx → Ctx) : (j.modCtx c f).rings = j.rings := by
  unfold Job.modCtx; split <;> rfl
@[simp] theorem Job.modCtx_reqs (j : Job) (c : CtxId) (f : Ctx → Ctx) : (j.modCtx c f).reqs = j.reqs := by
  unfold Job.modCtx; split <;> rfl
@[simp] theorem Job.modCtx_plans (j : Job) (c : CtxId) (f : Ctx → Ctx) : (j.modCtx c f).plans = j.plans := by
  unfold Job.modCtx; split <;> rfl
@[simp] theorem Job.modCtx_xfers (j : Job) (c : CtxId) (f : Ctx → Ctx) : (j.modCtx c f).xfers = j.xfers := by
  unfold Job.modCtx; split <;> rfl
@[simp] theorem Job.modCtx_norms (j : Job) (c : CtxId) (f : Ctx → Ctx) : (j.modCtx c f).norms = j.norms := by
  unfold Job.modCtx; split <;> rfl
@[simp] theorem Job.modCtx_recov (j : Job) (c : CtxId) (f : Ctx → Ctx) : (j.modCtx c f).recov = j.recov := by
  unfold Job.modCtx; split <;> rfl
@[simp] theorem Job.modCtx_ranks0 (j : Job) (c : CtxId) (f : Ctx → Ctx) : (j.modCtx c f).ranks0 = j.ranks0 := by
  unfold Job.modCtx; split <;> rfl
@[simp] theorem Job.modCtx_shareRegs (j : Job) (c : CtxId) (f : Ctx → Ctx) : (j.modCtx c f).shareRegs = j.shareRegs := by
  unfold Job.modCtx; split <;> rfl
@[simp] theorem Arch.next_regs (a : Arch)  : (a.next).regs = a.regs := rfl
@[simp] theorem Arch.next_preds (a : Arch)  : (a.next).preds = a.preds := rfl
@[simp] theorem Arch.next_ctrs (a : Arch)  : (a.next).ctrs = a.ctrs := rfl
@[simp] theorem Arch.next_hnds (a : Arch)  : (a.next).hnds = a.hnds := rfl
@[simp] theorem Arch.next_cur (a : Arch)  : (a.next).cur = a.cur := rfl
@[simp] theorem Arch.next_pc (a : Arch) : a.next.pc = a.pc + 8 := rfl
@[simp] theorem Arch.setCtr_pc (a : Arch) (e : EReg) (k : Ctr) : (a.setCtr e k).pc = a.pc := rfl
@[simp] theorem Arch.setCtr_regs (a : Arch) (e : EReg) (k : Ctr) : (a.setCtr e k).regs = a.regs := rfl
@[simp] theorem Arch.setCtr_preds (a : Arch) (e : EReg) (k : Ctr) : (a.setCtr e k).preds = a.preds := rfl
@[simp] theorem Arch.setCtr_hnds (a : Arch) (e : EReg) (k : Ctr) : (a.setCtr e k).hnds = a.hnds := rfl
@[simp] theorem Arch.setCtr_cur (a : Arch) (e : EReg) (k : Ctr) : (a.setCtr e k).cur = a.cur := rfl
@[simp] theorem Arch.setHnd_pc (a : Arch) (h : HReg) (k : Option Hnd) : (a.setHnd h k).pc = a.pc := rfl
@[simp] theorem Arch.setHnd_regs (a : Arch) (h : HReg) (k : Option Hnd) : (a.setHnd h k).regs = a.regs := rfl
@[simp] theorem Arch.setHnd_preds (a : Arch) (h : HReg) (k : Option Hnd) : (a.setHnd h k).preds = a.preds := rfl
@[simp] theorem Arch.setHnd_ctrs (a : Arch) (h : HReg) (k : Option Hnd) : (a.setHnd h k).ctrs = a.ctrs := rfl
@[simp] theorem Arch.setHnd_cur (a : Arch) (h : HReg) (k : Option Hnd) : (a.setHnd h k).cur = a.cur := rfl
@[simp] theorem Arch.setReg_pc (a : Arch) (r : SReg) (v : Dword) : (a.setReg r v).pc = a.pc := by
  unfold Arch.setReg; split <;> rfl
@[simp] theorem Arch.setReg_preds (a : Arch) (r : SReg) (v : Dword) : (a.setReg r v).preds = a.preds := by
  unfold Arch.setReg; split <;> rfl
@[simp] theorem Arch.setReg_ctrs (a : Arch) (r : SReg) (v : Dword) : (a.setReg r v).ctrs = a.ctrs := by
  unfold Arch.setReg; split <;> rfl
@[simp] theorem Arch.setReg_hnds (a : Arch) (r : SReg) (v : Dword) : (a.setReg r v).hnds = a.hnds := by
  unfold Arch.setReg; split <;> rfl
@[simp] theorem Arch.setReg_cur (a : Arch) (r : SReg) (v : Dword) : (a.setReg r v).cur = a.cur := by
  unfold Arch.setReg; split <;> rfl
@[simp] theorem Arch.setPred_pc (a : Arch) (p : PReg) (v : Bool) : (a.setPred p v).pc = a.pc := by
  unfold Arch.setPred; split <;> rfl
@[simp] theorem Arch.setPred_regs (a : Arch) (p : PReg) (v : Bool) : (a.setPred p v).regs = a.regs := by
  unfold Arch.setPred; split <;> rfl
@[simp] theorem Arch.setPred_ctrs (a : Arch) (p : PReg) (v : Bool) : (a.setPred p v).ctrs = a.ctrs := by
  unfold Arch.setPred; split <;> rfl
@[simp] theorem Arch.setPred_hnds (a : Arch) (p : PReg) (v : Bool) : (a.setPred p v).hnds = a.hnds := by
  unfold Arch.setPred; split <;> rfl
@[simp] theorem Arch.setPred_cur (a : Arch) (p : PReg) (v : Bool) : (a.setPred p v).cur = a.cur := by
  unfold Arch.setPred; split <;> rfl
@[simp] theorem Ctx.setArch_sealedFl (x : Ctx) (a : Arch) : (x.setArch a).sealedFl = x.sealedFl := rfl
@[simp] theorem Ctx.setArch_flagTricks (x : Ctx) (a : Arch) : (x.setArch a).flagTricks = x.flagTricks := rfl
@[simp] theorem Ctx.setArch_tag (x : Ctx) (a : Arch) : (x.setArch a).tag = x.tag := rfl
@[simp] theorem Ctx.setArch_last (x : Ctx) (a : Arch) : (x.setArch a).last = x.last := rfl
@[simp] theorem Ctx.setArch_joined (x : Ctx) (a : Arch) : (x.setArch a).joined = x.joined := rfl
@[simp] theorem Ctx.setArch_prov (x : Ctx) (a : Arch) : (x.setArch a).prov = x.prov := rfl
@[simp] theorem Ctx.setArch_faulted (x : Ctx) (a : Arch) : (x.setArch a).faulted = x.faulted := rfl
@[simp] theorem Ctx.setArch_halted (x : Ctx) (a : Arch) : (x.setArch a).halted = x.halted := rfl
@[simp] theorem Ctx.setArch_qm (x : Ctx) (a : Arch) : (x.setArch a).qm = x.qm := rfl
@[simp] theorem Ctx.setArch_qv (x : Ctx) (a : Arch) : (x.setArch a).qv = x.qv := rfl
@[simp] theorem Ctx.setArch_qc (x : Ctx) (a : Arch) : (x.setArch a).qc = x.qc := rfl
@[simp] theorem Ctx.setArch_stall (x : Ctx) (a : Arch) : (x.setArch a).stall = x.stall := rfl
@[simp] theorem Ctx.setArch_blocked (x : Ctx) (a : Arch) : (x.setArch a).blocked = x.blocked := rfl
@[simp] theorem Ctx.setArch_since (x : Ctx) (a : Arch) : (x.setArch a).since = x.since := rfl
@[simp] theorem Ctx.setArch_resid (x : Ctx) (a : Arch) : (x.setArch a).resid = x.resid := rfl
@[simp] theorem Ctx.setArch_seat (x : Ctx) (a : Arch) : (x.setArch a).seat = x.seat := rfl
@[simp] theorem Ctx.setArch_rvt (x : Ctx) (a : Arch) : (x.setArch a).rvt = x.rvt := rfl
@[simp] theorem Ctx.setArch_passM (x : Ctx) (a : Arch) : (x.setArch a).passM = x.passM := rfl
@[simp] theorem Ctx.setArch_passV (x : Ctx) (a : Arch) : (x.setArch a).passV = x.passV := rfl
@[simp] theorem Ctx.setArch_passC (x : Ctx) (a : Arch) : (x.setArch a).passC = x.passC := rfl
@[simp] theorem Ctx.setArch_rdyM (x : Ctx) (a : Arch) : (x.setArch a).rdyM = x.rdyM := rfl
@[simp] theorem Ctx.setArch_rdyV (x : Ctx) (a : Arch) : (x.setArch a).rdyV = x.rdyV := rfl
@[simp] theorem Ctx.setArch_rdyC (x : Ctx) (a : Arch) : (x.setArch a).rdyC = x.rdyC := rfl
@[simp] theorem Ctx.setArch_shm (x : Ctx) (a : Arch) : (x.setArch a).shm = x.shm := rfl
@[simp] theorem Ctx.setArch_shv (x : Ctx) (a : Arch) : (x.setArch a).shv = x.shv := rfl
@[simp] theorem Ctx.setArch_shc (x : Ctx) (a : Arch) : (x.setArch a).shc = x.shc := rfl
@[simp] theorem Ctx.setArch_tile (x : Ctx) (a : Arch) : (x.setArch a).tile = x.tile := rfl
@[simp] theorem Ctx.setArch_lane (x : Ctx) (a : Arch) : (x.setArch a).lane = x.lane := rfl
@[simp] theorem Ctx.setArch_copy (x : Ctx) (a : Arch) : (x.setArch a).copy = x.copy := rfl
@[simp] theorem Ctx.setArch_cswaps (x : Ctx) (a : Arch) : (x.setArch a).cswaps = x.cswaps := rfl
@[simp] theorem Ctx.setArch_spill (x : Ctx) (a : Arch) : (x.setArch a).spill = x.spill := rfl
@[simp] theorem Ctx.setArch_spillTrick (x : Ctx) (a : Arch) : (x.setArch a).spillTrick = x.spillTrick := rfl
@[simp] theorem Ctx.setArch_aside (x : Ctx) (a : Arch) : (x.setArch a).aside = x.aside := rfl
@[simp] theorem Ctx.setArch_collK (x : Ctx) (a : Arch) : (x.setArch a).collK = x.collK := rfl
@[simp] theorem Ctx.setArch_arch (x : Ctx) (a : Arch) : (x.setArch a).arch = a := rfl
@[simp] theorem Ctx.mapEntries_arch (x : Ctx) (f : QE → QE) : (x.mapEntries f).arch = x.arch := rfl
@[simp] theorem Ctx.mapEntries_sealedFl (x : Ctx) (f : QE → QE) : (x.mapEntries f).sealedFl = x.sealedFl := rfl
@[simp] theorem Ctx.mapEntries_flagTricks (x : Ctx) (f : QE → QE) : (x.mapEntries f).flagTricks = x.flagTricks := rfl
@[simp] theorem Ctx.mapEntries_tag (x : Ctx) (f : QE → QE) : (x.mapEntries f).tag = x.tag := rfl
@[simp] theorem Ctx.mapEntries_last (x : Ctx) (f : QE → QE) : (x.mapEntries f).last = x.last := rfl
@[simp] theorem Ctx.mapEntries_joined (x : Ctx) (f : QE → QE) : (x.mapEntries f).joined = x.joined := rfl
@[simp] theorem Ctx.mapEntries_prov (x : Ctx) (f : QE → QE) : (x.mapEntries f).prov = x.prov := rfl
@[simp] theorem Ctx.mapEntries_faulted (x : Ctx) (f : QE → QE) : (x.mapEntries f).faulted = x.faulted := rfl
@[simp] theorem Ctx.mapEntries_halted (x : Ctx) (f : QE → QE) : (x.mapEntries f).halted = x.halted := rfl
@[simp] theorem Ctx.mapEntries_stall (x : Ctx) (f : QE → QE) : (x.mapEntries f).stall = x.stall := rfl
@[simp] theorem Ctx.mapEntries_blocked (x : Ctx) (f : QE → QE) : (x.mapEntries f).blocked = x.blocked := rfl
@[simp] theorem Ctx.mapEntries_since (x : Ctx) (f : QE → QE) : (x.mapEntries f).since = x.since := rfl
@[simp] theorem Ctx.mapEntries_resid (x : Ctx) (f : QE → QE) : (x.mapEntries f).resid = x.resid := rfl
@[simp] theorem Ctx.mapEntries_seat (x : Ctx) (f : QE → QE) : (x.mapEntries f).seat = x.seat := rfl
@[simp] theorem Ctx.mapEntries_rvt (x : Ctx) (f : QE → QE) : (x.mapEntries f).rvt = x.rvt := rfl
@[simp] theorem Ctx.mapEntries_passM (x : Ctx) (f : QE → QE) : (x.mapEntries f).passM = x.passM := rfl
@[simp] theorem Ctx.mapEntries_passV (x : Ctx) (f : QE → QE) : (x.mapEntries f).passV = x.passV := rfl
@[simp] theorem Ctx.mapEntries_passC (x : Ctx) (f : QE → QE) : (x.mapEntries f).passC = x.passC := rfl
@[simp] theorem Ctx.mapEntries_rdyM (x : Ctx) (f : QE → QE) : (x.mapEntries f).rdyM = x.rdyM := rfl
@[simp] theorem Ctx.mapEntries_rdyV (x : Ctx) (f : QE → QE) : (x.mapEntries f).rdyV = x.rdyV := rfl
@[simp] theorem Ctx.mapEntries_rdyC (x : Ctx) (f : QE → QE) : (x.mapEntries f).rdyC = x.rdyC := rfl
@[simp] theorem Ctx.mapEntries_shm (x : Ctx) (f : QE → QE) : (x.mapEntries f).shm = x.shm := rfl
@[simp] theorem Ctx.mapEntries_shv (x : Ctx) (f : QE → QE) : (x.mapEntries f).shv = x.shv := rfl
@[simp] theorem Ctx.mapEntries_shc (x : Ctx) (f : QE → QE) : (x.mapEntries f).shc = x.shc := rfl
@[simp] theorem Ctx.mapEntries_tile (x : Ctx) (f : QE → QE) : (x.mapEntries f).tile = x.tile := rfl
@[simp] theorem Ctx.mapEntries_lane (x : Ctx) (f : QE → QE) : (x.mapEntries f).lane = x.lane := rfl
@[simp] theorem Ctx.mapEntries_copy (x : Ctx) (f : QE → QE) : (x.mapEntries f).copy = x.copy := rfl
@[simp] theorem Ctx.mapEntries_cswaps (x : Ctx) (f : QE → QE) : (x.mapEntries f).cswaps = x.cswaps := rfl
@[simp] theorem Ctx.mapEntries_spill (x : Ctx) (f : QE → QE) : (x.mapEntries f).spill = x.spill := rfl
@[simp] theorem Ctx.mapEntries_spillTrick (x : Ctx) (f : QE → QE) : (x.mapEntries f).spillTrick = x.spillTrick := rfl
@[simp] theorem Ctx.mapEntries_aside (x : Ctx) (f : QE → QE) : (x.mapEntries f).aside = x.aside := rfl
@[simp] theorem Ctx.mapEntries_collK (x : Ctx) (f : QE → QE) : (x.mapEntries f).collK = x.collK := rfl
@[simp] theorem Ctx.filterEntries_arch (x : Ctx) (f : QE → Bool) : (x.filterEntries f).arch = x.arch := rfl
@[simp] theorem Ctx.filterEntries_sealedFl (x : Ctx) (f : QE → Bool) : (x.filterEntries f).sealedFl = x.sealedFl := rfl
@[simp] theorem Ctx.filterEntries_flagTricks (x : Ctx) (f : QE → Bool) : (x.filterEntries f).flagTricks = x.flagTricks := rfl
@[simp] theorem Ctx.filterEntries_tag (x : Ctx) (f : QE → Bool) : (x.filterEntries f).tag = x.tag := rfl
@[simp] theorem Ctx.filterEntries_last (x : Ctx) (f : QE → Bool) : (x.filterEntries f).last = x.last := rfl
@[simp] theorem Ctx.filterEntries_joined (x : Ctx) (f : QE → Bool) : (x.filterEntries f).joined = x.joined := rfl
@[simp] theorem Ctx.filterEntries_prov (x : Ctx) (f : QE → Bool) : (x.filterEntries f).prov = x.prov := rfl
@[simp] theorem Ctx.filterEntries_faulted (x : Ctx) (f : QE → Bool) : (x.filterEntries f).faulted = x.faulted := rfl
@[simp] theorem Ctx.filterEntries_halted (x : Ctx) (f : QE → Bool) : (x.filterEntries f).halted = x.halted := rfl
@[simp] theorem Ctx.filterEntries_stall (x : Ctx) (f : QE → Bool) : (x.filterEntries f).stall = x.stall := rfl
@[simp] theorem Ctx.filterEntries_blocked (x : Ctx) (f : QE → Bool) : (x.filterEntries f).blocked = x.blocked := rfl
@[simp] theorem Ctx.filterEntries_since (x : Ctx) (f : QE → Bool) : (x.filterEntries f).since = x.since := rfl
@[simp] theorem Ctx.filterEntries_resid (x : Ctx) (f : QE → Bool) : (x.filterEntries f).resid = x.resid := rfl
@[simp] theorem Ctx.filterEntries_seat (x : Ctx) (f : QE → Bool) : (x.filterEntries f).seat = x.seat := rfl
@[simp] theorem Ctx.filterEntries_rvt (x : Ctx) (f : QE → Bool) : (x.filterEntries f).rvt = x.rvt := rfl
@[simp] theorem Ctx.filterEntries_passM (x : Ctx) (f : QE → Bool) : (x.filterEntries f).passM = x.passM := rfl
@[simp] theorem Ctx.filterEntries_passV (x : Ctx) (f : QE → Bool) : (x.filterEntries f).passV = x.passV := rfl
@[simp] theorem Ctx.filterEntries_passC (x : Ctx) (f : QE → Bool) : (x.filterEntries f).passC = x.passC := rfl
@[simp] theorem Ctx.filterEntries_rdyM (x : Ctx) (f : QE → Bool) : (x.filterEntries f).rdyM = x.rdyM := rfl
@[simp] theorem Ctx.filterEntries_rdyV (x : Ctx) (f : QE → Bool) : (x.filterEntries f).rdyV = x.rdyV := rfl
@[simp] theorem Ctx.filterEntries_rdyC (x : Ctx) (f : QE → Bool) : (x.filterEntries f).rdyC = x.rdyC := rfl
@[simp] theorem Ctx.filterEntries_shm (x : Ctx) (f : QE → Bool) : (x.filterEntries f).shm = x.shm := rfl
@[simp] theorem Ctx.filterEntries_shv (x : Ctx) (f : QE → Bool) : (x.filterEntries f).shv = x.shv := rfl
@[simp] theorem Ctx.filterEntries_shc (x : Ctx) (f : QE → Bool) : (x.filterEntries f).shc = x.shc := rfl
@[simp] theorem Ctx.filterEntries_tile (x : Ctx) (f : QE → Bool) : (x.filterEntries f).tile = x.tile := rfl
@[simp] theorem Ctx.filterEntries_lane (x : Ctx) (f : QE → Bool) : (x.filterEntries f).lane = x.lane := rfl
@[simp] theorem Ctx.filterEntries_copy (x : Ctx) (f : QE → Bool) : (x.filterEntries f).copy = x.copy := rfl
@[simp] theorem Ctx.filterEntries_cswaps (x : Ctx) (f : QE → Bool) : (x.filterEntries f).cswaps = x.cswaps := rfl
@[simp] theorem Ctx.filterEntries_spill (x : Ctx) (f : QE → Bool) : (x.filterEntries f).spill = x.spill := rfl
@[simp] theorem Ctx.filterEntries_spillTrick (x : Ctx) (f : QE → Bool) : (x.filterEntries f).spillTrick = x.spillTrick := rfl
@[simp] theorem Ctx.filterEntries_aside (x : Ctx) (f : QE → Bool) : (x.filterEntries f).aside = x.aside := rfl
@[simp] theorem Ctx.filterEntries_collK (x : Ctx) (f : QE → Bool) : (x.filterEntries f).collK = x.collK := rfl
@[simp] theorem Ctx.setQueue_arch (x : Ctx) (k : EngKind) (q : List QE) : (x.setQueue k q).arch = x.arch := by
  cases k <;> rfl
@[simp] theorem Ctx.setQueue_sealedFl (x : Ctx) (k : EngKind) (q : List QE) : (x.setQueue k q).sealedFl = x.sealedFl := by
  cases k <;> rfl
@[simp] theorem Ctx.setQueue_flagTricks (x : Ctx) (k : EngKind) (q : List QE) : (x.setQueue k q).flagTricks = x.flagTricks := by
  cases k <;> rfl
@[simp] theorem Ctx.setQueue_tag (x : Ctx) (k : EngKind) (q : List QE) : (x.setQueue k q).tag = x.tag := by
  cases k <;> rfl
@[simp] theorem Ctx.setQueue_last (x : Ctx) (k : EngKind) (q : List QE) : (x.setQueue k q).last = x.last := by
  cases k <;> rfl
@[simp] theorem Ctx.setQueue_joined (x : Ctx) (k : EngKind) (q : List QE) : (x.setQueue k q).joined = x.joined := by
  cases k <;> rfl
@[simp] theorem Ctx.setQueue_prov (x : Ctx) (k : EngKind) (q : List QE) : (x.setQueue k q).prov = x.prov := by
  cases k <;> rfl
@[simp] theorem Ctx.setQueue_faulted (x : Ctx) (k : EngKind) (q : List QE) : (x.setQueue k q).faulted = x.faulted := by
  cases k <;> rfl
@[simp] theorem Ctx.setQueue_halted (x : Ctx) (k : EngKind) (q : List QE) : (x.setQueue k q).halted = x.halted := by
  cases k <;> rfl
@[simp] theorem Ctx.setQueue_stall (x : Ctx) (k : EngKind) (q : List QE) : (x.setQueue k q).stall = x.stall := by
  cases k <;> rfl
@[simp] theorem Ctx.setQueue_blocked (x : Ctx) (k : EngKind) (q : List QE) : (x.setQueue k q).blocked = x.blocked := by
  cases k <;> rfl
@[simp] theorem Ctx.setQueue_since (x : Ctx) (k : EngKind) (q : List QE) : (x.setQueue k q).since = x.since := by
  cases k <;> rfl
@[simp] theorem Ctx.setQueue_resid (x : Ctx) (k : EngKind) (q : List QE) : (x.setQueue k q).resid = x.resid := by
  cases k <;> rfl
@[simp] theorem Ctx.setQueue_seat (x : Ctx) (k : EngKind) (q : List QE) : (x.setQueue k q).seat = x.seat := by
  cases k <;> rfl
@[simp] theorem Ctx.setQueue_rvt (x : Ctx) (k : EngKind) (q : List QE) : (x.setQueue k q).rvt = x.rvt := by
  cases k <;> rfl
@[simp] theorem Ctx.setQueue_passM (x : Ctx) (k : EngKind) (q : List QE) : (x.setQueue k q).passM = x.passM := by
  cases k <;> rfl
@[simp] theorem Ctx.setQueue_passV (x : Ctx) (k : EngKind) (q : List QE) : (x.setQueue k q).passV = x.passV := by
  cases k <;> rfl
@[simp] theorem Ctx.setQueue_passC (x : Ctx) (k : EngKind) (q : List QE) : (x.setQueue k q).passC = x.passC := by
  cases k <;> rfl
@[simp] theorem Ctx.setQueue_rdyM (x : Ctx) (k : EngKind) (q : List QE) : (x.setQueue k q).rdyM = x.rdyM := by
  cases k <;> rfl
@[simp] theorem Ctx.setQueue_rdyV (x : Ctx) (k : EngKind) (q : List QE) : (x.setQueue k q).rdyV = x.rdyV := by
  cases k <;> rfl
@[simp] theorem Ctx.setQueue_rdyC (x : Ctx) (k : EngKind) (q : List QE) : (x.setQueue k q).rdyC = x.rdyC := by
  cases k <;> rfl
@[simp] theorem Ctx.setQueue_shm (x : Ctx) (k : EngKind) (q : List QE) : (x.setQueue k q).shm = x.shm := by
  cases k <;> rfl
@[simp] theorem Ctx.setQueue_shv (x : Ctx) (k : EngKind) (q : List QE) : (x.setQueue k q).shv = x.shv := by
  cases k <;> rfl
@[simp] theorem Ctx.setQueue_shc (x : Ctx) (k : EngKind) (q : List QE) : (x.setQueue k q).shc = x.shc := by
  cases k <;> rfl
@[simp] theorem Ctx.setQueue_tile (x : Ctx) (k : EngKind) (q : List QE) : (x.setQueue k q).tile = x.tile := by
  cases k <;> rfl
@[simp] theorem Ctx.setQueue_lane (x : Ctx) (k : EngKind) (q : List QE) : (x.setQueue k q).lane = x.lane := by
  cases k <;> rfl
@[simp] theorem Ctx.setQueue_copy (x : Ctx) (k : EngKind) (q : List QE) : (x.setQueue k q).copy = x.copy := by
  cases k <;> rfl
@[simp] theorem Ctx.setQueue_cswaps (x : Ctx) (k : EngKind) (q : List QE) : (x.setQueue k q).cswaps = x.cswaps := by
  cases k <;> rfl
@[simp] theorem Ctx.setQueue_spill (x : Ctx) (k : EngKind) (q : List QE) : (x.setQueue k q).spill = x.spill := by
  cases k <;> rfl
@[simp] theorem Ctx.setQueue_spillTrick (x : Ctx) (k : EngKind) (q : List QE) : (x.setQueue k q).spillTrick = x.spillTrick := by
  cases k <;> rfl
@[simp] theorem Ctx.setQueue_aside (x : Ctx) (k : EngKind) (q : List QE) : (x.setQueue k q).aside = x.aside := by
  cases k <;> rfl
@[simp] theorem Ctx.setQueue_collK (x : Ctx) (k : EngKind) (q : List QE) : (x.setQueue k q).collK = x.collK := by
  cases k <;> rfl
@[simp] theorem Ctx.setPass_arch (x : Ctx) (k : EngKind) (v : Dword) : (x.setPass k v).arch = x.arch := by
  cases k <;> rfl
@[simp] theorem Ctx.setPass_sealedFl (x : Ctx) (k : EngKind) (v : Dword) : (x.setPass k v).sealedFl = x.sealedFl := by
  cases k <;> rfl
@[simp] theorem Ctx.setPass_flagTricks (x : Ctx) (k : EngKind) (v : Dword) : (x.setPass k v).flagTricks = x.flagTricks := by
  cases k <;> rfl
@[simp] theorem Ctx.setPass_tag (x : Ctx) (k : EngKind) (v : Dword) : (x.setPass k v).tag = x.tag := by
  cases k <;> rfl
@[simp] theorem Ctx.setPass_last (x : Ctx) (k : EngKind) (v : Dword) : (x.setPass k v).last = x.last := by
  cases k <;> rfl
@[simp] theorem Ctx.setPass_joined (x : Ctx) (k : EngKind) (v : Dword) : (x.setPass k v).joined = x.joined := by
  cases k <;> rfl
@[simp] theorem Ctx.setPass_prov (x : Ctx) (k : EngKind) (v : Dword) : (x.setPass k v).prov = x.prov := by
  cases k <;> rfl
@[simp] theorem Ctx.setPass_faulted (x : Ctx) (k : EngKind) (v : Dword) : (x.setPass k v).faulted = x.faulted := by
  cases k <;> rfl
@[simp] theorem Ctx.setPass_halted (x : Ctx) (k : EngKind) (v : Dword) : (x.setPass k v).halted = x.halted := by
  cases k <;> rfl
@[simp] theorem Ctx.setPass_qm (x : Ctx) (k : EngKind) (v : Dword) : (x.setPass k v).qm = x.qm := by
  cases k <;> rfl
@[simp] theorem Ctx.setPass_qv (x : Ctx) (k : EngKind) (v : Dword) : (x.setPass k v).qv = x.qv := by
  cases k <;> rfl
@[simp] theorem Ctx.setPass_qc (x : Ctx) (k : EngKind) (v : Dword) : (x.setPass k v).qc = x.qc := by
  cases k <;> rfl
@[simp] theorem Ctx.setPass_stall (x : Ctx) (k : EngKind) (v : Dword) : (x.setPass k v).stall = x.stall := by
  cases k <;> rfl
@[simp] theorem Ctx.setPass_blocked (x : Ctx) (k : EngKind) (v : Dword) : (x.setPass k v).blocked = x.blocked := by
  cases k <;> rfl
@[simp] theorem Ctx.setPass_since (x : Ctx) (k : EngKind) (v : Dword) : (x.setPass k v).since = x.since := by
  cases k <;> rfl
@[simp] theorem Ctx.setPass_resid (x : Ctx) (k : EngKind) (v : Dword) : (x.setPass k v).resid = x.resid := by
  cases k <;> rfl
@[simp] theorem Ctx.setPass_seat (x : Ctx) (k : EngKind) (v : Dword) : (x.setPass k v).seat = x.seat := by
  cases k <;> rfl
@[simp] theorem Ctx.setPass_rvt (x : Ctx) (k : EngKind) (v : Dword) : (x.setPass k v).rvt = x.rvt := by
  cases k <;> rfl
@[simp] theorem Ctx.setPass_rdyM (x : Ctx) (k : EngKind) (v : Dword) : (x.setPass k v).rdyM = x.rdyM := by
  cases k <;> rfl
@[simp] theorem Ctx.setPass_rdyV (x : Ctx) (k : EngKind) (v : Dword) : (x.setPass k v).rdyV = x.rdyV := by
  cases k <;> rfl
@[simp] theorem Ctx.setPass_rdyC (x : Ctx) (k : EngKind) (v : Dword) : (x.setPass k v).rdyC = x.rdyC := by
  cases k <;> rfl
@[simp] theorem Ctx.setPass_shm (x : Ctx) (k : EngKind) (v : Dword) : (x.setPass k v).shm = x.shm := by
  cases k <;> rfl
@[simp] theorem Ctx.setPass_shv (x : Ctx) (k : EngKind) (v : Dword) : (x.setPass k v).shv = x.shv := by
  cases k <;> rfl
@[simp] theorem Ctx.setPass_shc (x : Ctx) (k : EngKind) (v : Dword) : (x.setPass k v).shc = x.shc := by
  cases k <;> rfl
@[simp] theorem Ctx.setPass_tile (x : Ctx) (k : EngKind) (v : Dword) : (x.setPass k v).tile = x.tile := by
  cases k <;> rfl
@[simp] theorem Ctx.setPass_lane (x : Ctx) (k : EngKind) (v : Dword) : (x.setPass k v).lane = x.lane := by
  cases k <;> rfl
@[simp] theorem Ctx.setPass_copy (x : Ctx) (k : EngKind) (v : Dword) : (x.setPass k v).copy = x.copy := by
  cases k <;> rfl
@[simp] theorem Ctx.setPass_cswaps (x : Ctx) (k : EngKind) (v : Dword) : (x.setPass k v).cswaps = x.cswaps := by
  cases k <;> rfl
@[simp] theorem Ctx.setPass_spill (x : Ctx) (k : EngKind) (v : Dword) : (x.setPass k v).spill = x.spill := by
  cases k <;> rfl
@[simp] theorem Ctx.setPass_spillTrick (x : Ctx) (k : EngKind) (v : Dword) : (x.setPass k v).spillTrick = x.spillTrick := by
  cases k <;> rfl
@[simp] theorem Ctx.setPass_aside (x : Ctx) (k : EngKind) (v : Dword) : (x.setPass k v).aside = x.aside := by
  cases k <;> rfl
@[simp] theorem Ctx.setPass_collK (x : Ctx) (k : EngKind) (v : Dword) : (x.setPass k v).collK = x.collK := by
  cases k <;> rfl
@[simp] theorem Ctx.chargeMove_arch (x : Ctx) (q : Nat) : (x.chargeMove q).arch = x.arch := rfl
@[simp] theorem Ctx.chargeMove_sealedFl (x : Ctx) (q : Nat) : (x.chargeMove q).sealedFl = x.sealedFl := rfl
@[simp] theorem Ctx.chargeMove_flagTricks (x : Ctx) (q : Nat) : (x.chargeMove q).flagTricks = x.flagTricks := rfl
@[simp] theorem Ctx.chargeMove_tag (x : Ctx) (q : Nat) : (x.chargeMove q).tag = x.tag := rfl
@[simp] theorem Ctx.chargeMove_last (x : Ctx) (q : Nat) : (x.chargeMove q).last = x.last := rfl
@[simp] theorem Ctx.chargeMove_joined (x : Ctx) (q : Nat) : (x.chargeMove q).joined = x.joined := rfl
@[simp] theorem Ctx.chargeMove_prov (x : Ctx) (q : Nat) : (x.chargeMove q).prov = x.prov := rfl
@[simp] theorem Ctx.chargeMove_faulted (x : Ctx) (q : Nat) : (x.chargeMove q).faulted = x.faulted := rfl
@[simp] theorem Ctx.chargeMove_halted (x : Ctx) (q : Nat) : (x.chargeMove q).halted = x.halted := rfl
@[simp] theorem Ctx.chargeMove_qm (x : Ctx) (q : Nat) : (x.chargeMove q).qm = x.qm := rfl
@[simp] theorem Ctx.chargeMove_qv (x : Ctx) (q : Nat) : (x.chargeMove q).qv = x.qv := rfl
@[simp] theorem Ctx.chargeMove_qc (x : Ctx) (q : Nat) : (x.chargeMove q).qc = x.qc := rfl
@[simp] theorem Ctx.chargeMove_stall (x : Ctx) (q : Nat) : (x.chargeMove q).stall = x.stall := rfl
@[simp] theorem Ctx.chargeMove_blocked (x : Ctx) (q : Nat) : (x.chargeMove q).blocked = x.blocked := rfl
@[simp] theorem Ctx.chargeMove_since (x : Ctx) (q : Nat) : (x.chargeMove q).since = x.since := rfl
@[simp] theorem Ctx.chargeMove_resid (x : Ctx) (q : Nat) : (x.chargeMove q).resid = x.resid := rfl
@[simp] theorem Ctx.chargeMove_seat (x : Ctx) (q : Nat) : (x.chargeMove q).seat = x.seat := rfl
@[simp] theorem Ctx.chargeMove_rvt (x : Ctx) (q : Nat) : (x.chargeMove q).rvt = x.rvt := rfl
@[simp] theorem Ctx.chargeMove_passM (x : Ctx) (q : Nat) : (x.chargeMove q).passM = x.passM := rfl
@[simp] theorem Ctx.chargeMove_passV (x : Ctx) (q : Nat) : (x.chargeMove q).passV = x.passV := rfl
@[simp] theorem Ctx.chargeMove_passC (x : Ctx) (q : Nat) : (x.chargeMove q).passC = x.passC := rfl
@[simp] theorem Ctx.chargeMove_rdyM (x : Ctx) (q : Nat) : (x.chargeMove q).rdyM = x.rdyM := rfl
@[simp] theorem Ctx.chargeMove_rdyV (x : Ctx) (q : Nat) : (x.chargeMove q).rdyV = x.rdyV := rfl
@[simp] theorem Ctx.chargeMove_rdyC (x : Ctx) (q : Nat) : (x.chargeMove q).rdyC = x.rdyC := rfl
@[simp] theorem Ctx.chargeMove_shm (x : Ctx) (q : Nat) : (x.chargeMove q).shm = x.shm := rfl
@[simp] theorem Ctx.chargeMove_shv (x : Ctx) (q : Nat) : (x.chargeMove q).shv = x.shv := rfl
@[simp] theorem Ctx.chargeMove_shc (x : Ctx) (q : Nat) : (x.chargeMove q).shc = x.shc := rfl
@[simp] theorem Ctx.chargeMove_tile (x : Ctx) (q : Nat) : (x.chargeMove q).tile = x.tile := rfl
@[simp] theorem Ctx.chargeMove_lane (x : Ctx) (q : Nat) : (x.chargeMove q).lane = x.lane := rfl
@[simp] theorem Ctx.chargeMove_cswaps (x : Ctx) (q : Nat) : (x.chargeMove q).cswaps = x.cswaps := rfl
@[simp] theorem Ctx.chargeMove_spill (x : Ctx) (q : Nat) : (x.chargeMove q).spill = x.spill := rfl
@[simp] theorem Ctx.chargeMove_spillTrick (x : Ctx) (q : Nat) : (x.chargeMove q).spillTrick = x.spillTrick := rfl
@[simp] theorem Ctx.chargeMove_aside (x : Ctx) (q : Nat) : (x.chargeMove q).aside = x.aside := rfl
@[simp] theorem Ctx.chargeMove_collK (x : Ctx) (q : Nat) : (x.chargeMove q).collK = x.collK := rfl
@[simp] theorem Buffer.setRawEl_id (b : Buffer) (i w : Nat) : (b.setRawEl i w).id = b.id := rfl
@[simp] theorem Buffer.setRawEl_owner (b : Buffer) (i w : Nat) : (b.setRawEl i w).owner = b.owner := rfl
@[simp] theorem Buffer.setRawEl_handle (b : Buffer) (i w : Nat) : (b.setRawEl i w).handle = b.handle := rfl
@[simp] theorem Buffer.setRawEl_cls (b : Buffer) (i w : Nat) : (b.setRawEl i w).cls = b.cls := rfl
@[simp] theorem Buffer.setRawEl_fmt (b : Buffer) (i w : Nat) : (b.setRawEl i w).fmt = b.fmt := rfl
@[simp] theorem Buffer.setRawEl_rows (b : Buffer) (i w : Nat) : (b.setRawEl i w).rows = b.rows := rfl
@[simp] theorem Buffer.setRawEl_cols (b : Buffer) (i w : Nat) : (b.setRawEl i w).cols = b.cols := rfl
@[simp] theorem Buffer.setRawEl_scale (b : Buffer) (i w : Nat) : (b.setRawEl i w).scale = b.scale := rfl
@[simp] theorem Buffer.setRawEl_prio (b : Buffer) (i w : Nat) : (b.setRawEl i w).prio = b.prio := rfl
@[simp] theorem Buffer.setRawEl_potP (b : Buffer) (i w : Nat) : (b.setRawEl i w).potP = b.potP := rfl
@[simp] theorem Buffer.setRawEl_potK (b : Buffer) (i w : Nat) : (b.setRawEl i w).potK = b.potK := rfl
@[simp] theorem Buffer.setRawEl_potTap (b : Buffer) (i w : Nat) : (b.setRawEl i w).potTap = b.potTap := rfl
@[simp] theorem Buffer.setRawEl_region (b : Buffer) (i w : Nat) : (b.setRawEl i w).region = b.region := rfl
@[simp] theorem Buffer.setRawEl_offset (b : Buffer) (i w : Nat) : (b.setRawEl i w).offset = b.offset := rfl
@[simp] theorem Buffer.setRawEl_place (b : Buffer) (i w : Nat) : (b.setRawEl i w).place = b.place := rfl
@[simp] theorem Buffer.setRawEl_inAside (b : Buffer) (i w : Nat) : (b.setRawEl i w).inAside = b.inAside := rfl
@[simp] theorem Buffer.setRawEl_moving (b : Buffer) (i w : Nat) : (b.setRawEl i w).moving = b.moving := rfl
@[simp] theorem Buffer.setRawEl_lastAccess (b : Buffer) (i w : Nat) : (b.setRawEl i w).lastAccess = b.lastAccess := rfl
@[simp] theorem Buffer.setRawEl_declTrick (b : Buffer) (i w : Nat) : (b.setRawEl i w).declTrick = b.declTrick := rfl
@[simp] theorem Buffer.setRawEl_relTrick (b : Buffer) (i w : Nat) : (b.setRawEl i w).relTrick = b.relTrick := rfl
@[simp] theorem Buffer.setRawEl_released (b : Buffer) (i w : Nat) : (b.setRawEl i w).released = b.released := rfl
@[simp] theorem Buffer.setRawEl_dead (b : Buffer) (i w : Nat) : (b.setRawEl i w).dead = b.dead := rfl
@[simp] theorem Buffer.setRawEl_exp (b : Buffer) (i w : Nat) : (b.setRawEl i w).exp = b.exp := rfl
@[simp] theorem Buffer.setRawEl_pubSealed (b : Buffer) (i w : Nat) : (b.setRawEl i w).pubSealed = b.pubSealed := rfl
@[simp] theorem Buffer.setRawEl_pubOpen (b : Buffer) (i w : Nat) : (b.setRawEl i w).pubOpen = b.pubOpen := rfl
@[simp] theorem Buffer.setRawEl_recs (b : Buffer) (i w : Nat) : (b.setRawEl i w).recs = b.recs := rfl
@[simp] theorem Buffer.setRawEl_nfrecs (b : Buffer) (i w : Nat) : (b.setRawEl i w).nfrecs = b.nfrecs := rfl
@[simp] theorem Buffer.setRawEl_exchanged (b : Buffer) (i w : Nat) : (b.setRawEl i w).exchanged = b.exchanged := rfl
@[simp] theorem Buffer.writeBytes_id (b : Buffer) (off : Nat) (l : List Byte) : (b.writeBytes off l).id = b.id := rfl
@[simp] theorem Buffer.writeBytes_owner (b : Buffer) (off : Nat) (l : List Byte) : (b.writeBytes off l).owner = b.owner := rfl
@[simp] theorem Buffer.writeBytes_handle (b : Buffer) (off : Nat) (l : List Byte) : (b.writeBytes off l).handle = b.handle := rfl
@[simp] theorem Buffer.writeBytes_cls (b : Buffer) (off : Nat) (l : List Byte) : (b.writeBytes off l).cls = b.cls := rfl
@[simp] theorem Buffer.writeBytes_fmt (b : Buffer) (off : Nat) (l : List Byte) : (b.writeBytes off l).fmt = b.fmt := rfl
@[simp] theorem Buffer.writeBytes_rows (b : Buffer) (off : Nat) (l : List Byte) : (b.writeBytes off l).rows = b.rows := rfl
@[simp] theorem Buffer.writeBytes_cols (b : Buffer) (off : Nat) (l : List Byte) : (b.writeBytes off l).cols = b.cols := rfl
@[simp] theorem Buffer.writeBytes_scale (b : Buffer) (off : Nat) (l : List Byte) : (b.writeBytes off l).scale = b.scale := rfl
@[simp] theorem Buffer.writeBytes_prio (b : Buffer) (off : Nat) (l : List Byte) : (b.writeBytes off l).prio = b.prio := rfl
@[simp] theorem Buffer.writeBytes_potP (b : Buffer) (off : Nat) (l : List Byte) : (b.writeBytes off l).potP = b.potP := rfl
@[simp] theorem Buffer.writeBytes_potK (b : Buffer) (off : Nat) (l : List Byte) : (b.writeBytes off l).potK = b.potK := rfl
@[simp] theorem Buffer.writeBytes_potTap (b : Buffer) (off : Nat) (l : List Byte) : (b.writeBytes off l).potTap = b.potTap := rfl
@[simp] theorem Buffer.writeBytes_region (b : Buffer) (off : Nat) (l : List Byte) : (b.writeBytes off l).region = b.region := rfl
@[simp] theorem Buffer.writeBytes_offset (b : Buffer) (off : Nat) (l : List Byte) : (b.writeBytes off l).offset = b.offset := rfl
@[simp] theorem Buffer.writeBytes_place (b : Buffer) (off : Nat) (l : List Byte) : (b.writeBytes off l).place = b.place := rfl
@[simp] theorem Buffer.writeBytes_inAside (b : Buffer) (off : Nat) (l : List Byte) : (b.writeBytes off l).inAside = b.inAside := rfl
@[simp] theorem Buffer.writeBytes_moving (b : Buffer) (off : Nat) (l : List Byte) : (b.writeBytes off l).moving = b.moving := rfl
@[simp] theorem Buffer.writeBytes_lastAccess (b : Buffer) (off : Nat) (l : List Byte) : (b.writeBytes off l).lastAccess = b.lastAccess := rfl
@[simp] theorem Buffer.writeBytes_declTrick (b : Buffer) (off : Nat) (l : List Byte) : (b.writeBytes off l).declTrick = b.declTrick := rfl
@[simp] theorem Buffer.writeBytes_relTrick (b : Buffer) (off : Nat) (l : List Byte) : (b.writeBytes off l).relTrick = b.relTrick := rfl
@[simp] theorem Buffer.writeBytes_released (b : Buffer) (off : Nat) (l : List Byte) : (b.writeBytes off l).released = b.released := rfl
@[simp] theorem Buffer.writeBytes_dead (b : Buffer) (off : Nat) (l : List Byte) : (b.writeBytes off l).dead = b.dead := rfl
@[simp] theorem Buffer.writeBytes_exp (b : Buffer) (off : Nat) (l : List Byte) : (b.writeBytes off l).exp = b.exp := rfl
@[simp] theorem Buffer.writeBytes_pubSealed (b : Buffer) (off : Nat) (l : List Byte) : (b.writeBytes off l).pubSealed = b.pubSealed := rfl
@[simp] theorem Buffer.writeBytes_pubOpen (b : Buffer) (off : Nat) (l : List Byte) : (b.writeBytes off l).pubOpen = b.pubOpen := rfl
@[simp] theorem Buffer.writeBytes_recs (b : Buffer) (off : Nat) (l : List Byte) : (b.writeBytes off l).recs = b.recs := rfl
@[simp] theorem Buffer.writeBytes_nfrecs (b : Buffer) (off : Nat) (l : List Byte) : (b.writeBytes off l).nfrecs = b.nfrecs := rfl
@[simp] theorem Buffer.writeBytes_exchanged (b : Buffer) (off : Nat) (l : List Byte) : (b.writeBytes off l).exchanged = b.exchanged := rfl
@[simp] theorem Buffer.relOwner_id (b : Buffer) (tag : Option Nat) : (b.relOwner tag).id = b.id := rfl
@[simp] theorem Buffer.relOwner_owner (b : Buffer) (tag : Option Nat) : (b.relOwner tag).owner = b.owner := rfl
@[simp] theorem Buffer.relOwner_handle (b : Buffer) (tag : Option Nat) : (b.relOwner tag).handle = b.handle := rfl
@[simp] theorem Buffer.relOwner_cls (b : Buffer) (tag : Option Nat) : (b.relOwner tag).cls = b.cls := rfl
@[simp] theorem Buffer.relOwner_fmt (b : Buffer) (tag : Option Nat) : (b.relOwner tag).fmt = b.fmt := rfl
@[simp] theorem Buffer.relOwner_rows (b : Buffer) (tag : Option Nat) : (b.relOwner tag).rows = b.rows := rfl
@[simp] theorem Buffer.relOwner_cols (b : Buffer) (tag : Option Nat) : (b.relOwner tag).cols = b.cols := rfl
@[simp] theorem Buffer.relOwner_scale (b : Buffer) (tag : Option Nat) : (b.relOwner tag).scale = b.scale := rfl
@[simp] theorem Buffer.relOwner_prio (b : Buffer) (tag : Option Nat) : (b.relOwner tag).prio = b.prio := rfl
@[simp] theorem Buffer.relOwner_potP (b : Buffer) (tag : Option Nat) : (b.relOwner tag).potP = b.potP := rfl
@[simp] theorem Buffer.relOwner_potK (b : Buffer) (tag : Option Nat) : (b.relOwner tag).potK = b.potK := rfl
@[simp] theorem Buffer.relOwner_potTap (b : Buffer) (tag : Option Nat) : (b.relOwner tag).potTap = b.potTap := rfl
@[simp] theorem Buffer.relOwner_region (b : Buffer) (tag : Option Nat) : (b.relOwner tag).region = b.region := rfl
@[simp] theorem Buffer.relOwner_offset (b : Buffer) (tag : Option Nat) : (b.relOwner tag).offset = b.offset := rfl
@[simp] theorem Buffer.relOwner_mem (b : Buffer) (tag : Option Nat) : (b.relOwner tag).mem = b.mem := rfl
@[simp] theorem Buffer.relOwner_place (b : Buffer) (tag : Option Nat) : (b.relOwner tag).place = b.place := rfl
@[simp] theorem Buffer.relOwner_inAside (b : Buffer) (tag : Option Nat) : (b.relOwner tag).inAside = b.inAside := rfl
@[simp] theorem Buffer.relOwner_moving (b : Buffer) (tag : Option Nat) : (b.relOwner tag).moving = b.moving := rfl
@[simp] theorem Buffer.relOwner_lastAccess (b : Buffer) (tag : Option Nat) : (b.relOwner tag).lastAccess = b.lastAccess := rfl
@[simp] theorem Buffer.relOwner_declTrick (b : Buffer) (tag : Option Nat) : (b.relOwner tag).declTrick = b.declTrick := rfl
@[simp] theorem Buffer.relOwner_exp (b : Buffer) (tag : Option Nat) : (b.relOwner tag).exp = b.exp := rfl
@[simp] theorem Buffer.relOwner_pubSealed (b : Buffer) (tag : Option Nat) : (b.relOwner tag).pubSealed = b.pubSealed := rfl
@[simp] theorem Buffer.relOwner_pubOpen (b : Buffer) (tag : Option Nat) : (b.relOwner tag).pubOpen = b.pubOpen := rfl
@[simp] theorem Buffer.relOwner_recs (b : Buffer) (tag : Option Nat) : (b.relOwner tag).recs = b.recs := rfl
@[simp] theorem Buffer.relOwner_nfrecs (b : Buffer) (tag : Option Nat) : (b.relOwner tag).nfrecs = b.nfrecs := rfl
@[simp] theorem Buffer.relOwner_exchanged (b : Buffer) (tag : Option Nat) : (b.relOwner tag).exchanged = b.exchanged := rfl

/-! ### What the updates write -/

theorem vget_eq {α : Type} {n : Nat} (v : Vector α n) (i : Fin n) : v.get i = v[i.val] := rfl

@[simp] theorem Job.ctx?_setCtx_same (j : Job) (c : CtxId) (x : Option Ctx) : (j.setCtx c x).ctx? c = x := by
  simp [Job.ctx?, Job.setCtx, vget_eq]

theorem Job.ctx?_setCtx_other (j : Job) (c d : CtxId) (x : Option Ctx) (h : d ≠ c) : (j.setCtx c x).ctx? d = j.ctx? d := by
  have : c.val ≠ d.val := fun e => h (Fin.ext e.symm)
  simp [Job.ctx?, Job.setCtx, vget_eq, this]

theorem Job.ctx?_setCtx (j : Job) (c d : CtxId) (x : Option Ctx) :
    (j.setCtx c x).ctx? d = if d = c then x else j.ctx? d := by
  by_cases h : d = c
  · subst h; simp
  · simp [h, Job.ctx?_setCtx_other j c d x h]

theorem Job.modCtx_eq (j : Job) (c : CtxId) (f : Ctx → Ctx) (x : Ctx) (h : j.ctx? c = some x) :
    j.modCtx c f = j.setCtx c (some (f x)) := by
  simp [Job.modCtx, h]

@[simp] theorem Job.ctx?_modCtx_same (j : Job) (c : CtxId) (f : Ctx → Ctx) :
    (j.modCtx c f).ctx? c = (j.ctx? c).map f := by
  unfold Job.modCtx; cases h : j.ctx? c <;> simp [h]

theorem Job.ctx?_modCtx_other (j : Job) (c d : CtxId) (f : Ctx → Ctx) (h : d ≠ c) :
    (j.modCtx c f).ctx? d = j.ctx? d := by
  unfold Job.modCtx
  cases j.ctx? c
  · rfl
  · exact Job.ctx?_setCtx_other j c d _ h

@[simp] theorem Job.ctx?_mapCtxs (j : Job) (f : CtxId → Ctx → Ctx) (c : CtxId) :
    (j.mapCtxs f).ctx? c = (j.ctx? c).map (f c) := by
  simp [Job.ctx?, Job.mapCtxs, vget_eq]

theorem Arch.reg_setReg (a : Arch) (r q : SReg) (v : Dword) :
    (a.setReg r v).reg q = if q = r ∧ r ≠ 0 then v else a.reg q := by
  unfold Arch.setReg Arch.reg
  by_cases hr : r = 0
  · simp only [hr, ne_eq, not_true_eq_false, and_false, if_false, if_true]
  · rw [if_neg hr]
    by_cases hq : q = r
    · subst hq
      rw [if_neg hr, if_pos ⟨rfl, hr⟩]
      simp [vget_eq]
    · have : r.toNat ≠ q.toNat := fun e => hq (BitVec.eq_of_toNat_eq e.symm)
      simp only [hq, false_and, if_false, vget_eq, BitVec.val_toFin]
      rw [Vector.getElem_set_ne _ _ this]

theorem Arch.pred_setPred (a : Arch) (p q : PReg) (v : Bool) :
    (a.setPred p v).pred q = if q = p ∧ p ≠ 0 then v else a.pred q := by
  unfold Arch.setPred Arch.pred
  by_cases hr : p = 0
  · simp only [hr, ne_eq, not_true_eq_false, and_false, if_false, if_true]
  · rw [if_neg hr]
    by_cases hq : q = p
    · subst hq
      rw [if_neg hr, if_pos ⟨rfl, hr⟩]
      simp [vget_eq]
    · have : p.toNat ≠ q.toNat := fun e => hq (BitVec.eq_of_toNat_eq e.symm)
      simp only [hq, false_and, if_false, vget_eq, BitVec.val_toFin]
      rw [Vector.getElem_set_ne _ _ this]

theorem Arch.ctr_setCtr (a : Arch) (e d : EReg) (k : Ctr) : (a.setCtr e k).ctr d = if d = e then k else a.ctr d := by
  unfold Arch.setCtr Arch.ctr
  by_cases hq : d = e
  · subst hq; simp [vget_eq]
  · have : e.toNat ≠ d.toNat := fun h => hq (BitVec.eq_of_toNat_eq h.symm)
    simp [hq, vget_eq, this]

theorem Arch.hnd_setHnd (a : Arch) (h d : HReg) (k : Option Hnd) : (a.setHnd h k).hnd d = if d = h then k else a.hnd d := by
  unfold Arch.setHnd Arch.hnd
  by_cases hq : d = h
  · subst hq; simp [vget_eq]
  · have : h.toNat ≠ d.toNat := fun e => hq (BitVec.eq_of_toNat_eq e.symm)
    simp [hq, vget_eq, this]

@[simp] theorem Arch.reg_next (a : Arch) (r : SReg) : a.next.reg r = a.reg r := rfl
@[simp] theorem Arch.pred_next (a : Arch) (p : PReg) : a.next.pred p = a.pred p := rfl

@[simp] theorem Ctx.queue_setQueue (x : Ctx) (k : EngKind) (q : List QE) : (x.setQueue k q).queue k = q := by
  cases k <;> rfl

end Sys2Proof.Machine
end

