-- ==== Sys2Proof/Laws/Post.lean ====
section
/-! SUPPORT. What posting completions, writing regions and sending peer frames can change: one lemma per operation, naming
every component of the state it touches. -/

namespace Sys2Proof.Machine

/-- t differs from s in the host attachment and the output stream alone, messages held for a paused port among it. -/
def HostOnly (s t : State) : Prop := t = { s with host := t.host, outbox := t.outbox, heldTx := t.heldTx }
/-- t differs from s in the peer fabric and the output stream alone, messages held for a paused port among it. -/
def FabOnly (s t : State) : Prop := t = { s with fab := t.fab, outbox := t.outbox, heldTx := t.heldTx }
/-- t differs from s in the job alone. -/
def JobOnly (s t : State) : Prop := t = { s with job := t.job }

theorem HostOnly.refl (s : State) : HostOnly s s := rfl
theorem FabOnly.refl (s : State) : FabOnly s s := rfl
theorem JobOnly.refl (s : State) : JobOnly s s := rfl
theorem HostOnly.trans {s t u : State} (h : HostOnly s t) (k : HostOnly t u) : HostOnly s u := by
  unfold HostOnly at *; rw [k, h]
theorem FabOnly.trans {s t u : State} (h : FabOnly s t) (k : FabOnly t u) : FabOnly s u := by
  unfold FabOnly at *; rw [k, h]
theorem JobOnly.trans {s t u : State} (h : JobOnly s t) (k : JobOnly t u) : JobOnly s u := by
  unfold JobOnly at *; rw [k, h]

theorem HostOnly.job {s t : State} (h : HostOnly s t) : t.job = s.job := by rw [h]
theorem HostOnly.stat {s t : State} (h : HostOnly s t) : t.stat = s.stat := by rw [h]
theorem HostOnly.cfg {s t : State} (h : HostOnly s t) : t.cfg = s.cfg := by rw [h]
theorem HostOnly.hl {s t : State} (h : HostOnly s t) : t.hl = s.hl := by rw [h]
theorem HostOnly.fab {s t : State} (h : HostOnly s t) : t.fab = s.fab := by rw [h]
theorem HostOnly.aon {s t : State} (h : HostOnly s t) : t.aon = s.aon := by rw [h]
theorem HostOnly.att {s t : State} (h : HostOnly s t) : t.att = s.att := by rw [h]
theorem HostOnly.score {s t : State} (h : HostOnly s t) : t.score = s.score := by rw [h]
theorem HostOnly.pending {s t : State} (h : HostOnly s t) : t.pending = s.pending := by rw [h]
theorem FabOnly.job {s t : State} (h : FabOnly s t) : t.job = s.job := by rw [h]
theorem FabOnly.stat {s t : State} (h : FabOnly s t) : t.stat = s.stat := by rw [h]
theorem FabOnly.cfg {s t : State} (h : FabOnly s t) : t.cfg = s.cfg := by rw [h]
theorem FabOnly.host {s t : State} (h : FabOnly s t) : t.host = s.host := by rw [h]
theorem FabOnly.aon {s t : State} (h : FabOnly s t) : t.aon = s.aon := by rw [h]
theorem FabOnly.att {s t : State} (h : FabOnly s t) : t.att = s.att := by rw [h]
theorem FabOnly.score {s t : State} (h : FabOnly s t) : t.score = s.score := by rw [h]
theorem FabOnly.pending {s t : State} (h : FabOnly s t) : t.pending = s.pending := by rw [h]
theorem JobOnly.stat {s t : State} (h : JobOnly s t) : t.stat = s.stat := by rw [h]
theorem JobOnly.cfg {s t : State} (h : JobOnly s t) : t.cfg = s.cfg := by rw [h]
theorem JobOnly.hl {s t : State} (h : JobOnly s t) : t.hl = s.hl := by rw [h]
theorem JobOnly.fab {s t : State} (h : JobOnly s t) : t.fab = s.fab := by rw [h]
theorem JobOnly.host {s t : State} (h : JobOnly s t) : t.host = s.host := by rw [h]
theorem JobOnly.aon {s t : State} (h : JobOnly s t) : t.aon = s.aon := by rw [h]
theorem JobOnly.att {s t : State} (h : JobOnly s t) : t.att = s.att := by rw [h]
theorem JobOnly.score {s t : State} (h : JobOnly s t) : t.score = s.score := by rw [h]
theorem JobOnly.outbox {s t : State} (h : JobOnly s t) : t.outbox = s.outbox := by rw [h]
theorem JobOnly.pending {s t : State} (h : JobOnly s t) : t.pending = s.pending := by rw [h]

/-- A loop of steps each of which stays in the relation does. -/
theorem foldl_rel {α : Type} (R : State → State → Prop) (hr : ∀ s, R s s) (ht : ∀ s t u, R s t → R t u → R s u)
    (f : State → α → State) (hf : ∀ s a, R s (f s a)) (l : List α) (s : State) : R s (l.foldl f s) := by
  induction l generalizing s with
  | nil => exact hr s
  | cons a r ih => exact ht _ _ _ (hf s a) (ih _)

theorem State.send_hostOnly (s : State) (o : Out) : HostOnly s (s.send o) := rfl
theorem State.send_fabOnly (s : State) (o : Out) : FabOnly s (s.send o) := rfl
theorem State.setQp_only (s : State) (i : Nat) (q : Qp) : HostOnly s (s.setQp i q) := rfl
theorem State.modQp_only (s : State) (i : Nat) (f : Qp → Qp) : HostOnly s (s.modQp i f) := by
  unfold State.modQp; split <;> rfl
theorem State.modHost_only (s : State) (f : HostSt → HostSt) : HostOnly s (s.modHost f) := rfl
theorem State.modRegion_only (s : State) (n : Nat) (f : Region → Region) : HostOnly s (s.modRegion n f) := rfl
theorem State.dropCompl_only (s : State) : HostOnly s s.dropCompl := rfl

/-- Writing a region: the write goes out and is noted as unacknowledged, or it is dropped and flagged. -/
theorem State.writeRegion_only (s : State) (tr : Option Nat) (rn off : Nat) (data : List Byte) (what : Carried) (tag : Nat) :
    HostOnly s (s.writeRegion tr rn off data what tag) := by
  unfold State.writeRegion
  cases what <;> repeat' split
  all_goals rfl

theorem State.ringPut_only (s : State) (qi : Nat) (tr : Option Nat) (c : Compl) (own : Bool) : HostOnly s (s.ringPut qi tr c own) := by
  unfold State.ringPut
  split
  · exact .refl s
  · split
    · exact .refl s
    · exact .trans (State.setQp_only s _ _) (State.writeRegion_only _ _ _ _ _ _ _)

theorem State.ringWrite_only (s : State) (qi : Nat) (tr : Option Nat) (c : Compl) (own : Bool) :
    HostOnly s (s.ringWrite qi tr c own) := by
  unfold State.ringWrite
  split
  · exact State.ringPut_only _ _ _ _ _
  · exact .trans (.trans (.trans (State.modQp_only s qi _) (State.modHost_only _ _)) (State.ringPut_only _ _ _ _ _)) (State.ringPut_only _ _ _ _ _)

theorem State.postTo_only (s : State) (qi : Nat) (tr : Option Nat) (c : Compl) : HostOnly s (s.postTo qi tr c) := by
  unfold State.postTo
  split
  · exact State.ringWrite_only _ _ _ _ _
  · exact State.dropCompl_only s

theorem State.postOwner_only (s : State) (tr : Option Nat) (c : Compl) : HostOnly s (s.postOwner tr c) := by
  unfold State.postOwner
  split
  · exact State.ringWrite_only _ _ _ _ _
  · split <;> rfl

/-- The completion of a command touches the host attachment and the output stream alone. -/
theorem State.complete_only (s : State) (h : HostCmd) (opc status : Byte) (l : List Byte) : HostOnly s (s.complete h opc status l) := by
  unfold State.complete
  split
  · exact .trans (t := { s with host := { s.host with errCmd := true } }) rfl (State.postTo_only _ _ _ _)
  · exact State.postTo_only _ _ _ _

theorem State.doOut_only (s : State) (h : HeldOut) : HostOnly s (s.doOut h) := by
  cases h <;> simp only [State.doOut]
  · exact State.writeRegion_only _ _ _ _ _ _ _
  · exact State.postOwner_only _ _ _
  · exact State.postTo_only _ _ _ _

theorem State.release_only (s : State) (h : HeldOut) : HostOnly s (s.release h) := by
  unfold State.release
  split
  · exact State.doOut_only s h
  · rfl

theorem State.flushHeldGo_only (n : Nat) (s : State) : HostOnly s (s.flushHeldGo n) := by
  induction n generalizing s with
  | zero => exact .refl s
  | succ n ih =>
    unfold State.flushHeldGo
    split
    · exact .refl s
    · rename_i h r _
      split
      · exact .refl s
      · exact .trans (.trans (t := { s with host := { s.host with heldOut := r } }) rfl (State.doOut_only _ h)) (ih _)
theorem State.flushHeld_only (s : State) : HostOnly s s.flushHeld := State.flushHeldGo_only _ s

theorem State.flushHolding_only (s : State) : HostOnly s s.flushHolding := by
  unfold State.flushHolding
  split
  · exact .refl s
  · exact .trans (t := { s with host := { s.host with holding := [], heldOut :=
      (s.host.holding.map fun p => HeldOut.ownerCompl p.1 p.2) ++ s.host.heldOut } }) rfl (State.flushHeld_only _)

theorem State.setOwner_only (s : State) (q : BitVec 12) : HostOnly s (s.setOwner q) :=
  .trans (t := { s with host := { s.host with owner := some q } }) rfl (State.flushHolding_only _)

theorem State.jobEvent_only (s : State) (status : Byte) (t c e : Nat) : HostOnly s (s.jobEvent status t c e) :=
  State.postOwner_only _ _ _

theorem State.modRoute_only (s : State) (p : Fin 12) (m : BitVec 9) (f : Route → Route) : FabOnly s (s.modRoute p m f) := rfl
theorem State.setPPort_only (s : State) (p : Fin 12) (f : PPort → PPort) : FabOnly s (s.setPPort p f) := rfl
theorem State.putFrame_only (s : State) (r : Route) (f : TxFrame) (retx : Bool) : FabOnly s (s.putFrame r f retx) := rfl
theorem State.sendLink_only (s : State) (p : Fin 12) (m : BitVec 9) (l : List Byte) : FabOnly s (s.sendLink p m l) := by
  unfold State.sendLink
  split
  · exact .refl s
  · rfl

/-- Sending a peer frame touches the peer fabric and the output stream alone; a silenced class sends nothing (R403). -/
theorem State.sendPeer_only (s : State) (m : BitVec 9) (cls : Byte) (t : Nat) (a : Byte) (l : List Byte) (last : Bool) :
    FabOnly s (s.sendPeer m cls t a l last) := by
  unfold State.sendPeer
  split
  · exact .refl s
  · dsimp only
    split
    · exact State.putFrame_only _ _ _ _
    · rfl

theorem State.flushWaiting_only (s : State) : FabOnly s s.flushWaiting :=
  .trans (t := { s with fab := { s.fab with waiting := [] } }) rfl
    (foldl_rel FabOnly .refl (fun _ _ _ => .trans) _ (fun s x => by
      dsimp only
      split
      · exact State.putFrame_only _ _ _ _
      · rfl) _ _)

end Sys2Proof.Machine
end

