-- ==== Sys2Proof/Laws/Sched.lean ====
section
/-! SUPPORT. What the Table's decisions and the collection of released buffers can change (R345 to R357, R257). -/

namespace Sys2Proof.Machine

/-- y is x but for its residency, its seat, what the Table records of its blocking and, where it was swapped out, its stall. -/
def SameProgram (x y : Ctx) : Prop :=
  y = { x with
    stall := y.stall
    blocked := y.blocked
    since := y.since
    rvt := y.rvt
    resid := y.resid
    seat := y.seat
    aside := y.aside } ∧ (y.stall = x.stall ∨ y.stall = none)

theorem SameProgram.refl (x : Ctx) : SameProgram x x := ⟨rfl, .inl rfl⟩
theorem SameProgram.trans {x y z : Ctx} (h : SameProgram x y) (k : SameProgram y z) : SameProgram x z := by
  obtain ⟨h1, h2⟩ := h
  obtain ⟨k1, k2⟩ := k
  refine ⟨by rw [k1, h1], ?_⟩
  rcases k2 with k2 | k2
  · rcases h2 with h2 | h2
    · exact .inl (k2.trans h2)
    · exact .inr (k2.trans h2)
  · exact .inr k2
theorem SameProgram.arch {x y : Ctx} (h : SameProgram x y) : y.arch = x.arch := by rw [h.1]
theorem SameProgram.tag {x y : Ctx} (h : SameProgram x y) : y.tag = x.tag := by rw [h.1]
theorem SameProgram.joined {x y : Ctx} (h : SameProgram x y) : y.joined = x.joined := by rw [h.1]
theorem SameProgram.qm {x y : Ctx} (h : SameProgram x y) : y.qm = x.qm := by rw [h.1]
theorem SameProgram.qv {x y : Ctx} (h : SameProgram x y) : y.qv = x.qv := by rw [h.1]
theorem SameProgram.qc {x y : Ctx} (h : SameProgram x y) : y.qc = x.qc := by rw [h.1]

/-- Every context of s is there in t with the same program state, and only contexts and the Table's notes differ. -/
structure TableOnly (s t : State) : Prop where
  only : JobOnly s t
  ctxs : ∀ c, (s.job.ctx? c = none ∧ t.job.ctx? c = none) ∨ ∃ x y, s.job.ctx? c = some x ∧ t.job.ctx? c = some y ∧ SameProgram x y
  rest : t.job = { s.job with ctxs := t.job.ctxs, evict := t.job.evict, stuckSince := t.job.stuckSince, bufs := t.job.bufs }

theorem TableOnly.refl (s : State) : TableOnly s s :=
  ⟨.refl s, fun c => by cases h : s.job.ctx? c <;> simp [SameProgram.refl], rfl⟩
theorem TableOnly.trans {s t u : State} (h : TableOnly s t) (k : TableOnly t u) : TableOnly s u := by
  refine ⟨h.only.trans k.only, fun c => ?_, by rw [k.rest, h.rest]⟩
  rcases h.ctxs c with ⟨h1, h2⟩ | ⟨x, y, h1, h2, h3⟩
  · rcases k.ctxs c with ⟨k1, k2⟩ | ⟨x, y, k1, k2, k3⟩
    · exact .inl ⟨h1, k2⟩
    · rw [h2] at k1; cases k1
  · rcases k.ctxs c with ⟨k1, k2⟩ | ⟨x', z, k1, k2, k3⟩
    · rw [h2] at k1; cases k1
    · rw [h2] at k1; cases k1
      exact .inr ⟨x, z, h1, k2, h3.trans k3⟩

theorem tableOnly_mapCtxs (s : State) (f : CtxId → Ctx → Ctx) (h : ∀ c x, SameProgram x (f c x)) :
    TableOnly s { s with job := s.job.mapCtxs f } := by
  refine ⟨rfl, fun c => ?_, by simp only [Job.mapCtxs]⟩
  cases hx : s.job.ctx? c with
  | none => simp [hx]
  | some x => exact .inr ⟨x, f c x, rfl, by simp [hx], h c x⟩

theorem tableOnly_modCtx (s : State) (c : CtxId) (f : Ctx → Ctx) (h : ∀ x, SameProgram x (f x)) :
    TableOnly s { s with job := s.job.modCtx c f } := by
  refine ⟨rfl, fun d => ?_, ?_⟩
  · by_cases hd : d = c
    · subst hd
      cases hx : s.job.ctx? d with
      | none => simp [hx]
      | some x => exact .inr ⟨x, f x, rfl, by simp [hx], h x⟩
    · rw [show (({ s with job := s.job.modCtx c f } : State).job.ctx? d) = s.job.ctx? d from Job.ctx?_modCtx_other _ _ _ _ hd]
      cases hx : s.job.ctx? d with
      | none => simp
      | some x => exact .inr ⟨x, x, rfl, rfl, .refl x⟩
  · show s.job.modCtx c f = _
    unfold Job.modCtx
    split <;> rfl

theorem State.noteBlocked_only (s : State) : TableOnly s s.noteBlocked := by
  apply tableOnly_mapCtxs
  intro c x
  dsimp only
  split
  · exact .refl x
  · split <;> exact ⟨rfl, .inl rfl⟩

theorem State.fillSeats_only (n : Nat) (s : State) : TableOnly s (s.fillSeats n) := by
  induction n generalizing s with
  | zero => exact .refl s
  | succ n ih =>
    unfold State.fillSeats
    split
    · exact .refl s
    · rename_i i _
      split
      · exact .refl s
      · rename_i c _ _
        exact .trans (tableOnly_modCtx s c (fun x => { x with resid := .swapIn, seat := some i }) fun x => ⟨rfl, .inl rfl⟩) (ih _)

theorem State.startOut_only (s : State) (c : CtxId) : TableOnly s (s.startOut c) := by
  have h := tableOnly_modCtx s c (fun x => { x with resid := .swapOut }) fun x => ⟨rfl, .inl rfl⟩
  refine ⟨?_, h.ctxs, ?_⟩
  · rfl
  · unfold State.startOut
    have := h.rest
    dsimp only at this ⊢
    rw [this]

/-- The Table's decisions keep every context's program state and touch nothing outside the job. -/
theorem State.schedule_only (s : State) : TableOnly s s.schedule := by
  unfold State.schedule
  have h := (State.noteBlocked_only s).trans (State.fillSeats_only 16 _)
  dsimp only
  generalize s.noteBlocked.fillSeats 16 = t at h ⊢
  have note (u : State) (x : Option Dword) (k : TableOnly s u) : TableOnly s { u with job := { u.job with stuckSince := x } } := by
    refine ⟨?_, k.ctxs, ?_⟩
    · have := k.only; unfold JobOnly at this ⊢; rw [this]
    · have := k.rest; dsimp only at this ⊢; rw [this]
  split
  · split
    · exact note _ _ (h.trans (State.startOut_only t _))
    · exact note _ _ h
  · exact note _ _ h

/-- Collecting frees released buffers no instruction names, empties dead POT buffers, and frees storage kept aside. -/
theorem Job.collect_only (s : State) : TableOnly s { s with job := s.job.collect } := by
  refine ⟨rfl, fun c => ?_, rfl⟩
  unfold Job.collect
  dsimp only
  have e (j : Job) (b : List Buffer) (f : CtxId → Ctx → Ctx) :
      (({ j with bufs := b } : Job).mapCtxs f).ctx? c = (j.ctx? c).map (f c) := by simp; rfl
  rw [e]
  cases hx : s.job.ctx? c with
  | none => simp
  | some x =>
    exact .inr ⟨x, _, rfl, rfl, rfl, .inl rfl⟩

theorem State.settle_only (s : State) : TableOnly s s.settle :=
  .trans (Job.collect_only s) (State.schedule_only _)

/-- A buffer that is not released is there after the Table's decisions, with its bytes. -/
theorem State.schedule_bufs (s : State) : s.schedule.job.bufs = s.job.bufs := by
  have hf (n : Nat) (s : State) : (s.fillSeats n).job.bufs = s.job.bufs := by
    induction n generalizing s with
    | zero => rfl
    | succ n ih =>
      unfold State.fillSeats
      split
      · rfl
      · split
        · rfl
        · rw [ih]; simp
  have hn : s.noteBlocked.job.bufs = s.job.bufs := by unfold State.noteBlocked; simp
  have h := (hf 16 s.noteBlocked).trans hn
  unfold State.schedule
  dsimp only
  generalize s.noteBlocked.fillSeats 16 = t at h ⊢
  split
  · split
    · simp [State.startOut, h]
    · exact h
  · exact h

end Sys2Proof.Machine
end

