-- ==== Sys2Proof/Laws/Seat.lean ====
section
/-! SUPPORT. What taking a word at a seat does: everything seatRun can answer. -/

namespace Sys2Proof.Machine

/-- A context whose boundary is behind it enters nothing. -/
theorem State.enter_eq (s : State) (c : CtxId) (x : Ctx) (hx : s.job.ctx? c = some x) (hb : s.waitsBoundary x = false) :
    s.enter c = s := by
  unfold State.enter
  simp only [hx]
  cases x.tag with
  | none => rfl
  | some t => simp [hb]

/-- A word taken has its effect on the state as it stands. -/
theorem seatRun_takes {s : State} {c : CtxId} {x : Ctx} {g : Guard} {word : Dword} {legal : Bool} {uses : List SReg}
    (body : State → Ctx → State) (h : Takes s c x g legal uses) :
    seatRun s c g word legal uses body = .next (body s x) := by
  have hb := h.begun
  have hf := h.free
  have hc := h.code
  have hl := h.legal
  have hg := h.guard
  have hr := h.ready
  subst hl
  unfold seatRun
  simp only [State.enter_eq s c x h.here hb, h.here, hf, hb, hg, hr]
  simp [Nat.not_le.2 hc]

/-- Everything taking a word can answer, once its boundary is behind it: it is not taken; the code has ended or the
word is illegal (R249, R4); its guard is false (R275); it awaits a summary (R158); or its effect. -/
theorem seatRun_cases {s : State} {c : CtxId} {g : Guard} {word : Dword} {legal : Bool} {uses : List SReg}
    {body : State → Ctx → State} {t : State} (h : seatRun s c g word legal uses body = .next t) :
    t = s.enter c ∨ ∃ x, (s.enter c).job.ctx? c = some x ∧ x.canIssue = true ∧ (s.enter c).waitsBoundary x = false ∧
      ((x.arch.pc.toNat ≥ (s.enter c).job.code.length ∧ t = (s.enter c).seatFault c x stILLEGAL 0xFF 0 0) ∨
       (legal = false ∧ t = (s.enter c).seatFault c x stILLEGAL 0xFF word 0) ∨
       (x.arch.guard g = false ∧ t = (s.enter c).modArch c Arch.next) ∨
       (x.arch.guard g = true ∧ t = body (s.enter c) x)) := by
  unfold seatRun at h
  generalize s.enter c = s' at h ⊢
  simp only at h
  split at h
  · left; injection h with h; exact h.symm
  · rename_i x hx
    split at h
    · left; injection h with h; exact h.symm
    · rename_i hi
      simp only [Bool.or_eq_true, Bool.not_eq_true', not_or, Bool.not_eq_true, Bool.not_eq_false] at hi
      split at h
      · rename_i hp
        right; refine ⟨x, hx, hi.1, hi.2, .inl ⟨hp, ?_⟩⟩
        injection h with h; exact h.symm
      · split at h
        · rename_i hl
          right; refine ⟨x, hx, hi.1, hi.2, .inr (.inl ⟨by simpa using hl, ?_⟩)⟩
          injection h with h; exact h.symm
        · split at h
          · rename_i hg
            right; refine ⟨x, hx, hi.1, hi.2, .inr (.inr (.inl ⟨by simpa using hg, ?_⟩))⟩
            injection h with h; exact h.symm
          · rename_i hg
            split at h
            · left; injection h with h; exact h.symm
            · right; refine ⟨x, hx, hi.1, hi.2, .inr (.inr (.inr ⟨by simpa using hg, ?_⟩))⟩
              injection h with h; exact h.symm

/-- Replacing the architectural state of a context that exists. -/
theorem State.modArch_eq (s : State) (c : CtxId) (x : Ctx) (f : Arch → Arch) (hx : s.job.ctx? c = some x) :
    s.modArch c f = s.withArch c x (f x.arch) := by
  unfold State.modArch State.withArch
  rw [Job.modCtx_eq _ _ _ _ hx]

end Sys2Proof.Machine
end

