-- ==== Sys2Proof/Tests/Slice0.lean ====
section
/-! SUPPORT. The author's own tests: ill-formed terms that WellFormed refuses, one small step of each family with a result
worked out from the spec, and for every statement with hypotheses a state and operands that meet them together (wit_...). -/

namespace Sys2Proof.Tests

open Machine Claim

set_option Elab.async false

/-! ### Small states -/

/-- The guard p0, not negated: always true (R251, R274). -/
def g0 : Guard := ⟨0, false⟩

/-- A context just created, resident in seat 0. -/
def cx : Ctx := { State.reset.ctxNew 0 0 7 0x100 0x100 0x100 with
  resid := .resident
  seat := some 0 }

/-- A running job with 16 bytes of code and context 0. -/
def run (x : Ctx) : State :=
  { State.reset with job := { (Job.cleared.setCtx 0 (some x)) with
      state := .running
      code := List.replicate 16 0 } }

/-- Its context has trick 0 open, the trick's boundary behind it. -/
def cxT : Ctx := { cx with
  tag := some 0
  last := some 0
  joined := [⟨0, false, cx.arch, []⟩] }
def begunT (s : State) : State := { s with job := { s.job with t0 := { s.job.t0 with begun := true } } }
def runT (x : Ctx) : State := begunT (run x)

/-- Register r of the context holds v. -/
def withReg (x : Ctx) (r : SReg) (v : Dword) : Ctx := { x with arch := x.arch.setReg r v }
def withHnd (x : Ctx) (h : HReg) (k : Hnd) : Ctx := { x with arch := x.arch.setHnd h (some k) }

/-- A buffer of the job with no scale, owned by context 0. -/
def buf (id : Nat) (cls : Cls) (fmt : Fmt) (rows cols : Nat) : Buffer where
  id := id
  owner := 0
  handle := id
  cls := cls
  fmt := fmt
  rows := rows
  cols := cols
  scale := .none
  prio := 0
  potP := 0
  potK := 0
  potTap := 0
  region := 0
  offset := 0
  mem := []
  place := .placed
  inAside := none
  moving := false
  lastAccess := 0
  declTrick := none
  relTrick := none
  released := false
  dead := false
  exp := none
  pubSealed := 0
  pubOpen := []
  recs := []
  nfrecs := []
  exchanged := []

def withBufs (s : State) (l : List Buffer) : State := { s with job := { s.job with
  bufs := l
  nextBuf := 100 } }

/-- Context 0 takes a word at once: what Takes asks beyond the context's being there. -/
theorem takes_of (s : State) (x : Ctx) (g : Guard) (legal : Bool) (uses : List SReg) (h : s.job.ctx? 0 = some x)
    (d : (x.canIssue && !s.waitsBoundary x && decide (x.arch.pc.toNat < s.job.code.length) && legal && x.arch.guard g &&
      !uses.any x.pendingReg) = true) : Takes s 0 x g legal uses := by
  simp only [Bool.and_eq_true, Bool.not_eq_true', decide_eq_true_eq] at d
  exact ⟨h, d.1.1.1.1.1, d.1.1.1.1.2, d.1.1.1.2, d.1.1.2, d.1.2, d.2⟩

/-! ### Scalar and control instructions -/

/-- R4: a reserved FUNCT, a set reserved bit and an operand in the field a form does not use are ill formed. -/
theorem test_wf_scalar : Instr.wf (.alu 0 ⟨g0, 1, 1, 1, 14, 0⟩) = false ∧ Instr.wf (.alu 0 ⟨g0, 1, 1, 1, 13, 1⟩) = false ∧
    Instr.wf (.alui 0 ⟨g0, 1, 1, 1, 0, 0, 5⟩) = false ∧ Instr.wf (.li 0 ⟨g0, 1, 0, 1, 5⟩) = false ∧
    Instr.wf (.cmp 0 ⟨g0, 1, 1, 1, 0, true, 0, 5⟩) = false ∧ Instr.wf (.cmp 0 ⟨g0, 1, 1, 1, 10, false, 0, 0⟩) = false ∧
    Instr.wf (.plog 0 ⟨g0, 1, 1, 0, 1, 1, 3, 0⟩) = false ∧ Instr.wf (.br 0 ⟨g0, 1, 0⟩) = false ∧
    Instr.wf (.jal 0 ⟨g0, 1, 1, 1, 0⟩) = false ∧ Instr.wf (.sld 0 ⟨g0, 1, 1, 1, 0, false, 1, 0⟩) = false ∧
    Instr.wf (.sst 0 ⟨g0, 1, 1, 1, 0, 8, 0⟩) = false ∧ Instr.wf (.exit 0 ⟨g0, 1⟩) = false := by decide

theorem wit_ScalarArithmetic : ∃ (s : State) (x : Ctx), (∃ f : AluF, Takes s 0 x f.g f.legal [f.sd, f.sa, f.sb]) ∧
    (∃ f : AluiF, Takes s 0 x f.g f.legal [f.sd, f.sa]) ∧ ∃ f : LiF, Takes s 0 x f.g f.legal [f.sd] :=
  ⟨run cx, cx, ⟨⟨g0, 3, 1, 2, 13, 0⟩, takes_of _ _ _ _ _ rfl (by decide)⟩,
    ⟨⟨g0, 0, 1, 0, 9, 0, 0xFFFFFFFF⟩, takes_of _ _ _ _ _ rfl (by decide)⟩,
    ⟨⟨g0, 31, 1, 0, 0x80000000⟩, takes_of _ _ _ _ _ rfl (by decide)⟩⟩

/-- A step's next state's context 0 and its register r. -/
def ctx0 (o : Host.Outcome State Fault Refusal) : Option Ctx := match o with
  | .next t => t.job.ctx? 0
  | _ => none
def reg0 (o : Host.Outcome State Fault Refusal) (r : SReg) : Option Dword := (ctx0 o).map fun x => x.arch.reg r
def pc0 (o : Host.Outcome State Fault Refusal) : Option Dword := (ctx0 o).map fun x => x.arch.pc

/-- Table 10-3: SUB wraps, SRA shifts by the low six bits, MULHU gives the upper half; LI FUNCT 1 keeps the low half; the immediate is
sign-extended. s1 is 7 and s2 is 0 in a context just created (R344). -/
theorem test_alu_values : reg0 (exec (.alu 0 ⟨g0, 3, 2, 1, 1, 0⟩) (run cx)) 3 = some 0xFFFFFFFFFFFFFFF9 ∧
    reg0 (exec (.alui 0 ⟨g0, 3, 1, 0, 9, 0, 0xFFFFFFC1⟩) (run cx)) 3 = some 3 ∧
    reg0 (exec (.alu 0 ⟨g0, 3, 1, 1, 3, 0⟩) (run (withReg cx 1 0x8000000000000000))) 3 = some 0x4000000000000000 ∧
    reg0 (exec (.li 0 ⟨g0, 1, 1, 0, 0x80000000⟩) (run cx)) 1 = some 0x8000000000000007 ∧
    reg0 (exec (.alui 0 ⟨g0, 3, 2, 0, 0, 0, 0xFFFFFFFF⟩) (run cx)) 3 = some 0xFFFFFFFFFFFFFFFF ∧
    pc0 (exec (.alu 0 ⟨g0, 0, 2, 1, 1, 0⟩) (run cx)) = some 8 := by decide

theorem wit_ComparesAndLogic : ∃ (s : State) (x : Ctx),
    (∃ f : CmpF, Takes s 0 x f.g f.legal (if f.useImm then [f.sa] else [f.sa, f.sb])) ∧
    ∃ f : PlogF, Takes s 0 x f.g f.legal (if f.funct.toNat ≥ 4 then [f.sd] else []) :=
  ⟨run cx, cx, ⟨⟨g0, 7, 1, 0, 9, true, 0, 5⟩, takes_of _ _ _ _ _ rfl (by decide)⟩,
    ⟨⟨g0, 0, 3, 0, 0, 4, 5, 0⟩, takes_of _ _ _ _ _ rfl (by decide)⟩⟩

/-- SLT is signed and SLTU unsigned (R278): -1 against 7. -/
theorem test_cmp_signed : ((ctx0 (exec (.cmp 0 ⟨g0, 2, 3, 1, 2, false, 0, 0⟩) (run (withReg cx 3 0xFFFFFFFFFFFFFFFF)))).map fun x =>
      x.arch.pred 2) = some true ∧
    ((ctx0 (exec (.cmp 0 ⟨g0, 2, 3, 1, 3, false, 0, 0⟩) (run (withReg cx 3 0xFFFFFFFFFFFFFFFF)))).map fun x => x.arch.pred 2) =
      some false := by decide

/-- The last word of the code is a good target, its end is none. -/
theorem wit_Branches : ∃ (s : State) (x : Ctx), (∃ f : BrF, Takes s 0 x f.g f.legal [] ∧
      (BitVec.ofInt 64 (x.arch.pc.toNat + 8 * f.off.toInt)).toNat % 8 = 0 ∧
      (BitVec.ofInt 64 (x.arch.pc.toNat + 8 * f.off.toInt)).toNat + 8 = s.job.code.length) ∧
    (∃ f : BrF, Takes s 0 x f.g f.legal [] ∧ (BitVec.ofInt 64 (x.arch.pc.toNat + 8 * f.off.toInt)).toNat = s.job.code.length) ∧
    (∃ f : JalF, Takes s 0 x f.g f.legal [f.sd, f.sa] ∧ scalarAddr x f.sa f.imm = 8) ∧
    ∃ f : JalF, Takes s 0 x f.g f.legal [f.sd, f.sa] ∧ scalarAddr x f.sa f.imm = 7 :=
  ⟨run cx, cx, ⟨⟨g0, 0, 1⟩, takes_of _ _ _ _ _ rfl (by decide), by decide, by decide⟩,
    ⟨⟨g0, 0, 2⟩, takes_of _ _ _ _ _ rfl (by decide), by decide⟩,
    ⟨⟨g0, 1, 1, 0, 1⟩, takes_of _ _ _ _ _ rfl (by decide), by decide⟩,
    ⟨⟨g0, 1, 1, 0, 0⟩, takes_of _ _ _ _ _ rfl (by decide), by decide⟩⟩

/-- A buffer of 16 bytes, RESIDENT, at handle 1. -/
def sm : State := withBufs (run (withHnd cx 1 ⟨1, true, true⟩)) [{ buf 1 .resident .byte 1 16 with mem := [(8, 0x80), (15, 0xFF)] }]
def smx : Ctx := withHnd cx 1 ⟨1, true, true⟩
def smk : Hnd := ⟨1, true, true⟩
def smb : Buffer := { buf 1 .resident .byte 1 16 with mem := [(8, 0x80), (15, 0xFF)] }

/-- The last eight bytes of the buffer are loaded and stored. -/
theorem wit_ScalarMemory : (∃ f : SldF, Takes sm 0 smx f.g f.legal [f.sd, f.sa] ∧ ScalarOk sm smx f.bh smk smb
      (scalarAddr smx f.sa f.imm) (2 ^ f.size.toNat) false) ∧
    ∃ f : SstF, Takes sm 0 smx f.g f.legal [f.ss, f.sa] ∧ ScalarOk sm smx f.bh smk smb
      (scalarAddr smx f.sa f.imm) (2 ^ f.size.toNat) true :=
  ⟨⟨⟨g0, 3, 1, 1, 3, true, 0, 1⟩, takes_of _ _ _ _ _ rfl (by decide), rfl, by decide, by decide, by decide, by decide, rfl, rfl⟩,
    ⟨⟨g0, 1, 1, 1, 3, 0, 1⟩, takes_of _ _ _ _ _ rfl (by decide), rfl, by decide, by decide, by decide, by decide, rfl, rfl⟩⟩

/-- R280: little-endian, sign-extended on SX. -/
theorem test_sld_extends : reg0 (exec (.sld 0 ⟨g0, 3, 0, 1, 0, true, 0, 8⟩) sm) 3 = some 0xFFFFFFFFFFFFFF80 ∧
    reg0 (exec (.sld 0 ⟨g0, 3, 0, 1, 3, true, 0, 8⟩) sm) 3 = some 0xFF00000000000080 ∧
    reg0 (exec (.sld 0 ⟨g0, 3, 0, 1, 0, false, 0, 15⟩) sm) 3 = some 0xFF := by decide

theorem wit_ExitEndsContext : (∃ (f : BareF), Takes (run cx) 0 cx f.g f.legal [] ∧ cx.tag = none ∧ cx.joined = []) ∧
    ∃ x : Ctx, (run x).job.ctx? 0 = some x ∧ x.resid = .resident ∧ x.stall = some .exit ∧ x.joined = [] :=
  ⟨⟨⟨g0, 0⟩, takes_of _ _ _ _ _ rfl (by decide), rfl, rfl⟩, ⟨{ cx with stall := some .exit }, rfl, rfl, rfl, rfl⟩⟩

theorem wit_TrickTagMisuse : (∃ (f : BareF), Takes (runT cxT) 0 cxT f.g f.legal [] ∧ cxT.tag.isSome) ∧
    (∃ (f : TbeginF), Takes (runT cxT) 0 cxT f.g f.legal [f.sd] ∧ cxT.tag.isSome) ∧
    ∃ (f : BareF), Takes (run cx) 0 cx f.g f.legal [] ∧ cx.tag = none :=
  ⟨⟨⟨g0, 0⟩, takes_of _ _ _ _ _ rfl (by decide), rfl⟩, ⟨⟨g0, 1, 0⟩, takes_of _ _ _ _ _ rfl (by decide), rfl⟩,
    ⟨⟨g0, 0⟩, takes_of _ _ _ _ _ rfl (by decide), rfl⟩⟩

/-! ### Buffers -/

/-- Handle 1 owns buffer 1. -/
def hx : Ctx := withHnd cx 1 ⟨1, true, true⟩

theorem test_wf_buffers : Instr.wf (.decl 0 ⟨g0, 1, 1, 1, 1, 1⟩) = false ∧ Instr.wf (.spillr 0 ⟨g0, 1, 1, 0⟩) = false ∧
    Instr.wf (.rel 0 ⟨g0, 1, 1⟩) = false ∧ Instr.wf (.shareExport 0 ⟨g0, 1, 1, true, 1⟩) = false ∧
    Instr.wf (.shareBind 0 ⟨g0, 1, 1, true, 1⟩) = false := by decide

/-- DECL of a 1 by 16 RESIDENT BYTE buffer (CLASS 1, FMT 6) into handle 63. -/
def dx : Ctx := withReg (withReg cx 3 0x1000000001) 4 0x31
theorem wit_Decl : ∃ (f : DeclF) (q : DeclReq) (sb : Nat), Takes (run dx) 0 dx f.g f.legal [f.sS, f.sA, f.sT] ∧
    (run dx).job.live (dx.arch.hnd f.bh) = none ∧ declReq (dx.arch.reg f.sS) (dx.arch.reg f.sA) (dx.arch.reg f.sT) = some (q, false) ∧
    (run dx).declScale dx q = some sb ∧
    (run dx).declRoom q (q.buffer (run dx).job.nextBuf 0 f.bh sb dx.tag (run dx).job.nextUid) = none ∧
    (run dx).fits ((run dx).job.units (q.buffer (run dx).job.nextBuf 0 f.bh sb dx.tag (run dx).job.nextUid)) noUnits = true :=
  ⟨⟨g0, 63, 3, 4, 0, 0⟩, ((declReq 0x1000000001 0x31 0).get (by decide)).1, 0, takes_of _ _ _ _ _ rfl (by decide), rfl,
    by decide, by decide, by decide, by decide⟩

/-- The step enters the buffer with that shape (Table 10-7). -/
theorem test_decl_shape : (match exec (.decl 0 ⟨g0, 63, 3, 4, 0, 0⟩) (run dx) with
    | .next t => t.job.bufs.map fun b => (b.rows, b.cols, b.cls, b.fmt, b.owner)
    | _ => []) = [(1, 16, Cls.resident, Fmt.byte, 0)] := by decide

/-- A context whose register 3 holds v. -/
def vx (v : Dword) : Ctx := withReg cx 3 v
theorem wit_Spillr : ∃ f : SpillrF, (∃ x, Takes (run x) 0 x f.g f.legal [f.sS] ∧ (x.arch.reg f.sS).toNat = 0 ∧
      (run x).job.dramUsed ≤ 958 * 2 ^ 30) ∧
    (∃ x, Takes (run x) 0 x f.g f.legal [f.sS] ∧ (x.arch.reg f.sS).toNat % 4096 ≠ 0 ∧
      (run x).job.dramUsed + (x.arch.reg f.sS).toNat ≤ 958 * 2 ^ 30) ∧
    (∃ x, Takes (run x) 0 x f.g f.legal [f.sS] ∧ x.spill.isSome ∧ (run x).job.dramUsed + (x.arch.reg f.sS).toNat ≤ 958 * 2 ^ 30) ∧
    (∃ x, Takes (run x) 0 x f.g f.legal [f.sS] ∧ (x.arch.reg f.sS).toNat ∉ x.aside ∧
      (run x).job.dramUsed + (x.arch.reg f.sS).toNat = 958 * 2 ^ 30 + 1) ∧
    (∃ x, Takes (run x) 0 x f.g f.legal [f.sS] ∧ (x.arch.reg f.sS).toNat % 4096 = 0 ∧ x.spill = none ∧
      (run x).job.dramUsed + (x.arch.reg f.sS).toNat = 958 * 2 ^ 30) ∧
    ∃ x, Takes (run x) 0 x f.g f.legal [f.sS] ∧ (x.arch.reg f.sS).toNat ≠ 0 ∧ x.spill = none ∧ (x.arch.reg f.sS).toNat ∈ x.aside :=
  ⟨⟨g0, 0, 3, 0⟩, ⟨cx, takes_of _ _ _ _ _ rfl (by decide), rfl, by decide⟩,
    ⟨vx 4097, takes_of _ _ _ _ _ rfl (by decide), by decide, by decide⟩,
    ⟨{ vx 4096 with spill := some 4096 }, takes_of _ _ _ _ _ rfl (by decide), rfl, by decide⟩,
    ⟨vx 0xEF80000001, takes_of _ _ _ _ _ rfl (by decide), by decide, by decide⟩,
    ⟨vx 0xEF80000000, takes_of _ _ _ _ _ rfl (by decide), by decide, rfl, by decide⟩,
    ⟨{ vx 4096 with aside := [4096] }, takes_of _ _ _ _ _ rfl (by decide), by decide, rfl, by decide⟩⟩

theorem wit_Rel : (∃ f : RelF, Takes (run cx) 0 cx f.g f.legal [] ∧ (run cx).job.live (cx.arch.hnd f.bh) = none) ∧
    (∃ (f : RelF) (k : Hnd) (b : Buffer), Takes sm 0 smx f.g f.legal [] ∧ sm.job.live (smx.arch.hnd f.bh) = some (k, b) ∧ k.owner = true) ∧
    ∃ (f : RelF) (s : State) (x : Ctx) (k : Hnd) (b : Buffer), Takes s 0 x f.g f.legal [] ∧ s.job.live (x.arch.hnd f.bh) = some (k, b) ∧
      k.owner = false :=
  ⟨⟨⟨g0, 1, 0⟩, takes_of _ _ _ _ _ rfl (by decide), rfl⟩,
    ⟨⟨g0, 1, 0⟩, smk, smb, takes_of _ _ _ _ _ rfl (by decide), rfl, rfl⟩,
    ⟨⟨g0, 63, 0⟩, withBufs (run (withHnd cx 63 ⟨1, false, false⟩)) [{ buf 1 .stream .bf16 1 1 with exp := some (9, false, none) }],
      withHnd cx 63 ⟨1, false, false⟩, ⟨1, false, false⟩, { buf 1 .stream .bf16 1 1 with exp := some (9, false, none) },
      takes_of _ _ _ _ _ rfl (by decide), rfl, rfl⟩⟩

theorem wit_Share : ∃ f : ShareF,
    (∃ x, Takes (run x) 0 x f.g f.legal [f.sI] ∧ (x.arch.reg f.sI).toNat = 0 ∧ (run x).job.live (x.arch.hnd f.bh) = none) ∧
    (∃ x, Takes (run x) 0 x f.g f.legal [f.sI] ∧ (x.arch.reg f.sI).toNat = 4096) ∧
    (∃ s x k b, Takes s 0 x f.g f.legal [f.sI] ∧ s.job.live (x.arch.hnd f.bh) = some (k, b) ∧ k.owner = true ∧ b.exp = none ∧
      (x.arch.reg f.sI).toNat = 0 ∧ s.job.exported 0 = none) ∧
    (∃ s x k b, Takes s 0 x f.g f.legal [f.sI] ∧ s.job.live (x.arch.hnd f.bh) = some (k, b) ∧ k.owner = true ∧ b.exp.isSome) ∧
    (∃ s x k b, Takes s 0 x f.g f.legal [f.sI] ∧ s.job.live (x.arch.hnd f.bh) = some (k, b) ∧ k.owner = false) ∧
    (∃ s x, Takes s 0 x f.g f.legal [f.sI] ∧ (x.arch.reg f.sI).toNat = 1 ∧ s.job.exported 1 = none) ∧
    (∃ s x b, Takes s 0 x f.g f.legal [f.sI] ∧ (x.arch.reg f.sI).toNat = 4095 ∧ s.job.exported 4095 = some b ∧
      b.exp = some (4095, false, none) ∧ f.acc = true) ∧
    (∃ s x b, Takes s 0 x f.g f.legal [f.sI] ∧ (x.arch.reg f.sI).toNat = 4095 ∧ s.job.exported 4095 = some b ∧
      b.exp = some (4095, true, none) ∧ (s.job.live (x.arch.hnd f.bh)).isSome) ∧
    (∃ s x k b, Takes s 0 x f.g f.legal [f.sI] ∧ (x.arch.reg f.sI).toNat = 4095 ∧ s.job.live (x.arch.hnd f.bh) = some (k, b) ∧
      k.owner = true ∧ b.exp = none ∧ s.job.exported 4095 = none) ∧
    ∃ s x b a k, Takes s 0 x f.g f.legal [f.sI] ∧ (x.arch.reg f.sI).toNat = 4095 ∧ s.job.live (x.arch.hnd f.bh) = none ∧
      s.job.exported 4095 = some b ∧ b.exp = some (4095, a, k) ∧ (f.acc = true → a = true) :=
  let bx := { buf 1 .stash .u32 1 1 with exp := some (4095, true, none) };
  let br := { buf 1 .stash .u32 1 1 with exp := some (4095, false, none) };
  ⟨⟨g0, 1, 3, true, 0⟩, ⟨cx, takes_of _ _ _ _ _ rfl (by decide), rfl, rfl⟩, ⟨vx 4096, takes_of _ _ _ _ _ rfl (by decide), rfl⟩,
    ⟨sm, smx, smk, smb, takes_of _ _ _ _ _ rfl (by decide), rfl, rfl, rfl, rfl, rfl⟩,
    ⟨withBufs (run hx) [bx], hx, smk, bx, takes_of _ _ _ _ _ rfl (by decide), rfl, rfl, rfl⟩,
    ⟨withBufs (run (withHnd cx 1 ⟨1, false, true⟩)) [bx], withHnd cx 1 ⟨1, false, true⟩, ⟨1, false, true⟩, bx,
      takes_of _ _ _ _ _ rfl (by decide), rfl, rfl⟩,
    ⟨run (vx 1), vx 1, takes_of _ _ _ _ _ rfl (by decide), rfl, rfl⟩,
    ⟨withBufs (run (vx 4095)) [br], vx 4095, br, takes_of _ _ _ _ _ rfl (by decide), rfl, rfl, rfl, rfl⟩,
    ⟨withBufs (run (withReg hx 3 4095)) [bx], withReg hx 3 4095, bx, takes_of _ _ _ _ _ rfl (by decide), rfl, rfl, rfl, rfl⟩,
    ⟨withBufs (run (withReg hx 3 4095)) [buf 1 .stash .u32 1 1], withReg hx 3 4095, smk, buf 1 .stash .u32 1 1,
      takes_of _ _ _ _ _ rfl (by decide), rfl, rfl, rfl, rfl, rfl⟩,
    ⟨withBufs (run (vx 4095)) [bx], vx 4095, bx, true, none, takes_of _ _ _ _ _ rfl (by decide), rfl, rfl, rfl, rfl, fun _ => rfl⟩⟩

/-! ### Events, fences, tricks and queries -/

theorem test_wf_tricks : Instr.wf (.wait 0 ⟨g0, 1, 1, 1, 0⟩) = false ∧ Instr.wf (.evtRead 0 ⟨g0, 1, 1, 0, 1⟩) = false ∧
    Instr.wf (.evtSet 0 ⟨g0, 1, 1, 0, 1⟩) = false ∧ Instr.wf (.evtAdd 0 ⟨g0, 1, 1, 0, 1⟩) = false ∧
    Instr.wf (.evtBind 0 ⟨g0, 1, 0, 1, 1⟩) = false ∧ Instr.wf (.evtLocal 0 ⟨g0, 1, 0, 0, 1⟩) = false ∧
    Instr.wf (.fence 0 ⟨g0, 1, 1⟩) = false ∧ Instr.wf (.tbegin 0 ⟨g0, 1, 1⟩) = false ∧ Instr.wf (.tseal 0 ⟨g0, 1⟩) = false ∧
    Instr.wf (.queryTag 0 ⟨g0, 1, 0, true, 0⟩) = false ∧ Instr.wf (.queryLastjoin 0 ⟨g0, 1, 0, true, 0⟩) = false ∧
    Instr.wf (.queryFlags 0 ⟨g0, 1, 1, true, 1⟩) = false ∧ Instr.wf (.queryUpdstat 0 ⟨g0, 1, 0, false, 1⟩) = false ∧
    Instr.wf (.queryFeature 0 ⟨g0, 1, 0, true, 0⟩) = false ∧ Instr.wf (.queryMembers 0 ⟨g0, 1, 0, true, 0⟩) = false ∧
    Instr.wf (.queryNumshare 0 ⟨g0, 1, 1, true, 0⟩) = false := by decide

/-- A wait holds at a distance of zero and does not one below it; across the counter's wrap it holds. -/
theorem wit_Wait : ∃ f : WaitF,
    (∃ s x, Takes s 0 x f.g f.legal [f.sN] ∧ s.job.boundGone (x.arch.ctr f.e) = false ∧
      s.job.ctrVal x f.e - BitVec.ofNat 32 ((x.arch.reg f.sN).toNat + f.imm.toNat) = 0) ∧
    (∃ s x, Takes s 0 x f.g f.legal [f.sN] ∧ s.job.boundGone (x.arch.ctr f.e) = false ∧
      (s.job.ctrVal x f.e - BitVec.ofNat 32 ((x.arch.reg f.sN).toNat + f.imm.toNat)).toNat = 2 ^ 32 - 1) ∧
    (∃ s x, Takes s 0 x f.g f.legal [f.sN] ∧
      (s.job.ctrVal x f.e - BitVec.ofNat 32 ((x.arch.reg f.sN).toNat + f.imm.toNat)).toNat = 2 ^ 31 - 1) ∧
    ∃ (s : State) (x : Ctx) (e : EReg) (n : Word) (w : Dword), s.job.ctx? 0 = some x ∧ x.resid = .resident ∧
      x.stall = some (.wait e n w) ∧ s.job.boundGone (x.arch.ctr e) = false ∧ (s.job.ctrVal x e - n).toNat = 2 ^ 31 - 1 :=
  let x2 := { cx with arch := cx.arch.setCtr 15 ⟨0x80000000, none⟩ };
  ⟨⟨g0, 15, 0, 0, 1⟩, ⟨run { cx with arch := cx.arch.setCtr 15 ⟨1, none⟩ }, { cx with arch := cx.arch.setCtr 15 ⟨1, none⟩ },
      takes_of _ _ _ _ _ rfl (by decide), rfl, by decide⟩,
    ⟨run cx, cx, takes_of _ _ _ _ _ rfl (by decide), rfl, by decide⟩,
    ⟨run x2, x2, takes_of _ _ _ _ _ rfl (by decide), by decide⟩,
    ⟨run { x2 with stall := some (.wait 15 1 0) }, { x2 with stall := some (.wait 15 1 0) }, 15, 1, 0, rfl, rfl, rfl, rfl, by decide⟩⟩

theorem wit_Counters : ∃ f : EvtF,
    (∃ s x, Takes s 0 x f.g f.legal [f.s] ∧ s.job.boundGone (x.arch.ctr f.e) = false ∧ (x.arch.ctr f.e).bound = none) ∧
    (∃ s x, Takes s 0 x f.g f.legal [f.s] ∧ (x.arch.ctr f.e).bound.isSome) ∧
    (∃ s x k b, Takes s 0 x f.g f.legal [] ∧ s.job.live (x.arch.hnd f.bh) = some (k, b)) ∧
    ∃ s x, Takes s 0 x f.g f.legal [] ∧ s.job.live (x.arch.hnd f.bh) = none :=
  let xb := { cx with arch := cx.arch.setCtr 15 ⟨0, some 1⟩ };
  ⟨⟨g0, 15, 1, 1, 0⟩, ⟨run cx, cx, takes_of _ _ _ _ _ rfl (by decide), rfl, rfl⟩, ⟨run xb, xb, takes_of _ _ _ _ _ rfl (by decide), rfl⟩,
    ⟨sm, smx, smk, smb, takes_of _ _ _ _ _ rfl (by decide), rfl⟩, ⟨run cx, cx, takes_of _ _ _ _ _ rfl (by decide), rfl⟩⟩

/-- R295: ADD is modulo 2^32, READ zero-extends. -/
theorem test_evt : ((ctx0 (exec (.evtAdd 0 ⟨g0, 15, 1, 0, 0⟩) (run { cx with arch := cx.arch.setCtr 15 ⟨0xFFFFFFFF, none⟩ }))).map fun x =>
      (x.arch.ctr 15).val) = some 6 ∧
    reg0 (exec (.evtRead 0 ⟨g0, 15, 3, 0, 0⟩) (run { cx with arch := cx.arch.setCtr 15 ⟨0xFFFFFFFF, none⟩ })) 3 = some 0xFFFFFFFF := by
  decide

/-- An engine instruction in a queue, nothing of it done: a FILL of buffer 1. -/
def qe : QE where
  uid := 50
  op := .fill 1 0 0 1 1 0
  trick := 0
  pc := 0
  insn := 0
  ec := none
  pub := none
  sum := none
  sumVal := 0
  reads := []
  writes := [1]
  units := []
  cells := []
  granted := false
  wait := none
  begun := false
  settled := false
  flags := 0
  late := none
  bkts := []
  hnds := []

theorem wit_Fence : (∃ f : FenceF, Takes (run cx) 0 cx f.g f.legal [] ∧ f.mask = 0) ∧
    (∃ f : FenceF, Takes (run cx) 0 cx f.g f.legal [] ∧ f.mask = 7 ∧ cx.qm = [] ∧ cx.qv = [] ∧ cx.qc = []) ∧
    (∃ (f : FenceF) (x : Ctx), Takes (run x) 0 x f.g f.legal [] ∧ f.mask = 1 ∧ x.qc ≠ []) ∧
    (∃ (f : FenceF) (x : Ctx), Takes (run x) 0 x f.g f.legal [] ∧ f.mask = 6 ∧ x.qc ≠ [] ∧ x.qm = [] ∧ x.qv = []) ∧
    ∃ x m, (run x).job.ctx? 0 = some x ∧ x.resid = .resident ∧ x.stall = some (.fence m) ∧ m = 7 ∧ x.qm = [] ∧ x.qv = [] ∧ x.qc = [] :=
  ⟨⟨⟨g0, 0, 0⟩, takes_of _ _ _ _ _ rfl (by decide), rfl⟩, ⟨⟨g0, 7, 0⟩, takes_of _ _ _ _ _ rfl (by decide), rfl, rfl, rfl, rfl⟩,
    ⟨⟨g0, 1, 0⟩, { cx with qc := [qe] }, takes_of _ _ _ _ _ rfl (by decide), rfl, by decide⟩,
    ⟨⟨g0, 6, 0⟩, { cx with qc := [qe] }, takes_of _ _ _ _ _ rfl (by decide), rfl, by decide, rfl, rfl⟩,
    ⟨{ cx with stall := some (.fence 7) }, 7, rfl, rfl, rfl, rfl, rfl, rfl, rfl⟩⟩

/-- The greatest joinable trick number, 2^48 - 2, is one a statement covers. -/
def lastTrick (x : Ctx) : State := { run x with stat := { Stat.reset with sealedN := 2 ^ 48 - 2 } }
theorem wit_Tbegin : (∃ f : TbeginF, Takes (run cx) 0 cx f.g f.legal [f.sd] ∧ cx.tag = none ∧ (run cx).tbeginHeld cx = false ∧
      (run cx).job.halt = false) ∧
    (∃ f : TbeginF, Takes (lastTrick cx) 0 cx f.g f.legal [f.sd] ∧ cx.tag = none ∧ cx.last = none ∧
      (lastTrick cx).tbeginHeld cx = false ∧ (lastTrick cx).stat.sealedN = 2 ^ 48 - 2) ∧
    (∃ x sd w, (run x).job.ctx? 0 = some x ∧ x.resid = .resident ∧ x.stall = some (.tbegin sd w) ∧ (run x).tbeginHeld x = false ∧
      (run x).job.halt = false) ∧
    (∃ (f : TbeginF) (x : Ctx) (s : State), Takes s 0 x f.g f.legal [f.sd] ∧ x.tag = none ∧ s.job.halt = true) ∧
    (∃ (f : TbeginF) (x : Ctx) (s : State), Takes s 0 x f.g f.legal [f.sd] ∧ x.tag = none ∧ x.last = some (2 ^ 48 - 2)) ∧
    ∃ f : BareF, Takes (runT cxT) 0 cxT f.g f.legal [] ∧ cxT.tag = some 0 :=
  ⟨⟨⟨g0, 1, 0⟩, takes_of _ _ _ _ _ rfl (by decide), rfl, by decide, rfl⟩,
    ⟨⟨g0, 0, 0⟩, takes_of _ _ _ _ _ rfl (by decide), rfl, rfl, by decide, rfl⟩,
    ⟨{ cx with stall := some (.tbegin 1 0) }, 1, 0, rfl, rfl, rfl, by decide, rfl⟩,
    ⟨⟨g0, 1, 0⟩, cx, { run cx with job := { (run cx).job with halt := true } }, takes_of _ _ _ _ _ rfl (by decide), rfl, rfl⟩,
    ⟨⟨g0, 1, 0⟩, { cx with last := some (2 ^ 48 - 2) }, run { cx with last := some (2 ^ 48 - 2) }, takes_of _ _ _ _ _ rfl (by decide), rfl, rfl⟩, ⟨⟨g0, 0⟩, takes_of _ _ _ _ _ rfl (by decide), rfl⟩⟩

theorem wit_Queries : ∃ f : QueryF, Takes (run cx) 0 cx f.g (f.legal 0) [f.sd] ∧ Takes (run cx) 0 cx f.g (f.legal 1) [f.sd] ∧
    Takes (run cx) 0 cx f.g (f.legal 4) [f.sd] ∧ Takes (run cx) 0 cx f.g (f.legal 5) [f.sd] ∧
    Takes (run cx) 0 cx f.g (f.legal 3) [f.sd] ∧ (run cx).queryHeld cx = false ∧ cx.passOpen = false :=
  ⟨⟨g0, 31, 0, false, 0⟩, takes_of _ _ _ _ _ rfl (by decide), takes_of _ _ _ _ _ rfl (by decide), takes_of _ _ _ _ _ rfl (by decide),
    takes_of _ _ _ _ _ rfl (by decide), takes_of _ _ _ _ _ rfl (by decide), by decide, by decide⟩
theorem wit_QueriesWithOperand : (∃ f : QueryF, Takes (run (vx 4)) 0 (vx 4) f.g (f.legal 6) [f.sd, f.sa] ∧ (run (vx 4)).queryHeld (vx 4) = false ∧
      ((vx 4).arch.reg f.sa).toNat % 8 = 4) ∧
    (∃ x sel sd sa, (run x).job.ctx? 0 = some x ∧ x.resid = .resident ∧ x.stall = some (.sealedQuery sel sd sa) ∧ (run x).queryHeld x = false ∧
      x.passOpen = false) ∧
    ∃ f : QueryF, Takes (run cx) 0 cx f.g (f.legal 2) [f.sd, f.sa] ∧ f.clr = true ∧ cx.qm = [] ∧ cx.qv = [] ∧ cx.qc = [] :=
  ⟨⟨⟨g0, 1, 3, false, 0⟩, takes_of _ _ _ _ _ rfl (by decide), by decide, by decide⟩,
    ⟨{ cx with stall := some (.sealedQuery 3 1 0) }, 3, 1, 0, rfl, rfl, rfl, by decide, by decide⟩,
    ⟨⟨g0, 1, 1, true, 0⟩, takes_of _ _ _ _ _ rfl (by decide), rfl, rfl, rfl, rfl⟩⟩

/-- R300: TAG reads all ones with none open, MEMBERS is 1 and rank 0 for a bench job (R500). -/
theorem test_queries : reg0 (exec (.queryTag 0 ⟨g0, 3, 0, false, 0⟩) (run cx)) 3 = some 0xFFFFFFFFFFFF ∧
    reg0 (exec (.queryTag 0 ⟨g0, 3, 0, false, 0⟩) (runT cxT)) 3 = some 0 ∧
    reg0 (exec (.queryMembers 0 ⟨g0, 3, 0, false, 0⟩) (run cx)) 3 = some 1 := by decide

/-! ### Engine instructions at issue -/

theorem test_wf_engine : Instr.wf (.copy 0 ⟨g0, 1, 2, 0, 0, 3, 0, 0, false, false, 1⟩) = false ∧
    Instr.wf (.gather 0 ⟨g0, 1, 2, 3, 0, 0, 0, 0, false, false, 1⟩) = false ∧
    Instr.wf (.scatter 0 ⟨g0, 1, 2, 3, 0, 0, 0, 0, false, false, 1⟩) = false ∧
    Instr.wf (.fill 0 ⟨g0, 1, 0, 3, 0, 1, 0, false, false, 0⟩) = false ∧
    Instr.wf (.mma 0 ⟨g0, 1, 2, 3, 0, 0, 0, 0, 0, false, false, 1⟩) = false ∧
    Instr.wf (.vew 0 ⟨g0, 1, 2, 3, 0x0E, 0, 0, 0, 0, 0, 0, false, false, 0⟩) = false ∧
    Instr.wf (.vew 0 ⟨g0, 1, 2, 3, 0, 0, 0, 0, 0, 0, 0, false, false, 0⟩) = false ∧
    Instr.wf (.vcmp 0 ⟨g0, 1, 2, 3, 8, 0, 0, 0, 0, 0, 0, false, false, 0⟩) = false ∧
    Instr.wf (.vlut 0 ⟨g0, 1, 2, 3, 1, 0, 0, 0, 0, 0, false, false, 0⟩) = false ∧
    Instr.wf (.vred 0 ⟨g0, 1, 2, 0, 11, 0, false, 0, 0, 0, 0, false, false, 0⟩) = false ∧
    Instr.wf (.vred 0 ⟨g0, 1, 2, 0, 0, 3, false, 0, 0, 0, 0, false, false, 0⟩) = false ∧
    Instr.wf (.vred 0 ⟨g0, 1, 2, 0, 0, 0, true, 0, 0, 0, 0, false, false, 0⟩) = false := by decide
theorem test_wf_compute : Instr.wf (.fold 0 ⟨g0, 1, 2, 3, 4, 5, 0, 0, false, false, 0, false, false, 0⟩) = false ∧
    Instr.wf (.loss 0 ⟨g0, 1, 2, 3, 4, 0, 0, 0, true, false, 0, false, false, 0⟩) = false ∧
    Instr.wf (.finish 0 ⟨g0, 1, 2, 0, 0, 0, 0, 0, false, false, 0, false, false, 0⟩) = false ∧
    Instr.wf (.grad 0 ⟨g0, 1, 2, 3, 4, 5, 0, 0, false, true, 0, false, false, 0⟩) = false ∧
    Instr.wf (.pass1 0 ⟨g0, 1, 2, 3, 4, 0, 0, false, false, 1⟩) = false ∧
    Instr.wf (.pass2 0 ⟨g0, 1, 2, 3, 4, 0, 0, false, false, 1⟩) = false ∧
    Instr.wf (.rebuild 0 ⟨g0, 1, 2, 3, 4, 0, 0, false, false, 1⟩) = false ∧
    Instr.wf (.ared 0 ⟨g0, 1, 2, 1, 0, 0, 0, false, false, 0⟩) = false ∧
    Instr.wf (.rscat 0 ⟨g0, 1, 2, 0, 0, 1, 0, false, false, 0⟩) = false ∧
    Instr.wf (.agath 0 ⟨g0, 1, 2, 1, 0, 0, 0, false, false, 0⟩) = false ∧
    Instr.wf (.bcast 0 ⟨g0, 1, 2, 0, 1, 0, 0, false, false, 0⟩) = false ∧
    Instr.wf (.send 0 ⟨g0, 1, 2, 0, 0, 0, 0, false, false, 0⟩) = false ∧
    Instr.wf (.recv 0 ⟨g0, 1, 2, 0, 0, 0, 0, false, false, 0⟩) = false := by decide

/-- Context 0 with trick 0 open, handles 1 to n owning the buffers of those numbers, and registers set. -/
def ex (n : Nat) (regs : List (SReg × Dword)) : Ctx :=
  (List.range n).foldl (fun x i => withHnd x (BitVec.ofNat 6 (i + 1)) ⟨i + 1, true, true⟩)
    (regs.foldl (fun x p => withReg x p.1 p.2) cxT)
def es (x : Ctx) (l : List Buffer) : State := withBufs (runT x) l

theorem ready_of (s : State) (x : Ctx) (k : EngKind) (g : Guard) (legal : Bool) (uses : List SReg) (f : Fin3) (early : List Nat)
    (iss : Issue) (h : s.job.ctx? 0 = some x)
    (d : (x.canIssue && !s.waitsBoundary x && decide (x.arch.pc.toNat < s.job.code.length) && legal && x.arch.guard g &&
      !(uses ++ f.sum.toList).any x.pendingReg) = true)
    (e : (decide ((x.queue k).length < 64) && s.job.earlyOk x early && x.tag == some 0 &&
      (!f.cnt || (x.arch.ctr f.ec).bound == none) && iss.bad == none && iss.op.isSome) = true) :
    ∃ op, EngineReady s 0 x k g legal uses f early iss op 0 := by
  simp only [Bool.and_eq_true, beq_iff_eq, decide_eq_true_eq, Bool.or_eq_true, Bool.not_eq_true', Option.isSome_iff_exists] at e
  obtain ⟨op, ho⟩ := e.2
  refine ⟨op, takes_of _ _ _ _ _ h d, e.1.1.1.1.1, e.1.1.1.1.2, e.1.1.1.2, fun hc => ?_, e.1.2, ho⟩
  rcases e.1.1.2 with q | q
  · rw [hc] at q; cases q
  · exact q

/-- Buffers: BYTE rows, FP32 and BF16 matrices, U32 columns. -/
def bB (id rows cols : Nat) : Buffer := buf id .resident .byte rows cols
def bF (id rows cols : Nat) : Buffer := buf id .resident .fp32 rows cols
def bH (id rows cols : Nat) : Buffer := buf id .resident .bf16 rows cols
def bU (id rows cols : Nat) : Buffer := buf id .resident .u32 rows cols
/-- A buffer with bytes written from its start. -/
def filled (b : Buffer) (l : List Byte) : Buffer := b.writeBytes 0 l

/-- COPY of the last element, GATHER and SCATTER of one row, FILL of a whole buffer. -/
theorem wit_CopiesEnterQueue :
    let x := ex 3 [(3, 0x100000001), (4, 0x100000000), (5, 0x200000002), (6, 0xFFFFFFFF)];
    let s := es x [bU 1 2 2, bU 2 2 2, bU 3 1 1];
    (∃ (f : CopyF) (op : EOp), EngineReady s 0 x .copy f.g f.legal [f.sDO, f.sSO, f.sEXT, f.sRC] ⟨f.ec, f.cnt, f.pub, none⟩ []
      (s.issueCopy x f) op 0) ∧
    (∃ (f : GatherF) (op : EOp), EngineReady s 0 x .copy f.g f.legal [f.sIX, f.sROW, f.sRC] ⟨f.ec, f.cnt, f.pub, none⟩ []
      (s.issueRows x f true) op 0) ∧
    (∃ (f : GatherF) (op : EOp), EngineReady s 0 x .copy f.g f.legal [f.sIX, f.sROW, f.sRC] ⟨f.ec, f.cnt, f.pub, none⟩ []
      (s.issueRows x f false) op 0) ∧
    ∃ (f : FillF) (op : EOp), EngineReady s 0 x .copy f.g f.legal [f.sDO, f.sEXT, f.sV] ⟨f.ec, f.cnt, f.pub, none⟩ []
      (s.issueFill x f) op 0 :=
  ⟨⟨⟨g0, 1, 2, 3, 0, 3, 0, 15, true, true, 0⟩, ready_of _ _ _ _ _ _ _ _ _ rfl (by decide) (by decide)⟩,
    ⟨⟨g0, 1, 2, 3, 4, 0, 0, 0, true, true, 0⟩, ready_of _ _ _ _ _ _ _ _ _ rfl (by decide) (by decide)⟩,
    ⟨⟨g0, 1, 2, 3, 4, 0, 0, 0, true, true, 0⟩, ready_of _ _ _ _ _ _ _ _ _ rfl (by decide) (by decide)⟩,
    ⟨⟨g0, 1, 0, 5, 6, 0, 0, true, true, 0⟩, ready_of _ _ _ _ _ _ _ _ _ rfl (by decide) (by decide)⟩⟩

/-- One output tile, begun ZERO and drained; each vector instruction over whole buffers. -/
theorem wit_MatrixEntersQueue :
    let x := ex 3 [(3, 0x1000000010000), (4, 0x100000000), (5, 4)];
    let s := es x [bF 1 2 2, bH 2 2 2, bH 3 2 2];
    ∃ (f : MmaF) (op : EOp), EngineReady s 0 x .matrix f.g f.legal [f.sG, f.sK, f.sC, f.sRC] ⟨f.ec, f.cnt, f.pub, none⟩
      (epiEarly (x.arch.reg f.sC) s.job x) (s.issueMma 0 x f) op 0 :=
  ⟨⟨g0, 1, 2, 3, 3, 4, 5, 0, 0, true, true, 0⟩, ready_of _ _ _ _ _ _ _ _ _ rfl (by decide) (by decide)⟩

theorem wit_VectorEntersQueue :
    let x := ex 5 [];
    let s := es x [bF 1 2 2, bF 2 2 2, bH 3 2 2, filled (bB 4 2 1) [1, 2], bF 5 2 1];
    (∃ (f : VewF) (op : EOp), EngineReady s 0 x .vector f.g f.legalEw [f.sX, f.sVC, f.sW] ⟨f.ec, f.cnt, f.pub, sumReg f.sS⟩ []
      (s.issueVew x f) op 0) ∧
    (∃ (f : VselF) (op : EOp), EngineReady s 0 x .vector f.g true [f.sX, f.sVC, f.sW] ⟨f.ec, f.cnt, f.pub, sumReg f.sS⟩ []
      (s.issueVsel x f) op 0) ∧
    (∃ (f : VewF) (op : EOp), EngineReady s 0 x .vector f.g f.legalCmp [f.sX, f.sVC, f.sW] ⟨f.ec, f.cnt, f.pub, sumReg f.sS⟩ []
      (s.issueVcmp x f) op 0) ∧
    ∃ (f : VredF) (op : EOp), EngineReady s 0 x .vector f.g f.legal [f.sVC, f.sW] ⟨f.ec, f.cnt, f.pub, sumReg f.sS⟩ []
      (s.issueVred x f) op 0 :=
  ⟨⟨⟨g0, 1, 2, 3, 1, 0, 0, 0, 0, 31, 0, true, true, 0⟩, ready_of _ _ _ _ _ _ _ _ _ rfl (by decide) (by decide)⟩,
    ⟨⟨g0, 1, 2, 3, 4, 0, 0, 0, 0, 0, 0, true, true, 0⟩, ready_of _ _ _ _ _ _ _ _ _ rfl (by decide) (by decide)⟩,
    ⟨⟨g0, 4, 1, 2, 0, 0, 0, 0, 0, 9, 0, true, true, 0⟩, ready_of _ _ _ _ _ _ _ _ _ rfl (by decide) (by decide)⟩,
    ⟨⟨g0, 5, 1, 0, 0, 0, false, 0, 0, 9, 0, true, true, 0⟩, ready_of _ _ _ _ _ _ _ _ _ rfl (by decide) (by decide)⟩⟩

theorem wit_LookupEntersQueue :
    let x := ex 3 [];
    let s := es x [bF 1 2 2, bF 2 2 2, filled (bB 3 1 288) [4, 1]];
    ∃ (f : VlutF) (op : EOp), EngineReady s 0 x .vector f.g f.legal [f.sVC, f.sW] ⟨f.ec, f.cnt, f.pub, sumReg f.sS⟩
      (earlyHnds [f.bt.toNat] s.job x) (s.issueVlut x f) op 0 :=
  ⟨⟨g0, 1, 2, 3, 0, 0, 0, 0, 0, 0, true, true, 0⟩, ready_of _ _ _ _ _ _ _ _ _ rfl (by decide) (by decide +kernel)⟩

/-- A parameter block of Table 11-10: V 2, K 1, no taps, T 1.0; keys and labels in buffer 4, LACC in buffer 5. -/
def blk : List Byte := [2, 0, 0, 0, 1, 0, 0, 0, 0, 0, 0x80, 0x3F, 0, 0, 0, 0, 0, 4, 4, 5]
def sx : Ctx := ex 7 [(3, 0x100000000)]
def ss : State := es sx [{ buf 1 .pot .byte 0 0 with
    potP := 1
    potK := 1 }, filled (bB 2 1 96) blk, bH 3 1 2, bU 4 1 1, bB 5 1 256, bH 6 2 2, bF 7 1 2]
def ssFin : State := { ss with job := { ss.job with t0 := { ss.job.t0 with finIssued := true } } }

theorem wit_SoftTargetsEnterQueue :
    (∃ (f : StsF) (op : EOp), EngineReady ss 0 sx .vector f.g (f.legal 0) [f.sW, f.sRC] ⟨f.ec, f.cnt, f.pub, none⟩
      (earlyHnds [f.bs.toNat] ss.job sx) (ss.issueSts sx 0 f) op 0) ∧
    (∃ (f : StsF) (op : EOp), EngineReady ss 0 sx .vector f.g (f.legal 1) [f.sW, f.sRC] ⟨f.ec, f.cnt, f.pub, none⟩
      (earlyHnds [f.bs.toNat] ss.job sx) (ss.issueSts sx 1 f) op 0) ∧
    (∃ (f : StsF) (op : EOp), EngineReady ss 0 sx .vector f.g (f.legal 2) [f.sW, f.sRC] ⟨f.ec, f.cnt, f.pub, none⟩
      (earlyHnds [f.bs.toNat] ss.job sx) (ss.issueSts sx 2 f) op 0) ∧
    ∃ (f : StsF) (op : EOp), EngineReady ssFin 0 sx .vector f.g (f.legal 3) [f.sW, f.sRC] ⟨f.ec, f.cnt, f.pub, none⟩
      (earlyHnds [f.bs.toNat] ssFin.job sx) (ssFin.issueSts sx 3 f) op 0 :=
  ⟨⟨⟨g0, 1, 2, 3, 6, 0, 3, 0, false, false, 0, true, true, 0⟩, ready_of _ _ _ _ _ _ _ _ _ rfl (by decide) (by decide)⟩,
    ⟨⟨g0, 1, 2, 3, 6, 0, 3, 0, false, true, 0, true, true, 0⟩, ready_of _ _ _ _ _ _ _ _ _ rfl (by decide) (by decide)⟩,
    ⟨⟨g0, 0, 2, 0, 0, 0, 0, 0, false, false, 0, true, true, 0⟩, ready_of _ _ _ _ _ _ _ _ _ rfl (by decide) (by decide)⟩,
    ⟨⟨g0, 1, 2, 3, 6, 7, 3, 0, false, false, 0, true, true, 0⟩, ready_of _ _ _ _ _ _ _ _ _ rfl (by decide) (by decide)⟩⟩

/-- A coefficient table of one group without moments or a work format (Table 07-1), every coefficient fixed, TC 1.0; a tensor list
of one element (Table 07-3). -/
def coefB (a b : Byte) : List Byte := [0, 0, a, b, 0xFF, 0xFF, 0, 0]
def ctab : List Byte := [1, 0, 0, 0, 0, 0, 0, 0] ++ coefB 0 0 ++ List.replicate 48 0 ++ [0, 0, 1, 0] ++ List.replicate 12 0 ++
  (List.replicate 11 (coefB 0 0)).flatten ++ coefB 0x80 0x3F ++ coefB 0 0
def tlist : List Byte := [5, 0xFF, 0, 0, 1, 0, 0, 0]
def ux : Ctx := ex 5 [(3, 4096)]
def us : State := es ux [filled (bB 1 1 192) ctab, filled (bB 2 1 32) tlist, buf 3 .state .byte 1 8192, buf 4 .state .byte 1 96,
  buf 5 .stash .fp16 1 1]
/-- Pass one has been issued in the trick. -/
def us2 : State := { us with job := { us.job with t0 := { us.job.t0 with
  upd := some ⟨0, 9, ⟨0, 1, 2, 3, 4, 4096, [1, 2, 3, 4], ⟨⟨0, none⟩, [], [], []⟩⟩, [], false, false, 0, [], [], [], [], false, false,
    false, false, false, 0, 0, 4, []⟩ } } }

theorem wit_UpdatePassesEnterQueue :
    (∃ (f : UpdF) (op : EOp), EngineReady us 0 ux .vector f.g f.legal [f.sH] ⟨f.ec, f.cnt, f.pub, none⟩
      (earlyHnds [f.bc.toNat, f.bt.toNat] us.job ux) (us.issueUpd 0 ux 0 f) op 0) ∧
    (∃ (f : UpdF) (op : EOp), EngineReady us2 0 ux .vector f.g f.legal [f.sH] ⟨f.ec, f.cnt, f.pub, none⟩ [] (us2.issueUpd 0 ux 1 f) op 0) ∧
    ∃ (f : UpdF) (op : EOp), EngineReady us 0 ux .vector f.g f.legal [f.sH] ⟨f.ec, f.cnt, f.pub, none⟩
      (earlyHnds [f.bc.toNat, f.bt.toNat] us.job ux) (us.issueUpd 0 ux 2 f) op 0 :=
  ⟨⟨⟨g0, 1, 2, 3, 4, 3, 0, true, true, 0⟩, ready_of _ _ _ _ _ _ _ _ _ rfl (by decide) (by decide +kernel)⟩,
    ⟨⟨g0, 1, 2, 3, 4, 3, 0, true, true, 0⟩, ready_of _ _ _ _ _ _ _ _ _ rfl (by decide) (by decide +kernel)⟩,
    ⟨⟨g0, 1, 2, 3, 4, 3, 0, true, true, 0⟩, ready_of _ _ _ _ _ _ _ _ _ rfl (by decide) (by decide +kernel)⟩⟩

/-- A view of two members of job 0: MID 0 with rank 0, which this module is, and MID 1 with rank 1. -/
def two : View := ⟨1, 0, 2, [⟨0, .active, 0, 0, 0, 0⟩, ⟨1, .active, 0, 1, 0, 0⟩]⟩
def inTwo (s : State) : State := { s with fab := { s.fab with
  view := some two
  epoch := 1
  self := .active } }
def kx : Ctx := ex 2 [(3, 0x200000002), (4, 1)]
def ks : State := inTwo (es kx [bF 1 2 2, bF 2 2 2])
theorem wit_CollectivesEnterQueue : ∀ n, n < 6 → ∃ (f : CollF) (op : EOp), EngineReady ks 0 kx .copy f.g (f.legal n) [f.sA, f.sB, f.sRC]
    ⟨f.ec, f.cnt, f.pub, none⟩ [] (ks.issueColl kx n f) op 0 := by
  have r : ∀ (n : Nat) (f : CollF), (kx.canIssue && !ks.waitsBoundary kx && decide (kx.arch.pc.toNat < ks.job.code.length) && f.legal n &&
      kx.arch.guard f.g && !([f.sA, f.sB, f.sRC] ++ (none : Option SReg).toList).any kx.pendingReg) = true →
      (decide ((kx.queue .copy).length < 64) && ks.job.earlyOk kx [] && kx.tag == some 0 && (!f.cnt || (kx.arch.ctr f.ec).bound == none) &&
        (ks.issueColl kx n f).bad == none && (ks.issueColl kx n f).op.isSome) = true →
      ∃ (f : CollF) (op : EOp), EngineReady ks 0 kx .copy f.g (f.legal n) [f.sA, f.sB, f.sRC]
        ⟨f.ec, f.cnt, f.pub, none⟩ [] (ks.issueColl kx n f) op 0 :=
    fun n f a b => ⟨f, ready_of _ _ _ _ _ _ _ _ _ rfl a b⟩
  intro n h
  interval_cases n
  · exact r 0 ⟨g0, 1, 2, 0, 0, 0, 0, true, true, 0⟩ (by decide) (by decide)
  · exact r 1 ⟨g0, 1, 2, 0, 3, 0, 0, true, true, 0⟩ (by decide) (by decide)
  · exact r 2 ⟨g0, 1, 2, 0, 3, 0, 0, true, true, 0⟩ (by decide) (by decide)
  · exact r 3 ⟨g0, 1, 2, 0, 0, 0, 0, true, true, 0⟩ (by decide) (by decide)
  · exact r 4 ⟨g0, 0, 2, 4, 3, 0, 0, true, true, 0⟩ (by decide) (by decide)
  · exact r 5 ⟨g0, 1, 0, 4, 3, 0, 0, true, true, 0⟩ (by decide) (by decide)

theorem wit_EngineNeedsOpenTrick :
    (∃ s x, ∃ f : CopyF, Takes s 0 x f.g f.legal [f.sDO, f.sSO, f.sEXT, f.sRC] ∧ x.qc.length < 64 ∧ (s.issueCopy x f).bad = none ∧
      x.tag = none) ∧
    ∃ s x, ∃ f : CopyF, Takes s 0 x f.g f.legal [f.sDO, f.sSO, f.sEXT, f.sRC] ∧ x.qc.length < 64 ∧ (s.issueCopy x f).bad = none ∧
      f.cnt = true ∧ (x.arch.ctr f.ec).bound.isSome :=
  let x1 := withReg (withHnd hx 2 ⟨2, true, true⟩) 3 0x100000001;
  let x2 := { ex 2 [(3, 0x100000001)] with arch := (ex 2 [(3, 0x100000001)]).arch.setCtr 15 ⟨0, some 2⟩ };
  ⟨⟨withBufs (run x1) [bU 1 2 2, bU 2 2 2], x1, ⟨g0, 1, 2, 0, 0, 3, 0, 0, false, false, 0⟩, takes_of _ _ _ _ _ rfl (by decide),
      by decide, by decide, rfl⟩,
    ⟨es x2 [bU 1 2 2, bU 2 2 2], x2, ⟨g0, 1, 2, 0, 0, 3, 0, 15, false, true, 0⟩, takes_of _ _ _ _ _ rfl (by decide), by decide,
      by decide, rfl, by decide⟩⟩

theorem wit_IllegalWordFaults : ∃ (s : State) (x : Ctx), s.job.ctx? 0 = some x ∧ x.canIssue = true ∧ s.waitsBoundary x = false ∧
    x.arch.pc.toNat < s.job.code.length ∧ (∃ i g w, seatWord i = some (0, g, w, false) ∧ checkedTogether i = false) ∧
    (∃ i g w, seatWord i = some (0, g, w, false) ∧ checkedTogether i = true ∧ x.arch.pred g.pg = g.pn) ∧
    (∃ i g w, seatWord i = some (0, g, w, false) ∧ checkedTogether i = true ∧ (∀ r, x.pendingReg r = false) ∧ ∀ k, (x.queue k).length < 64) ∧
    ∃ i g w, seatWord i = some (0, g, w, true) ∧ x.arch.pred g.pg = g.pn :=
  ⟨run cx, cx, rfl, rfl, rfl, by decide, ⟨.tseal 0 ⟨⟨0, true⟩, 1⟩, _, _, rfl, rfl⟩,
    ⟨.copy 0 ⟨⟨0, true⟩, 1, 2, 0, 0, 3, 0, 0, false, false, 1⟩, _, _, rfl, rfl, rfl⟩,
    ⟨.copy 0 ⟨g0, 1, 2, 0, 0, 3, 0, 0, false, false, 1⟩, _, _, rfl, rfl, by decide, fun k => by cases k <;> decide⟩,
    ⟨.tseal 0 ⟨⟨7, false⟩, 0⟩, _, _, rfl, rfl⟩⟩

/-! ### Engine work -/

/-- The context whose turn it is and the unit it offers, the last of its instruction (b true) or not. -/
theorem grantee_of (s : State) (k : EngKind) (die : Fin 4) (x : Ctx) (b : Bool) (h : s.job.ctx? 0 = some x)
    (g : s.grantee k die.val = some (0, x))
    (d : (match s.offer x k die.val with
      | some (_, us, i) => (us.eraseIdx i).isEmpty == b
      | none => false) = true) :
    ∃ (q : QE) (us : List (Nat × Nat)) (i : Nat), s.grantee k die.val = some (0, x) ∧ s.job.ctx? 0 = some x ∧
      s.offer x k die.val = some (q, us, i) ∧ (us.eraseIdx i).isEmpty = b := by
  revert d
  rcases s.offer x k die.val with _ | ⟨q, us, i⟩
  · exact fun d => nomatch d
  · intro d
    exact ⟨q, us, i, g, h, rfl, by simpa using d⟩

def fx : Ctx := { cxT with qc := [qe] }
/-- A FILL of 65,540 bytes has two units (R347). -/
def fx2 : Ctx := { cxT with qc := [{ qe with op := .fill 1 0 0 1 16385 0 }] }
def mm : MmaOp := ⟨1, 2, 3, 0, 1, 0, 1, 0, 1, 0, true, false, false, false, false, 0, 0, none, none, ⟨false, 0, 0⟩⟩
def qm0 : QE := { qe with
  op := .mma mm
  reads := [2, 3] }
/-- A product of one output tile, its buffers in place. -/
def px : Ctx := { cxT with qm := [qm0] }
def ps : State := es px [bF 1 2 2, bH 2 2 2, bH 3 2 2]
theorem wit_GrantChargesAndRunsEffect : ((run cx).grantee .copy 0).isNone = true ∧
    (∃ (s : State) (x : Ctx) (q : QE) (us : List (Nat × Nat)) (i : Nat), s.grantee .copy 0 = some (0, x) ∧ s.job.ctx? 0 = some x ∧
      s.offer x .copy 0 = some (q, us, i) ∧ (us.eraseIdx i).isEmpty = true) ∧
    (∃ (s : State) (x : Ctx) (q : QE) (us : List (Nat × Nat)) (i : Nat), s.grantee .copy 0 = some (0, x) ∧ s.job.ctx? 0 = some x ∧
      s.offer x .copy 0 = some (q, us, i) ∧ (us.eraseIdx i).isEmpty = false) ∧
    ∃ (us : List (Nat × Nat)) (i : Nat), ps.grantee .matrix 0 = some (0, px) ∧ ps.job.ctx? 0 = some px ∧
      ps.offer px .matrix 0 = some ({ qm0 with cells := [(0, 0)] }, us, i) ∧ ps.tileNeed { qm0 with cells := [(0, 0)] } mm (0, 0) = .ready [] :=
  ⟨by decide, ⟨es fx [bU 1 2 2], fx, grantee_of _ .copy 0 _ true rfl rfl (by decide)⟩,
    ⟨es fx2 [bU 1 1 16385], fx2, grantee_of _ .copy 0 _ false rfl rfl (by decide)⟩, mmaUnits mm, 0, rfl, rfl, rfl, rfl⟩

/-- Two contexts offer a unit each, with pass values at the two ends of a wrap: 2^64 - 1 comes before 0. -/
def tieX : Ctx := { fx with
  passC := 0xFFFFFFFFFFFFFFFF
  seat := some 1
  qc := [{ qe with uid := 51 }] }
def tie : State := let s := es { fx with passC := 0 } [bU 1 2 2]; { s with job := s.job.setCtx 1 (some tieX) }
theorem wit_GranteeHasLeastPass : tie.grantee .copy 0 = some (1, tieX) ∧
    (∀ a z, tie.job.ctx? a = some z → (z.passC = 0 ∨ z.passC = -1) ∧ tie.readyOn a z .copy 0 = true) := by
  refine ⟨rfl, fun a z h => ?_⟩
  have d : ∀ a, (match tie.job.ctx? a with
      | none => true
      | some z => (z.passC == 0 || z.passC == -1) && tie.readyOn a z .copy 0) = true := by decide +kernel
  have e := d a
  rw [h] at e
  simpa using e

theorem wit_FillWritesItsBlock : ∃ (s : State) (q : QE) (d : Buffer), q.op = .fill 1 1 0 1 2 0xFFFFFFFF ∧ q.bkts = [] ∧ s.job.buf? 1 = some d ∧ d.fmt = .u32 ∧
    d.cls ≠ .host ∧ d.cls ≠ .input ∧ (∀ y ∈ s.job.bufs, y.cls ≠ .host ∧ y.cls ≠ .input) ∧ d.scale = .none ∧ 1 + 1 = d.rows ∧ 0 + 2 = d.cols :=
  ⟨es fx [bU 1 2 2], { qe with op := .fill 1 1 0 1 2 0xFFFFFFFF }, bU 1 2 2, rfl, rfl, rfl, rfl, by decide, by decide, by decide, rfl, rfl, rfl⟩

/-- The block overlaps its own source (R289). -/
theorem wit_CopyMovesBitsUnchanged : ∃ (s : State) (q : QE) (d : Buffer), q.op = .copy 1 1 1 0 0 0 1 2 ⟨false, 0, 0⟩ ∧ q.bkts = [] ∧ s.job.buf? 1 = some d ∧
    d.scale = .none ∧ (∀ y ∈ s.job.bufs, y.cls ≠ .host ∧ y.cls ≠ .input) ∧ 1 + 1 = d.rows ∧ 0 + 2 = d.cols ∧ 0 + 1 ≤ d.rows :=
  ⟨es fx [bH 1 2 2], { qe with op := .copy 1 1 1 0 0 0 1 2 ⟨false, 0, 0⟩ }, bH 1 2 2, rfl, rfl, rfl, rfl, by decide, rfl, rfl, by decide⟩

/-- R291 on a 2 by 2 BYTE buffer: the low byte of the value, in its block alone. -/
theorem test_fill_bytes : (((es fx [bB 1 2 2]).runFx 0 { qe with op := .fill 1 1 0 1 2 0x1A5 }).job.buf? 1).map Buffer.mem =
    some [(2, 0xA5), (3, 0xA5)] := by decide

def doneQ (p : Option Nat) : QE := { qe with
  settled := true
  ec := some 15
  pub := p
  sum := some 31
  sumVal := 9 }
theorem wit_CompletionCounts : (∃ (s : State) (x : Ctx) (q : QE), s.job.ctx? 0 = some x ∧ (x.queue .copy).find? QE.settled = some q ∧ q.pub = none ∧
      q.ec.isSome ∧ q.sum.isSome) ∧
    ∃ (s : State) (x : Ctx) (q : QE), s.job.ctx? 0 = some x ∧ (x.queue .copy).find? QE.settled = some q ∧ q.pub = some 1 :=
  ⟨⟨runT { cxT with qc := [doneQ none] }, _, doneQ none, rfl, rfl, rfl, rfl, rfl⟩,
    ⟨es { cxT with qc := [doneQ (some 1)] } [bU 1 1 1], _, doneQ (some 1), rfl, rfl, rfl⟩⟩

def ep : Epi := ⟨[⟨0, 0, none, false, 0, []⟩], ⟨0, none, false, false⟩, 0, 0, none⟩
def qm (e : Option Epi) : QE := { qe with
  op := .mma { mm with epi := e }
  begun := true }
def tileX (e : Option Epi) : Ctx := { cxT with qm := [qm e] }
/-- Four sums of 1.0, each of one product; its references are right. -/
def chk0 : Chk := ⟨1, List.replicate 2 ⟨ofBits 0x40000000, ofBits 0x40000000, false⟩, List.replicate 2 ⟨ofBits 0x40000000, ofBits 0x40000000, false⟩⟩
def fin0 (b : Bool) : FinTile := ⟨50, 0, 0, 1, 0, 0, 2, 2, false, List.replicate 4 (0x3F800000, 0), chk0, 0, 0, 0, 0, b, none⟩
def tileS (e : Option Epi) (b : Bool) : State := let s := es (tileX e) [bF 1 2 2, bH 2 2 2, bH 3 2 2];
  { s with job := { s.job with fins := [fin0 b] } }
def fine : TileErr := ⟨[], [], false⟩
/-- Element (0, 1) was accumulated as 5.0. -/
def wrong : TileErr := ⟨[(0, 1, 0x40A00000, 0)], [], true⟩
def finOf (err : TileErr) : FinTile := { fin0 false with acc := errValues err 2 2 (fin0 false).acc, chk := errRefs err chk0 }
theorem wit_TilesDrain : (∀ e, e = none ∨ e = some ep → (tileS e false).job.ctx? 0 = some (tileX e) ∧
      (tileX e).mmaOf 50 = some (qm e, { mm with epi := e }) ∧
      (tileS e false).job.fins.find? (fun f => f.ctx == 0 && !f.epi) = some (fin0 false)) ∧
    (finOf fine).check = none ∧ ((finOf wrong).check.map fun k => (k.row, k.col, k.rowValid, k.colValid)) = some (0, 1, true, true) ∧
    (tileS (some ep) true).grantee .vector 0 = some (0, tileX (some ep)) ∧
    (tileX (some ep)).mmaOf 50 = some (qm (some ep), { mm with epi := some ep }) ∧
    (tileS (some ep) true).job.epiEntry 0 0 = some (fin0 true) := by
  refine ⟨?_, by decide +kernel, by decide +kernel, rfl, rfl, rfl⟩
  rintro e (rfl | rfl) <;> exact ⟨rfl, rfl, rfl⟩

/-- A drained tile stands in its buffer as FP32: 1.0 in each of the four elements. -/
theorem test_drain : (match exec (.outputTileDrain 0 fine) (tileS none false) with
    | .next t => (t.job.buf? 1).map fun b => (List.range 4).map b.rawEl
    | _ => none) = some [0x3F800000, 0x3F800000, 0x3F800000, 0x3F800000] := by decide +kernel
/-- R136: a wrong element fails the check, VOID is voted with cause 1, and the tile's values go on. -/
theorem test_check_fails : (match exec (.outputTileDrain 0 wrong) (tileS none false) with
    | .next t => ((t.job.buf? 1).map fun b => (List.range 4).map b.rawEl, t.stat.lastVoid.cause)
    | _ => (none, 0)) = (some [0x3F800000, 0x40A00000, 0x3F800000, 0x3F800000], 1) := by decide +kernel

/-! ### Movements, seats, votes -/

def stsQ : StsOp := ⟨0, 1, 2, 3, none, none, 0, 1, ⟨false, 0, 0⟩, false, false, ⟨2, 1, 0, 0, 0, 0, 0, 4, 4, 5, []⟩⟩
def potS : State := let s := es { cxT with qv := [{ qe with op := .sts stsQ }] } [{ buf 1 .pot .byte 0 0 with
    potP := 1
    potK := 1 }]
  { s with job := { s.job with potQ := [(50, 0)] } }
def stageS : State := let s := es fx [bU 1 2 2]; { s with job := { s.job with stageQ := [(50, 0)] } }
theorem wit_ReservationGrants : (∃ (s : State) (x : Ctx) (q : QE) (t : StsOp), s.job.ctx? 0 = some x ∧ q.uid = 50 ∧ s.job.potQ = [(50, 0)] ∧
      x.qv.find? (fun q => q.uid == 50) = some q ∧ q.op = .sts t ∧ s.job.foldFits t = true) ∧
    ∃ (s : State) (x : Ctx) (q : QE), s.job.ctx? 0 = some x ∧ q.uid = 50 ∧ s.job.stageQ = [(50, 0)] ∧ x.qc.find? (fun q => q.uid == 50) = some q ∧
      s.job.stageAsk q.trick (s.job.hostNeed q) = some true :=
  ⟨⟨potS, { cxT with qv := [{ qe with op := .sts stsQ }] }, { qe with op := .sts stsQ }, stsQ, rfl, rfl, rfl, rfl, rfl, by decide⟩,
    ⟨stageS, fx, qe, rfl, rfl, rfl, rfl, by decide⟩⟩

def stash (p : Place) : Buffer := { buf 1 .stash .u32 2 2 with place := p }
def ask (k : RoomKind) : RoomReq := ⟨0, 1, k, some 0, 0, 0, 1, 0⟩
def askS (b : Buffer) (l : List OutTile) (k : RoomKind) : State := let s := es cxT [b]; { s with job := { s.job with
  tiles := l
  roomQ := [ask k] } }
/-- A held sum of one element of buffer 1 on tile 0 of die 0, of trick 0, where it is told to lie. -/
def sum0 (w : SumAt) : OutTile := ⟨1, 0, 0, 0, 0, false, 0, 0, 1, [(0x3F800000, 0)], chk0, w, true, []⟩
/-- 512 GiB: no spill could make room for it. -/
def huge : Buffer := { buf 1 .stash .fp32 0x80000 0x40000 with place := .waiting }
theorem wit_Movements :
    (∀ p, p = .place ∨ p = .fill ∨ p = .slot 0 0 ∨ p = .copy 0 0 1 → ∃ (s : State) (r : RoomReq) (need : List Nat), s.job.roomQ = [r] ∧ r.kind = p ∧
      s.job.roomNeed r = some need ∧ s.fits need noUnits = true) ∧
    (∃ (s : State), s.job.buf? 1 = some (stash .spilling)) ∧ (∃ (s : State), s.job.buf? 1 = some (stash .filling)) ∧
    (∃ (s : State) (b : Buffer), s.job.buf? b.id = some b ∧ b.moving = true) ∧
    ∃ (s : State) (r : RoomReq) (x : Ctx) (need : List Nat), s.job.roomQ = [r] ∧ s.job.roomNeed r = some need ∧ s.job.ctx? r.ctx = some x ∧
      s.roomDead = true ∧ s.makeRoom need = none := by
  have some_of : ∀ {α : Type} (o : Option α) (p : α → Bool), o.any p = true → ∃ x, o = some x ∧ p x = true := by
    intro α o p h
    cases o with
    | none => cases h
    | some x => exact ⟨x, rfl, h⟩
  have one : ∀ (b : Buffer) (l : List OutTile) (k : RoomKind),
      ((askS b l k).job.roomNeed (ask k)).any (fun n => (askS b l k).fits n noUnits) = true →
      ∃ (s : State) (r : RoomReq) (need : List Nat), s.job.roomQ = [r] ∧ r.kind = k ∧ s.job.roomNeed r = some need ∧ s.fits need noUnits = true := by
    intro b l k h
    obtain ⟨n, hn, hf⟩ := some_of _ _ h
    exact ⟨askS b l k, ask k, n, rfl, rfl, hn, hf⟩
  refine ⟨?_, ⟨es cxT [stash .spilling], rfl⟩, ⟨es cxT [stash .filling], rfl⟩, ⟨es cxT [{ bU 1 2 2 with moving := true }], { bU 1 2 2 with moving := true }, rfl, rfl⟩,
    ?_⟩
  · rintro p (rfl | rfl | rfl | rfl)
    · exact one (stash .waiting) [] _ (by decide +kernel)
    · exact one (stash .spilled) [] _ (by decide +kernel)
    · exact one (bF 1 1 1) [sum0 .slot] _ (by decide +kernel)
    · exact one (bF 1 1 1) [sum0 .slot] _ (by decide +kernel)
  · obtain ⟨n, hn, hf⟩ := some_of ((askS huge [] .place).job.roomNeed (ask .place)) (fun n => ((askS huge [] .place).makeRoom n).isNone)
      (by decide +kernel)
    exact ⟨askS huge [] .place, ask .place, cxT, n, rfl, hn, rfl, by decide +kernel, by simpa using hf⟩

/-- Sums of buffer 2 hold the eight slots of the tile. -/
def crowd : List OutTile := (List.range 8).map fun k => { sum0 .slot with
  buf := 2
  c := k
  slot := k }
theorem wit_SlotReloadAndSpot : (∃ (s : State) (o : OutTile) (l : List OutTile), s.job.heldTile 1 0 0 = some o ∧ o.ctx = 0 ∧ o.lies ≠ .slot ∧
      spillsFor o.pair (s.job.slotSums o.die o.tile) (s.job.slotsAt o.die o.tile) = some l ∧
      l = []) ∧
    (∃ (s : State) (o p : OutTile) (l : List OutTile), s.job.heldTile 1 0 0 = some o ∧ o.ctx = 0 ∧ o.lies ≠ .slot ∧
      spillsFor o.pair (s.job.slotSums o.die o.tile) (s.job.slotsAt o.die o.tile) = some (p :: l) ∧ s.job.roomQ = [] ∧
      ({ s with job := s.job.modTile 1 0 0 fun y => { y with lies := .region none } } : State).fits
        (unitsAt o.die ((p :: l).map fun (y : OutTile) => 2 * y.slots).sum) noUnits = true) ∧
    (∃ (s : State) (w : SpotDup), s.job.spotWait.find? (fun w => w.die == 3) = some w ∧ (s.trick? w.trick).map TrickRec.att = some w.att) ∧
    (∃ (s : State) (w : SpotDup), s.job.spotWait.find? (fun w => w.die == 3) = some w ∧ (s.trick? w.trick).map TrickRec.att ≠ some w.att) ∧
    ∃ (s : State) (t : Third), s.job.spotThird.find? (fun t => t.die == 3) = some t :=
  let s := es cxT [bF 1 1 1];
  ⟨⟨{ s with job := { s.job with tiles := [sum0 .store] } }, sum0 .store, [], rfl, rfl, by decide, by decide +kernel, rfl⟩,
    ⟨{ s with job := { s.job with tiles := sum0 .store :: crowd } }, sum0 .store, { sum0 .slot with
      buf := 2
      slot := 0 }, [], rfl, rfl, by decide,
      by decide +kernel, rfl, by decide +kernel⟩,
    ⟨{ s with job := { s.job with spotWait := [⟨3, 0, 0, 0⟩] } }, _, rfl, by decide⟩,
    ⟨{ s with job := { s.job with spotWait := [⟨3, 0, 0, 1⟩] } }, _, rfl, by decide⟩,
    ⟨{ s with job := { s.job with spotThird := [⟨3, 0, 3, 1, 3, 2, 0, 0⟩] } }, _, rfl⟩⟩

theorem wit_Swaps : (∃ (s : State) (x : Ctx), s.job.ctx? 0 = some x ∧ x.resid = .swapOut ∧ x.entries.any QE.begun = false ∧
      s.job.fins.any (fun f => f.ctx == 0) = false) ∧
    (∃ (s : State) (x : Ctx), s.job.ctx? 0 = some x ∧ x.resid = .swapIn) ∧
    ∃ s : State, ∃ (x : Ctx) (t : Dword), s.job.ctx? 0 = some x ∧ s.job.stuckSince = some t ∧ (s.aon.counter - t).toNat = 50000 :=
  ⟨⟨run { cx with resid := .swapOut }, _, rfl, rfl, rfl, rfl⟩, ⟨run { cx with resid := .swapIn }, _, rfl, rfl⟩,
    ⟨{ run cx with
        aon := { Aon.reset with counter := 50000 }
        job := { (run cx).job with stuckSince := some 0 } }, cx, 0, rfl, rfl, rfl⟩⟩

theorem wit_SeatErrors : (∃ (s : State), s.hl.inService ⟨.seat, 0⟩ = true ∧ (s.job.ctxList.find? fun x => x.2.seat == some 0) = some (0, cx)) ∧
    (∃ (s : State), s.hl.inService ⟨.seat, 0⟩ = true ∧ (s.job.ctxList.find? fun x => x.2.seat == some 0) = some (0, cxT) ∧
      cxT.joinedTricks.head? = some 0 ∧ ((s.trick? 0).getD .empty).voted ≠ some .ok) ∧
    (∃ s : State, s.hl.inService ⟨.seat, 15⟩ = true ∧ (s.job.ctxList.find? fun x => x.2.seat == some 15) = none) ∧
    ∃ s : State, s.hl.isRet ⟨.seat, 15⟩ = false ∧ (s.hl.suspOf ⟨.seat, 15⟩).ce + 1 < 2 ^ (s.cfg.esc.toNat / 2 ^ 24 % 16) :=
  ⟨⟨run cx, by decide, by decide⟩, ⟨runT cxT, by decide, by decide, by decide, by decide⟩, ⟨run cx, by decide, by decide⟩, ⟨run cx, by decide, by decide⟩⟩

/-- A frame from MID 1 on port 0, the next awaited, of job 0 and epoch 1; its ACK acknowledges nothing. -/
def hdr : FrameHdr := ⟨0, false, true, 1, 1, 0, 1, 0, 0, 0, 0, 0, 0⟩
def route1 : Route := ⟨0, 1, 0, 0, 1, true, 0, 0, [], 0, 0, 0, false⟩
def linked (s : State) : State := let t := inTwo s; { t with fab := { t.fab with routes := [route1] } }
/-- The same view seen from MID 0 with rank 1: MID 1 is the root. -/
def child (s : State) : State := let t := linked s; { t with fab := { t.fab with
  view := some ⟨1, 0, 2, [⟨0, .active, 0, 1, 0, 0⟩, ⟨1, .active, 0, 0, 0, 0⟩]⟩ } }
theorem inOrder_linked (s : State) : (linked s).cfgSysid = 0 → InOrder (linked s) hdr := fun h =>
  ⟨h.symm, ⟨route1, rfl, rfl, rfl, rfl⟩⟩
theorem inOrder_child (s : State) : (child s).cfgSysid = 0 → InOrder (child s) hdr := fun h =>
  ⟨h.symm, ⟨route1, rfl, rfl, rfl, rfl⟩⟩
/-- Its seal has been issued. -/
def sealed0 : Ctx := { cx with
  last := some 0
  joined := [⟨0, true, cx.arch, []⟩] }
theorem wit_Votes : (∃ (s : State), s.voteReady (0 : BitVec 48).toNat = true) ∧
    (∃ (s : State) (r : TrickRec), JobFrame s hdr ∧ (taken s hdr).trick? hdr.trick.toNat = some r ∧ hdr.attempt = r.att ∧
      (taken s hdr).children.contains (midOf hdr.src) = true) ∧
    ∃ (s : State) (r : TrickRec), JobFrame s hdr ∧ (taken s hdr).trick? hdr.trick.toNat = some r ∧ hdr.attempt = r.att ∧
      (taken s hdr).parent = some (midOf hdr.src) ∧ s.fab.reconciling = false ∧ hdr.trick.toNat = s.stat.sealedN :=
  ⟨⟨runT sealed0, by decide⟩,
    ⟨linked (runT cxT), _, ⟨inOrder_linked _ (by decide), rfl, by decide, rfl, by decide⟩, rfl, rfl, by decide⟩,
    ⟨child (runT cxT), _, ⟨inOrder_child _ (by decide), rfl, by decide, rfl, by decide⟩, rfl, rfl, by decide, rfl, rfl⟩⟩

theorem wit_SoleMemberVote : ∃ (s : State) (t : BitVec 48), s.fab.view = none ∧ s.fab.reconciling = false ∧ s.voteReady t.toNat = true ∧
    t.toNat = s.stat.sealedN ∧ s.job.t0.votes = [] ∧ s.job.t0.fwdOk = false ∧ s.job.t0.fwdVoid = false ∧ s.job.t1.fwdOk = false :=
  ⟨runT sealed0, 0, rfl, rfl, by decide, rfl, rfl, rfl, rfl, rfl⟩

/-- The trick's snapshot holds a bind to buffer 1, which the trick exported, and a completion since that trick 0 had. -/
def boundX : Ctx := { cxT with joined := [⟨0, false, (withHnd cx 2 ⟨1, false, true⟩).arch, [(0, 3)]⟩] }
theorem wit_VoidRestores : (∃ (s : State) (x : Ctx) (r : TrickRec) (k : Joined) (h : Hnd) (b : Buffer), s.job.ctx? 0 = some x ∧ s.trick? 0 = some r ∧
      k ∈ x.joined ∧ k.trick ≥ 0 ∧ (∀ j ∈ x.joined, j.trick ≥ 0 → j ≠ k → k.trick < j.trick) ∧ k.snap.hnd 2 = some h ∧ h.owner = false ∧
      b ∈ s.job.bufs ∧ b.id = h.buf ∧ b.exp = some (7, true, some 0)) ∧
    ∃ (s : State) (x : Ctx) (r : TrickRec), s.job.ctx? 0 = some x ∧ s.trick? 0 = some r ∧ ∀ j ∈ x.joined, j.trick < 0 :=
  ⟨⟨es boundX [{ bU 1 1 1 with exp := some (7, true, some 0) }], boundX, _, ⟨0, false, (withHnd cx 2 ⟨1, false, true⟩).arch, [(0, 3)]⟩,
      ⟨1, false, true⟩, { bU 1 1 1 with exp := some (7, true, some 0) }, rfl, rfl, List.mem_singleton.2 rfl, by decide, fun j h _ n => (n (List.mem_singleton.1 h)).elim, rfl, rfl, by decide,
      rfl, rfl⟩,
    ⟨es cx [bU 1 1 1], cx, _, rfl, rfl, by decide⟩⟩

/-- A void puts the TBEGIN snapshot back, PC and registers (R236). -/
theorem test_void_restores : (((runT { withReg cxT 5 9 with arch := (withReg cxT 5 9).arch.next }).applyVoid 0 false 1 0).job.ctx? 0).map
    (fun x => (x.arch.pc, x.arch.reg 5, x.arch.reg 1, x.tag)) = some (0, 0, 7, some 0) := by decide +kernel
/-- Sealing counts (R234). -/
theorem test_seal_counts : (match exec (.moduleVoteOk 0) (runT sealed0) with
    | .next t => t.stat.sealedN
    | _ => 0) = 1 := by decide +kernel

/-! ### Host commands -/

theorem test_wf_host : Instr.wf (.admitJob ⟨0, 0, 0, false⟩ 1 0 0 0 0 0 0 0 0) = false ∧ Instr.wf (.endJob ⟨0, 2, 0, false⟩) = false ∧
    Instr.wf (.resume ⟨0, 0, 0, true⟩) = false ∧ Instr.wf (.own ⟨0, 1, 0, false⟩) = false ∧
    Instr.wf (.create ⟨0, 1, 0, false⟩ 0 1 1 1 0) = false ∧ Instr.wf (.kill ⟨0, 0, 0, false⟩ 64) = false ∧
    Instr.wf (.regreg ⟨0, 0, 0, false⟩ 1 2 0 0 0 1 0 0) = false ∧ Instr.wf (.regdel ⟨0, 0, 0, false⟩ 0) = false ∧
    Instr.wf (.inpub ⟨0, 1, 0, false⟩ 0 1) = false ∧ Instr.wf (.cqbind ⟨0, 0, 0, false⟩ 3 1 0) = false ∧
    Instr.wf (.sqbind ⟨0, 0, 0, false⟩ 128) = false ∧ Instr.wf (.joinview ⟨0, 1, 0, false⟩ 1 28 0) = false ∧
    Instr.wf (.override ⟨0, 1, 0, false⟩ 1 28 0) = false ∧ Instr.wf (.viewchg ⟨0, 0, 0, false⟩ 4 0 0 0) = false ∧
    Instr.wf (.ckptcfg ⟨0, 0, 0, false⟩ 2 3 0 0 0 0) = false ∧ Instr.wf (.ckptnow ⟨0, 0, 0, true⟩) = false ∧
    Instr.wf (.restore ⟨0, 1, 0, false⟩ 1 0 0) = false := by decide

def hc : HostCmd := ⟨0, 0, 0xABCD, false⟩
/-- What CleanCmd asks, as a test. -/
def cleanB (s : State) (i : Instr) : Bool := match hostCmd i with
  | none => false
  | some (h, opc, mask, ops) => !s.behind h opc ops && !h.rsvSet && (h.flags &&& ~~~mask) == 0
theorem clean_of (s : State) (i : Instr) (h : cleanB s i = true) : CleanCmd s i := by
  unfold cleanB at h
  split at h
  · cases h
  · rename_i q k o m p e
    simp only [Bool.and_eq_true, Bool.not_eq_true', beq_iff_eq] at h
    exact ⟨⟨_, _, _, _, e, h.1.1⟩, _, _, _, _, e, h.1.2, h.2⟩
/-- Queue pair 0 is READY and CONTROL, region 1 is its region of 64 KiB. -/
def qp1 : Qp := ⟨.ready, 1, 0, 1024, 5, 0, 7, 7, 14, 0, 400, none, none, none, none, [], none, []⟩
def reg1 : Region := ⟨1, false, 0, 0, true, true, 7, 0x1000, 65536, false, none, none, none, none⟩
def hosted (s : State) : State := { s with host := { s.host with
  qps := [(0, qp1)]
  regions := [reg1] } }
def jobIn (k : JobState) : State := let s := hosted (run cx); { s with job := { s.job with state := k } }

/-- An image of 80 bytes (Table 09-3): unsigned, level 1, one entry point, eight bytes of code. -/
def img : List Byte := [0x4B, 0x5A, 0x50, 0x31, 1, 0, 1, 0, 0, 0, 0, 0, 1, 0, 0, 0, 128, 0, 0, 0, 8, 0, 0, 0] ++ List.replicate 112 0
def bench (s : State) : State := { s with aon := { s.aon with latch := 0x100 } }
def admitting : State := let s := bench (jobIn .admitting); { s with job := { s.job with admission := some ⟨hc, 0, 0, 1, 136, false, 0, 0⟩ } }
theorem wit_Admission : Turn (jobIn .idle) (.admitJob hc 1 4096 61440 0 9 0 1 0 0) ∧ (jobIn .idle).job.state = .idle ∧
    ((jobIn .idle).takeCmd hc).canRead (1 : BitVec 16).toNat (61440 : Dword).toNat (4096 : Word).toNat = true :=
  ⟨(clean_of _ _ (by decide +kernel)).1, rfl, by decide +kernel⟩
theorem wit_AdmissionImage : admitting.job.state = .admitting ∧ admitting.job.admission = some ⟨hc, 0, 0, 1, 136, false, 0, 0⟩ ∧ (0 : Nat) ≠ 2 ^ 48 - 1 ∧ img.length = 136 ∧
    admitting.job.recov.rebuild = none ∧ (0 : Word) = admitting.fab.epoch ∧ admitting.inView 0 = true ∧ imageForm img = true ∧
    admitting.fab.self ≠ .quarantine ∧ admitting.fab.self ≠ .offered ∧ admitting.hl.failed = false ∧
    fieldAt img 6 2 ≤ admitting.levelOf 0 ∧ admitting.imageSigned img = true :=
  ⟨rfl, rfl, by decide, by decide +kernel, rfl, rfl, rfl, by decide +kernel, by decide, by decide, rfl, by decide +kernel, by decide +kernel⟩

/-- The loaded job runs from the image's code (R336). -/
theorem test_admission : (match exec (.admissionImageReceived img) admitting with
    | .next t => (t.job.state, t.job.code.length, t.job.entries)
    | _ => (.idle, 0, [])) = (.running, 8, [0]) := by decide +kernel

theorem wit_EndDrains : (∀ k, CleanCmd (jobIn k) (.endJob hc)) ∧ (jobIn .idle).job.state = .idle ∧ (jobIn .wiping).job.state = .wiping ∧
    (jobIn .running).job.state = .running ∧ hc.flags.getLsbD 0 = false ∧
    (jobIn .ending).job.state = .ending ∧ (jobIn .ending).drained = true ∧ (jobIn .ending).job.recov.ck = none ∧
    (jobIn .wiping).aon.braceAt = none ∧ (jobIn .wiping).job.recov.ck = none :=
  ⟨fun _ => clean_of _ _ rfl, rfl, rfl, rfl, rfl, rfl, by decide, rfl, rfl, rfl⟩

theorem wit_ResumeOwnCreateKill : (∃ s : State, CleanCmd s (.resume hc) ∧ CleanCmd s (.own hc) ∧ s.job.state = .running ∧ s.job.halt = true) ∧
    (∃ (s : State) (entry : Byte) (c : CtxId) (pc : Nat), CleanCmd s (.create hc entry 0 1 0xFFFF 5) ∧ s.job.state = .running ∧
      s.job.entries[entry.toNat]? = some pc ∧ s.job.ctx? c = none ∧ ∀ d, d < c → (s.job.ctx? d).isSome) ∧
    ∃ (s : State) (ctx : Byte) (c : CtxId) (x : Ctx), CleanCmd s (.kill hc ctx) ∧ s.job.state = .running ∧ ctx.toNat = c.val ∧ s.job.ctx? c = some x :=
  ⟨⟨{ jobIn .running with job := { (jobIn .running).job with halt := true } }, clean_of _ _ rfl, clean_of _ _ rfl, rfl, rfl⟩,
    ⟨{ jobIn .running with job := { (jobIn .running).job with entries := [0] } }, 0, 1, 0, clean_of _ _ rfl, rfl, rfl, rfl, by decide⟩,
    ⟨jobIn .running, 0, 0, cx, clean_of _ _ rfl, rfl, rfl, rfl⟩⟩
/-- R350: a share of 0 is applied as 1. -/
theorem test_create_zero_share : (match exec (.create hc 0 0 0 0 5) { jobIn .running with job := { (jobIn .running).job with entries := [0] } } with
    | .next t => (t.job.ctx? 1).map fun x => (x.shm, x.arch.reg 1)
    | _ => none) = some (0, 5) := by decide +kernel

/-- R426: a command whose SEND is not the head of the order of arrival waits. -/
def laterCmd : State := let s := hosted (run cx); { s with host := { s.host with
  qps := [(0, { qp1 with rx := [leBytes 0x22 8 ++ leBytes 9 8 ++ List.replicate 48 0, leBytes 0x03 8 ++ leBytes 0xABCD 8 ++ List.replicate 48 0] })]
  arrived := [0, 0] } }
theorem test_command_order : laterCmd.behind hc 0x03 [] = true ∧ (match exec (.resume hc) laterCmd with
      | .next t => decide (t = laterCmd)
      | _ => false) = true ∧ laterCmd.behind ⟨0, 0, 9, false⟩ 0x22 [(24, 8, 0), (32, 8, 0)] = false ∧
    laterCmd.behind ⟨0, 0, 9, false⟩ 0x22 [(24, 8, 0), (32, 8, 1)] = true := by decide +kernel

theorem wit_Regions : ∃ s : State, CleanCmd s (.regreg hc 2 0 3 0 0 1 0x1000 0) ∧ CleanCmd s (.regdel hc 1) ∧ (3 : Byte).toNat ≤ 3 ∧ (0x1000 : Word).toNat = 0x1000 ∧
    (s.takeCmd hc).qp? ((0x1000 : Word).toNat - 0x1000) = some qp1 ∧ qp1.st = .ready ∧ qp1.role = 1 ∧
    (s.takeCmd hc).host.regions.find? (fun r => r.num == (2 : BitVec 16).toNat) = none ∧
    (s.takeCmd hc).region? (1 : BitVec 16).toNat = some reg1 ∧ (s.takeCmd hc).regionNamed (1 : BitVec 16).toNat = false ∧
    reg1.deleting = none :=
  ⟨jobIn .running, clean_of _ _ rfl, clean_of _ _ rfl, by decide, rfl, by decide +kernel, rfl, rfl, by decide, by decide, by decide, rfl⟩
def upPort (s : State) : State := { s with fab := { s.fab with ports := s.fab.ports.set 0 { PPort.reset with up := true } } }
theorem wit_PeerRegion : ∃ s : State, CleanCmd s (.regreg hc 2 1 3 0 0 1 0 (2 ^ 64)) ∧ (s.takeCmd hc).isBench = false ∧ ((s.takeCmd hc).storePort (2 ^ 64)).isSome ∧
    (s.takeCmd hc).freeSqp.isSome ∧ (s.takeCmd hc).host.regions.find? (fun r => r.num == (2 : BitVec 16).toNat) = none :=
  ⟨upPort (jobIn .running), clean_of _ _ rfl, by decide +kernel, by decide +kernel, by decide +kernel, by decide +kernel⟩

theorem wit_InputAndRings : (∃ (s : State) (offset length : Dword), CleanCmd s (.inpub hc offset length) ∧ s.job.state = .running ∧ length ≠ 0 ∧
      offset.toNat + length.toNat = s.job.inpages * 4096) ∧
    (∃ (s : State) (log2n : Byte) (offset : Dword), CleanCmd s (.cqbind hc log2n 1 offset) ∧ log2n.toNat = 4 ∧ offset.toNat % 64 = 0 ∧
      (s.takeCmd hc).region? (1 : BitVec 16).toNat = some reg1 ∧ reg1.write = true ∧ offset.toNat + 64 * 2 ^ log2n.toNat = reg1.length ∧
      (s.takeCmd hc).qp? hc.qp.toNat = some qp1) ∧
    ∃ s : State, CleanCmd s (.sqbind hc 127) ∧ (127 : Byte).toNat < 128 :=
  ⟨⟨{ jobIn .running with job := { (jobIn .running).job with inpages := 1 } }, 4095, 1, clean_of _ _ rfl, rfl, by decide, by decide +kernel⟩,
    ⟨jobIn .running, 4, 64512, clean_of _ _ rfl, rfl, by decide +kernel, by decide, rfl, by decide +kernel, by decide⟩, jobIn .running, clean_of _ _ rfl, by decide⟩

/-- A view record of one ACTIVE entry of rank 0 (Table 14-4), epoch 1, fan-out 2, for the MID m. -/
def viewHead (m : Nat) (c : Nat) : List Byte := [1, 0, 0, 0, 0, 0, 1, 0, 2, 0, 0, 0] ++ leBytes c 4 ++ leBytes m 2 ++ [0, 0, 0, 0, 1, 0, 0, 0, 0, 0]
def viewRec (m : Nat) : List Byte := viewHead m (crc32c (viewHead m 0)).toNat
def viewOf (m : BitVec 9) : View := ⟨1, 0, 2, [⟨m, .active, 0, 0, 1, 0⟩]⟩
theorem leNat_bytes4 (n : Nat) (h : n < 2 ^ 32) : leNat (leBytes n 4) = n := by
  simp only [leBytes, leNat, BitVec.toNat_ofNat]
  omega
theorem leNat_bytes2 (n : Nat) (h : n < 2 ^ 16) : leNat (leBytes n 2) = n := by
  simp only [leBytes, leNat, BitVec.toNat_ofNat]
  omega
theorem viewRec_parses (n : Nat) (h : n < 512) : parseView (viewRec n) = some (viewOf (BitVec.ofNat 9 n)) := by
  have hc : fieldAt (viewRec n) 12 4 = (crc32c (viewHead n 0)).toNat := leNat_bytes4 _ (BitVec.isLt _)
  have hb : (viewRec n).take 12 ++ leBytes 0 4 ++ (viewRec n).drop 16 = viewHead n 0 := rfl
  have hm : fieldAt (viewRec n) 16 2 = n := leNat_bytes2 n (by omega)
  have he : entryOf (viewRec n) 0 = some ⟨BitVec.ofNat 9 n, .active, 0, 0, 1, 0⟩ := by
    simp only [entryOf, Nat.mul_zero, Nat.add_zero, hm]
    rw [if_neg (by rintro (q | ⟨-, q⟩)
                   · omega
                   · exact q rfl)]
    rfl
  have h6 : fieldAt (viewRec n) 6 2 = 1 := rfl
  simp only [parseView, hc, hb, h6]
  rw [if_neg (by
    have a : fieldAt (viewRec n) 0 4 = 1 := rfl
    have b : fieldAt (viewRec n) 8 1 = 2 := rfl
    have c : fieldAt (viewRec n) 9 3 = 0 := rfl
    have d : (viewRec n).length = 28 := rfl
    rw [a, b, c, d]
    simp)]
  simp [List.range_succ, he, midsRise, ranksUnique, viewOf]
  exact ⟨rfl, rfl, rfl⟩

theorem wit_ViewReads : ∃ s : State, CleanCmd s (.joinview hc 1 28 0) ∧ CleanCmd s (.override hc 1 5424 0) ∧ (s.takeCmd hc).canRead (1 : BitVec 16).toNat (0 : Dword).toNat (28 : Word).toNat = true ∧
    (s.takeCmd hc).canRead (1 : BitVec 16).toNat (0 : Dword).toNat (5424 : Word).toNat = true ∧ s.isBench = false ∧ s.fab.epoch = 0 :=
  ⟨jobIn .running, clean_of _ _ rfl, clean_of _ _ rfl, by decide, by decide, by decide, rfl⟩
theorem wit_ViewInstalled : ∃ (s : State) (record : List Byte) (v : View), s.host.viewRead = [⟨hc, false, 1, record.length, false⟩] ∧
    parseView record = some v ∧ v.sysid = s.cfgSysid ∧ s.fab.epoch = 0 ∧ v.epoch = 1 ∧ (v.entry? Config.ownMid).isSome ∧ s.roleBars v = false ∧
    s.job.state = .idle ∧ s.job.admission = none ∧ s.fab.held = [] ∧ ∀ c, s.job.ctx? c = none := by
  refine ⟨{ State.reset with host := { HostSt.reset with viewRead := [⟨hc, false, 1, 28, false⟩] } }, viewRec Config.ownMid.toNat, viewOf Config.ownMid,
    rfl, ?_, by decide, rfl, rfl, ?_, ?_, rfl, rfl, rfl, by decide⟩
  · simpa using viewRec_parses Config.ownMid.toNat Config.ownMid.isLt
  · simp [View.entry?, viewOf]
  · simp [State.roleBars, show ({ State.reset with host := { HostSt.reset with viewRead := [⟨hc, false, 1, 28, false⟩] } } : State).spareOnly = false from by
      decide]

/-- MID 1 is not in the view of MID 0 alone: it may be added as a spare. MID 0 is the coordinator there; MID 1 is of the other view. -/
def solo (s : State) : State := let t := inTwo s; { t with fab := { t.fab with view := some ⟨1, 0, 2, [⟨0, .active, 0, 0, 0, 0⟩]⟩ } }
def second (s : State) : State := let t := inTwo s; { t with fab := { t.fab with
  mid := 1
  view := some two } }
theorem wit_ViewChanges : (CleanCmd (solo (jobIn .running)) (.viewchg hc 1 1 0 0) ∧ ((solo (jobIn .running)).takeCmd hc).chgBad 1 1 0 0 = none ∧
      ((solo (jobIn .running)).takeCmd hc).isCoord = true) ∧
    CleanCmd (second (jobIn .running)) (.viewchg hc 3 0 0 0) ∧ ((second (jobIn .running)).takeCmd hc).chgBad 3 0 0 0 = none ∧ ((second (jobIn .running)).takeCmd hc).isCoord = false ∧
      ((second (jobIn .running)).takeCmd hc).coordinator = some 0 :=
  ⟨⟨clean_of _ _ rfl, by decide, by decide⟩, clean_of _ _ rfl, by decide, by decide, by decide⟩

def ckptS (r : Option Refresh) : State := let s := jobIn .running; { s with job := { s.job with recov := { s.job.recov with
  ta := 1
  refresh := r } } }
def refr (committed : Bool) : Refresh := ⟨0, ⟨0, 0, 0, 0, 0, [], []⟩, [], 0, [], [], false, [], false, committed, false, []⟩
theorem wit_Checkpoints : (∀ r, CleanCmd (ckptS r) (.ckptcfg hc 2 4 1 0 0 0) ∧ CleanCmd (ckptS r) (.ckptnow hc) ∧ CleanCmd (ckptS r) (.restore hc 1 0 65536)) ∧ (∀ r, r = none ∨ r = some (refr false) → (ckptS r).job.state = .running ∧ (ckptS r).job.recov.refresh = r) ∧
    (4 : Word).toNat % (2 : BitVec 16).toNat = 0 ∧ ((ckptS none).takeCmd hc).targetBad (1 : BitVec 16).toNat = false ∧
    ((ckptS none).takeCmd hc).targetBad (0 : BitVec 16).toNat = false ∧ (ckptS none).job.recov.ta ≠ 0 ∧
    (ckptS none).job.recov.issuedT = false ∧ (ckptS none).job.recov.restored = false ∧
    ((ckptS none).takeCmd hc).canRead (1 : BitVec 16).toNat (0 : Dword).toNat (65536 : Dword).toNat = true :=
  ⟨fun _ => ⟨clean_of _ _ rfl, clean_of _ _ rfl, clean_of _ _ rfl⟩, fun _ _ => ⟨rfl, rfl⟩, rfl, by decide, by decide, by decide, rfl, rfl, by decide⟩

/-- A record of a member whose Kitty area is empty: the header of Table 16-5 and its checksum, no data. -/
def ckHead : List Byte := [0x4B, 0x5A, 0x43, 0x31, 1, 0, 1, 0] ++ List.replicate 42 0 ++ [1, 0] ++ List.replicate 4040 0
def ckRec : List Byte := ckHead ++ leBytes (crc32c ckHead).toNat 4
def restS : State := let s := jobIn .running; { s with
  host := { s.host with restoreRead := [⟨hc, 4096, 1, false⟩] }
  job := { s.job with feature := 1 } }
theorem ckHead_length : ckHead.length = 4092 := by decide +kernel
theorem wit_Restore : restS.host.restoreRead = [⟨hc, ckRec.length, 1, false⟩] ∧ RestoreGood restS ckRec := by
  refine ⟨by decide +kernel, ⟨rfl, by decide, by decide +kernel, ?_, by decide +kernel, by decide +kernel, by decide +kernel,
    by decide +kernel, by decide +kernel, by decide +kernel, by decide +kernel, by decide +kernel⟩⟩
  have h1 : ckRec.take 4092 = ckHead := List.take_left' ckHead_length
  have h2 : ckRec.drop 4092 = leBytes (crc32c ckHead).toNat 4 := List.drop_left' ckHead_length
  rw [h1, fieldAt, h2, List.take_of_length_le (by simp [leBytes]), leNat_bytes4 _ (crc32c ckHead).isLt]

/-! ### Queue pairs, store, packets -/

/-- Host port 0 is up, queue pair 0 is q. -/
def qpS (q : Qp) : State := let s := hosted (jobIn .running); { s with
  aon := { s.aon with counter := 50000 }
  host := { s.host with
    qps := [(0, q)]
    ports := s.host.ports.set 0 { HPort.reset with up := true } } }
def full : State := let s := qpS qp1; { s with host := { s.host with qps := (List.range 4096).map fun i => (i, qp1) } }
theorem alGet_range (q : Qp) (l : List Nat) (i : Nat) (h : i ∈ l) : alGet (l.map fun i => (i, q)) i = some q := by
  induction l with
  | nil => cases h
  | cons a l ih =>
    simp only [List.map_cons, alGet]
    split
    · rfl
    · rename_i n
      rcases List.mem_cons.1 h with e | e
      · exact (n e.symm).elim
      · exact ih e
theorem full_some (i : Nat) (h : i < 4096) : (full.qp? i).isSome := by
  have e : full.qp? i = alGet ((List.range 4096).map fun i => (i, qp1)) i := by simp only [full, State.qp?]
  rw [e, alGet_range qp1 (List.range 4096) i (List.mem_range.2 h)]
  exact rfl
theorem wit_QueuePairRequests : ((qpS qp1).host.ports.get 0).up = true ∧ (full.host.ports.get 0).up = true ∧
    (∀ i, i < 4096 → (full.qp? i).isSome) ∧ (qpS qp1).qp? 1 = none ∧ (∀ j, j < 1 → ((qpS qp1).qp? j).isSome) ∧
    ((qpS qp1).host.qps.filter fun p => p.2.role == 2).length < 16 :=
  ⟨by decide, by decide, full_some, by decide, by decide, by decide⟩
theorem wit_QueuePairStates : ∀ st, (qpS { qp1 with st := st }).qp? (0 : BitVec 12).toNat = some { qp1 with st := st } ∧
    50000 ≤ ((qpS qp1).aon.counter - qp1.since).toNat := fun st => ⟨rfl, by decide⟩

/-- R416: RTU makes a CONNECTING entry READY and leaves an ERROR entry. -/
theorem test_rtu : ∀ st ∈ [QpState.connecting, .ready, .error], (match exec (.cmRtu 0) (qpS { qp1 with st := st }) with
    | .next t => (t.qp? 0).map Qp.st
    | _ => none) = some (if st = .connecting then .ready else st) := by decide +kernel

/-- Region 5 is the store's at an IPv6 address; store queue pair 0 carries it, port 0. -/
def sreg : Region := ⟨5, true, 0, 2 ^ 64, true, true, 7, 0x1000, 65536, true, some 0, some hc, none, none⟩
def sq0 (ready : Bool) : SQp := ⟨5, 0, ready, 0, 0, 200, none, none, none, none⟩
def stS (r : Region) (ready known : Bool) : State := let s := upPort (jobIn .running); { s with
  aon := { s.aon with counter := 5000000 }
  host := { s.host with
    regions := [r]
    sqps := [(0, sq0 ready)]
    arp := if known then [(2 ^ 64, 7)] else [] } }
theorem wit_StoreOpening : (∀ p r, (p = some hc ∧ r = none) ∨ (p = none ∧ r = some (0 : Dword)) →
      (stS { sreg with
        pending := p
        retry := r } false true).openingRegion (5 : BitVec 16).toNat = some ({ sreg with
        pending := p
        retry := r }, 0, sq0 false)) ∧
    (stS sreg false true).host.arp.any (fun e => e.1 == sreg.addr) = true ∧ sreg.pending = some hc ∧
    5000000 ≤ ((stS sreg false true).aon.counter - (sq0 false).since).toNat := by
  refine ⟨?_, by decide +kernel, rfl, by decide⟩
  rintro p r (⟨rfl, rfl⟩ | ⟨rfl, rfl⟩) <;> decide +kernel
theorem wit_StoreArp : ∃ s : State, (s.fab.ports.get (sq0 false).port).up = true ∧ s.openingRegion (5 : BitVec 16).toNat = some (sreg, 0, sq0 false) ∧
    s.host.arp.any (fun e => e.1 == sreg.addr) = false ∧ (∀ x ∈ s.host.regions, x.addr = sreg.addr → x = sreg) ∧
    s.host.regions.filter (fun x => x == sreg) = [sreg] :=
  ⟨stS sreg false false, by decide +kernel, by decide +kernel, by decide +kernel, by decide +kernel, by decide +kernel⟩
def lostReg : Region := { sreg with
  pending := none
  sqp := none
  retry := some 0 }
theorem wit_StoreReconnect : ∃ s : State, s.host.regions.find? (fun r => r.num == (5 : BitVec 16).toNat && r.peer && r.orphaned && r.pending.isNone) =
      some lostReg ∧ lostReg.sqp = none ∧ (∀ x, lostReg.retry = some x → 50000 ≤ (s.aon.counter - x).toNat) ∧
    s.storePort lostReg.addr = some 0 ∧ s.freeSqp = some 0 := by
  refine ⟨{ stS lostReg false true with host := { (stS lostReg false true).host with sqps := [] } }, by decide +kernel, rfl, ?_,
    by decide +kernel, by decide +kernel⟩
  rintro x ⟨⟩
  decide
theorem wit_StoreLost : ∃ s : State, s.host.regions.find? (fun r => r.sqp == some (0 : BitVec 6).toNat) = some { sreg with pending := none } ∧
    alGet s.host.sqps (0 : BitVec 6).toNat = some (sq0 true) ∧ ({ sreg with pending := none } : Region).deleting = none ∧
    (∀ x ∈ s.host.regions, x.num = 5 → x = { sreg with pending := none }) ∧ (sq0 true).ready = true :=
  ⟨stS { sreg with pending := none } true true, by decide +kernel, rfl, rfl, by decide +kernel, rfl⟩

theorem wit_Packets : (∀ role : Byte, role = 1 ∨ role = 2 ∨ role = 3 → ∃ q : Qp, (qpS q).qp? (0 : BitVec 12).toNat = some q ∧ q.st = .ready ∧ q.role = role ∧
      q.rx.length < 64 ∧ (qpS q).job.state = .running) ∧
    (∃ q : Qp, (qpS q).qp? (0 : BitVec 12).toNat = some q ∧ q.st = .ready ∧ q.role = 1 ∧ q.rx.length = 64) ∧
    (List.replicate 64 (0 : Byte)).length = 64 ∧ (List.replicate 63 (0 : Byte)).length ≠ 64 ∧
    (33554432 - 1 : Dword).toNat + [(1 : Byte)].length = 33554432 ∧
    (∃ s : State, s.qp? (0 : BitVec 12).toNat = some qp1 ∧ s.job.state = .running ∧ (4095 : Dword).toNat + [(1 : Byte)].length = s.job.inpages * 4096) ∧
    (2 : Word) ≠ 1 ∧ (0xFFFFFC : Dword).toNat % 4 = 0 ∧ (0xFFFFFC : Dword).toNat + 4 = 2 ^ 24 := by
  refine ⟨fun role h => ⟨{ qp1 with role := role }, rfl, rfl, rfl, by simp [qp1], rfl⟩,
    ⟨{ qp1 with rx := List.replicate 64 [] }, rfl, rfl, rfl, by decide⟩, by decide, by decide, by decide +kernel,
    ⟨{ qpS qp1 with job := { (qpS qp1).job with inpages := 1 } }, rfl, rfl, by decide⟩, by decide, by decide +kernel, by decide +kernel⟩

/-- R414, R418: a two-byte write into the submission area changes those bytes alone. -/
theorem test_submission_write : (match exec (.rdmaWriteReceived 0 2 0x2C5 [7, 8]) (qpS qp1) with
    | .next t => t.job.subArea
    | _ => []) = [(0x2C5, 7), (0x2C6, 8)] := by decide +kernel

/-- A write of 100 counts ago, sent again n times; the local ACK timeout is 4.096 µs times 2^t. -/
def sentS (t n : Nat) (w : Carried) : State := let s := qpS { qp1 with
    timeout := t
    tries := n }
  { s with host := { s.host with unacked := [⟨.host 0, none, 1, w, 0, 49000⟩] } }
/-- A token entry and staged bytes; the timeout 2^8 units, 52,428.8 counts, has not passed in 1,000, and a (free) one of 2^2 units has,
with the retry count used up or not. -/
theorem wit_Acknowledgements : (∀ w : Carried, w = .bytes ∨ w = .token → ∃ (s : State) (u : Unacked), s.host.unacked.find? (fun u => u.qp == .host 0) = some u ∧
      u.what = w) ∧
    (∀ n, n = 6 ∨ n = 7 → (sentS 2 n .bytes).host.unacked.find? (fun u => u.qp == .host 0) = some ⟨.host 0, none, 1, .bytes, 0, 49000⟩ ∧
      (sentS 2 n .bytes).retryOf (.host 0) = some (7, 2, n) ∧
      ∃ x ∈ (sentS 2 n .bytes).sentOn (.host 0), 4096 * 2 ^ 2 ≤ 20 * ((sentS 2 n .bytes).aon.counter - x).toNat) ∧
    ¬ ∃ x ∈ (sentS 8 0 .bytes).sentOn (.host 0), 4096 * 2 ^ 8 ≤ 20 * ((sentS 8 0 .bytes).aon.counter - x).toNat := by
  have late : (sentS 8 0 .bytes).sentOn (.host 0) = [49000] ∧ (sentS 8 0 .bytes).aon.counter = 50000 := by decide +kernel
  refine ⟨?_, ?_, ?_⟩
  · rintro w (rfl | rfl)
    · exact ⟨sentS 2 0 .bytes, ⟨.host 0, none, 1, .bytes, 0, 49000⟩, by decide +kernel, rfl⟩
    · exact ⟨sentS 2 0 .token, ⟨.host 0, none, 1, .token, 0, 49000⟩, by decide +kernel, rfl⟩
  on_goal 2 =>
    rintro ⟨x, h, k⟩
    rw [late.1, List.mem_singleton] at h
    rw [late.2, h] at k
    revert k
    decide +kernel
  rintro n (rfl | rfl) <;> exact ⟨by decide +kernel, by decide +kernel, 49000, by decide +kernel, by decide +kernel⟩

/-- No congestion notification yet, one 2,500 counts ago, one a count later. -/
theorem wit_Pace : (∃ s : State, s.qp? (0 : BitVec 12).toNat = some qp1 ∧ s.cfg.hp.getLsbD 9 = true ∧ qp1.cnpSent = none) ∧
    (∃ (s : State) (q : Qp), s.qp? (0 : BitVec 12).toNat = some q ∧ s.cfg.hp.getLsbD 9 = true ∧ q.cnpSent = some 47500 ∧
      (s.aon.counter - 47500).toNat = 2500) ∧
    ∃ (s : State) (q : Qp), s.qp? (0 : BitVec 12).toNat = some q ∧ s.cfg.hp.getLsbD 9 = true ∧ q.cnpSent = some 47501 ∧ q.lowered = some 47501 ∧
      ¬ 2500 ≤ (s.aon.counter - 47501).toNat :=
  ⟨⟨qpS qp1, rfl, by decide, rfl⟩, ⟨qpS { qp1 with cnpSent := some 47500 }, _, rfl, by decide, rfl, by decide⟩,
    ⟨qpS { qp1 with
      cnpSent := some 47501
      lowered := some 47501 }, _, rfl, by decide, rfl, rfl, by decide⟩⟩
/-- 10.0.0.1 as an IPv4-mapped address. -/
theorem wit_Addresses : ∃ (s : State) (addr : BitVec 128), s.portUp true 0 = true ∧ s.ownAddr true 0 addr = true ∧ (0 : Fin 12).val = (0 : Fin 4).val :=
  ⟨{ qpS qp1 with cfg := { Cfg.reset with hpIp := Cfg.reset.hpIp.set 0 0x0A000001 } }, 0xFFFF0A000001, by decide, by
    simp only [State.ownAddr, Bool.or_eq_true]
    exact Or.inl (by decide +kernel), rfl⟩
theorem wit_CommandWaits : ∃ (s : State) (i : Instr) (h : HostCmd) (opc mask : Byte) (ops : Operands),
    hostCmd i = some (h, opc, mask, ops) ∧ s.behind h opc ops = true :=
  ⟨laterCmd, .resume hc, hc, 0x03, 0, [], rfl, by decide +kernel⟩
theorem wit_ReservedOpcode : (qpS qp1).host.arrived = [] ∧ qp1.rx = [] ∧ reservedOpc (byteAt (List.replicate 64 (0xFF : Byte)) 0) = true ∧
    reservedOpc (byteAt (List.replicate 64 (1 : Byte)) 0) = false :=
  ⟨rfl, rfl, by decide +kernel, by decide +kernel⟩
/-- R276, R425: a command with a reserved opcode is completed with CTX_FAULT_ILLEGAL and its own tag. -/
theorem test_reserved_opcode : (match exec (.controlSendReceived 0 ([0x7F, 0, 0, 0, 0, 0, 0, 0, 9] ++ List.replicate 55 0))
      (qpS { qp1 with ring := some ⟨1, 0, 4, 0, 0⟩ }) with
    | .next t => match t.outbox.map Sent.msg with
      | [.ack 0, .write (.host 0) 1 4096 b] => b.take 9
      | _ => []
    | _ => []) = [1, 0x10, 1, 0x7F, 0, 0, 0, 0, 9] := by decide +kernel
theorem wit_PeerPause : ∃ s : State, (2 : BitVec 3).toNat = s.cfg.pp.toNat % 8 ∧ ¬ ((7 : BitVec 3).toNat = s.cfg.pp.toNat % 8 ∨
    (7 : BitVec 3).toNat = s.cfg.pp.toNat / 8 % 8) ∧
    (3 : BitVec 3).toNat = s.cfg.hp.toNat % 8 :=
  ⟨{ State.reset with cfg := { Cfg.reset with pp := 2 } }, by decide, by decide, by decide⟩

/-! ### Serving -/

/-- A SUBMIT entry of 64 bytes (Table 13-1): token ring of 16 entries in region 1 (HOST, WRITE), prompt of one token at 0, one new token,
request 9, deadline d units. -/
def subE (kind d : Byte) : List Byte := [kind, 4, 0, 0, d, 0, 0, 0, 9, 0, 0, 0, 0, 0, 0, 0] ++ List.replicate 8 0 ++
  [1, 0, 0, 0, 1, 0, 0, 0, 0, 0, 0, 0, 1, 0, 0, 0] ++ List.replicate 24 0
def canE : List Byte := [2, 0, 0, 0, 0, 0, 0, 0, 9]
/-- Ring 0 is enabled and holds one entry; serving is on, one input page. -/
def serve (e : List Byte) (reqs : List Req) : State := let s := jobIn .running; { s with
  cfg := { s.cfg with
    serve0 := s.cfg.serve0 ||| 1
    sqctl := s.cfg.sqctl.set 0 0x18 }
  job := { s.job with
    inpages := 1
    subArea := memWriteN 0 [] 0 e
    rings := [(0, ⟨0, 1, 0, none⟩)]
    reqs := reqs } }
theorem wit_TailWrite : ∀ r : Nat, r = 1 ∨ r = 255 → let s := serve (subE 1 0) [];
    let n := (((BitVec.ofNat 32 r).setWidth 12 : BitVec 12) - (s.job.ring (0 : Fin 128).val).head).toNat;
    n < 2 ^ s.ringLog2 0 ∧ ((s.job.ring (0 : Fin 128).val).tail - (s.job.ring (0 : Fin 128).val).head).toNat ≤ n := by
  rintro r (rfl | rfl) <;> decide
theorem wit_TailWriteRefused : let s := serve (subE 1 0) [];
    (2 ^ s.ringLog2 0 ≤ (((256 : Word).setWidth 12 : BitVec 12) - (s.job.ring (0 : Fin 128).val).head).toNat) ∧
    (((0 : Word).setWidth 12 : BitVec 12) - (s.job.ring (0 : Fin 128).val).head).toNat <
      ((s.job.ring (0 : Fin 128).val).tail - (s.job.ring (0 : Fin 128).val).head).toNat := by decide

theorem wit_Submit : ∀ d, d = 0 ∨ d = 255 → (serve (subE 1 d) []).takes 0 = true ∧
    SubmitGood (serve (subE 1 d) []) 0 ((serve (subE 1 d) []).headEntry 0) := by
  rintro d (rfl | rfl) <;>
    exact ⟨by decide +kernel, ⟨by decide +kernel, by decide +kernel, by decide +kernel, by decide +kernel, by decide +kernel,
      fun r h => absurd h List.not_mem_nil, by decide +kernel, ⟨reg1, by decide +kernel, rfl, by decide +kernel⟩⟩⟩
theorem wit_SubmitRefused : (serve (subE 3 0) []).takes 0 = true ∧ fieldAt ((serve (subE 3 0) []).headEntry 0) 0 1 ≠ 2 ∧
    ¬ SubmitGood (serve (subE 3 0) []) 0 ((serve (subE 3 0) []).headEntry 0) :=
  ⟨by decide +kernel, by decide +kernel, fun h => absurd h.kind (by decide +kernel)⟩

/-- Request 9 of ring 0, in a slot or not, with a deadline. -/
def req9 (slot : Option Nat) : Req := ⟨0, 9, 4, 0, some 0, 0, 1, 4, 0, 1, 0, [], .generate, slot, 1, 1, 0, false, 0⟩
/-- A plan that serves it in slot 3. -/
def plan9 : Plan := ⟨0, [⟨3, 3, 0, 1, 1, 0, 0, 9, [], false, 1⟩], true, false⟩
def planned (s : State) : State := { s with job := { s.job with plans := [plan9] } }
theorem wit_CancelRefused : let s := serve [2, 1] []; s.takes 0 = true ∧ fieldAt (s.headEntry 0) 0 1 = 2 ∧
    ¬ (allZero (((s.headEntry 0).drop 1).take 7) = true ∧ allZero ((s.headEntry 0).drop 16) = true) := by decide +kernel
theorem wit_Cancel : (∀ s, s = serve canE [req9 none] ∨ s = planned (serve canE [req9 (some 3)]) ∨ s = serve canE [] → s.takes 0 = true ∧
      fieldAt (s.headEntry 0) 0 1 = 2 ∧ allZero (((s.headEntry 0).drop 1).take 7) = true ∧ allZero ((s.headEntry 0).drop 16) = true) ∧
    (serve canE [req9 none]).job.reqs.find? (fun x => x.ring == 0 && x.reqid == 9 && x.state != .ended) = some (req9 none) ∧
    (serve canE [req9 none]).inFlight (req9 none) = false ∧ (planned (serve canE [req9 (some 3)])).inFlight (req9 (some 3)) = true ∧
    (req9 none).deadline = some 0 ∧ 0 ≤ (serve canE [req9 none]).aon.counter.toNat := by
  refine ⟨?_, by decide +kernel, by decide, by decide, rfl, by decide⟩
  rintro s (rfl | rfl | rfl) <;> exact ⟨by decide +kernel, by decide +kernel, by decide +kernel, by decide +kernel⟩

/-- A plan buffer exported as 1 and an EMIT buffer exported as 2, of the sizes R362 asks for, and trick 0 joined. -/
def exported (b : Buffer) (n : Nat) (w : Bool) : Buffer := { b with exp := some (n, w, none) }
def attached : State := let s := runT cxT; { s with
  cfg := { s.cfg with
    serve0 := s.cfg.serve0 ||| 1
    serve1 := 0x2001 }
  job := { s.job with
    bufs := [exported (bB 1 1 131136) 1 true, exported (bB 2 1 1048576) 2 true]
    reqs := [{ req9 (some 3) with deadline := none }] } }
theorem wit_PlanFreeze : attached.planTrick = some 0 ∧ { req9 (some 3) with deadline := none } ∈ attached.job.reqs ∧
    (req9 (some 3)).state = .generate ∧ (req9 (some 3)).emitEnded = false ∧
    ∀ x ∈ attached.job.reqs, x.expired attached.aon.counter = true → attached.inFlight x = true ∨ x.state = .ended :=
  ⟨by decide +kernel, by decide, rfl, rfl, by decide⟩

/-! ### Peer links -/

/-- The linked state with its one route changed; counter at 5,000. -/
def withRoute (r : Route) : State := let s := linked (runT cxT); { s with
  aon := { s.aon with counter := 5000 }
  fab := { s.fab with
    routes := [r]
    ports := s.fab.ports.set 0 { PPort.reset with up := true } } }
/-- A frame not acknowledged, sent at 4,000, tried n times. -/
def tx (n : Nat) : TxFrame := ⟨0, classDATA, 0, 0, n, 4000, [], false, 1, 0⟩
def routeTx (n : Nat) : Route := { route1 with
  txSeq := 1
  window := [tx n]
  lastRx := 5000 }
theorem wit_LinkFrames : OnRoute (withRoute (routeTx 1)) hdr (routeTx 1) ∧ (withRoute (routeTx 1)).fab.waiting = [] :=
  ⟨⟨by decide, rfl, rfl, rfl⟩, rfl⟩
theorem wit_LinkTimers : (∃ (s : State) (r : Route), s.route? 0 1 = some r ∧ r.up = true ∧ 500 ≤ (s.aon.counter - r.lastTx).toNat) ∧
    (∃ (s : State) (r : Route), s.route? 0 1 = some r ∧ r.up = true ∧ s.deadCounts = (s.aon.counter - r.lastRx).toNat) ∧
    (∃ (s : State) (r : Route), s.route? 0 1 = some r ∧ r.up = true ∧ r.window = [tx 8] ∧ 1000 = (s.aon.counter - (tx 8).sent).toNat ∧
      s.retryMax + 1 = (tx 8).tries) ∧
    ∃ (s : State) (r : Route), s.route? 0 1 = some r ∧ r.up = true ∧ r.window = [tx 7] ∧ 1000 = (s.aon.counter - (tx 7).sent).toNat ∧
      (tx 7).tries < s.retryMax + 1 := by
  refine ⟨⟨withRoute route1, route1, rfl, rfl, by decide⟩, ⟨{ withRoute route1 with aon := { Aon.reset with counter := 5000 } }, route1, rfl, rfl,
    by decide⟩, ⟨withRoute (routeTx 8), routeTx 8, rfl, rfl, rfl, by decide, ?_⟩, ⟨withRoute (routeTx 7), routeTx 7, rfl, rfl, rfl, by decide, ?_⟩⟩ <;>
    decide
/-- The peer has paused the port's priority. -/
def pausedS (r : Route) : State := let s := withRoute r; { s with fab := { s.fab with
  ports := s.fab.ports.set 0 { PPort.reset with
    up := true
    paused := 0xFF } } }
theorem wit_PausedPort : (pausedS (routeTx 1)).route? 0 1 = some (routeTx 1) ∧ (routeTx 1).up = true ∧ (pausedS (routeTx 1)).pausedPort 0 = true ∧
    (routeTx 1).window = [tx 1] ∧ 1000 ≤ ((pausedS (routeTx 1)).aon.counter - (tx 1).sent).toNat ∧ (withRoute (routeTx 1)).pausedPort 0 = false := by
  decide
theorem wit_Hello : ∃ s : State, (s.fab.ports.get 0).up = true ∧ s.isBench = false ∧ (Config.ownMid + 1 ≠ Config.ownMid) ∧ (0 : BitVec 16) = s.cfgSysid ∧
    s.route? 0 (Config.ownMid + 1) = none ∧ ((2 : Byte) > 1 ∨ (2 : Byte) < 1) :=
  ⟨upPort State.reset, by decide, by decide, fun h => by
    generalize Config.ownMid = m at h
    bv_omega, by decide, rfl, by decide⟩
theorem wit_HelloAgain : ∃ s : State, (s.fab.ports.get 0).up = true ∧ s.isBench = false ∧
    s.route? 0 (Config.ownMid + 1) = some { route1 with peer := Config.ownMid + 1 } ∧ route1.up = true := by
  refine ⟨{ upPort State.reset with fab := { (upPort State.reset).fab with routes := [{ route1 with peer := Config.ownMid + 1 }] } }, by decide,
    by decide, ?_, rfl⟩
  simp [State.route?, route1]
/-- MID 1 has been silent since count 0 of 50,000; MID 0 is the coordinator of one view and not of the other. -/
def silent (s : State) : State := { s with
  aon := { s.aon with counter := 50000 }
  fab := { s.fab with routes := [{ route1 with up := false }] } }
theorem wit_PeerSuspected : (∃ (s : State) (v : View) (x : ViewEntry), s.fab.view = some v ∧ v.entry? 1 = some x ∧ x.state ≠ .dead ∧ (1 : BitVec 9) ≠ s.fab.mid ∧
      s.fab.suspects.contains 1 = false ∧ (∃ r ∈ s.fab.routes, r.peer = 1) ∧
      (∀ r ∈ s.fab.routes, r.peer = 1 → r.up = false ∧ s.suspectCounts ≤ (s.aon.counter - r.downSince).toNat) ∧
      ({ s with fab := { s.fab with suspects := s.fab.suspects ++ [1] } } : State).isCoord = true) ∧
    (∃ s : State, s.coordinator = some 0 ∧ ({ s with fab := { s.fab with suspects := s.fab.suspects ++ [0] } } : State).isCoord = false ∧
      ({ s with fab := { s.fab with suspects := s.fab.suspects ++ [0] } } : State).coordinator = some 1) ∧
    ∃ s : State, s.fab.view = some (⟨1, 0, 2, [⟨0, .active, 0, 0, 0, 0⟩, ⟨1, .active, 0, 1, 0, 0⟩, ⟨2, .active, 0, 2, 0, 0⟩]⟩) ∧
      ({ s with fab := { s.fab with suspects := s.fab.suspects ++ [1] } } : State).isCoord = false ∧
      ({ s with fab := { s.fab with suspects := s.fab.suspects ++ [1] } } : State).coordinator = some 0 ∧ (1 : BitVec 9) ≠ s.fab.mid :=
  ⟨⟨silent (inTwo State.reset), two, ⟨1, .active, 0, 1, 0, 0⟩, rfl, by decide, by decide, by decide, by decide, by decide, by decide, by decide⟩,
    ⟨{ State.reset with fab := { Fab.reset with
      view := some ⟨1, 0, 2, [⟨0, .active, 0, 0, 0, 0⟩, ⟨1, .active, 0, 1, 0, 0⟩, ⟨2, .active, 0, 2, 0, 0⟩]⟩
      self := .active
      mid := 2 } }, by decide, by decide, by decide⟩,
    ⟨{ State.reset with fab := { Fab.reset with
      view := some ⟨1, 0, 2, [⟨0, .active, 0, 0, 0, 0⟩, ⟨1, .active, 0, 1, 0, 0⟩, ⟨2, .active, 0, 2, 0, 0⟩]⟩
      self := .active
      mid := 2 } }, rfl, by decide, by decide, by decide⟩⟩

/-- The frame's attempt, epoch and job at both sides of each bound. -/
theorem wit_DataFrames : (∃ s r, InOrder s hdr ∧ hdr.jobid = s.job.jobid ∧ s.job.state ≠ .idle ∧ hdr.epoch = s.fab.epoch ∧
      (taken s hdr).trick? hdr.trick.toNat = some r ∧ s.stat.sealedN ≤ hdr.trick.toNat ∧ hdr.attempt = r.att) ∧
    (∀ a : Byte, a = 1 ∨ a = 127 → ∃ s h r, InOrder s h ∧ h.epoch = s.fab.epoch ∧ (taken s h).trick? h.trick.toNat = some r ∧ h.attempt - r.att = a ∧
      1 ≤ a.toNat ∧ a.toNat < 128) ∧
    (∃ s h r, InOrder s h ∧ h.epoch = s.fab.epoch ∧ (taken s h).trick? h.trick.toNat = some r ∧ 128 = (h.attempt - r.att).toNat) ∧
    (∃ s, InOrder s hdr ∧ hdr.epoch = s.fab.epoch ∧ hdr.trick.toNat < s.stat.sealedN) ∧
    (∃ s h, InOrder s h ∧ h.jobid = s.job.jobid ∧ s.job.state ≠ .idle ∧ h.epoch < s.fab.epoch) ∧
    (∃ s h, InOrder s h ∧ h.jobid = s.job.jobid ∧ h.epoch > s.fab.epoch ∧ s.fab.self ≠ .quarantine ∧ s.fab.self ≠ .offered) ∧
    (∃ s h, InOrder s h ∧ h.jobid ≠ s.job.jobid) ∧ ∃ s, InOrder s hdr ∧ s.job.state = .idle := by
  have io (h : FrameHdr) (e : h.sysid = 0 ∧ h.port = 0 ∧ h.src = 1 ∧ h.ver = 1 ∧ h.seq = 0) (s : State) (k : (linked s).cfgSysid = 0) : InOrder (linked s) h :=
    ⟨e.1.trans k.symm, ⟨route1, by rw [e.2.1, e.2.2.1]; rfl, rfl, e.2.2.2.1, e.2.2.2.2⟩⟩
  refine ⟨⟨linked (runT cxT), _, io hdr ⟨rfl, rfl, rfl, rfl, rfl⟩ _ (by decide), rfl, by decide, rfl, rfl, by decide, rfl⟩, ?_,
    ⟨linked (runT cxT), { hdr with attempt := 128 }, _, io _ ⟨rfl, rfl, rfl, rfl, rfl⟩ _ (by decide), rfl, rfl, by decide⟩,
    ⟨linked { runT cxT with stat := { Stat.reset with sealedN := 1 } }, io hdr ⟨rfl, rfl, rfl, rfl, rfl⟩ _ (by decide), rfl, by decide⟩,
    ⟨linked (runT cxT), { hdr with epoch := 0 }, io _ ⟨rfl, rfl, rfl, rfl, rfl⟩ _ (by decide), rfl, by decide, by decide⟩,
    ⟨linked (runT cxT), { hdr with epoch := 2 }, io _ ⟨rfl, rfl, rfl, rfl, rfl⟩ _ (by decide), rfl, by decide, by decide, by decide⟩,
    ⟨linked (runT cxT), { hdr with jobid := 1 }, io _ ⟨rfl, rfl, rfl, rfl, rfl⟩ _ (by decide), by decide⟩,
    ⟨linked State.reset, io _ ⟨rfl, rfl, rfl, rfl, rfl⟩ _ (by decide), rfl⟩⟩
  rintro a (rfl | rfl)
  · exact ⟨linked (runT cxT), { hdr with attempt := 1 }, _, io _ ⟨rfl, rfl, rfl, rfl, rfl⟩ _ (by decide), rfl, rfl, rfl, by decide, by decide⟩
  · exact ⟨linked (runT cxT), { hdr with attempt := 127 }, _, io _ ⟨rfl, rfl, rfl, rfl, rfl⟩ _ (by decide), rfl, rfl, rfl, by decide, by decide⟩

theorem wit_RefreshTraffic : (∃ s f, JobFrame s hdr ∧ s.job.recov.refresh = some f ∧ f.committed = false) ∧
    (∃ s y, JobFrame s hdr ∧ s.job.stripeOf 9 4 2 2 0 0 0 = some y ∧ (y.id, 0) ∉ s.hl.lost) ∧
    (∃ s, JobFrame s hdr ∧ s.job.stripeOf 9 4 2 2 0 0 0 = none) ∧
    (∃ s, JobFrame s hdr ∧ s.stat.sealedN < 1 ∧ ∀ f, s.job.recov.refresh = some f → f.point ≠ 1) ∧
    (∃ (s : State) (f : Refresh), s.job.recov.refresh = some f ∧ f.committed = true ∧ s.job.recov.ck = none) ∧
    (∀ k t, k = 1 ∨ k = 2 → t = 0 ∨ t = 1 → ∃ (s : State) (w : CkWrite), s.job.recov.ck = some w ∧ w.awaitSeal = false ∧ w.step = k ∧ w.target = t) ∧
    (∃ s r, JobFrame s hdr ∧ s.job.recov.rebuild = some r) ∧
    ∃ (s : State) (y : Buffer), (1, 0) ∈ s.hl.lost ∧ s.job.buf? 1 = some y := by
  let put (s : State) (r : Recov) : State := { s with job := { s.job with recov := r } };
  have jf (s : State) (k : (linked s).cfgSysid = 0 ∧ s.job.jobid = 0 ∧ s.job.state = .running) : JobFrame (linked s) hdr :=
    ⟨inOrder_linked s k.1, k.2.1.symm, by show s.job.state ≠ .idle; rw [k.2.2]; decide, rfl,
      ⟨by show SelfState.active ≠ .quarantine; decide, by show SelfState.active ≠ .offered; decide⟩⟩
  exact ⟨⟨linked (put (runT cxT) { Recov.empty with refresh := some (refr false) }), refr false, jf _ ⟨by decide, rfl, rfl⟩, rfl, rfl⟩,
    ⟨linked (es cxT [exported { bF 1 2 2 with cls := .stream } 9 false]), _, jf _ ⟨by decide, rfl, rfl⟩, rfl, by decide⟩,
    (⟨linked (runT cxT), jf _ ⟨by decide, rfl, rfl⟩, rfl⟩ : ∃ s, JobFrame s hdr ∧ s.job.stripeOf 9 4 2 2 0 0 0 = none),
    ⟨linked (runT cxT), jf _ ⟨by decide, rfl, rfl⟩, by decide, fun f (h : none = some f) => nomatch h⟩,
    ⟨put (runT cxT) { Recov.empty with refresh := some (refr true) }, refr true, rfl, rfl, rfl⟩,
    fun k t _ _ => ⟨put (runT cxT) { Recov.empty with ck := some ⟨(refr true).pinned, t, k, false, false, false, [], (1, 0), (2, 0), 0⟩ }, _, rfl, rfl, rfl, rfl⟩,
    ⟨linked (put (runT cxT) { Recov.empty with rebuild := some ⟨hc, [], [], [], 0, false⟩ }), _, jf _ ⟨by decide, rfl, rfl⟩, rfl⟩,
    ⟨{ es cxT [{ bF 1 2 2 with cls := .stream }] with hl := { Health.reset with lost := [(1, 0)] } }, _, by decide, rfl⟩⟩
/-- A Kitty of three: the substitute holds both chunks of 4,096 bytes, its parity from ranks 1 and 2 and its log. -/
def rebuilt : State := let s := linked (runT cxT); { s with
  cfg := { s.cfg with kcfg := 3 }
  job := { s.job with
    ranks0 := 3
    recov := { Recov.empty with rebuild := some ⟨hc, [(0, List.replicate 4096 0, 4096), (1, List.replicate 4096 0, 4096)], [],
      [(1, 4096), (2, 4096)], 4096, true⟩ } } }
theorem wit_Rebuilt : ∃ (r : Rebuild) (base g : Nat) (part : Nat → List Byte × Nat), rebuilt.job.recov.rebuild = some r ∧
    rebuilt.kitty = some (base, g) ∧ r.size ≠ 0 ∧ r.logGot = true ∧ (∀ c, c < g - 1 → alGet r.chunks c = some (part c) ∧ r.size ≤ (part c).2) ∧
    ∀ k, base ≤ k → k < base + g → k ≠ rebuilt.myRank → ∃ n, alGet r.parGot k = some n ∧ r.size ≤ n := by
  refine ⟨_, 0, 3, fun _ => (List.replicate 4096 0, 4096), rfl, by decide +kernel, by decide, rfl, fun c h => ?_, fun k _ h n => ?_⟩
  · obtain rfl | rfl : c = 0 ∨ c = 1 := by omega
    all_goals exact ⟨rfl, by decide⟩
  · have z : rebuilt.myRank = 0 := by decide +kernel
    rw [z] at n
    obtain rfl | rfl : k = 1 ∨ k = 2 := by omega
    all_goals exact ⟨4096, rfl, by decide⟩
/-- An exported stripe, told damaged, or not held by MID 1 with and without a rank after it. -/
theorem wit_StripeAnswers : (∃ (s : State) (y : Buffer), (1, 0) ∈ s.hl.lost ∧ s.job.buf? 1 = some y ∧
      (s.ranks.filter fun e => e.mid != s.fab.mid && decide (s.rankOf 1 < e.rank.toNat)).head? = none) ∧
    (∃ (s : State) (y : Buffer) (x : ViewEntry), (1, 0) ∈ s.hl.lost ∧ s.job.buf? 1 = some y ∧ y.exp = some (9, false, none) ∧
      (s.ranks.filter fun e => e.mid != s.fab.mid && decide (s.rankOf 1 < e.rank.toNat)).head? = some x) ∧
    ∃ (s : State) (y : Buffer), JobFrame s hdr ∧ s.job.stripeOf 9 4 2 2 0 0 0 = some y ∧ (y.id, 0) ∈ s.hl.lost := by
  let b := exported { bF 1 2 2 with cls := .stream } 9 false;
  let s : State := { linked (es cxT [b]) with hl := { Health.reset with lost := [(1, 0)] } };
  exact ⟨⟨s, b, by decide, rfl, by decide +kernel⟩,
    ⟨{ s with fab := { s.fab with view := some ⟨1, 0, 2, [⟨0, .active, 0, 0, 0, 0⟩, ⟨1, .active, 0, 1, 0, 0⟩, ⟨2, .active, 0, 2, 0, 0⟩]⟩ } }, b, _, by decide, rfl,
      rfl, rfl⟩,
    s, b, ⟨⟨by decide, ⟨route1, rfl, rfl, rfl, rfl⟩⟩, rfl, by decide, rfl, by decide⟩, rfl, by decide⟩
/-- A refusal for a point this member has made no refresh of, and not told of yet. -/
theorem wit_RefusalPassedOn : ∃ s, JobFrame s hdr ∧ (∀ f, s.job.recov.refresh = some f → f.point ≠ 1) ∧ s.job.recov.failedAt ≠ some 1 ∧
    (2 : Nat) ≠ s.job.recov.p := by
  refine ⟨linked (runT cxT), ⟨⟨by decide, ⟨route1, rfl, rfl, rfl, rfl⟩⟩, rfl, by decide, rfl, by decide⟩, ?_, by decide, by decide⟩
  rintro f ⟨⟩
/-- A suspect this module took for silent comes back over a route that is down. -/
theorem wit_HelloBack : ∃ s : State, (s.fab.ports.get 0).up = true ∧ s.isBench = false ∧ s.fab.suspects = [Config.ownMid + 1] ∧
    Config.ownMid + 1 ∈ s.fab.silentSus ∧ ∀ x, s.route? 0 (Config.ownMid + 1) = some x → x.up = false := by
  refine ⟨{ upPort State.reset with fab := { (upPort State.reset).fab with
    suspects := [Config.ownMid + 1]
    silentSus := [Config.ownMid + 1]
    routes := [{ route1 with
      peer := Config.ownMid + 1
      up := false }] } }, by decide, by decide, rfl, List.mem_singleton.2 rfl, fun x h => ?_⟩
  simp [State.route?, route1] at h
  rw [← h]

/-! ### Ports, membership -/

/-- A module that has booted, its SerDes reference present, peer and host ports 0 up, the peer port direct or not. -/
def booted : State := { State.reset with aon := { Aon.reset with
  bootStep := 10
  ready := true
  refOk := true } }
def portS (direct training : Bool) : State := let s := hosted (upPort booted); { s with
  fab := { s.fab with ports := s.fab.ports.set 0 { PPort.reset with
    up := true
    direct := direct
    training := training } }
  host := { s.host with ports := s.host.ports.set 0 { HPort.reset with up := true } } }
theorem wit_Ports : booted.aon.ready = true ∧ booted.aon.refOk = true ∧ booted.isBench = false ∧ (0 : Fin 4).val = (0 : Fin 12).val ∧
    ((portS false false).host.ports.get 0).up = true ∧
    (∃ q, (portS false false).qp? 0 = some q ∧ q.port = 0 ∧ q.st = .ready) ∧
    (∀ d, ((portS d false).fab.ports.get 0).up = true ∧ ((portS d false).fab.ports.get 0).direct = d ∧
      ((portS d false).fab.ports.get 0).spare.toNat ≠ (0 : Fin 9).val ∧ ((portS d false).fab.ports.get 0).retiredLane.toNat ≠ (0 : Fin 9).val) ∧
    2 ^ ((portS true false).cfg.pp.toNat / 2 ^ 28) < 257 ∧ ((portS true true).fab.ports.get 0).training = true := by
  refine ⟨rfl, rfl, by decide, rfl, by decide, ⟨qp1, rfl, rfl, rfl⟩, fun d => ?_, by decide +kernel, by decide⟩
  cases d <;> decide

/-- The same linked state in another epoch, with a promise and a round. -/
def agreeS (epoch promised : Word) (r : Option Round) : State := let s := linked (runT cxT); { s with fab := { s.fab with
  epoch := epoch
  promised := promised
  coord := r } }
def round0 (accepting failed : Bool) : Round := ⟨2, 7, accepting, [], [], none, 0, failed⟩
theorem inOrder_agree (e p : Word) (r : Option Round) : InOrder (agreeS e p r) hdr := ⟨by show 0 = (agreeS 0 0 none).cfgSysid; decide, ⟨route1, rfl, rfl, rfl, rfl⟩⟩
theorem wit_Ballots : (∃ s, InOrder s hdr ∧ hdr.epoch < s.fab.epoch) ∧
    (∀ p : Word, p = 6 ∨ p = 7 ∨ p = 8 → ∃ s, InOrder s hdr ∧ ¬ hdr.epoch < s.fab.epoch ∧ s.fab.self = .active ∧ s.fab.epoch ≠ 0 ∧
      (2 : Word) = s.fab.epoch + 1 ∧ s.fab.promised = p) ∧
    (∀ a, ∃ s, InOrder s hdr ∧ ¬ hdr.epoch < s.fab.epoch ∧ s.fab.coord = some (round0 a false) ∧ (round0 a false).newEpoch = 2 ∧ (round0 a false).ballot = 7 ∧
      midOf hdr.src ∈ s.viewMembers ∧ (∀ p ∈ (round0 a false).promises, p.1 ≠ midOf hdr.src) ∧ midOf hdr.src ∉ (round0 a false).accepts) ∧
    ∃ s h, InOrder s h ∧ s.fab.epoch < h.epoch := by
  refine ⟨⟨agreeS 2 0 none, inOrder_agree _ _ _, by decide⟩, fun p _ => ⟨agreeS 1 p none, inOrder_agree _ _ _, by show ¬ (1 : Word) < 1; decide, rfl, by show (1 : Word) ≠ 0; decide, by show (2 : Word) = 1 + 1; decide, rfl⟩,
    fun a => ⟨agreeS 1 7 (some (round0 a false)), inOrder_agree _ _ _, by show ¬ (1 : Word) < 1; decide, rfl, rfl, rfl, by
      show midOf hdr.src ∈ (agreeS 1 7 none).viewMembers; decide, fun p h => absurd h List.not_mem_nil, List.not_mem_nil⟩,
    ⟨agreeS 1 0 none, { hdr with epoch := 2 }, ⟨by decide, ⟨route1, rfl, rfl, rfl, rfl⟩⟩, by decide⟩⟩
/-- A view of epoch e that gives this module's MID one entry. -/
def ownView (e : Word) (st : MemState) : View := ⟨e, 0, 2, [⟨Config.ownMid, st, 0, 0, 1, 0⟩]⟩
theorem ownView_entry (e : Word) (st : MemState) : (ownView e st).entry? Config.ownMid = some ⟨Config.ownMid, st, 0, 0, 1, 0⟩ := by
  simp [View.entry?, ownView]
theorem ownView_ok (s : State) (h : s.cfgSysid = 0) (e : Word) (he : e ≠ 0) (st : MemState) : s.viewOk (ownView e st) = true := by
  cases st <;> simpa [State.viewOk, ownView, midsRise, ranksUnique, h] using he
/-- A spare-only strapping refuses an ACTIVE entry (R398). -/
def spareS : State := let s := agreeS 1 0 none; { s with aon := { s.aon with latch := 128 } }
theorem wit_Installs : (∃ s : State, ∃ v : View, InOrder s hdr ∧ ¬ hdr.epoch < s.fab.epoch ∧ s.viewOk v = true ∧ s.fab.epoch < v.epoch ∧ v.entry? Config.ownMid = some ⟨Config.ownMid, .active, 0, 0, 1, 0⟩ ∧
      s.fab.self ≠ .quarantine ∧ s.roleBars v = false) ∧
    (∃ s : State, ∃ v : View, InOrder s hdr ∧ ¬ hdr.epoch < s.fab.epoch ∧ s.viewOk v = true ∧ s.fab.epoch < v.epoch ∧ (v.entry? Config.ownMid).isSome ∧ s.fab.self = .active ∧ s.roleBars v = true) ∧
    ∃ s : State, ∃ v : View, InOrder s hdr ∧ s.viewOk v = true ∧ v.epoch = s.fab.epoch ∧ v.entry? Config.ownMid = some ⟨Config.ownMid, .spare, 0, 0, 1, 0⟩ := by
  have sp : (agreeS 1 0 none).spareOnly = false := by decide
  have sq : spareS.spareOnly = true := by decide
  refine ⟨⟨agreeS 1 0 none, ownView 2 .active, inOrder_agree _ _ _, by decide, ownView_ok _ (by decide) _ (by decide) _, by show (1 : Word) < 2; decide, ownView_entry _ _, by decide, ?_⟩,
    ⟨spareS, ownView 2 .active, ⟨by decide, ⟨route1, rfl, rfl, rfl, rfl⟩⟩, by decide, ownView_ok _ (by decide) _ (by decide) _, by show (1 : Word) < 2; decide, by rw [ownView_entry]; rfl, rfl, ?_⟩,
    ⟨agreeS 1 0 none, ownView 1 .spare, inOrder_agree _ _ _, ownView_ok _ (by decide) _ (by decide) _, rfl, ownView_entry _ _⟩⟩
  · rw [State.roleBars, sp]; rfl
  · rw [State.roleBars, sq, ownView_entry]; rfl
/-- Every domain is on. -/
def lit (a : Aon) : Aon := { a with domOn := BitVec.allOnes 80 }
theorem wit_Membership : (∃ s : State, InOrder s hdr ∧ ¬ hdr.epoch < s.fab.epoch ∧ s.fab.self = .active ∧ (1 : BitVec 16).toNat ≠ s.fab.mid.toNat ∧ s.fab.view = some two ∧
      hdr.epoch = s.fab.epoch) ∧
    (∃ s, InOrder s hdr ∧ ¬ hdr.epoch < s.fab.epoch ∧ (taken s hdr).isCoord = true ∧ (taken s hdr).chgBad 3 1 0 0 = none) ∧
    (∃ (s : State) (r : Round), s.fab.coord = some r ∧ r.failed = false ∧ 25000 = (s.aon.counter - r.since).toNat) ∧
    (∃ (s : State) (r : Round), s.fab.coord = some r ∧ r.failed = true ∧ 10000 + 100 * s.fab.mid.toNat = (s.aon.counter - r.since).toNat) ∧
    (∀ lost, lost = 0 ∨ lost = 1 → ∃ s : State, s.fab.self = .quarantine ∧ s.fab.qstage = 4 ∧ s.hl.selftest = true ∧ s.aon.braceAt = none ∧
      (s.selfTest []).hl.failed = decide (lost = (1 : BitVec 4))) := by
  refine ⟨⟨agreeS 1 0 none, inOrder_agree _ _ _, by decide, rfl, by decide, rfl, rfl⟩, ⟨agreeS 1 0 none, inOrder_agree _ _ _, by decide, by decide, by decide⟩,
    ⟨{ agreeS 1 7 (some (round0 true false)) with aon := { Aon.reset with counter := 25000 } }, _, rfl, rfl, by decide⟩,
    ⟨{ agreeS 1 7 (some (round0 true true)) with aon := { Aon.reset with counter := 10000 } }, _, rfl, rfl, by decide⟩, ?_⟩
  rintro lost (rfl | rfl)
  · exact ⟨{ State.reset with
      aon := lit Aon.reset
      fab := { Fab.reset with
        self := .quarantine
        qstage := 4 }
      hl := { Health.reset with selftest := true } }, rfl, rfl, rfl, rfl, by decide +kernel⟩
  · exact ⟨{ State.reset with
      aon := lit Aon.reset
      fab := { Fab.reset with
        self := .quarantine
        qstage := 4 }
      hl := { Health.reset with
        selftest := true
        hubLost := 1 } }, rfl, rfl, rfl, rfl, by decide +kernel⟩
theorem wit_QuarantineIsSilent : ∃ s : State, InOrder s hdr ∧ s.fab.self = .quarantine :=
  ⟨{ agreeS 1 0 none with fab := { (agreeS 1 0 none).fab with self := .quarantine } }, ⟨by decide, ⟨route1, rfl, rfl, rfl, rfl⟩⟩, rfl⟩

/-! ### Errors, rotation, self-test -/

def hl (f : Health → Health) : State := { booted with hl := f Health.reset }
theorem wit_Errors : (∃ s : State, s.hl.isRet ⟨.channel, 155⟩ = false ∧ (s.hl.suspOf ⟨.channel, 155⟩).ce + 1 < 2 ^ (s.cfg.esc.toNat / 2 ^ 20 % 16)) ∧
    (∃ s : State, s.hl.isRet ⟨.channel, 155⟩ = false ∧ 2 ^ (s.cfg.esc.toNat / 2 ^ 20 % 16) = (s.hl.suspOf ⟨.channel, 155⟩).ce + 1) ∧
    (∃ s : State, s.hl.isRet ⟨.bank, 527⟩ = false ∧ (s.hl.suspOf ⟨.bank, 527⟩).ce + 1 < 2 ^ (s.cfg.esc.toNat / 2 ^ 16 % 16)) ∧
    (∃ s : State, s.hl.isRet ⟨.bank, 527⟩ = false ∧ 2 ^ (s.cfg.esc.toNat / 2 ^ 16 % 16) = (s.hl.suspOf ⟨.bank, 527⟩).ce + 1) ∧
    (∃ s : State, s.hl.failed = false ∧ s.job.state ≠ .running ∧ s.job.state ≠ .ending) ∧ (∃ s : State, s.hl.failed = true) := by
  refine ⟨⟨booted, by decide, by decide⟩, ⟨hl fun h => { h with susp := [⟨⟨.channel, 155⟩, 0, none, 1023⟩] }, by decide, by decide⟩,
    ⟨booted, by decide +kernel, by decide +kernel⟩, ⟨hl fun h => { h with susp := [⟨⟨.bank, 527⟩, 0, none, 63⟩] }, by decide +kernel, by decide +kernel⟩,
    ⟨booted, rfl, by decide, by decide⟩, ⟨hl fun h => { h with failed := true }, rfl⟩⟩
theorem wit_BufferErrors : (∀ k, k = Cls.state ∨ k = .input ∨ k = .stream → ∃ (s : State) (b : Buffer), s.job.buf? 1 = some b ∧ b.cls = k ∧ b.exp = none) ∧
    (∃ (s : State) (b : Buffer) (x : Nat × Bool × Option Nat), s.job.buf? 1 = some b ∧ b.cls = .stream ∧ b.exp = some x) ∧
    (∃ s : State, s.hl.inService ⟨.bank, 0⟩ = true) ∧
    (∃ s : State, s.hl.ringLost.getLsbD (3 : Fin 4).val = false ∧ s.hl.ringLost = 0) ∧
    (∃ s : State, s.hl.ringLost.getLsbD (3 : Fin 4).val = false ∧ s.hl.ringLost ≠ 0) ∧
    (∃ s : State, s.escWindow = (s.aon.counter - s.hl.window).toNat) ∧ ∃ s : State, (s.chMap (11 : Fin 12).val).copying = true := by
  refine ⟨fun k _ => ⟨es cxT [buf 1 k .byte 1 1], buf 1 k .byte 1 1, rfl, rfl, rfl⟩,
    ⟨es cxT [exported (buf 1 .stream .byte 1 1) 9 false], _, _, rfl, rfl, rfl⟩, ⟨booted, by decide +kernel⟩, ⟨booted, by decide, rfl⟩,
    ⟨hl fun h => { h with ringLost := 1 }, by decide, by decide⟩,
    ⟨{ booted with aon := { booted.aon with counter := 4320737099776 } }, by decide +kernel⟩,
    ⟨hl fun h => { h with chmaps := h.chmaps.set 11 { ChMap.reset with copying := true } }, by decide⟩⟩

def withRots (l : List Rot) (c : Dword) : State := let s := hl fun h => { h with rots := l }; { s with aon := { s.aon with counter := c } }
theorem wit_Rotations : (∃ (s : State) (r : Rot), s.hl.nopat = false ∧ s.aon.ready = true ∧ s.rot? .tile 3 = some r ∧ r.stage = 0 ∧ s.rotPeriod .tile ≠ 0 ∧
      s.rotPeriod .tile = (s.aon.counter - r.start).toNat ∧ s.nextUnit r = some 168) ∧
    (∀ st, st = 3 → ∀ k, k = RotKind.engine ∨ k = .tile → ∃ (s : State) (r : Rot) (u : Sys2Proof.PUnit), rotKindOf u.kind = some k ∧ s.rot? k (unitDie u) = some r ∧
      r.target = some u.idx ∧ r.stage = st ∧ s.aon.braceAt = none ∧ s.hl.nopat = false) ∧
    (∀ st, st = 1 ∨ st = 2 → ∃ (s : State) (r : Rot), s.rot? .engine 3 = some r ∧ r.due = true ∧ r.stage = st ∧ s.hl.nopat = false ∧
      3000000000 = (s.aon.counter - r.dueSince).toNat) := by
  refine ⟨⟨withRots [Rot.reset .tile 3] 1073741824, Rot.reset .tile 3, rfl, rfl, rfl, rfl, by decide, by decide +kernel, by decide +kernel⟩, ?_,
    fun st _ => ⟨withRots [{ Rot.reset .engine 3 with
      stage := st
      due := true
      target := some 12 }] 3000000000, _, rfl, rfl, rfl, rfl, by show 3000000000 = ((3000000000 : Dword) - 0).toNat; decide +kernel⟩⟩
  rintro st rfl k (rfl | rfl)
  · exact ⟨withRots [{ Rot.reset .engine 0 with
      stage := 3
      target := some 0 }] 0, _, ⟨.engine, 0⟩, rfl, rfl, rfl, rfl, rfl, rfl⟩
  · exact ⟨withRots [{ Rot.reset .tile 0 with
      stage := 3
      target := some 0 }] 0, _, ⟨.tile, 0⟩, rfl, rfl, rfl, rfl, rfl, rfl⟩
theorem wit_SparesAndSelfTest : (∀ u : Sys2Proof.PUnit, ∃ (s : State) (w : Wake), s.hl.wakes.find? (fun w => w.u == u && !w.passed) = some w ∧ s.aon.braceAt = none ∧
      s.hl.nopat = false) ∧
    (⟨.channel, 155⟩ : Sys2Proof.PUnit).idx < 156 ∧ (⟨.tile, 0⟩ : Sys2Proof.PUnit).kind ≠ .channel ∧
    (∃ s : State, s.aon.braceAt = none ∧ s.openTricks = []) ∧
    ∃ s : State, s.hl.selftest = true ∧ s.aon.bootStep = 8 ∧ s.aon.braceAt = none := by
  refine ⟨fun u => ⟨hl fun h => { h with wakes := [⟨u, false, false⟩] }, ⟨u, false, false⟩, by simp [hl], rfl, rfl⟩, by decide, by decide,
    ⟨booted, rfl, by decide⟩, ⟨{ hl fun h => { h with selftest := true } with aon := { booted.aon with bootStep := 8 } }, rfl, rfl, rfl⟩⟩

/-- R22: at the reset threshold of 2^10, the 1,024th corrected error is an event and the count starts again. -/
theorem test_channel_threshold : (match exec (.dramCorrectableError 155) (hl fun h => { h with susp := [⟨⟨.channel, 155⟩, 0, none, 1023⟩] }) with
    | .next t => ((t.hl.suspOf ⟨.channel, 155⟩).ce, t.hl.evCount)
    | _ => (9, 9)) = (0, 1) := by decide +kernel
theorem wit_UnreadableChannel : ∃ (s : State) (w : Wake), (⟨.channel, 155⟩ : Sys2Proof.PUnit).idx < 156 ∧
    s.hl.wakes.find? (fun w => w.u == ⟨.channel, 155⟩ && !w.passed) = some w ∧ s.aon.braceAt = none ∧ s.hl.nopat = false ∧ (s.chMap (155 / 13)).unread = true :=
  ⟨hl fun h => { h with
    wakes := [⟨⟨.channel, 155⟩, false, false⟩]
    chmaps := h.chmaps.set 11 { ChMap.reset with unread := true } }, _, by decide, rfl, rfl, rfl, by decide⟩
/-- A spare lane in training, and a sum of buffer 1 spilled to the spill region of context 0. -/
theorem wit_SpareLane : ∃ (s : State) (w : Wake), (⟨.lane, 107⟩ : Sys2Proof.PUnit).idx < 108 ∧
    s.hl.wakes.find? (fun w => w.u == ⟨.lane, 107⟩ && !w.passed) = some w ∧ s.aon.braceAt = none ∧ s.hl.nopat = false :=
  ⟨hl fun h => { h with wakes := [⟨⟨.lane, 107⟩, true, false⟩] }, _, by decide, rfl, rfl, rfl⟩
theorem wit_SpilledSum : ∃ (s : State) (o : OutTile), o.lies = .region none ∧ o.live = true ∧
    s.job.tiles.find? (fun o => o.live && o.buf == 1 && o.r == 0 && o.c == 0) = some o ∧ s.job.ctx? o.ctx = some cxT :=
  let s := es cxT [bF 1 1 1];
  ⟨{ s with job := { s.job with tiles := [sum0 (.region none)] } }, sum0 (.region none), rfl, rfl, rfl, rfl⟩
/-- A buffer on the die is still to be moved: the bank's test has not run. -/
theorem wit_TargetBusy : ∃ (s : State) (r : Rot) (u : Sys2Proof.PUnit), rotKindOf u.kind = some .bank ∧ s.rot? .bank (unitDie u) = some r ∧
    r.target = some u.idx ∧ s.aon.braceAt = none ∧ s.hl.nopat = false ∧ r.stage = 3 ∧ s.targetBusy .bank r u = true :=
  ⟨{ es cxT [{ bU 1 2 2 with moving := true }] with hl := { Health.reset with rots := [{ Rot.reset .bank 0 with
      stage := 3
      target := some 0 }] } }, _, ⟨.bank, 0⟩, rfl, rfl, rfl, rfl, rfl, rfl, by decide +kernel⟩

/-! ### Scoresheet and attestation -/

def wr (done fails : Nat) (started : Bool) : Writing := ⟨⟨5, []⟩, 1, 1, 0, List.replicate 256 0xAB, done, fails, started⟩
def scoreS (f : Score → Score) : State := { booted with score := f Score.reset }
theorem wit_Writing : (∃ s : State, s.score.cur = some (wr 0 0 true) ∧ (wr 0 0 true).dev = 1 ∧ (wr 0 0 true).started = true) ∧
    (∀ n, n = 1 ∨ n = 2 → ∃ s : State, s.score.cur = some (wr 1 n false) ∧ (wr 1 n false).done = (wr 1 n false).pages) ∧
    (∃ s : State, s.score.erases = [(1, 65536)] ∧ s.score.suspended = false) ∧
    ∃ s : State, 180000000000 = (s.aon.counter - s.score.wearDue).toNat := by
  refine ⟨⟨scoreS fun k => { k with cur := some (wr 0 0 true) }, rfl, rfl, rfl⟩,
    fun n _ => ⟨scoreS fun k => { k with cur := some (wr 1 n false) }, rfl, by
      show 1 = (List.replicate 256 (0xAB : Byte)).length / 256
      rw [List.length_replicate]⟩,
    ⟨scoreS fun k => { k with erases := [(1, 65536)] }, rfl, rfl⟩,
    ⟨{ booted with aon := { booted.aon with counter := 180000000000 } }, by decide +kernel⟩⟩
/-- R512: an erased sector reads 0xFF. -/
theorem test_erase : (match exec (.sectorEraseComplete true) (scoreS fun k => { k with
      erases := [(1, 65536)]
      f1 := [(65535, 0), (65536, 1), (131071, 2)] }) with
    | .next t => t.score.f1
    | _ => []) = [(65535, 0)] := by decide +kernel

/-- A key set record with no keys: form only (Table 19-7). -/
def keySet : List Byte := [0x4B, 0x5A, 0x4B, 0x31, 1, 0, 0, 0] ++ List.replicate 264 0
theorem wit_Loads : ∃ (s : State) (l : LoadSt), s.score.load = some l ∧ l.queued = false ∧ keySet.length = l.len ∧ l.kind = 2 ∧ s.keyBad keySet = none ∧
    s.keyBad [] = some stILLEGAL :=
  ⟨scoreS fun k => { k with load := some ⟨2, 1, 272, false⟩ }, ⟨2, 1, 272, false⟩, rfl, rfl, by decide +kernel, rfl, by decide +kernel, by decide +kernel⟩

/-- An attestation request for region r, waiting for a tree or not, the report signed or not; the last leaf of the reservation. -/
def attS (tree : Bool) (signed : List Byte) (rgs : List Region) (next limit : Nat) : State := let s := hosted booted; { s with
  host := { s.host with regions := rgs }
  score := { s.score with hsslow := List.replicate 2728 0 }
  att := ⟨true, false, false, 0, next, limit, some 0, some ⟨1, 0, [1], false, tree⟩, signed⟩ }
theorem wit_Attestation : (∃ (s : State) (q : AttReq), s.att.req = some q ∧ q.waitTree = true ∧ s.lowTree = some (s.att.next / 32768)) ∧
    (∃ (s : State) (q : AttReq), s.att.req = some q ∧ s.att.signed = [] ∧ s.att.next + 1 = s.att.limit ∧ s.att.next < 2 ^ 30 ∧ s.score.nolms = false ∧
      s.att.tree = some (s.att.next / 32768)) ∧
    (∃ (s : State) (q : AttReq), s.att.req = some q ∧ s.att.signed ≠ [] ∧ s.region? q.region = some reg1 ∧ reg1.peer = false ∧ reg1.write = true ∧
      q.off + s.att.signed.length ≤ reg1.length) ∧
    ∃ (s : State) (q : AttReq), s.att.req = some q ∧ s.att.signed ≠ [] ∧ s.region? q.region = some { reg1 with write := false } :=
  ⟨⟨attS true [] [reg1] 0 64, _, rfl, rfl, by decide +kernel⟩, ⟨attS false [] [reg1] 63 64, _, rfl, rfl, rfl, by decide +kernel, rfl, by decide +kernel⟩,
    ⟨attS false [7] [reg1] 1 64, _, rfl, by decide, by decide, rfl, rfl, by decide +kernel⟩,
    ⟨attS false [7] [{ reg1 with write := false }] 1 64, _, rfl, by decide, by decide⟩⟩

/-! ### Resets, supply, boot -/

/-- The module in boot step k. -/
def stepS (k : Nat) (f : Aon → Aon) : State := { State.reset with aon := f { Aon.reset with bootStep := k } }
theorem wit_Resets : (∃ s : State, 3 = s.aon.bootStep) ∧ (58000 < 58001 ∧ 65000 ≤ 65000 ∧ 65000 < 65001) ∧ (∃ s : State, s.aon.bootStep = 0) ∧
    (∃ (s : State) (q : Qp), s.qp? (0 : BitVec 12).toNat = some q ∧ q.st = .ready ∧ q.role = 2) ∧ (0xA55B : Word).toNat % 65536 ≠ 0xA55A :=
  ⟨⟨stepS 3 id, rfl⟩, by decide, ⟨State.reset, rfl⟩, ⟨qpS { qp1 with role := 2 }, _, rfl, rfl, rfl⟩, by decide⟩
/-- R540: above 58 V the module resets with cause 2; above the absolute maximum the model stops. -/
theorem test_overvoltage : (match exec (.overvoltage 58001) (stepS 10 id) with
    | .next t => (t.aon.rstCause, t.aon.bootStep)
    | _ => (9, 9)) = (2, 1) ∧ exec (.overvoltage 65001) (stepS 10 id) = .fault .beyondRatings := ⟨by decide +kernel, rfl⟩

theorem wit_Supply : (∃ s : State, s.aon.bootStep = 0 ∧ 46000 < 46001) ∧ (∃ s : State, s.aon.bootStep = 1 ∧ s.aon.holdOv = false ∧ s.aon.holdOt = false) ∧
    (∃ s : State, 3 ≤ s.aon.bootStep ∧ s.aon.braceAt = none) ∧
    (∀ r, r = none ∨ r = some 0 → ∃ s : State, s.aon.braceAt = some 0 ∧ s.aon.recover = r ∧ 3 ≤ s.aon.bootStep ∧ (s.aon.counter - 0).toNat = 100000) ∧
    (∃ s : State, s.aon.braceAt = some 0 ∧ s.aon.recover = some 0 ∧ (s.aon.counter - 0).toNat + 1 = 100000) ∧ (∃ s : State, s.aon.hot = true) ∧
    (∃ s : State, s.aon.holdOv = true) ∧ (∃ s : State, s.aon.holdOt = true) ∧
    (∀ d : Fin 80, ∃ s : State, 5 ≤ s.aon.bootStep ∧ s.aon.domOn.getLsbD d.val = true) ∧
    (67 ≠ (79 : Fin 80).val ∧ vitalDomain 64 = true ∧ vitalDomain 0 = false ∧ (0 : Fin 80).val < 68 ∧ 68 ≤ (68 : Fin 80).val) :=
  ⟨⟨State.reset, rfl, by decide⟩, ⟨stepS 1 id, rfl, rfl, rfl⟩, ⟨stepS 3 id, by decide, rfl⟩,
    fun r _ => ⟨stepS 10 fun a => { a with
      braceAt := some 0
      recover := r
      counter := 100000 }, rfl, rfl, by show 3 ≤ 10; decide, by show ((100000 : Dword) - 0).toNat = 100000; decide +kernel⟩,
    ⟨stepS 10 fun a => { a with
      braceAt := some 0
      recover := some 0
      counter := 99999 }, rfl, rfl, by show ((99999 : Dword) - 0).toNat + 1 = 100000; decide +kernel⟩, ⟨stepS 10 fun a => { a with hot := true }, rfl⟩,
    ⟨stepS 10 fun a => { a with holdOv := true }, rfl⟩, ⟨stepS 10 fun a => { a with holdOt := true }, rfl⟩,
    fun d => ⟨stepS 5 lit, by decide, by
      show (BitVec.allOnes 80).getLsbD d.val = true
      rw [BitVec.getLsbD_allOnes, decide_eq_true_iff]; exact d.isLt⟩, by decide, by decide, by decide, by decide, by decide⟩
theorem wit_Boot : (∀ k, k = 3 ∨ k = 4 ∨ k = 5 ∨ k = 7 ∨ k = 9 → ∃ s : State, s.aon.bootStep = k ∧ s.aon.braceAt = none ∧ s.aon.holdRst = false ∧
      s.aon.hold = false) ∧
    (∃ s : State, s.aon.hold = true) ∧ (∃ s : State, s.validRec 1 = none ∧ s.validRec 4 = none) ∧
    (∃ s : State, 6 = s.aon.bootStep ∧ s.aon.domOn.getLsbD (16 * (3 : Fin 4).val + 14) = true ∧
      s.aon.domOn.getLsbD (16 * ((55 : Fin 56).val / 14) + (55 : Fin 56).val % 14) = true ∧ s.groupNeeded (0 : Fin 56).val = true) :=
  ⟨fun k _ => ⟨stepS k id, rfl, rfl, rfl, rfl⟩, ⟨stepS 4 fun a => { a with hold := true }, rfl⟩,
    ⟨State.reset, by decide +kernel, by decide +kernel⟩, ⟨stepS 6 lit, rfl, by decide +kernel, by decide +kernel, by decide +kernel⟩⟩

/-! ### Registers, sideband, the machine -/

def manS : State := qpS { qp1 with role := 2 }
theorem wit_RegisterReads : (∃ (s : State) (q : Qp), s.qp? (0 : BitVec 12).toNat = some q ∧ q.st = .ready ∧ q.role = 2 ∧ alGet q.latches 0x3004 = none) ∧
    (∃ (s : State) (q : Qp), s.qp? (0 : BitVec 12).toNat = some q ∧ q.st = .ready ∧ q.role = 2 ∧ alGet q.latches 0x3004 = some 9) ∧
    (∃ off : BitVec 24, off.toNat % 4 = 0 ∧ capturedLO off.toNat = true) ∧
    (∃ off : BitVec 24, off.toNat % 4 = 0 ∧ capturedLO off.toNat = false ∧ 4 ≤ off.toNat ∧ capturedLO (off.toNat - 4) = true) :=
  ⟨⟨manS, _, rfl, rfl, rfl, rfl⟩, ⟨qpS { qp1 with
      role := 2
      latches := [(0x3004, 9)] }, _, rfl, rfl, rfl, rfl⟩, ⟨0x3000, by decide, by decide +kernel⟩, ⟨0x3004, by decide, by decide +kernel, by decide, by decide +kernel⟩⟩
theorem wit_LoadsAndAttest : (∃ s : State, s.job.state = .idle ∧ s.score.load = none ∧ s.region? (1 : BitVec 16).toNat = some reg1 ∧
      s.canRead (1 : BitVec 16).toNat (s.cfg.loadLo.toNat + 2 ^ 32 * s.cfg.loadHi.toNat) s.cfg.loadLen.toNat = true) ∧
    (∃ s : State, s.att.busy = true) ∧
    (∃ s : State, s.att.busy = false ∧ s.att.next < 2 ^ 30 ∧ s.score.nolms = false ∧ s.att.next + 1 = s.att.limit ∧ s.att.tree = some (s.att.next / 32768)) ∧
    (∃ s : State, s.job.state ≠ .idle) :=
  ⟨⟨hosted booted, rfl, rfl, by decide, by decide +kernel⟩, ⟨{ booted with att := { Att.reset with busy := true } }, rfl⟩,
    ⟨{ booted with att := { Att.reset with
      next := 63
      limit := 64
      tree := some 0 } }, rfl, by decide, rfl, rfl, rfl⟩, ⟨manS, by decide⟩⟩
theorem wit_Sideband : (∃ s : State, 3 = s.aon.bootStep) ∧ ((0 : Byte) = 0 ∧ 9 < (10 : Byte).toNat) := ⟨⟨stepS 3 id, rfl⟩, rfl, by decide⟩
/-- Table 18-6: the sideband answers the input voltage, and a NACK before boot step 3. -/
theorem test_smbus : (match exec .smbReadVin (stepS 3 fun a => { a with vin := 54000 }) with
    | .next t => t.outbox
    | _ => []) = [⟨none, .smbWord 54000 (smbPec 1 54000)⟩] ∧ exec .smbReadVin (stepS 1 id) = .next ((stepS 1 id).send .smbNack) := ⟨by decide +kernel, rfl⟩
/-- R549: IDCODE selects the identification register. -/
theorem test_idcode : (match exec .jtagIdcode (stepS 3 id) with
    | .next t => t.aon.jtag
    | _ => .bypass) = .idcode := by decide

theorem wit_Step : (∃ s : State, s.aon.oscOn = true) ∧ ∃ s : State, s.aon.oscOn = false :=
  ⟨⟨State.reset, rfl⟩, ⟨stepS 3 fun a => { a with oscOn := false }, rfl⟩⟩
theorem wit_StepsKeepLeafReservation : ∃ s t : State, LeavesReserved s ∧ step s = .next t :=
  ⟨State.reset, State.reset.tick, by simp only [LeavesReserved]; decide, rfl⟩
/-- The command at the front is run, the rest stays. -/
theorem test_step_front : (match step { run cx with pending := [.li 0 ⟨g0, 3, 0, 0, 5⟩, .helloTimer] } with
    | .next t => (t.pending, (t.job.ctx? 0).map fun x => x.arch.reg 3)
    | _ => ([], none)) = ([.helloTimer], some 5) := by decide
/-- No row of the table gives bits: a word spells no command. -/
theorem test_no_table_word : decodeTableWord 64 0x123 = none := rfl

end Sys2Proof.Tests
end

/-! ## The void of a trick (R236, R255, R286)

O31 in two parts: what a void writes (the snapshot of a context's oldest voided trick, the buffers that stay, the attempt),
and a relation, `State.SameTricks`, that everything it does before and after that stays in. -/

namespace Sys2Proof.Machine

/-! ### The least of a list in its order -/

theorem insertBy_perm {α : Type} (lt : α → α → Bool) (x : α) (l : List α) : (insertBy lt x l).Perm (x :: l) := by
  induction l with
  | nil => exact .refl _
  | cons y r ih =>
    unfold insertBy
    split
    · exact (ih.cons y).trans (.swap x y r)
    · exact .refl _

theorem sortBy_perm {α : Type} (lt : α → α → Bool) (l : List α) : (sortBy lt l).Perm l := by
  induction l with
  | nil => exact .refl _
  | cons x r ih => exact (insertBy_perm lt x _).trans (ih.cons x)

/-- An element before every other one stands first. -/
theorem sortBy_eq_cons_of_least {α : Type} {lt : α → α → Bool} {k : α} {l : List α} (hk : k ∈ l)
    (hl : ∀ j ∈ l, j ≠ k → lt k j = true ∧ lt j k = false) : ∃ r, sortBy lt l = k :: r := by
  induction l with
  | nil => cases hk
  | cons x l ih =>
    change ∃ r, insertBy lt x (sortBy lt l) = k :: r
    by_cases hxk : x = k
    · subst hxk
      cases hs : sortBy lt l with
      | nil => exact ⟨[], rfl⟩
      | cons y r =>
        have hy : y ∈ l := (sortBy_perm lt l).mem_iff.1 (hs ▸ List.mem_cons_self)
        by_cases hyx : y = x
        · subst hyx
          unfold insertBy
          split <;> exact ⟨_, rfl⟩
        · exact ⟨y :: r, by simp [insertBy, (hl y (.tail _ hy) hyx).2]⟩
    · obtain ⟨r, hr⟩ := ih ((List.mem_cons.1 hk).resolve_left (Ne.symm hxk)) fun j hj => hl j (.tail _ hj)
      exact ⟨insertBy lt x r, by simp [hr, insertBy, (hl x List.mem_cons_self hxk).1]⟩

/-! ### LOCAL counters of a restored snapshot (R255) -/

/-- One completion counted: a LOCAL counter grows by one, a BOUND one stays. -/
def Arch.countLocal (a : Arch) (e : EReg) : Arch :=
  if (a.ctr e).bound = none then a.setCtr e { a.ctr e with val := (a.ctr e).val + 1 } else a

theorem Arch.countLocal_eq (a : Arch) (e : EReg) : ∃ v, a.countLocal e = { a with ctrs := v } := by
  unfold Arch.countLocal
  split
  · exact ⟨_, rfl⟩
  · exact ⟨a.ctrs, rfl⟩

theorem Arch.ctr_countLocal (a : Arch) (e d : EReg) : (a.countLocal e).ctr d =
    if d = e ∧ (a.ctr d).bound = none then ⟨(a.ctr d).val + 1, none⟩ else a.ctr d := by
  unfold Arch.countLocal
  by_cases hd : d = e
  · subst hd
    by_cases hb : (a.ctr d).bound = none <;> simp [hb, Arch.ctr_setCtr]
  · split <;> simp [hd, Arch.ctr_setCtr]

@[simp] theorem restoreArch_nil (a : Arch) (fl : Fl) : restoreArch a [] fl = { a with cur := fl } := rfl

theorem restoreArch_cons (a : Arch) (p : Nat × EReg) (incs : List (Nat × EReg)) (fl : Fl) :
    restoreArch a (p :: incs) fl = restoreArch (a.countLocal p.2) incs fl := by
  cases h : (a.ctr p.2).bound <;> simp [restoreArch, Arch.countLocal, h]

/-- But for its counters a restored snapshot is the snapshot, with CURRENT as given. -/
theorem restoreArch_eq (a : Arch) (incs : List (Nat × EReg)) (fl : Fl) :
    ∃ v, restoreArch a incs fl = { a with cur := fl, ctrs := v } := by
  induction incs generalizing a with
  | nil => exact ⟨a.ctrs, rfl⟩
  | cons p incs ih =>
    obtain ⟨u, hu⟩ := a.countLocal_eq p.2
    obtain ⟨v, hv⟩ := ih (a.countLocal p.2)
    exact ⟨v, by rw [restoreArch_cons, hv, hu]⟩

theorem restoreArch_ctr (a : Arch) (incs : List (Nat × EReg)) (fl : Fl) (e : EReg) : (restoreArch a incs fl).ctr e =
    if (a.ctr e).bound = none then ⟨(a.ctr e).val + BitVec.ofNat 32 (incs.filter fun p => p.2 == e).length, none⟩
    else a.ctr e := by
  induction incs generalizing a with
  | nil =>
    change a.ctr e = _
    split
    · next h => rw [← h]; simp
    · rfl
  | cons p incs ih =>
    rw [restoreArch_cons, ih, Arch.ctr_countLocal]
    by_cases hb : (a.ctr e).bound = none
    · by_cases hp : e = p.2
      · simp [hb, ← hp, BitVec.ofNat_add]; ac_rfl
      · simp [hb, hp, Ne.symm hp]
    · simp [hb]

/-! ### A context at a void -/

/-- The trick restored is the oldest of those voided. -/
theorem Ctx.voidTrick_oldest {x : Ctx} {t : Nat} {k : Joined} (halt : Bool) (att : Nat → Byte) (hk : k ∈ x.joined) (ht : k.trick ≥ t)
    (hl : ∀ j ∈ x.joined, j.trick ≥ t → j ≠ k → k.trick < j.trick) :
    (x.voidTrick t halt att).arch = restoreArch k.snap (k.incs.filter fun p => decide (p.1 < t)) x.sealedFl ∧
    (x.voidTrick t halt att).tag = some k.trick ∧ (x.voidTrick t halt att).faulted = false ∧
    (x.voidTrick t halt att).halted = halt := by
  obtain ⟨r, hr⟩ : ∃ r, sortBy (fun a b : Joined => decide (a.trick < b.trick)) (x.joined.filter fun k => k.trick ≥ t) = k :: r := by
    apply sortBy_eq_cons_of_least
    · simpa using ⟨hk, ht⟩
    · intro j hj hne
      obtain ⟨hj, hjt⟩ : j ∈ x.joined ∧ t ≤ j.trick := by simpa using hj
      have := hl j hj hjt hne
      simp; omega
  unfold Ctx.voidTrick
  dsimp only [Ctx.filterEntries]
  rw [hr]
  exact ⟨rfl, rfl, rfl, rfl⟩

theorem Ctx.voidTrick_none {x : Ctx} {t : Nat} (halt : Bool) (att : Nat → Byte) (h : ∀ j ∈ x.joined, j.trick < t) :
    (x.voidTrick t halt att).arch = { x.arch with cur := x.sealedFl } ∧ (x.voidTrick t halt att).tag = x.tag := by
  have hf : (x.joined.filter fun k => decide (k.trick ≥ t)) = [] := by
    simpa [List.filter_eq_nil_iff] using h
  unfold Ctx.voidTrick
  dsimp only [Ctx.filterEntries]
  rw [hf]
  exact ⟨rfl, rfl⟩

/-- But for its handles a context stays as it is when handles are unbound. -/
theorem Ctx.unbind_eq (x : Ctx) (lost : List Nat) : ∃ v, x.unbind lost = { x with arch := { x.arch with hnds := v } } := by
  unfold Ctx.unbind
  split
  · exact ⟨x.arch.hnds, rfl⟩
  · exact ⟨_, rfl⟩

theorem Ctx.unbind_hnd (x : Ctx) (lost : List Nat) (h : HReg) :
    (x.unbind lost).arch.hnd h = (x.arch.hnd h).filter fun k => k.owner || !lost.contains k.buf := by
  unfold Ctx.unbind
  split
  · next hl =>
    have : lost = [] := by simpa using hl
    cases x.arch.hnd h <;> simp [this, Option.filter]
  · simp only [Arch.hnd, vget_eq, Vector.getElem_map]
    cases x.arch.hnds[h.toFin.val] with
    | none => rfl
    | some k => cases ho : k.owner <;> simp [Option.filter, ho]

/-! ### What happens around the void of the contexts -/

/-- y has x's architectural state, flags, tag and joined tricks. -/
structure Ctx.SameTricks (x y : Ctx) : Prop where
  arch : y.arch = x.arch
  sealedFl : y.sealedFl = x.sealedFl
  tag : y.tag = x.tag
  joined : y.joined = x.joined
  faulted : y.faulted = x.faulted
  halted : y.halted = x.halted

theorem Ctx.SameTricks.refl (x : Ctx) : x.SameTricks x := ⟨rfl, rfl, rfl, rfl, rfl, rfl⟩
theorem Ctx.SameTricks.trans {x y z : Ctx} (h : x.SameTricks y) (k : y.SameTricks z) : x.SameTricks z :=
  ⟨k.arch.trans h.arch, k.sealedFl.trans h.sealedFl, k.tag.trans h.tag, k.joined.trans h.joined, k.faulted.trans h.faulted,
    k.halted.trans h.halted⟩
theorem Ctx.SameTricks.unbind {x y : Ctx} (h : x.SameTricks y) (lost : List Nat) : (x.unbind lost).SameTricks (y.unbind lost) := by
  unfold Ctx.unbind
  split
  · exact h
  · exact ⟨by rw [h.arch], h.sealedFl, h.tag, h.joined, h.faulted, h.halted⟩
theorem Ctx.chargeMove_sameTricks (x : Ctx) (n : Nat) : x.SameTricks (x.chargeMove n) := ⟨rfl, rfl, rfl, rfl, rfl, rfl⟩
theorem SameProgram.sameTricks {x y : Ctx} (h : SameProgram x y) : x.SameTricks y := by
  rw [h.1]; exact ⟨rfl, rfl, rfl, rfl, rfl, rfl⟩

/-- k has j's trick records and contexts, and no declaration that j has not. -/
structure Job.SameTricks (j k : Job) : Prop where
  t0 : k.t0 = j.t0
  t1 : k.t1 = j.t1
  ctxs : ∀ c x, j.ctx? c = some x → ∃ y, k.ctx? c = some y ∧ x.SameTricks y
  decls : ∀ b ∈ k.bufs, ∃ a ∈ j.bufs, a.id = b.id ∧ a.declTrick = b.declTrick

theorem Job.SameTricks.of_eq {j k : Job} (h0 : k.t0 = j.t0) (h1 : k.t1 = j.t1) (hc : k.ctxs = j.ctxs) (hb : k.bufs = j.bufs) :
    j.SameTricks k :=
  ⟨h0, h1, fun c x hx => ⟨x, by rw [← hx]; simp [Job.ctx?, hc], .refl x⟩, fun b hm => ⟨b, hb ▸ hm, rfl, rfl⟩⟩
theorem Job.SameTricks.refl (j : Job) : j.SameTricks j := .of_eq rfl rfl rfl rfl
theorem Job.SameTricks.trans {j k l : Job} (h : j.SameTricks k) (g : k.SameTricks l) : j.SameTricks l := by
  refine ⟨g.t0.trans h.t0, g.t1.trans h.t1, fun c x hx => ?_, fun b hb => ?_⟩
  · obtain ⟨y, hy, hxy⟩ := h.ctxs c x hx
    obtain ⟨z, hz, hyz⟩ := g.ctxs c y hy
    exact ⟨z, hz, hxy.trans hyz⟩
  · obtain ⟨a, ha, hi, hd⟩ := g.decls b hb
    obtain ⟨a', ha', hi', hd'⟩ := h.decls a ha
    exact ⟨a', ha', hi'.trans hi, hd'.trans hd⟩

/-- Rewriting buffers without touching what they are or when they were declared. -/
theorem Job.SameTricks.mapBufs (j : Job) (f : Buffer → Buffer) (h : ∀ b, (f b).id = b.id ∧ (f b).declTrick = b.declTrick) :
    j.SameTricks { j with bufs := j.bufs.map f } := by
  refine ⟨rfl, rfl, fun c x hx => ⟨x, hx, .refl x⟩, fun b hb => ?_⟩
  obtain ⟨a, ha, rfl⟩ := List.mem_map.1 hb
  exact ⟨a, ha, (h a).1.symm, (h a).2.symm⟩

theorem Job.SameTricks.modCtx (j : Job) (c : CtxId) (f : Ctx → Ctx) (h : ∀ x : Ctx, x.SameTricks (f x)) : j.SameTricks (j.modCtx c f) := by
  refine ⟨by simp, by simp, fun d x hx => ?_, fun b hb => ⟨b, by simpa using hb, rfl, rfl⟩⟩
  by_cases hd : d = c
  · subst hd; exact ⟨f x, by simp [hx], h x⟩
  · exact ⟨x, by rw [Job.ctx?_modCtx_other _ _ _ _ hd, hx], .refl x⟩

/-- Loops of steps that stay in the relation do. -/
theorem Job.SameTricks.foldl {α : Type} {f : Job → α → Job} (h : ∀ (j : Job) (a : α), j.SameTricks (f j a)) (l : List α) (j : Job) :
    j.SameTricks (l.foldl f j) :=
  List.foldlRecOn l f (.refl j) fun k hk a _ => hk.trans (h k a)

theorem Job.withdrawSpill_sameTricks (j : Job) (c : CtxId) : j.SameTricks (j.withdrawSpill c) := by
  unfold Job.withdrawSpill
  split
  · exact .refl j
  · split
    · exact .refl j
    · refine .trans ?_ (.modCtx _ c _ fun x => ⟨rfl, rfl, rfl, rfl, rfl, rfl⟩)
      refine .trans (.mapBufs j _ fun b => ?_) (.of_eq rfl rfl rfl rfl)
      split <;> exact ⟨rfl, rfl⟩

/-- The same for states, the oldest unsealed trick among it. -/
structure State.SameTricks (s t : State) : Prop where
  sealedN : t.stat.sealedN = s.stat.sealedN
  job : s.job.SameTricks t.job

theorem State.SameTricks.refl (s : State) : s.SameTricks s := ⟨rfl, .refl _⟩
theorem State.SameTricks.trans {s t u : State} (h : s.SameTricks t) (k : t.SameTricks u) : s.SameTricks u :=
  ⟨k.sealedN.trans h.sealedN, h.job.trans k.job⟩
theorem HostOnly.sameTricks {s t : State} (h : HostOnly s t) : s.SameTricks t := by
  refine ⟨by rw [h.stat], ?_⟩
  rw [h.job]; exact .refl _
theorem TableOnly.sameTricks {s t : State} (h : TableOnly s t)
    (hb : ∀ b ∈ t.job.bufs, ∃ a ∈ s.job.bufs, a.id = b.id ∧ a.declTrick = b.declTrick) : s.SameTricks t := by
  refine ⟨by rw [h.only.stat], by rw [h.rest], by rw [h.rest], fun c x hx => ?_, hb⟩
  rcases h.ctxs c with ⟨hn, _⟩ | ⟨x', y, hx', hy, hxy⟩
  · rw [hn] at hx; cases hx
  · rw [hx'] at hx; cases hx
    exact ⟨y, hy, hxy.sameTricks⟩
theorem State.SameTricks.trick? {s u : State} (h : s.SameTricks u) (t : Nat) : u.trick? t = s.trick? t := by
  simp only [State.trick?, h.sealedN, h.job.t0, h.job.t1]

theorem Job.collect_decls {j : Job} {b : Buffer} (hb : b ∈ j.collect.bufs) :
    ∃ a ∈ j.bufs, a.id = b.id ∧ a.declTrick = b.declTrick := by
  simp only [Job.collect, Job.mapCtxs_bufs, List.mem_map, List.mem_filter] at hb
  obtain ⟨a, ⟨ha, -⟩, rfl⟩ := hb
  refine ⟨a, ha, ?_⟩
  split <;> exact ⟨rfl, rfl⟩

theorem State.settle_sameTricks (s : State) : s.SameTricks s.settle :=
  (State.settle_only s).sameTricks fun _ hb => Job.collect_decls (by rwa [State.settle, State.schedule_bufs] at hb)

theorem State.startOut_sameTricks (s : State) (c : CtxId) : s.SameTricks (s.startOut c) :=
  (State.startOut_only s c).sameTricks fun b hb => ⟨b, by simpa [State.startOut] using hb, rfl, rfl⟩

theorem State.lagSwap_sameTricks (s : State) : s.SameTricks s.lagSwap := by
  unfold State.lagSwap State.lagSwapN
  have lag (u : State) (n : Nat) : u.SameTricks { u with job := { u.job with lagLeft := n } } := ⟨rfl, .of_eq rfl rfl rfl rfl⟩
  split
  · exact lag s _
  · dsimp only
    split
    · exact lag s 0
    · exact lag s 0
    · exact lag s 0
    · split
      · exact (lag s 0).trans ((State.startOut_sameTricks _ _).trans (lag _ _))
      · exact lag s 0

theorem State.voidServe_sameTricks (s : State) (t : Nat) : s.SameTricks (s.voidServe t) := ⟨rfl, .of_eq rfl rfl rfl rfl⟩

theorem State.servePublish_sameTricks (s : State) : s.SameTricks s.servePublish := by
  unfold State.servePublish
  split
  · exact .refl s
  · refine foldl_rel State.SameTricks .refl (fun _ _ _ => .trans) _ (fun s p => ?_) _ s
    dsimp only
    split
    · exact .refl s
    · split
      · exact .refl s
      · refine ⟨rfl, .trans (.mapBufs s.job _ fun b => ?_) (.of_eq rfl rfl rfl rfl)⟩
        split <;> exact ⟨rfl, rfl⟩

theorem Job.acceptData_sameTricks (j : Job) (src : BitVec 9) (t : Nat) (a : Byte) (m : DataMsg) : j.SameTricks (j.acceptData src t a m) := by
  cases m <;> simp only [Job.acceptData] <;> split <;> exact .of_eq rfl rfl rfl rfl

theorem State.takeHeldData_sameTricks (s : State) : s.SameTricks s.takeHeldData := by
  unfold State.takeHeldData
  dsimp only
  refine .trans ?_ (foldl_rel State.SameTricks .refl (fun _ _ _ => .trans) _ (fun s i => ?_) _ _)
  · exact ⟨rfl, .refl _⟩
  split
  · exact ⟨rfl, Job.acceptData_sameTricks _ _ _ _ _⟩
  · exact .refl s

theorem State.releaseIf_sameTricks (s : State) (p : Prop) [Decidable p] (h : HeldOut) : s.SameTricks (if p then s.release h else s) := by
  split
  · exact (State.release_only s h).sameTricks
  · exact .refl s

/-! ### The void -/

/-- The buffers exported in trick t or later, by number: a void of t withdraws what they were exported as. -/
def Job.lostExports (j : Job) (t : Nat) : List Nat :=
  (j.bufs.filter fun b => match b.exp with
    | some (_, _, some k) => decide (k ≥ t)
    | _ => false).map Buffer.id

theorem Job.mem_lostExports {j : Job} {t m : Nat} : m ∈ j.lostExports t ↔
    ∃ b ∈ j.bufs, b.id = m ∧ ∃ i w n, b.exp = some (i, w, some n) ∧ n ≥ t := by
  simp only [Job.lostExports, List.mem_map, List.mem_filter]
  refine exists_congr fun b => ?_
  rcases he : b.exp with _ | ⟨i, w, _ | n⟩ <;> simp [and_assoc, and_comm]

/-- v is s with tricks t and later voided: contexts restored, handles to lost exports unbound, the attempt of t advanced, the
declarations of those tricks withdrawn. -/
structure State.Voided (s : State) (t : Nat) (halt : Bool) (v : State) : Prop where
  ctxs : ∀ c x, s.job.ctx? c = some x → ∃ y att n, x.SameTricks y ∧
    v.job.ctx? c = some (((y.voidTrick t halt att).chargeMove n).unbind (s.job.lostExports t))
  attempt : (v.trick? t).map TrickRec.att = (s.trick? t).map fun r => r.att + 1
  decls : ∀ b ∈ v.job.bufs, ∀ k, b.declTrick = some k → k < t

theorem State.noteVoid_job (s : State) (t : Nat) (cause : BitVec 4) (origin : BitVec 16) : (s.noteVoid t cause origin).job = s.job := rfl

theorem State.applyVoid_voided {s : State} {t : Nat} {r : TrickRec} (halt : Bool) (cause : BitVec 4) (origin : BitVec 16)
    (h : s.trick? t = some r) : ∃ v, s.Voided t halt v ∧ v.SameTricks (s.applyVoid t halt cause origin) := by
  unfold State.applyVoid
  rw [h]
  refine ⟨?v, ⟨?ctxs, ?attempt, ?decls⟩, ?tail⟩
  case tail =>
    refine .trans ?_ (State.settle_sameTricks _)
    refine .trans ?_ (State.lagSwap_sameTricks _)
    refine .trans ?_ (State.settle_sameTricks _)
    refine .trans ?_ (State.releaseIf_sameTricks _ _ _)
    refine .trans ?_ (State.releaseIf_sameTricks _ _ _)
    refine .trans ?_ (State.takeHeldData_sameTricks _)
    refine .trans ?_ (State.servePublish_sameTricks _)
    exact State.voidServe_sameTricks _ _
  all_goals have spills (l : List CtxId) := Job.SameTricks.foldl Job.withdrawSpill_sameTricks l s.job
  case ctxs =>
    intro c x hx
    obtain ⟨y, hy, hxy⟩ := (spills _).ctxs c x hx
    refine ⟨y, fun k => (((s.noteVoid t cause origin).trick? k).getD .empty).att, s.job.restoreBytes t c, hxy, ?_⟩
    unfold Job.ctx?
    dsimp only [Job.dropXfers, Job.dropGone]
    change Job.ctx? _ c = _
    rw [Job.ctx?_mapCtxs, Job.ctx?_mapCtxs, State.noteVoid_job, hy]
    rfl
  case attempt =>
    unfold State.trick?
    dsimp only [Job.dropXfers, Job.dropGone, State.noteVoid]
    by_cases h0 : t = s.stat.sealedN
    · simp [h0, State.freshTrick, (spills _).t0]
    · by_cases h1 : t = s.stat.sealedN + 1
      · simp [h1, State.freshTrick, (spills _).t1]
      · simp [h0, h1]
  case decls =>
    intro b hb k hk
    dsimp only [Job.dropXfers, Job.dropGone] at hb
    simp only [Job.mapCtxs_bufs, List.mem_map, List.mem_filter] at hb
    obtain ⟨b, ⟨hb, hg⟩, rfl⟩ := hb
    obtain ⟨a, ha, hi, hd⟩ := (spills _).decls b hb
    rw [Bool.not_eq_true', ← Bool.not_eq_true, List.contains_iff_mem] at hg
    by_contra hkt
    refine hg (List.mem_map.2 ⟨a, List.mem_filter.2 ⟨ha, ?_⟩, hi⟩)
    simp only [hd.trans hk, decide_eq_true_eq]
    omega

/-- What applyVoid leaves of a context is what the void of that context alone does, its lost handles unbound. -/
theorem State.applyVoid_ctx {s : State} {t : Nat} {r : TrickRec} {c : CtxId} {x : Ctx} (halt : Bool) (cause : BitVec 4)
    (origin : BitVec 16) (h : s.trick? t = some r) (hx : s.job.ctx? c = some x) : ∃ x' att y,
    x.SameTricks x' ∧ (s.applyVoid t halt cause origin).job.ctx? c = some y ∧
    ((x'.voidTrick t halt att).unbind (s.job.lostExports t)).SameTricks y := by
  obtain ⟨v, hv, hs⟩ := State.applyVoid_voided halt cause origin h
  obtain ⟨x', att, n, hx', hc⟩ := hv.ctxs c x hx
  obtain ⟨y, hy, hcy⟩ := hs.job.ctxs c _ hc
  exact ⟨x', att, y, hx', hy, (Ctx.SameTricks.unbind (Ctx.chargeMove_sameTricks _ n) _).trans hcy⟩

/-- The handle was bound to a buffer exported in trick t or later (R286). -/
def Job.BindLost (j : Job) (t : Nat) (h : Option Hnd) : Prop :=
  ∃ k b i w n, h = some k ∧ k.owner = false ∧ b ∈ j.bufs ∧ b.id = k.buf ∧ b.exp = some (i, w, some n) ∧ n ≥ t

theorem Job.bindLost_iff {j : Job} {t : Nat} {h : Option Hnd} :
    j.BindLost t h ↔ ∃ k, h = some k ∧ k.owner = false ∧ k.buf ∈ j.lostExports t := by
  simp only [Job.BindLost, Job.mem_lostExports]
  constructor
  · rintro ⟨k, b, i, w, n, hk, ho, hb, hid, he, hn⟩
    exact ⟨k, hk, ho, b, hb, hid, i, w, n, he, hn⟩
  · rintro ⟨k, hk, ho, b, hb, hid, i, w, n, he, hn⟩
    exact ⟨k, b, i, w, n, hk, ho, hb, hid, he, hn⟩

/-- Unbinding takes the handles so bound, and no others. -/
theorem Ctx.unbind_lostExports (x : Ctx) (j : Job) (t : Nat) (h : HReg) :
    (j.BindLost t (x.arch.hnd h) → (x.unbind (j.lostExports t)).arch.hnd h = none) ∧
    (¬ j.BindLost t (x.arch.hnd h) → (x.unbind (j.lostExports t)).arch.hnd h = x.arch.hnd h) := by
  rw [Ctx.unbind_hnd, Job.bindLost_iff]
  cases x.arch.hnd h with
  | none => simp
  | some k => cases ho : k.owner <;> simp [Option.filter, ho]

/-- R236 steps 4 and 5, R255 for a context that had joined a voided trick. -/
theorem Ctx.voidTrick_restores {x x' y : Ctx} {j : Job} {t : Nat} {k : Joined} {halt : Bool} {att : Nat → Byte} (hx : x.SameTricks x')
    (hy : ((x'.voidTrick t halt att).unbind (j.lostExports t)).SameTricks y) (hk : k ∈ x.joined) (ht : k.trick ≥ t)
    (hl : ∀ i ∈ x.joined, i.trick ≥ t → i ≠ k → k.trick < i.trick) :
    y.arch.pc = k.snap.pc ∧ y.arch.regs = k.snap.regs ∧ y.arch.preds = k.snap.preds ∧ y.arch.cur = x.sealedFl ∧
    (∀ e, y.arch.ctr e = if (k.snap.ctr e).bound = none then
      ⟨(k.snap.ctr e).val + BitVec.ofNat 32 (k.incs.filter fun p => decide (p.1 < t) && p.2 == e).length, none⟩ else k.snap.ctr e) ∧
    (∀ h, (j.BindLost t (k.snap.hnd h) → y.arch.hnd h = none) ∧ (¬ j.BindLost t (k.snap.hnd h) → y.arch.hnd h = k.snap.hnd h)) ∧
    y.tag = some k.trick ∧ y.faulted = false ∧ y.halted = halt := by
  rw [← hx.joined] at hk hl
  obtain ⟨ha, htag, hf, hh⟩ := Ctx.voidTrick_oldest halt att hk ht hl
  have hhnd := (x'.voidTrick t halt att).unbind_lostExports j t
  obtain ⟨v, hu⟩ := (x'.voidTrick t halt att).unbind_eq (j.lostExports t)
  obtain ⟨w, hw⟩ := restoreArch_eq k.snap (k.incs.filter fun p => decide (p.1 < t)) x'.sealedFl
  have hsnap (h : HReg) : (x'.voidTrick t halt att).arch.hnd h = k.snap.hnd h := by rw [ha, hw]; rfl
  have harch : y.arch = { restoreArch k.snap (k.incs.filter fun p => decide (p.1 < t)) x'.sealedFl with hnds := v } := by
    rw [hy.arch, hu, ha]
  refine ⟨by rw [harch, hw], by rw [harch, hw], by rw [harch, hw], by rw [harch, hw, hx.sealedFl], fun e => ?_, fun h => ?_,
    by rw [hy.tag, hu, htag], by rw [hy.faulted, hu, hf], by rw [hy.halted, hu, hh]⟩
  · rw [harch]
    refine (restoreArch_ctr k.snap _ x'.sealedFl e).trans ?_
    rw [List.filter_filter]
    simp only [Bool.and_comm]
  · rw [hy.arch, ← hsnap]
    exact hhnd h

/-- R236 step 4 for a context that had joined no voided trick: of the fields named CURRENT alone changes. -/
theorem Ctx.voidTrick_keeps {x x' y : Ctx} {t : Nat} {lost : List Nat} {halt : Bool} {att : Nat → Byte} (hx : x.SameTricks x')
    (hy : ((x'.voidTrick t halt att).unbind lost).SameTricks y) (h : ∀ j ∈ x.joined, j.trick < t) :
    y.arch.pc = x.arch.pc ∧ y.arch.regs = x.arch.regs ∧ y.arch.preds = x.arch.preds ∧ y.arch.ctrs = x.arch.ctrs ∧
    y.arch.cur = x.sealedFl ∧ y.tag = x.tag := by
  rw [← hx.joined] at h
  obtain ⟨ha, htag⟩ := Ctx.voidTrick_none halt att h
  obtain ⟨v, hu⟩ := (x'.voidTrick t halt att).unbind_eq lost
  have harch : y.arch = { x.arch with cur := x.sealedFl, hnds := v } := by rw [hy.arch, hu, ha, hx.arch, hx.sealedFl]
  exact ⟨by rw [harch], by rw [harch], by rw [harch], by rw [harch], by rw [harch], by rw [hy.tag, hu, htag, hx.tag]⟩

/-- Settles O31: a void writes each context's snapshot (`Ctx.voidTrick_restores`, `Ctx.voidTrick_keeps`) in the state it makes
(`State.applyVoid_voided`), and what follows it within the same step stays in `State.SameTricks`. That CURRENT is SEALED and not
the snapshot's is the model's reading (log entry 37). -/
theorem voidRestoresSnapshots : Obligations.VoidRestoresSnapshots := by
  unfold Obligations.VoidRestoresSnapshots
  intro s t halt cause origin c x r hx hr
  obtain ⟨x', att, y, hxx', hy, hvy⟩ := State.applyVoid_ctx halt cause origin hr hx
  obtain ⟨v, hv, hs⟩ := State.applyVoid_voided halt cause origin hr
  refine ⟨y, hy, fun k hk ht hl => Ctx.voidTrick_restores hxx' hvy hk ht hl, Ctx.voidTrick_keeps hxx' hvy, ?_, fun b hb k hk => ?_⟩
  · rw [hs.trick?, hv.attempt, hr]; rfl
  · obtain ⟨a, ha, -, hd⟩ := hs.job.decls b hb
    exact hv.decls a ha k (hd.trans hk)

end Sys2Proof.Machine


/-! ## Seat errors (R272, R464)

O28 from what `State.seatLost` makes of the context of the seat, one lemma for each of its branches, and from the two outcomes
of counting a corrected error. -/

namespace Sys2Proof.Machine

open Claim

/-- Table 09-6: the bytes of a fault record that say how the context ended, which one it was, and its seat. -/
theorem faultRecord_fields (status : Byte) (c : CtxId) (att kind seat handle : Byte) (trick : Nat) (pc insn detail : Dword) :
    (faultRecord status c att kind seat handle trick pc insn detail).take 2 = [status, BitVec.ofNat 8 c.val] ∧
    byteAt (faultRecord status c att kind seat handle trick pc insn detail) 4 = seat := ⟨rfl, rfl⟩

/-- R272, an open trick on which this member has not voted OK: the context waits to be restored, and the trick is voided with
cause 5. -/
theorem State.seatLost_open {s : State} {c : CtxId} {x : Ctx} {seat : Fin 18} {check : Byte} {t : Nat}
    (ht : x.joinedTricks.head? = some t) (hv : ((s.trick? t).getD .empty).voted ≠ some .ok) :
    s.seatLost c x seat check =
      ({ s with job := s.job.modCtx c fun y => { y with faulted := true } }.voteVoid t 5).settle := by
  obtain ⟨r, hr⟩ := List.head?_eq_some_iff.1 ht
  simp [State.seatLost, hr, hv]

/-- R272, R231, no open trick or one this member has voted OK on (log entry 24): the context is torn down with ABORTED, and its
fault record names the seat. -/
theorem State.seatLost_teardown {s : State} {c : CtxId} {x : Ctx} (seat : Fin 18) (check : Byte)
    (h : ∀ t, x.joinedTricks.head? = some t → ((s.trick? t).getD .empty).voted = some .ok) :
    ∃ rec : List Byte, rec.take 2 = [stABORTED, BitVec.ofNat 8 c.val] ∧ byteAt rec 4 = BitVec.ofNat 8 seat.val ∧
      s.seatLost c x seat check =
        (((s.teardownCore c).ctxCompl x.joinedTricks.head? stABORTED rec).teardownVotes x.joinedTricks).settle := by
  unfold State.seatLost
  cases hts : x.joinedTricks with
  | nil =>
    obtain ⟨hst, hseat⟩ := faultRecord_fields stABORTED c 0 3 (BitVec.ofNat 8 seat.val) 0xFF 0 x.arch.pc 0 (check.setWidth 64)
    exact ⟨_, hst, hseat, rfl⟩
  | cons t r =>
    have hok := h t (by simp [hts])
    obtain ⟨hst, hseat⟩ := faultRecord_fields stABORTED c ((s.trick? t).getD .empty).att 2 (BitVec.ofNat 8 seat.val) 0xFF t
      x.arch.pc 0 (check.setWidth 64)
    exact ⟨_, hst, hseat, by simp [hok]⟩

/-- The trick and attempt a seat error is recorded under: the oldest trick its context has joined. -/
def State.seatWork (s : State) (seat : Fin 18) : Option (Nat × Byte) :=
  match s.job.ctxList.find? fun x => x.2.seat == some seat with
  | none => none
  | some (_, x) => x.joinedTricks.head?.map fun t => (t, ((s.trick? t).getD .empty).att)

/-- What an uncorrectable error of a seat in service does: its event is raised, the context on the seat loses it, and the seats
left are counted (R272, R273). -/
theorem exec_seatError_inService {s : State} {seat : Fin 18} {check : Byte} (hs : s.hl.inService ⟨.seat, seat.val⟩ = true)
    (h0 : check ≠ 0) (h5 : check ≤ 5) :
    exec (.seatError seat check) s =
      .next (match s.job.ctxList.find? fun x : CtxId × Ctx => x.2.seat == some seat with
        | none => s.raiseEvent 8 ⟨.seat, seat.val⟩ (s.seatWork seat) 0
        | some (c, x) => (s.raiseEvent 8 ⟨.seat, seat.val⟩ (s.seatWork seat) 0).seatLost c x seat check).seatCheck.pump := by
  change execSeatError seat check s = _
  have hg : ¬ (!s.hl.inService ⟨.seat, seat.val⟩ || decide (check = 0) || decide (check > 5)) = true := by
    simp only [hs, h0, BitVec.not_lt.2 h5, decide_false, Bool.not_true, Bool.or_self, Bool.false_eq_true, not_false_eq_true]
  unfold execSeatError
  exact if_neg hg

/-- R464: a corrected error is counted, and at the threshold the count starts again and an event is recorded. -/
theorem State.countCorrected_cases (s : State) (source : Nat) (u : PUnit) (lo : Nat) :
    (¬ (s.hl.suspOf u).ce + 1 ≥ 2 ^ s.esc lo 4 →
      s.countCorrected source u lo = { s with hl := s.hl.setSusp { s.hl.suspOf u with ce := (s.hl.suspOf u).ce + 1 } }) ∧
    ((s.hl.suspOf u).ce + 1 ≥ 2 ^ s.esc lo 4 →
      s.countCorrected source u lo =
        { s with hl := s.hl.setSusp { s.hl.suspOf u with ce := 0 } }.raiseEvent source u (s.workTrick u) 0) :=
  ⟨fun h => if_neg h, fun h => if_pos h⟩

/-- Settles O28: the event first, then one of the branches of `State.seatLost`; that a context whose trick is already voted OK is
torn down is the model's reading (log entry 24). -/
theorem seatErrorsVoidOrTearDown : Obligations.SeatErrorsVoidOrTearDown := by
  unfold Obligations.SeatErrorsVoidOrTearDown
  intro s seat
  refine ⟨fun check hs h0 h5 => ?_, fun b => ?_⟩
  · refine ⟨_, _, s.seatWork seat, exec_seatError_inService hs h0 h5, rfl, fun hn => by rw [hn], fun c x hx => ?_⟩
    rw [hx]
    exact ⟨fun t ht hv => State.seatLost_open ht hv, fun h => State.seatLost_teardown seat check h⟩
  · obtain ⟨hbelow, hfull⟩ := s.countCorrected_cases 7 ⟨.seat, seat.val⟩ 24
    exact ⟨fun h => congrArg (fun t : State => Host.Outcome.next t.pump) (hbelow h),
      fun h => congrArg (fun t : State => Host.Outcome.next t.pump) (hfull h)⟩

end Sys2Proof.Machine

/-! ## WAIT and EVT (R252, R294, R295)

O10 from what each instruction does once its word is taken (`seatRun_takes`, `seatTake_takes`) and from what one write of the
architectural state leaves. -/

namespace Sys2Proof.Machine

open Claim

/-! ### Words taken at a seat -/

/-- A word whose form is checked with its operands has, once taken, its effect on the state as it stands. -/
theorem seatTake_takes {s : State} {c : CtxId} {x : Ctx} {g : Guard} {word : Dword} {legal : Bool} {uses : List SReg}
    (body : State → Ctx → State) (h : Takes s c x g legal uses) :
    seatTake s c g word legal uses body = .next (body s x) := by
  obtain ⟨hx, hfree, hbegun, hcode, -, hguard, hready⟩ := h
  unfold seatTake
  simp [State.enter_eq s c x hx hbegun, hx, hfree, hbegun, hguard, hready, Nat.not_le.2 hcode]

/-- An instruction whose whole effect is one change of its context's architectural state. -/
theorem gives_of_modArch {i : Instr} {s : State} {c : CtxId} {x : Ctx} {P : Arch → Prop} {f : Arch → Arch}
    (hx : s.job.ctx? c = some x) (h : exec i s = .next (s.modArch c f)) (hP : P (f x.arch)) : Gives i s c x P :=
  ⟨f x.arch, by rw [h, State.modArch_eq s c x f hx], hP⟩

theorem regWritten_setReg_next (a : Arch) (r : SReg) (v : Dword) : RegWritten a (a.setReg r v).next r v :=
  by
  refine ⟨by simp, fun q => ?_, by simp, by simp, by simp, by simp⟩
  have hq : q = r ∧ r ≠ 0 ↔ q = r ∧ q ≠ 0 := and_congr_right fun h => by rw [h]
  rw [Arch.reg_next, Arch.reg_setReg, if_congr hq rfl rfl]

/-- The architectural state after an event counter is written: PC past the word, one counter changed, everything else as it was
(R295). -/
def CtrWritten (a b : Arch) (e : EReg) (k : Ctr) : Prop :=
  b.pc = a.pc + 8 ∧ (∀ d, b.ctr d = if d = e then k else a.ctr d) ∧ b.regs = a.regs ∧ b.preds = a.preds ∧ b.hnds = a.hnds ∧
    b.cur = a.cur

theorem CtrWritten.setCtr_next (a : Arch) (e : EReg) (k : Ctr) : CtrWritten a (a.setCtr e k).next e k :=
  ⟨rfl, fun d => Arch.ctr_setCtr a e d k, rfl, rfl, rfl, rfl⟩

/-! ### WAIT -/

/-- A WAIT on a counter whose buffer is there holds while (value − n) mod 2^32 is 2^31 or more (R252). -/
theorem State.stallHolds_wait_iff {s : State} {x : Ctx} {e : EReg} (n : Word) (w : Dword)
    (hg : s.job.boundGone (x.arch.ctr e) = false) :
    s.stallHolds x (.wait e n w) = true ↔ ¬ (s.job.ctrVal x e - n).toNat < 2 ^ 31 := by
  simp only [State.stallHolds, hg, Bool.not_false, Bool.and_true, decide_eq_true_eq, ge_iff_le, Nat.not_lt]

theorem State.stallAt_eq {s : State} {c : CtxId} {x : Ctx} (k : Stall) (hx : s.job.ctx? c = some x) :
    s.stallAt c k = (withCtx s c (some { x with stall := some k })).settle := by
  unfold State.stallAt
  rw [Job.modCtx_eq _ _ _ _ hx]
  rfl

theorem State.unstall_eq {s : State} {c : CtxId} {x : Ctx} (f : Arch → Arch) (hx : s.job.ctx? c = some x) :
    s.unstall c f = (withCtx s c (some { x with stall := none, arch := f x.arch })).settle := by
  unfold State.unstall
  rw [Job.modCtx_eq _ _ _ _ hx]
  rfl

/-- Noting what a context has observed leaves every context as it was. -/
@[simp] theorem State.observe_ctx? (s : State) (c : CtxId) (x : Ctx) (b : Option Nat) (d : CtxId) :
    (s.observe c x b).job.ctx? d = s.job.ctx? d := rfl

/-- The count a WAIT names: sN plus the immediate, modulo 2^32. -/
theorem waitCount_eq (r : Dword) (imm : Word) : r.setWidth 32 + imm = BitVec.ofNat 32 (r.toNat + imm.toNat) := by
  bv_omega

/-- A WAIT taken passes, or stalls the seat at its PC (R294). -/
theorem exec_wait_takes {s : State} {c : CtxId} {x : Ctx} {f : WaitF} {n : Word} (h : Takes s c x f.g f.legal [f.sN])
    (hg : s.job.boundGone (x.arch.ctr f.e) = false) (hc : (x.arch.reg f.sN).setWidth 32 + f.imm = n) :
    exec (.wait c f) s = .next (
      if (s.job.ctrVal x f.e - n).toNat < 2 ^ 31 then (s.observe c x (x.arch.ctr f.e).bound).withArch c x x.arch.next
      else (withCtx s c (some { x with stall := some (.wait f.e n f.word) })).settle) := by
  change execWait c f s = _
  refine (seatTake_takes _ h).trans ?_
  have hk := State.stallHolds_wait_iff n f.word hg
  rw [hc, ← State.modArch_eq _ c x Arch.next (by simpa using h.here), ← State.stallAt_eq _ h.here]
  by_cases hn : (s.job.ctrVal x f.e - n).toNat < 2 ^ 31
  · rw [if_pos hn]
    simp [hg, h.legal, hk.not.2 (not_not.2 hn)]
  · rw [if_neg hn]
    simp [hg, h.legal, hk.2 hn]

/-- The stall of a WAIT ends once its count is reached (R252). -/
theorem exec_waitSatisfied_reached {s : State} {c : CtxId} {x : Ctx} {e : EReg} {n : Word} {w : Dword} (hx : s.job.ctx? c = some x)
    (hr : x.resid = .resident) (hs : x.stall = some (.wait e n w)) (hg : s.job.boundGone (x.arch.ctr e) = false)
    (hn : (s.job.ctrVal x e - n).toNat < 2 ^ 31) :
    exec (.waitSatisfied c) s =
      .next (withCtx (s.observe c x (x.arch.ctr e).bound) c (some { x with stall := none, arch := x.arch.next })).settle := by
  change execWaitSatisfied c s = _
  unfold execWaitSatisfied
  rw [← State.unstall_eq Arch.next (by simpa using hx)]
  simp [hx, hs, hr, hg, (State.stallHolds_wait_iff n w hg).not.2 (not_not.2 hn)]

/-! ### EVT -/

/-- READ of a counter that is there. -/
theorem exec_evtRead_takes {s : State} {c : CtxId} {x : Ctx} {f : EvtF} (h : Takes s c x f.g f.legal [f.s])
    (hg : s.job.boundGone (x.arch.ctr f.e) = false) :
    exec (.evtRead c f) s = .next (s.modArch c fun a => (a.setReg f.s ((s.job.ctrVal x f.e).setWidth 64)).next) := by
  change execEvtRead c f s = _
  refine (seatRun_takes _ h).trans ?_
  simp [hg]

theorem exec_evtSet_takes {s : State} {c : CtxId} {x : Ctx} {f : EvtF} (h : Takes s c x f.g f.legal [f.s]) :
    exec (.evtSet c f) s = .next (if (x.arch.ctr f.e).bound.isSome then s.seatFault c x stILLEGAL 0xFF (f.word 1) 0
      else s.modArch c fun a => (a.setCtr f.e ⟨(a.reg f.s).setWidth 32, none⟩).next) := by
  change execEvtSet c f s = _
  exact seatRun_takes _ h

theorem exec_evtAdd_takes {s : State} {c : CtxId} {x : Ctx} {f : EvtF} (h : Takes s c x f.g f.legal [f.s]) :
    exec (.evtAdd c f) s = .next (if (x.arch.ctr f.e).bound.isSome then s.seatFault c x stILLEGAL 0xFF (f.word 2) 0
      else s.modArch c fun a => (a.setCtr f.e ⟨(a.ctr f.e).val + (a.reg f.s).setWidth 32, none⟩).next) := by
  change execEvtAdd c f s = _
  exact seatRun_takes _ h

/-- BIND through a valid handle. -/
theorem exec_evtBind_live {s : State} {c : CtxId} {x : Ctx} {f : EvtF} {k : Hnd} {b : Buffer} (h : Takes s c x f.g f.legal [])
    (hb : s.job.live (x.arch.hnd f.bh) = some (k, b)) :
    exec (.evtBind c f) s = .next (s.modArch c fun a => (a.setCtr f.e ⟨0, some b.id⟩).next) := by
  change execEvtBind c f s = _
  refine (seatTake_takes _ h).trans ?_
  simp [hb, h.legal]

/-- BIND through an invalid one. -/
theorem exec_evtBind_invalid {s : State} {c : CtxId} {x : Ctx} {f : EvtF} (h : Takes s c x f.g f.legal [])
    (hb : s.job.live (x.arch.hnd f.bh) = none) :
    exec (.evtBind c f) s = .next (s.seatFault c x stBUFFER (f.bh.setWidth 8) (f.word 3) (BitVec.allOnes 64)) := by
  change execEvtBind c f s = _
  refine (seatTake_takes _ h).trans ?_
  simp [hb]

theorem exec_evtLocal_takes {s : State} {c : CtxId} {x : Ctx} {f : EvtF} (h : Takes s c x f.g f.legal []) :
    exec (.evtLocal c f) s = .next (s.modArch c fun a => (a.setCtr f.e ⟨0, none⟩).next) := by
  change execEvtLocal c f s = _
  exact seatRun_takes _ h

/-- SET and ADD write a LOCAL counter modulo 2^32. -/
theorem evtSet_evtAdd_local {s : State} {c : CtxId} {x : Ctx} {f : EvtF} (h : Takes s c x f.g f.legal [f.s])
    (hl : (x.arch.ctr f.e).bound = none) :
    Gives (.evtSet c f) s c x (CtrWritten x.arch · f.e ⟨BitVec.ofNat 32 (x.arch.reg f.s).toNat, none⟩) ∧
    Gives (.evtAdd c f) s c x
      (CtrWritten x.arch · f.e ⟨BitVec.ofNat 32 ((x.arch.ctr f.e).val.toNat + (x.arch.reg f.s).toNat), none⟩) := by
  have hset := exec_evtSet_takes h
  have hadd := exec_evtAdd_takes h
  rw [if_neg (by simp [hl])] at hset hadd
  have hsum : BitVec.ofNat 32 ((x.arch.ctr f.e).val.toNat + (x.arch.reg f.s).toNat) =
      (x.arch.ctr f.e).val + (x.arch.reg f.s).setWidth 32 := by bv_omega
  rw [hsum, BitVec.ofNat_toNat]
  exact ⟨gives_of_modArch h.here hset (CtrWritten.setCtr_next _ _ _), gives_of_modArch h.here hadd (CtrWritten.setCtr_next _ _ _)⟩

/-- Settles O10, one lemma for each instruction taken. -/
theorem countersAreAwaitedReadAndBound : Obligations.CountersAreAwaitedReadAndBound := by
  unfold Obligations.CountersAreAwaitedReadAndBound
  refine ⟨fun s c x => ⟨fun f h hg => ?_, fun e n w hx hr hs hg hn => exec_waitSatisfied_reached hx hr hs hg hn⟩,
    fun s c x f => ⟨fun h => ⟨fun hg => ?_, evtSet_evtAdd_local h, fun hb => ?_⟩, fun h => ⟨fun k b hb => ?_, fun hb => ?_, ?_⟩⟩⟩
  · have hw := exec_wait_takes h hg (waitCount_eq _ _)
    dsimp only
    split <;> rename_i hn
    · rw [hw, if_pos hn]; rfl
    · rw [hw, if_neg hn]
  · rw [BitVec.ofNat_toNat]
    exact gives_of_modArch h.here (exec_evtRead_takes h hg) (regWritten_setReg_next _ _ _)
  · exact ⟨(exec_evtSet_takes h).trans (by rw [if_pos hb]; rfl), (exec_evtAdd_takes h).trans (by rw [if_pos hb]; rfl)⟩
  · exact gives_of_modArch h.here (exec_evtBind_live h hb) (CtrWritten.setCtr_next _ _ _)
  · exact exec_evtBind_invalid h hb
  · exact gives_of_modArch h.here (exec_evtLocal_takes h) (CtrWritten.setCtr_next _ _ _)

end Sys2Proof.Machine

/-! ## Words of the seat: illegal and guarded ones (R4, R274, R275, R302)

O18 from what `seatRun` and `seatTake` answer to a word they do not take; which of the two reads a word, and what its own checks
do with an illegal one, is `readsWord_of_seatWord`. -/

namespace Sys2Proof.Machine

open Claim

/-! ### The greatest of several failed checks (R12) -/

/-- Of a fault found and one further check, the one reported. -/
def graver : Option Late → Option Late → Option Late
  | none, z => z
  | some y, none => some y
  | some y, some z => if z.status > y.status then some z else some y

theorem pickLate_concat (l : List (Option Late)) (z : Option Late) : pickLate (l ++ [z]) = graver (pickLate l) z := by
  unfold pickLate
  rw [List.foldl_append, List.foldl_cons, List.foldl_nil]
  cases List.foldl _ none l <;> cases z <;> rfl

theorem graver_ge_left (y : Late) (z : Option Late) : ∃ b, graver (some y) z = some b ∧ y.status ≤ b.status := by
  cases z with
  | none => exact ⟨y, rfl, BitVec.le_refl _⟩
  | some z =>
    by_cases h : z.status > y.status
    · exact ⟨z, if_pos h, BitVec.le_of_lt h⟩
    · exact ⟨y, if_neg h, BitVec.le_refl _⟩

theorem graver_ge_right (y : Option Late) (z : Late) : ∃ b, graver y (some z) = some b ∧ z.status ≤ b.status := by
  cases y with
  | none => exact ⟨z, rfl, BitVec.le_refl _⟩
  | some y =>
    by_cases h : z.status > y.status
    · exact ⟨z, if_pos h, BitVec.le_refl _⟩
    · exact ⟨y, if_neg h, BitVec.not_lt.1 h⟩

/-- A list with a failing check reports a fault of no smaller code. -/
theorem pickLate_ge_of_mem {l : List (Option Late)} {y : Late} (h : some y ∈ l) :
    ∃ b, pickLate l = some b ∧ y.status ≤ b.status := by
  induction l using List.reverseRecOn with
  | nil => cases h
  | append_singleton l z ih =>
    rw [pickLate_concat]
    rcases List.mem_append.1 h with h | h
    · obtain ⟨b, hb, hle⟩ := ih h
      obtain ⟨d, hd, hle'⟩ := graver_ge_left b z
      exact ⟨d, hb ▸ hd, BitVec.le_trans hle hle'⟩
    · rw [← List.mem_singleton.1 h]
      exact graver_ge_right _ y

theorem stILLEGAL_le_stBUFFER : stILLEGAL ≤ stBUFFER := by decide

/-- Checks of a word whose first is that of its form, which fails: the code reported is CTX_FAULT_ILLEGAL or a greater one. -/
theorem pickLate_illegal {p : Bool} (hp : p = true) (l : List (Option Late)) :
    ∃ b, pickLate (illegal p :: l) = some b ∧ stILLEGAL ≤ b.status :=
  pickLate_ge_of_mem (y := ⟨stILLEGAL, 0xFF, 0⟩) (hp ▸ List.mem_cons_self)

/-! ### Words that are not taken -/

/-- Context c, with state x, is at its seat with a word of the code before it. -/
structure AtSeat (s : State) (c : CtxId) (x : Ctx) : Prop where
  here : s.job.ctx? c = some x
  free : x.canIssue = true
  begun : s.waitsBoundary x = false
  code : x.arch.pc.toNat < s.job.code.length

theorem Arch.guard_eq_false_iff (a : Arch) (g : Guard) : a.guard g = false ↔ a.pred g.pg = g.pn := by
  simp [Arch.guard]

section
variable {s : State} {c : CtxId} {x : Ctx} (h : AtSeat s c x) (g : Guard) (word : Dword) (legal : Bool) (uses : List SReg)
  (body : State → Ctx → State)
include h

/-- `seatRun` judges the form of a word before it reads the guard (R275). -/
theorem seatRun_atSeat : seatRun s c g word legal uses body = .next (
    if legal then
      if x.arch.guard g then if uses.any x.pendingReg then s else body s x else s.withArch c x x.arch.next
    else s.seatFault c x stILLEGAL 0xFF word 0) := by
  obtain ⟨hx, hfree, hbegun, hcode⟩ := h
  cases legal <;> cases hg : x.arch.guard g <;>
    simp [seatRun, State.enter_eq s c x hx hbegun, hx, hfree, hbegun, Nat.not_le.2 hcode, hg, State.modArch_eq s c x _ hx,
      apply_ite Host.Outcome.next]

/-- `seatTake` reads the guard first: the body has the word, legal or not, when it holds, and the form alone counts when not. -/
theorem seatTake_atSeat : seatTake s c g word legal uses body = .next (
    if x.arch.guard g then if uses.any x.pendingReg then s else body s x
    else if legal then s.withArch c x x.arch.next else s.seatFault c x stILLEGAL 0xFF word 0) := by
  obtain ⟨hx, hfree, hbegun, hcode⟩ := h
  cases hg : x.arch.guard g <;>
    simp [seatTake, State.enter_eq s c x hx hbegun, hx, hfree, hbegun, Nat.not_le.2 hcode, hg, State.modArch_eq s c x _ hx,
      apply_ite Host.Outcome.next]

end

/-! ### Which words are checked how -/

/-- The form of a word is checked before its guard is read, and before any other check of it. -/
def FormFirst (run : State → Host.Outcome State Fault Refusal) (c : CtxId) (g : Guard) (word : Dword) (legal : Bool) : Prop :=
  ∃ uses body, ∀ s, run s = seatRun s c g word legal uses body

/-- What a body does with an illegal word, its queue having room: the fault of greatest code among its checks, that of the word's
form one of them. -/
def RefusesForm (c : CtxId) (word : Dword) (body : State → Ctx → State) : Prop :=
  ∀ s x, (∀ k, (x.queue k).length < 64) → ∃ l : Late, stILLEGAL ≤ l.status ∧ body s x = s.lateFault c x word l

/-- The form of a word is checked together with the instruction's other checks when its guard holds (R12, R302). -/
def FormTogether (run : State → Host.Outcome State Fault Refusal) (c : CtxId) (g : Guard) (word : Dword) (legal : Bool) : Prop :=
  ∃ uses body, (∀ s, run s = seatTake s c g word legal uses body) ∧ (legal = false → RefusesForm c word body)

theorem ScalarAcc.fault_illegal (a : ScalarAcc) {legal : Bool} (hl : legal = false) :
    ∃ l, a.fault legal = some l ∧ stILLEGAL ≤ l.status :=
  pickLate_illegal (by simp [hl]) _

theorem formTogether_sld (c : CtxId) (f : SldF) : FormTogether (execSld c f) c f.g f.word f.legal := by
  refine ⟨_, _, fun _ => rfl, fun hl s x _ => ?_⟩
  dsimp only
  obtain ⟨l, hl, hle⟩ := ScalarAcc.fault_illegal _ hl
  exact ⟨l, hle, by rw [hl]⟩

theorem formTogether_sst (c : CtxId) (f : SstF) : FormTogether (execSst c f) c f.g f.word f.legal := by
  refine ⟨_, _, fun _ => rfl, fun hl s x _ => ?_⟩
  dsimp only
  obtain ⟨l, hl, hle⟩ := ScalarAcc.fault_illegal _ hl
  exact ⟨l, hle, by rw [hl]⟩

theorem formTogether_decl (c : CtxId) (f : DeclF) : FormTogether (execDecl c f) c f.g f.word f.legal := by
  refine ⟨_, _, fun _ => rfl, fun hl s x _ => ?_⟩
  have hp := pickLate_illegal (p := !f.legal) (by simp [hl])
  dsimp only
  split
  · obtain ⟨l, hl, hle⟩ := hp _
    exact ⟨l, hle, by rw [hl, Option.getD_some]⟩
  · rw [List.cons_append]
    obtain ⟨l, hl, hle⟩ := hp _
    exact ⟨l, hle, by rw [hl]⟩

theorem formTogether_spillr (c : CtxId) (f : SpillrF) : FormTogether (execSpillr c f) c f.g f.word f.legal := by
  refine ⟨_, _, fun _ => rfl, fun hl s x _ => ?_⟩
  dsimp only
  obtain ⟨l, hl, hle⟩ := pickLate_illegal (p := !f.legal || _ || _ || _) (by simp [hl]) _
  exact ⟨l, hle, by rw [hl]⟩

/-- REL of an invalid handle faults with the greater CTX_FAULT_BUFFER. -/
theorem formTogether_rel (c : CtxId) (f : RelF) : FormTogether (execRel c f) c f.g f.word f.legal := by
  refine ⟨_, _, fun _ => rfl, fun hl s x _ => ?_⟩
  dsimp only
  split
  · exact ⟨⟨stBUFFER, _, _⟩, stILLEGAL_le_stBUFFER, rfl⟩
  · exact ⟨⟨stILLEGAL, _, _⟩, BitVec.le_refl _, by rw [hl]; rfl⟩

theorem formTogether_shareExport (c : CtxId) (f : ShareF) : FormTogether (execShareExport c f) c f.g (f.word 0) f.legal := by
  refine ⟨_, _, fun _ => rfl, fun hl s x _ => ?_⟩
  dsimp only
  obtain ⟨l, hl, hle⟩ := pickLate_illegal (p := !f.legal || _ || _) (by simp [hl]) _
  exact ⟨l, hle, by unfold badBufid; rw [hl]⟩

theorem formTogether_shareBind (c : CtxId) (f : ShareF) : FormTogether (execShareBind c f) c f.g (f.word 1) f.legal := by
  refine ⟨_, _, fun _ => rfl, fun hl s x _ => ?_⟩
  dsimp only
  obtain ⟨l, hl, hle⟩ := pickLate_illegal (p := !f.legal || _ || _) (by simp [hl]) _
  exact ⟨l, hle, by unfold badBufid; rw [hl]⟩

/-- WAIT on a counter whose buffer is gone faults with the greater CTX_FAULT_BUFFER. -/
theorem formTogether_wait (c : CtxId) (f : WaitF) : FormTogether (execWait c f) c f.g f.word f.legal := by
  refine ⟨_, _, fun _ => rfl, fun hl s x _ => ?_⟩
  dsimp only
  split
  · exact ⟨⟨stBUFFER, _, _⟩, stILLEGAL_le_stBUFFER, rfl⟩
  · exact ⟨⟨stILLEGAL, _, _⟩, BitVec.le_refl _, by rw [hl]; rfl⟩

/-- EVT.BIND through an invalid handle faults with the greater CTX_FAULT_BUFFER. -/
theorem formTogether_evtBind (c : CtxId) (f : EvtF) : FormTogether (execEvtBind c f) c f.g (f.word 3) f.legal := by
  refine ⟨_, _, fun _ => rfl, fun hl s x _ => ?_⟩
  split
  · exact ⟨⟨stBUFFER, _, _⟩, stILLEGAL_le_stBUFFER, rfl⟩
  · exact ⟨⟨stILLEGAL, _, _⟩, BitVec.le_refl _, by rw [hl]; rfl⟩

/-- Every instruction that enters an engine queue: with room in its queue, an illegal word waits for no buffer it reads at issue, and
its form is the first of its checks. -/
theorem formTogether_of_engineRun {run : State → Host.Outcome State Fault Refusal} {c : CtxId} {g : Guard} {word : Dword}
    {legal : Bool} {uses : List SReg} {k : EngKind} {f : Fin3} {early : Job → Ctx → List Nat} {issue : State → Ctx → Issue}
    (he : ∀ s, run s = engineRun s c g word legal uses k f early issue) : FormTogether run c g word legal := by
  refine ⟨_, _, he, fun hl s x hq => ?_⟩
  dsimp only
  obtain ⟨l, hp, hle⟩ := pickLate_illegal (p := !legal || x.tag.isNone || (f.cnt && (x.arch.ctr f.ec).bound.isSome)) (by simp [hl]) _
  refine ⟨l, hle, ?_⟩
  rw [if_neg (Nat.not_le.2 (hq k)), if_neg (by simp [hl]), hp]
  rfl

theorem formTogether_stsRun (c : CtxId) (f : StsF) (n : Nat) : FormTogether (stsRun c f n) c f.g (f.word n) (f.legal n) :=
  formTogether_of_engineRun fun _ => rfl

theorem formTogether_updRun (c : CtxId) (f : UpdF) (n : Nat) : FormTogether (updRun c f n) c f.g (f.word n) f.legal :=
  formTogether_of_engineRun fun _ => rfl

theorem formTogether_collRun (c : CtxId) (f : CollF) (n : Nat) : FormTogether (collRun c f n) c f.g (f.word n) (f.legal n) :=
  formTogether_of_engineRun fun _ => rfl

/-- An instruction reads the word it is given by `seatWord` in one of the two ways. -/
def ReadsWord (i : Instr) : CtxId × Guard × Dword × Bool → Prop
  | (c, g, word, legal) => (checkedTogether i = false ∧ FormFirst (exec i) c g word legal) ∨
      (checkedTogether i = true ∧ FormTogether (exec i) c g word legal)

theorem ReadsWord.first {i : Instr} {c : CtxId} {g : Guard} {word : Dword} {legal : Bool} {p : CtxId × Guard × Dword × Bool}
    (hi : checkedTogether i = false) (hf : FormFirst (exec i) c g word legal) (h : some (c, g, word, legal) = some p) :
    ReadsWord i p :=
  Option.some.inj h ▸ .inl ⟨hi, hf⟩

theorem ReadsWord.together {i : Instr} {c : CtxId} {g : Guard} {word : Dword} {legal : Bool} {p : CtxId × Guard × Dword × Bool}
    (hi : checkedTogether i = true) (hf : FormTogether (exec i) c g word legal) (h : some (c, g, word, legal) = some p) :
    ReadsWord i p :=
  Option.some.inj h ▸ .inr ⟨hi, hf⟩

/-- Every instruction word of the table is read in one of the two ways. -/
theorem readsWord_of_seatWord {i : Instr} {p : CtxId × Guard × Dword × Bool} (h : seatWord i = some p) : ReadsWord i p := by
  cases i with
  | alu | alui | li | cmp | plog | br | jal | exit | evtRead | evtSet | evtAdd | evtLocal | fence | tbegin | tseal | queryTag
  | queryLastjoin | queryFlags | queryUpdstat | queryFeature | queryMembers | queryNumshare =>
    exact .first rfl ⟨_, _, fun _ => by delta exec; rfl⟩ h
  | copy | gather | scatter | fill | mma | vew | vsel | vcmp | vlut | vred =>
    exact .together rfl (formTogether_of_engineRun fun _ => by delta exec; rfl) h
  | fold c f => exact .together rfl (formTogether_stsRun c f 0) h
  | loss c f => exact .together rfl (formTogether_stsRun c f 1) h
  | finish c f => exact .together rfl (formTogether_stsRun c f 2) h
  | grad c f => exact .together rfl (formTogether_stsRun c f 3) h
  | pass1 c f => exact .together rfl (formTogether_updRun c f 0) h
  | pass2 c f => exact .together rfl (formTogether_updRun c f 1) h
  | rebuild c f => exact .together rfl (formTogether_updRun c f 2) h
  | ared c f => exact .together rfl (formTogether_collRun c f 0) h
  | rscat c f => exact .together rfl (formTogether_collRun c f 1) h
  | agath c f => exact .together rfl (formTogether_collRun c f 2) h
  | bcast c f => exact .together rfl (formTogether_collRun c f 3) h
  | send c f => exact .together rfl (formTogether_collRun c f 4) h
  | recv c f => exact .together rfl (formTogether_collRun c f 5) h
  | sld c f => exact .together rfl (formTogether_sld c f) h
  | sst c f => exact .together rfl (formTogether_sst c f) h
  | decl c f => exact .together rfl (formTogether_decl c f) h
  | spillr c f => exact .together rfl (formTogether_spillr c f) h
  | rel c f => exact .together rfl (formTogether_rel c f) h
  | shareExport c f => exact .together rfl (formTogether_shareExport c f) h
  | shareBind c f => exact .together rfl (formTogether_shareBind c f) h
  | wait c f => exact .together rfl (formTogether_wait c f) h
  | evtBind c f => exact .together rfl (formTogether_evtBind c f) h
  | _ => exact nomatch h

/-- Settles O18: a word whose form is checked first faults before its guard is read; one checked with its operands faults by its
form alone when its guard is false, and by the greatest of its checks when it is true. -/
theorem illegalWordFaultsAndFalseGuardSkips : Obligations.IllegalWordFaultsAndFalseGuardSkips := by
  unfold Obligations.IllegalWordFaultsAndFalseGuardSkips
  intro s c x i g w legal hw hx hfree hbegun hcode
  have h : AtSeat s c x := ⟨hx, hfree, hbegun, hcode⟩
  simp only [← Arch.guard_eq_false_iff]
  rcases readsWord_of_seatWord hw with ⟨-, uses, body, he⟩ | ⟨ht, uses, body, he, hform⟩
  · rw [he, seatRun_atSeat h]
    refine ⟨fun hl _ => ?_, fun hl _ _ => ⟨stILLEGAL, 0xFF, 0, BitVec.le_refl _, ?_⟩, fun hl hg => ?_⟩
    · simp [hl, State.seatFault]
    · simp [hl, State.seatFault]
    · simp [hl, hg, Arch.next]
  · rw [he, seatTake_atSeat h]
    refine ⟨fun hl hg => ?_, fun hl hr hq => ?_, fun hl hg => ?_⟩
    · have hg := hg.resolve_left (by simp [ht])
      simp [hl, hg, State.seatFault]
    · cases hg : x.arch.guard g with
      | false => exact ⟨stILLEGAL, 0xFF, 0, BitVec.le_refl _, by simp [hl, State.seatFault]⟩
      | true =>
        obtain ⟨l, hle, hb⟩ := hform hl s x hq
        exact ⟨l.status, l.handle, l.detail, hle, by simp [hr, hb, State.lateFault, State.seatFault]⟩
    · simp [hl, hg, Arch.next]

end Sys2Proof.Machine

/-! ## Scalar arithmetic (R277)

O1 from Table 10-3 over bit vectors, against its reading over the integers. -/

namespace Sys2Proof.Machine

open Claim

theorem liFn_eq (funct : BitVec 1) (old : Dword) (imm : Word) :
    liFn funct old imm = if funct = 0 then BitVec.ofInt 64 imm.toInt
      else BitVec.ofNat 64 (imm.toNat * 2 ^ 32 + old.toNat % 2 ^ 32) := by
  unfold liFn
  split
  · rfl
  · apply BitVec.eq_of_toNat_eq
    have hlt : (old.setWidth 32).toNat < 2 ^ 32 := (old.setWidth 32).isLt
    rw [BitVec.toNat_append, ← Nat.shiftLeft_add_eq_or_of_lt hlt, Nat.shiftLeft_eq, BitVec.toNat_setWidth, BitVec.toNat_ofNat]
    omega

theorem ofInt_toNat (a : Dword) : BitVec.ofInt 64 a.toNat = a := by
  rw [BitVec.ofInt_natCast, BitVec.ofNat_toNat, BitVec.setWidth_eq]

theorem shiftLeft_eq_ofInt (a : Dword) (k : Nat) : a <<< k = BitVec.ofInt 64 (a.toNat * 2 ^ k) := by
  apply BitVec.eq_of_toNat_eq
  rw [BitVec.toNat_shiftLeft, Nat.shiftLeft_eq, ← BitVec.toNat_ofNat, ← BitVec.ofInt_natCast]
  norm_cast

theorem ushiftRight_eq_ofInt (a : Dword) (k : Nat) : a >>> k = BitVec.ofInt 64 (a.toNat / 2 ^ k) := by
  rw [← ofInt_toNat (a >>> k), BitVec.toNat_ushiftRight, Nat.shiftRight_eq_div_pow]
  norm_cast

theorem sshiftRight_eq_ofInt (a : Dword) (k : Nat) : a.sshiftRight k = BitVec.ofInt 64 (a.toInt / 2 ^ k) := by
  rw [← BitVec.ofInt_toInt (x := a.sshiftRight k), BitVec.toInt_sshiftRight, Int.shiftRight_eq_div_pow]
  norm_cast

theorem ite_slt_eq_ofInt_min (a b : Dword) : (if b.slt a then b else a) = BitVec.ofInt 64 (min a.toInt b.toInt) := by
  rw [min_comm, min_def_lt, apply_ite (BitVec.ofInt 64), BitVec.ofInt_toInt, BitVec.ofInt_toInt]
  exact if_congr BitVec.slt_iff_toInt_lt rfl rfl

theorem ite_slt_eq_ofInt_max (a b : Dword) : (if a.slt b then b else a) = BitVec.ofInt 64 (max a.toInt b.toInt) := by
  rw [max_def_lt, apply_ite (BitVec.ofInt 64), BitVec.ofInt_toInt, BitVec.ofInt_toInt]
  exact if_congr BitVec.slt_iff_toInt_lt rfl rfl

theorem ite_lt_eq_ofInt_min (a b : Dword) : (if b < a then b else a) = BitVec.ofInt 64 (min a.toNat b.toNat) := by
  rw [min_comm, min_def_lt, apply_ite (BitVec.ofInt 64), ofInt_toNat, ofInt_toNat]
  exact if_congr (BitVec.lt_def.trans Int.ofNat_lt.symm) rfl rfl

theorem ite_lt_eq_ofInt_max (a b : Dword) : (if a < b then b else a) = BitVec.ofInt 64 (max a.toNat b.toNat) := by
  rw [max_def_lt, apply_ite (BitVec.ofInt 64), ofInt_toNat, ofInt_toNat]
  exact if_congr (BitVec.lt_def.trans Int.ofNat_lt.symm) rfl rfl

/-- Table 10-3 on bit vectors gives its value over the integers, modulo 2^64. -/
theorem aluFn_eq (n : Nat) (a b : Dword) : aluFn n a b = BitVec.ofInt 64 (aluValue n a b) := by
  match n with
  | 0 =>
    change a + b = BitVec.ofInt 64 (a.toInt + b.toInt)
    rw [BitVec.ofInt_add, BitVec.ofInt_toInt, BitVec.ofInt_toInt]
  | 1 =>
    change a - b = BitVec.ofInt 64 (a.toInt - b.toInt)
    exact BitVec.eq_of_toInt_eq (by rw [BitVec.toInt_sub, BitVec.toInt_ofInt])
  | 2 =>
    change a * b = BitVec.ofInt 64 (a.toInt * b.toInt)
    rw [BitVec.ofInt_mul, BitVec.ofInt_toInt, BitVec.ofInt_toInt]
  | 3 => exact (BitVec.ofInt_natCast 64 (a.toNat * b.toNat / 2 ^ 64)).symm
  | 4 => exact (ofInt_toNat (a &&& b)).symm
  | 5 => exact (ofInt_toNat (a ||| b)).symm
  | 6 => exact (ofInt_toNat (a ^^^ b)).symm
  | 7 => exact shiftLeft_eq_ofInt a _
  | 8 => exact ushiftRight_eq_ofInt a _
  | 9 => exact sshiftRight_eq_ofInt a _
  | 10 => exact ite_slt_eq_ofInt_min a b
  | 11 => exact ite_slt_eq_ofInt_max a b
  | 12 => exact ite_lt_eq_ofInt_min a b
  | n + 13 => exact ite_lt_eq_ofInt_max a b

theorem exec_alu_takes {s : State} {c : CtxId} {x : Ctx} {f : AluF} (h : Takes s c x f.g f.legal [f.sd, f.sa, f.sb]) :
    exec (.alu c f) s = .next (s.modArch c fun a => (a.setReg f.sd (aluFn f.funct.toNat (a.reg f.sa) (a.reg f.sb))).next) := by
  change execAlu c f s = _
  exact seatRun_takes _ h

theorem exec_alui_takes {s : State} {c : CtxId} {x : Ctx} {f : AluiF} (h : Takes s c x f.g f.legal [f.sd, f.sa]) :
    exec (.alui c f) s =
      .next (s.modArch c fun a => (a.setReg f.sd (aluFn f.funct.toNat (a.reg f.sa) (f.imm.signExtend 64))).next) := by
  change execAlui c f s = _
  exact seatRun_takes _ h

theorem exec_li_takes {s : State} {c : CtxId} {x : Ctx} {f : LiF} (h : Takes s c x f.g f.legal [f.sd]) :
    exec (.li c f) s = .next (s.modArch c fun a => (a.setReg f.sd (liFn f.funct (a.reg f.sd) f.imm)).next) := by
  change execLi c f s = _
  exact seatRun_takes _ h

/-- Settles O1: each of the three writes one register, with the value Table 10-3 gives over the integers. -/
theorem scalarArithmeticWritesRegister : Obligations.ScalarArithmeticWritesRegister := by
  unfold Obligations.ScalarArithmeticWritesRegister
  refine fun s c x => ⟨fun f h => ?_, fun f h => ?_, fun f h => ?_⟩
  · rw [← aluFn_eq]
    exact gives_of_modArch h.here (exec_alu_takes h) (regWritten_setReg_next _ _ _)
  · rw [← aluFn_eq]
    exact gives_of_modArch h.here (exec_alui_takes h) (regWritten_setReg_next _ _ _)
  · rw [← liFn_eq]
    exact gives_of_modArch h.here (exec_li_takes h) (regWritten_setReg_next _ _ _)

end Sys2Proof.Machine

/-! ## FENCE (R296)

O11 from one fact: a mask holds exactly when a queue it names is not empty. -/

namespace Sys2Proof.Machine

open Claim

/-- The queues a FENCE mask names are empty. -/
def Ctx.fenceEmpty (x : Ctx) (m : BitVec 3) : Prop :=
  (m.getLsbD 2 = true → x.qm = []) ∧ (m.getLsbD 1 = true → x.qv = []) ∧ (m.getLsbD 0 = true → x.qc = [])

theorem Ctx.fenceHeld_eq_false_iff (x : Ctx) (m : BitVec 3) : x.fenceHeld m = false ↔ x.fenceEmpty m := by
  simp only [Ctx.fenceHeld, Ctx.fenceEmpty, Bool.or_eq_false_iff, Bool.and_eq_false_imp, Bool.not_eq_false', List.isEmpty_iff,
    and_assoc]

theorem Ctx.fenceHeld_iff (x : Ctx) (m : BitVec 3) : x.fenceHeld m = true ↔ ¬ x.fenceEmpty m := by
  rw [← Ctx.fenceHeld_eq_false_iff, Bool.not_eq_false]

theorem exec_fence_takes {s : State} {c : CtxId} {x : Ctx} {f : FenceF} (h : Takes s c x f.g f.legal []) :
    exec (.fence c f) s = .next (if f.mask = 0 then s.seatFault c x stILLEGAL 0xFF f.word 0
      else if x.fenceHeld f.mask then s.stallAt c (.fence f.mask) else s.modArch c Arch.next) := by
  change execFence c f s = _
  exact seatRun_takes _ h

/-- A context that takes a word is not stalled. -/
theorem stall_eq_none_of_takes {s : State} {c : CtxId} {x : Ctx} {g : Guard} {legal : Bool} {uses : List SReg}
    (h : Takes s c x g legal uses) : x.stall = none := by
  have hfree := h.free
  simp only [Ctx.canIssue, Bool.and_eq_true, Option.isNone_iff_eq_none] at hfree
  obtain ⟨⟨⟨-, hstall⟩, -⟩, -⟩ := hfree
  exact hstall

/-- The stall of a FENCE ends once its queues are empty (R296). -/
theorem exec_fenceDrained_empty {s : State} {c : CtxId} {x : Ctx} {m : BitVec 3} (hx : s.job.ctx? c = some x)
    (hr : x.resid = .resident) (hs : x.stall = some (.fence m)) (he : x.fenceEmpty m) :
    exec (.fenceDrained c) s = .next (withCtx s c (some { x with stall := none, arch := x.arch.next })).settle := by
  change execFenceDrained c s = _
  unfold execFenceDrained
  rw [← State.unstall_eq Arch.next hx]
  simp [hx, hr, hs, (x.fenceHeld_eq_false_iff m).2 he]

/-- Settles O11, from what a FENCE taken answers (`exec_fence_takes`) and the end of its stall. -/
theorem fenceDrainsNamedQueues : Obligations.FenceDrainsNamedQueues := by
  unfold Obligations.FenceDrainsNamedQueues
  refine fun s c x => ⟨fun f h => ⟨fun h0 => ?_, fun h0 he => ?_, fun h0 he => ?_⟩,
    fun m hx hr hs he => exec_fenceDrained_empty hx hr hs he⟩
  · rw [exec_fence_takes h, if_pos h0]
    rfl
  · have hheld := (x.fenceHeld_eq_false_iff f.mask).2 he
    rw [exec_fence_takes h, if_neg h0, if_neg (by simp [hheld]), State.modArch_eq s c x _ h.here, ← stall_eq_none_of_takes h]
    rfl
  · rw [exec_fence_takes h, if_neg h0, if_pos ((x.fenceHeld_iff f.mask).2 he), State.stallAt_eq _ h.here]

end Sys2Proof.Machine

/-! ## The grantee (R347, R348)

O20. `passLt` compares modulo 2^64; seen from one pass value that every other lies within 2^62 of, it is the order of the signed
distances. A list ascending in context number then leaves the fold of `State.grantee` with its first element of least distance. -/

namespace Sys2Proof.Machine

/-- How far a pass value lies past another, as a signed number (R347). -/
def passDist (r a : Dword) : Int := (a - r).toInt

/-- A pass value lies within 2^62 of another. -/
def PassNear (r a : Dword) : Prop := passDist r a < 2 ^ 62 ∧ -(2 ^ 62) < passDist r a

@[simp] theorem passDist_self (r : Dword) : passDist r r = 0 := by
  simp [passDist]

/-- Two pass values near a third differ by the difference of their distances from it: nothing wraps. -/
theorem toInt_sub_eq_passDist_sub {r a b : Dword} (ha : PassNear r a) (hb : PassNear r b) :
    (a - b).toInt = passDist r a - passDist r b := by
  obtain ⟨ha1, ha2⟩ := ha
  obtain ⟨hb1, hb2⟩ := hb
  have hsplit : a - b = (a - r) - (b - r) := by ring
  rw [hsplit, BitVec.toInt_sub]
  change (passDist r a - passDist r b).bmod (2 ^ 64) = _
  exact Int.bmod_eq_of_le (by omega) (by omega)

theorem passLt_iff_passDist_lt {r a b : Dword} (ha : PassNear r a) (hb : PassNear r b) :
    passLt a b = true ↔ passDist r a < passDist r b := by
  rw [passLt, BitVec.msb_eq_toInt, toInt_sub_eq_passDist_sub ha hb, decide_eq_true_iff, sub_neg]

/-! ### The list of contexts -/

theorem Job.mem_ctxList_iff {j : Job} {c : CtxId} {x : Ctx} : (c, x) ∈ j.ctxList ↔ j.ctx? c = some x := by
  simp [Job.ctxList, ctxIds]

theorem Job.ctxList_ascending (j : Job) : j.ctxList.Pairwise fun p q => p.1 < q.1 := by
  refine (List.pairwise_lt_finRange 64).filterMap _ fun c d hlt p hp q hq => ?_
  obtain ⟨x, -, rfl⟩ := Option.map_eq_some_iff.1 hp
  obtain ⟨y, -, rfl⟩ := Option.map_eq_some_iff.1 hq
  exact hlt

/-- The contexts with ready work of a kind on a die, in ascending number. -/
def State.readyList (s : State) (k : EngKind) (die : Nat) : List (CtxId × Ctx) :=
  s.job.ctxList.filter fun p => s.readyOn p.1 p.2 k die

theorem State.mem_readyList_iff {s : State} {k : EngKind} {die : Nat} {c : CtxId} {x : Ctx} :
    (c, x) ∈ s.readyList k die ↔ s.job.ctx? c = some x ∧ s.readyOn c x k die = true := by
  rw [State.readyList, List.mem_filter, Job.mem_ctxList_iff]

theorem State.readyList_ascending (s : State) (k : EngKind) (die : Nat) :
    (s.readyList k die).Pairwise fun p q => p.1 < q.1 :=
  s.job.ctxList_ascending.filter _

/-! ### The fold that picks the grantee -/

/-- Of a candidate and the next context of the list, the one whose turn it is: the next only when its pass value is less. -/
def lesserPass (k : EngKind) (b p : CtxId × Ctx) : CtxId × Ctx := if passLt (p.2.pass k) (b.2.pass k) then p else b

theorem lesserPass_eq_or (k : EngKind) (b p : CtxId × Ctx) : lesserPass k b p = b ∨ lesserPass k b p = p := by
  rw [lesserPass]
  split
  · exact .inr rfl
  · exact .inl rfl

theorem State.grantee_of_readyList_eq_nil {s : State} {k : EngKind} {die : Nat} (h : s.readyList k die = []) :
    s.grantee k die = none := by
  rw [State.grantee, ← State.readyList, h]
  rfl

/-- The grantee is the last candidate, the first context of the ready list being the first. -/
theorem State.grantee_of_readyList_eq_cons {s : State} {k : EngKind} {die : Nat} {b : CtxId × Ctx} {l : List (CtxId × Ctx)}
    (h : s.readyList k die = b :: l) : s.grantee k die = some (l.foldl (lesserPass k) b) := by
  rw [State.grantee, ← State.readyList, h, List.foldl_cons]
  exact List.foldl_hom some fun b p => (apply_ite some _ _ _).symm

theorem State.readyList_of_grantee {s : State} {k : EngKind} {die : Nat} {m : CtxId × Ctx} (h : s.grantee k die = some m) :
    ∃ b l, s.readyList k die = b :: l ∧ l.foldl (lesserPass k) b = m := by
  cases hl : s.readyList k die with
  | nil => simp [State.grantee_of_readyList_eq_nil hl] at h
  | cons b l => exact ⟨b, l, rfl, Option.some.inj ((State.grantee_of_readyList_eq_cons hl).symm.trans h)⟩

theorem foldl_lesserPass_mem (k : EngKind) (l : List (CtxId × Ctx)) (b : CtxId × Ctx) : l.foldl (lesserPass k) b ∈ b :: l := by
  induction l generalizing b with
  | nil => exact List.mem_singleton_self b
  | cons p l ih =>
    rw [List.foldl_cons]
    rcases lesserPass_eq_or k b p with h | h <;> rw [h]
    · exact List.mem_cons.2 ((List.mem_cons.1 (ih b)).imp_right (List.mem_cons_of_mem p))
    · exact List.mem_cons_of_mem b (ih p)

/-- The order of turns (R348): by distance from the pass value r, then by number. -/
def turn (k : EngKind) (r : Dword) (p : CtxId × Ctx) : ℤ ×ₗ CtxId := toLex (passDist r (p.2.pass k), p.1)

theorem turn_le_turn_iff {k : EngKind} {r : Dword} {p q : CtxId × Ctx} : turn k r p ≤ turn k r q ↔
    passDist r (p.2.pass k) < passDist r (q.2.pass k) ∨ passDist r (p.2.pass k) = passDist r (q.2.pass k) ∧ p.1 ≤ q.1 :=
  Prod.Lex.toLex_le_toLex

/-- The candidate kept has the earlier turn of the two, when the candidate it was compared with has the lower number. -/
theorem lesserPass_turn_le {k : EngKind} {r : Dword} {b p : CtxId × Ctx} (hb : PassNear r (b.2.pass k))
    (hp : PassNear r (p.2.pass k)) (hlt : b.1 < p.1) :
    turn k r (lesserPass k b p) ≤ turn k r b ∧ turn k r (lesserPass k b p) ≤ turn k r p := by
  have hiff := passLt_iff_passDist_lt hp hb
  rw [lesserPass]
  split
  next h => exact ⟨turn_le_turn_iff.2 (.inl (hiff.1 h)), le_rfl⟩
  next h =>
    have hle := not_lt.1 (mt hiff.2 h)
    exact ⟨le_rfl, turn_le_turn_iff.2 (hle.lt_or_eq.imp_right fun he => ⟨he, hlt.le⟩)⟩

theorem foldl_lesserPass_turn_le {k : EngKind} {r : Dword} {l : List (CtxId × Ctx)} {b : CtxId × Ctx}
    (hnear : ∀ p ∈ b :: l, PassNear r (p.2.pass k)) (hasc : (b :: l).Pairwise fun p q => p.1 < q.1) :
    ∀ p ∈ b :: l, turn k r (l.foldl (lesserPass k) b) ≤ turn k r p := by
  induction l generalizing b with
  | nil => exact List.forall_mem_singleton.2 le_rfl
  | cons p l ih =>
    obtain ⟨hbl, hpl⟩ := List.pairwise_cons.1 hasc
    obtain ⟨hnb, hnp, hnl⟩ : PassNear r (b.2.pass k) ∧ PassNear r (p.2.pass k) ∧ ∀ q ∈ l, PassNear r (q.2.pass k) := by
      simpa using hnear
    have hstep := lesserPass_turn_le hnb hnp (hbl p List.mem_cons_self)
    have hrest : ∀ q ∈ lesserPass k b p :: l, turn k r ((p :: l).foldl (lesserPass k) b) ≤ turn k r q := by
      rw [List.foldl_cons]
      rcases lesserPass_eq_or k b p with h | h <;> rw [h]
      · exact ih (List.forall_mem_cons.2 ⟨hnb, hnl⟩)
          (List.pairwise_cons.2 ⟨fun q hq => hbl q (List.mem_cons_of_mem p hq), hpl.of_cons⟩)
      · exact ih (List.forall_mem_cons.2 ⟨hnp, hnl⟩) hpl
    obtain ⟨hkept, hl⟩ := List.forall_mem_cons.1 hrest
    exact List.forall_mem_cons.2 ⟨hkept.trans hstep.1, List.forall_mem_cons.2 ⟨hkept.trans hstep.2, hl⟩⟩

/-! ### What the grantee is -/

theorem State.grantee_mem_readyList {s : State} {k : EngKind} {die : Nat} {m : CtxId × Ctx} (h : s.grantee k die = some m) :
    m ∈ s.readyList k die := by
  obtain ⟨b, l, hl, rfl⟩ := State.readyList_of_grantee h
  rw [hl]
  exact foldl_lesserPass_mem k l b

theorem State.grantee_turn_le {s : State} {k : EngKind} {die : Nat} {m : CtxId × Ctx} {r : Dword}
    (h : s.grantee k die = some m) (hnear : ∀ p ∈ s.readyList k die, PassNear r (p.2.pass k)) :
    ∀ p ∈ s.readyList k die, turn k r m ≤ turn k r p := by
  obtain ⟨b, l, hl, rfl⟩ := State.readyList_of_grantee h
  have hasc := s.readyList_ascending k die
  rw [hl] at hasc hnear ⊢
  exact foldl_lesserPass_turn_le hnear hasc

/-- Settles O20: the grantee has the earliest turn of the ready contexts, distances taken from its own pass value. -/
theorem granteeHasLeastPass : Obligations.GranteeHasLeastPass := by
  unfold Obligations.GranteeHasLeastPass
  intro s kind die c x hg
  obtain ⟨hx, hready⟩ := State.mem_readyList_iff.1 (State.grantee_mem_readyList hg)
  refine ⟨hx, hready, fun d y hy hyr hspread => ?_⟩
  have hnear : ∀ p ∈ s.readyList kind die, PassNear (x.pass kind) (p.2.pass kind) := by
    rintro ⟨a, z⟩ hz
    obtain ⟨hza, hzr⟩ := State.mem_readyList_iff.1 hz
    exact hspread a c z x hza hx hzr hready
  obtain hlt | ⟨heq, hle⟩ := turn_le_turn_iff.1 (State.grantee_turn_le hg hnear (d, y) (State.mem_readyList_iff.2 ⟨hy, hyr⟩))
  · rw [passDist_self] at hlt
    exact ⟨hlt.le, fun hpass => absurd hlt (by simp [hpass])⟩
  · rw [passDist_self] at heq
    exact ⟨heq.le, fun _ => hle⟩

end Sys2Proof.Machine

/-! ## DATA frames of other members (R224, R390, R391, R402)

O47. A frame taken in order changes routes, waiting frames, suspicions and output alone (`taken_linkOnly`), so the job, epoch and
tricks it is judged by are those before it; `State.epochGate` and `State.takeData` then each have one branch per case of the
statement. -/

namespace Sys2Proof.Machine

open Claim

/-! ### What the arrival of a frame touches -/

/-- t differs from s in the routes, the frames that wait for one, the suspicions and the output stream alone: finer than `FabOnly`, it
keeps the epoch, the view and the agreement. -/
def LinkOnly (s t : State) : Prop := t = { s with
  fab := { s.fab with
    routes := t.fab.routes
    waiting := t.fab.waiting
    suspects := t.fab.suspects
    silentSus := t.fab.silentSus }
  outbox := t.outbox
  heldTx := t.heldTx }

theorem LinkOnly.refl (s : State) : LinkOnly s s := rfl

theorem LinkOnly.trans {s t u : State} (h : LinkOnly s t) (k : LinkOnly t u) : LinkOnly s u := by
  unfold LinkOnly at *; rw [k, h]

theorem State.withdraw_linkOnly (s : State) (m : BitVec 9) : LinkOnly s (s.withdraw m) := by
  unfold State.withdraw
  split <;> rfl

theorem State.modRoute_linkOnly (s : State) (p : Fin 12) (m : BitVec 9) (f : Route → Route) : LinkOnly s (s.modRoute p m f) := rfl

theorem State.putFrame_linkOnly (s : State) (r : Route) (f : TxFrame) (retx : Bool) : LinkOnly s (s.putFrame r f retx) := rfl

theorem State.sendLink_linkOnly (s : State) (p : Fin 12) (m : BitVec 9) (l : List Byte) : LinkOnly s (s.sendLink p m l) := by
  unfold State.sendLink
  split <;> rfl

theorem State.flushWaiting_linkOnly (s : State) : LinkOnly s s.flushWaiting :=
  .trans (t := { s with fab := { s.fab with waiting := [] } }) rfl
    (foldl_rel LinkOnly .refl (fun _ _ _ => .trans) _ (fun s x => by
      dsimp only
      split
      · exact s.putFrame_linkOnly _ _ _
      · rfl) _ _)

theorem State.ackUpTo_linkOnly (s : State) (p : Fin 12) (m : BitVec 9) (ack : Word) : LinkOnly s (s.ackUpTo p m ack) :=
  .trans (s.modRoute_linkOnly p m _) (State.flushWaiting_linkOnly _)

theorem taken_linkOnly (s : State) (h : FrameHdr) : LinkOnly s (taken s h) :=
  .trans (.trans (.trans (.trans (s.withdraw_linkOnly _) (State.modRoute_linkOnly _ _ _ _)) (State.ackUpTo_linkOnly _ _ _ _))
    (State.modRoute_linkOnly _ _ _ _)) (State.sendLink_linkOnly _ _ _ _)

section
variable (s : State) (h : FrameHdr)

@[simp] theorem taken_job : (taken s h).job = s.job := by rw [taken_linkOnly s h]
@[simp] theorem taken_stat : (taken s h).stat = s.stat := by rw [taken_linkOnly s h]
@[simp] theorem taken_aon : (taken s h).aon = s.aon := by rw [taken_linkOnly s h]
@[simp] theorem taken_cfg : (taken s h).cfg = s.cfg := by rw [taken_linkOnly s h]
@[simp] theorem taken_epoch : (taken s h).fab.epoch = s.fab.epoch := by rw [taken_linkOnly s h]
@[simp] theorem taken_mid : (taken s h).fab.mid = s.fab.mid := by rw [taken_linkOnly s h]
@[simp] theorem taken_self : (taken s h).fab.self = s.fab.self := by rw [taken_linkOnly s h]
@[simp] theorem taken_view : (taken s h).fab.view = s.fab.view := by rw [taken_linkOnly s h]
@[simp] theorem taken_promised : (taken s h).fab.promised = s.fab.promised := by rw [taken_linkOnly s h]
@[simp] theorem taken_accepted : (taken s h).fab.accepted = s.fab.accepted := by rw [taken_linkOnly s h]
@[simp] theorem taken_coord : (taken s h).fab.coord = s.fab.coord := by rw [taken_linkOnly s h]
@[simp] theorem taken_chgs : (taken s h).fab.chgs = s.fab.chgs := by rw [taken_linkOnly s h]

end

/-- A frame in order is taken. -/
theorem State.rxFrame_inOrder {s : State} {h : FrameHdr} (hin : InOrder s h) : s.rxFrame h = (true, taken s h) := by
  obtain ⟨hsys, r, hr, hup, hver, hseq⟩ := hin
  simp [State.rxFrame, taken, hsys, hr, hup, hver, hseq]

/-! ### The gate of job and epoch -/

section
variable {s : State} {h : FrameHdr} (i : Instr)

theorem State.epochGate_foreign (hj : h.jobid ≠ s.job.jobid ∨ s.job.state = .idle) :
    s.epochGate h i = (false, s.dropFrame h.port) :=
  if_pos hj

variable (hj : h.jobid = s.job.jobid) (hl : s.job.state ≠ .idle)
include hj hl

theorem State.epochGate_older (he : h.epoch < s.fab.epoch) : s.epochGate h i = (false, s.sendFenced h.port (midOf h.src) h.seq) := by
  simp [State.epochGate, hj, hl, he]

variable (hq : s.fab.self ≠ .quarantine) (ho : s.fab.self ≠ .offered)
include hq ho

theorem State.epochGate_current (he : h.epoch = s.fab.epoch) : s.epochGate h i = (true, s) := by
  simp [State.epochGate, hj, hl, he, hq, ho]

theorem State.epochGate_later (he : s.fab.epoch < h.epoch) : s.epochGate h i =
    (false, { s with fab := { s.fab with held := s.fab.held ++ [i] } }.sendViewreq (midOf h.src)) := by
  simp [State.epochGate, hj, hl, hq, ho, BitVec.lt_asymm he, (BitVec.ne_of_lt he).symm]

end

/-! ### The attempt of a DATA frame -/

section
variable {s : State} {h : FrameHdr} (m : DataMsg)

theorem State.takeData_sealed (ht : h.trick.toNat < s.stat.sealedN) : s.takeData h m = s :=
  if_pos ht

variable {r : TrickRec} (hr : s.trick? h.trick.toNat = some r) (ht : s.stat.sealedN ≤ h.trick.toNat)
include hr ht

theorem State.takeData_currentAttempt (ha : h.attempt = r.att) : s.takeData h m =
    { s with job := s.job.acceptData (midOf h.src) h.trick.toNat h.attempt m }.afterData := by
  simp [State.takeData, hr, ht.not_gt, ha]

theorem State.takeData_laterAttempt (h1 : 1 ≤ (h.attempt - r.att).toNat) (h2 : (h.attempt - r.att).toNat < 128) :
    s.takeData h m = { s with fab := { s.fab with held := s.fab.held ++ [Instr.dataFrameReceived h m] } } := by
  simp only [State.takeData, hr, if_neg ht.not_gt, if_neg (Nat.ne_of_gt h1), if_pos h2]

theorem State.takeData_earlierAttempt (hd : 128 ≤ (h.attempt - r.att).toNat) : s.takeData h m = s := by
  have hd0 : (h.attempt - r.att).toNat ≠ 0 := by omega
  simp only [State.takeData, hr, if_neg ht.not_gt, if_neg hd0, if_neg hd.not_gt]

end

/-! ### The DATA frame -/

section
variable {s t : State} {h : FrameHdr} (m : DataMsg) (hin : InOrder s h)
include hin

/-- A DATA frame the gate stops leaves the state the gate answers. -/
theorem exec_dataFrameReceived_stopped (hg : (taken s h).epochGate h (.dataFrameReceived h m) = (false, t)) :
    exec (.dataFrameReceived h m) s = .next t := by
  change execDataFrameReceived h m s = _
  simp [execDataFrameReceived, State.rxJob, State.rxFrame_inOrder hin, hg]

/-- A DATA frame the gate lets pass is taken under its trick. -/
theorem exec_dataFrameReceived_passed (hg : (taken s h).epochGate h (.dataFrameReceived h m) = (true, t)) :
    exec (.dataFrameReceived h m) s = .next (t.takeData h m).pump := by
  change execDataFrameReceived h m s = _
  simp [execDataFrameReceived, State.rxJob, State.rxFrame_inOrder hin, hg]

end

/-- Settles O47: the gate of job and epoch (`State.epochGate_current` and its like) and then the attempt of the frame against its
trick's (`State.takeData_currentAttempt` and its like), on the state once the frame has been taken. -/
theorem dataFramesAreAcceptedHeldOrFenced : Obligations.DataFramesAreAcceptedHeldOrFenced := by
  unfold Obligations.DataFramesAreAcceptedHeldOrFenced
  intro s h m hin b
  have hjob : s.job = b.job := (taken_job s h).symm
  have hepoch : s.fab.epoch = b.fab.epoch := (taken_epoch s h).symm
  have hself : s.fab.self = b.fab.self := (taken_self s h).symm
  have hstat : s.stat = b.stat := (taken_stat s h).symm
  have stopped {t : State} := exec_dataFrameReceived_stopped (t := t) m hin
  have passed {t : State} := exec_dataFrameReceived_passed (t := t) m hin
  rw [hjob, hepoch, hself, hstat]
  refine ⟨fun hj hl => ⟨fun he hq ho r hr ht => ?_, fun he hq ho ht => ?_, fun he => stopped (State.epochGate_older _ hj hl he),
    fun he hq ho => stopped (State.epochGate_later _ hj hl hq ho he)⟩, fun hj => stopped (State.epochGate_foreign _ hj)⟩
  · rw [passed (State.epochGate_current _ hj hl hq ho he)]
    refine ⟨fun ha => ?_, fun h1 h2 => ?_, fun hd => ?_⟩
    · rw [State.takeData_currentAttempt m hr ht ha]
    · rw [State.takeData_laterAttempt m hr ht h1 h2]
    · rw [State.takeData_earlierAttempt m hr ht hd]
  · rw [passed (State.epochGate_current _ hj hl hq ho he), State.takeData_sealed m ht]

end Sys2Proof.Machine

/-! ## Agreement on views (R238, R396, R398 to R403, Table 14-6)

O50, one lemma for each message of Table 14-5 and each case of the statement. A MEMB frame the module answers (`MembFrame`) has its
effect on `taken s h`, whose membership fields are those of s. -/

namespace Sys2Proof.Machine

open Claim

/-! ### What a taken frame leaves of views and membership -/

@[simp] theorem taken_viewOk (s : State) (h : FrameHdr) (v : View) : (taken s h).viewOk v = s.viewOk v := by
  simp [State.viewOk, State.cfgSysid]

@[simp] theorem taken_viewMembers (s : State) (h : FrameHdr) : (taken s h).viewMembers = s.viewMembers := by
  simp [State.viewMembers]

@[simp] theorem taken_roleBars (s : State) (h : FrameHdr) (v : View) : (taken s h).roleBars v = s.roleBars v := by
  simp [State.roleBars, State.spareOnly, State.roleStrap]

/-! ### The arrival of a MEMB frame -/

/-- A MEMB frame the module answers: in order, of no older epoch, and not in quarantine (R402, R403). -/
structure MembFrame (s : State) (h : FrameHdr) : Prop where
  inOrder : InOrder s h
  self : s.fab.self ≠ .quarantine
  epoch : ¬ h.epoch < s.fab.epoch

theorem State.rxMemb_quarantine {s : State} {h : FrameHdr} (hin : InOrder s h) (hq : s.fab.self = .quarantine) :
    s.rxMemb h = (false, taken s h) := by
  simp [State.rxMemb, State.rxFrame_inOrder hin, hq]

theorem State.rxMemb_older {s : State} {h : FrameHdr} (hin : InOrder s h) (hq : s.fab.self ≠ .quarantine)
    (he : h.epoch < s.fab.epoch) : s.rxMemb h = (false, (taken s h).sendFenced h.port (midOf h.src) h.seq) := by
  simp [State.rxMemb, State.rxFrame_inOrder hin, hq, he]

theorem MembFrame.rxMemb {s : State} {h : FrameHdr} (hf : MembFrame s h) : s.rxMemb h = (true, taken s h) := by
  obtain ⟨hin, hq, he⟩ := hf
  simp [State.rxMemb, State.rxFrame_inOrder hin, hq, BitVec.not_lt.1 he]

/-! ### Messages that are not answered -/

section
variable {s t : State} {h : FrameHdr} (hrx : s.rxMemb h = (false, t))
include hrx

theorem exec_prepare_unanswered (ep bal : Word) : exec (.prepare h ep bal) s = .next t := by
  change execPrepare h ep bal s = _
  simp [execPrepare, hrx]

theorem exec_commit_unanswered (v : View) : exec (.commit h v) s = .next t := by
  change execCommit h v s = _
  simp [execCommit, hrx]

theorem exec_view_unanswered (v : View) : exec (.view h v) s = .next t := by
  change execView h v s = _
  simp [execView, hrx]

end

/-! ### A member's answers: PREPARE and ACCEPT -/

section
variable {s : State} {h : FrameHdr} {ep bal : Word}

/-- A member answers for the epoch after its own. -/
theorem taken_answers (hs : s.fab.self = .active) (h0 : s.fab.epoch ≠ 0) (hep : ep = s.fab.epoch + 1) :
    (taken s h).answers ep = true := by
  have hne : (s.fab.epoch != 0) = true := bne_iff_ne.2 h0
  simp only [State.answers, taken_self, taken_epoch, hs, hep, hne, beq_self_eq_true, Bool.and_self]

/-- A reply to the round that runs, from a member of the view, belongs to it. -/
theorem taken_roundOf {r : Round} (hr : s.fab.coord = some r) (hep : r.newEpoch = ep) (hbal : r.ballot = bal)
    (hfail : r.failed = false) (hm : midOf h.src ∈ s.viewMembers) : (taken s h).roundOf h ep bal r.accepting = some r := by
  simp [State.roundOf, hr, hep, hbal, hfail, hm]

variable (hf : MembFrame s h)
include hf

theorem exec_prepare_promises (ha : (taken s h).answers ep = true) (hb : s.fab.promised < bal) :
    exec (.prepare h ep bal) s = .next (match s.fab.accepted with
      | none => { taken s h with fab := { (taken s h).fab with promised := bal } }.sendMemb (midOf h.src) 2 bal ep [] none
      | some (x, w) => { taken s h with fab := { (taken s h).fab with promised := bal } }.sendMemb (midOf h.src) 2 bal ep
          (leBytes x.toNat 4) (some w)) := by
  change execPrepare h ep bal s = _
  cases hacc : s.fab.accepted with
  | none => simp [execPrepare, hf.rxMemb, ha, hb, hacc]
  | some x => simp [execPrepare, hf.rxMemb, ha, hb, hacc]

theorem exec_prepare_belowPromise (hb : ¬ s.fab.promised < bal) : exec (.prepare h ep bal) s = .next (taken s h) := by
  change execPrepare h ep bal s = _
  simp [execPrepare, hf.rxMemb, hb]

theorem exec_accept_accepts {v : View} (ha : (taken s h).answers ep = true) (hb : ¬ bal < s.fab.promised) (hv : s.viewOk v = true) :
    exec (.accept h ep bal v) s = .next ({ taken s h with fab := { (taken s h).fab with
      promised := bal
      accepted := some (bal, v) } }.sendMemb (midOf h.src) 4 bal ep [] none) := by
  change execAccept h ep bal v s = _
  simp [execAccept, hf.rxMemb, ha, hb, hv]

theorem exec_accept_belowPromise (v : View) (hb : bal < s.fab.promised) : exec (.accept h ep bal v) s = .next (taken s h) := by
  change execAccept h ep bal v s = _
  simp [execAccept, hf.rxMemb, hb]

/-! ### The coordinator's collection: PROMISE and ACCEPTED -/

theorem exec_promise_collects {r : Round} {a : Option (Word × View)} (hr : (taken s h).roundOf h ep bal false = some r)
    (ha : ∀ x, a = some x → s.viewOk x.2 = true) (hnew : ∀ p ∈ r.promises, p.1 ≠ midOf h.src) :
    exec (.promise h ep bal a) s =
      .next (((taken s h).setCoord { r with promises := r.promises ++ [(midOf h.src, a)] }).coordAccept).carryOn := by
  change execPromise h ep bal a s = _
  have hall : a.all (fun x => s.viewOk x.2) = true := by
    cases a with
    | none => rfl
    | some x => exact ha x rfl
  have hany : r.promises.any (fun p => p.1 == midOf h.src) = false := by simpa using hnew
  simp [execPromise, hf.rxMemb, hr, hall, hany]

theorem exec_accepted_collects {r : Round} (hr : (taken s h).roundOf h ep bal true = some r) (hnew : midOf h.src ∉ r.accepts) :
    exec (.accepted h ep bal) s =
      .next (((taken s h).setCoord { r with accepts := r.accepts ++ [midOf h.src] }).coordCommit).carryOn := by
  change execAccepted h ep bal s = _
  simp [execAccepted, hf.rxMemb, hr, hnew]

end

/-! ### Views installed: COMMIT and VIEW -/

section
variable {s : State} {h : FrameHdr} {v : View} (hf : MembFrame s h) (hv : s.viewOk v = true)
include hf hv

theorem exec_commit_installs (he : s.fab.epoch < v.epoch) (hme : (v.entry? Config.ownMid).isSome = true)
    (hjoin : s.roleBars v = false ∨ s.fab.self = .spare) : exec (.commit h v) s = .next ((taken s h).install v false).carryOn := by
  change execCommit h v s = _
  have hnamed : standing v ≠ none := by simpa [standing, Option.isSome_iff_ne_none] using hme
  obtain hbar | hspare := hjoin
  · simp [execCommit, hf.rxMemb, hv, he, hnamed, hbar]
  · simp [execCommit, hf.rxMemb, hv, he, hnamed, hspare]

theorem exec_commit_barred (he : s.fab.epoch < v.epoch) (hme : (v.entry? Config.ownMid).isSome = true)
    (hbar : s.roleBars v = true) (hspare : s.fab.self ≠ .spare) :
    exec (.commit h v) s = .next ((taken s h).sendFenced h.port (midOf h.src) h.seq) := by
  change execCommit h v s = _
  have hnamed : standing v ≠ none := by simpa [standing, Option.isSome_iff_ne_none] using hme
  simp [execCommit, hf.rxMemb, hv, he, hnamed, hbar, hspare]

variable {x : ViewEntry} (hx : v.entry? Config.ownMid = some x) (hst : x.state = .active ∨ x.state = .spare)
include hx hst

theorem exec_view_ofEpoch (he : v.epoch = s.fab.epoch) :
    exec (.view h v) s = .next { taken s h with fab := { (taken s h).fab with fenced := false } } := by
  change execView h v s = _
  simp [execView, hf.rxMemb, hv, standing, hx, hst, he]

theorem exec_view_installs (he : s.fab.epoch < v.epoch) (hjoin : s.roleBars v = false ∨ s.fab.self = .spare) :
    exec (.view h v) s = .next ((taken s h).install v false).carryOn := by
  change execView h v s = _
  have hne : v.epoch ≠ s.fab.epoch := (BitVec.ne_of_lt he).symm
  have hlt : ¬ v.epoch < s.fab.epoch := BitVec.lt_asymm he
  obtain hbar | hspare := hjoin
  · simp +contextual [execView, hf.rxMemb, hv, standing, hx, hst.resolve_left, hne, hlt, hbar]
  · simp [execView, hf.rxMemb, hv, standing, hx, hne, hlt, hspare]

end

/-! ### Suspicions, reports, changes asked for -/

section
variable {s : State} {h : FrameHdr} (hf : MembFrame s h)
include hf

/-- A suspicion is noted once, and proposed. -/
theorem exec_suspect_notes {mid : BitVec 9} (hs : s.fab.self = .active) (hmid : mid ≠ s.fab.mid) :
    ∃ e : State, exec (.suspect h mid) s = .next e.carryOn ∧
      e = { taken s h with fab := { (taken s h).fab with reported := e.fab.reported } } ∧ mid ∈ e.fab.reported := by
  change ∃ e : State, execSuspect h mid s = _ ∧ _
  by_cases hin : mid ∈ (taken s h).fab.reported
  · exact ⟨taken s h, by simp [execSuspect, hf.rxMemb, hs, hmid, hin], rfl, hin⟩
  · exact ⟨{ taken s h with fab := { (taken s h).fab with reported := (taken s h).fab.reported ++ [mid] } },
      by simp [execSuspect, hf.rxMemb, hs, hmid, hin], rfl, by simp⟩

theorem exec_recon_current (d : Option Verdict) (att : Byte) (t : BitVec 48) (he : h.epoch = s.fab.epoch) :
    exec (.recon h d att t) s = .next ((taken s h).takeRecon (midOf h.src) d att t.toNat).forceDone.pump := by
  change execRecon h d att t s = _
  simp [execRecon, hf.rxMemb, he]

theorem exec_recon_later (d : Option Verdict) (att : Byte) (t : BitVec 48) (he : s.fab.epoch < h.epoch) : exec (.recon h d att t) s =
    .next { taken s h with fab := { (taken s h).fab with held := (taken s h).fab.held ++ [Instr.recon h d att t] } } := by
  change execRecon h d att t s = _
  simp [execRecon, hf.rxMemb, he]

/-- A change no other has asked for, and the view in force does not refuse, is noted at the coordinator and proposed. -/
theorem exec_forwardedViewchgReceived_notes {action : Byte} {mid rank spareMid : BitVec 16} (hc : (taken s h).isCoord = true)
    (hok : (taken s h).chgBad action mid rank spareMid = none)
    (hnew : ∀ k ∈ s.fab.chgs, ¬ (k.action = action.toNat ∧ k.mid = mid ∧ k.rank = rank ∧ k.spareMid = spareMid)) :
    exec (.forwardedViewchgReceived h action mid rank spareMid) s = .next ({ taken s h with fab := { (taken s h).fab with
      chgs := (taken s h).fab.chgs ++ [(⟨action.toNat, mid, rank, spareMid, none, true⟩ : ChgReq)] } }).carryOn := by
  change execForwardedViewchgReceived h action mid rank spareMid s = _
  have hknown : (s.fab.chgs.any fun k => k.action == action.toNat && k.mid == mid && k.rank == rank && k.spareMid == spareMid) = false := by
    simpa [and_assoc] using hnew
  simp [execForwardedViewchgReceived, hf.rxMemb, hc, hok, hknown]

end

theorem exec_viewreq_answers {s : State} {h : FrameHdr} {w : View} (hin : InOrder s h) (hw : s.fab.view = some w) :
    exec (.viewreq h) s = .next ((taken s h).sendMemb (midOf h.src) 8 0 w.epoch [] (some w)) := by
  change execViewreq h s = _
  simp [execViewreq, State.rxFrame_inOrder hin, hw]

/-! ### Rounds without a quorum, and the end of quarantine -/

section
variable {s : State} {r : Round} (hr : s.fab.coord = some r)
include hr

theorem exec_quorumTimeout_fails (hfail : r.failed = false) (hlong : 25000 ≤ (s.aon.counter - r.since).toNat) :
    exec .quorumTimeout s =
      .next { s with fab := { s.fab with coord := some { r with failed := true, since := s.aon.counter } } } := by
  change execQuorumTimeout s = _
  have hover : s.elapsed r.since 25000 = true := decide_eq_true hlong
  simp [execQuorumTimeout, hr, hfail, hover, State.setCoord, State.now]

theorem exec_ballotRetryTimer_retries (hfail : r.failed = true)
    (hlong : 10000 + 100 * s.fab.mid.toNat ≤ (s.aon.counter - r.since).toNat) :
    exec .ballotRetryTimer s = .next ({ s with fab := { s.fab with coord := none } }).carryOn := by
  change execBallotRetryTimer s = _
  have hover : s.elapsed r.since (10000 + 100 * s.fab.mid.toNat) = true := decide_eq_true hlong
  simp [execBallotRetryTimer, hr, hfail, hover]

end

section
variable {s : State} {failed : List PUnit} (hq : s.fab.self = .quarantine) (hstage : s.fab.qstage = 4)
  (htest : s.hl.selftest = true) (hbrace : s.aon.braceAt = none)
include hq hstage htest hbrace

/-- A quarantined module that passes its self-test offers itself again (Table 14-6). -/
theorem exec_quarantineSelfTestComplete_offers (hok : (s.selfTest failed).hl.failed = false) :
    exec (.quarantineSelfTestComplete failed) s = .next { s.selfTest failed with fab := { (s.selfTest failed).fab with
      self := .offered
      qstage := 5 } } := by
  change execQuarantineSelfTestComplete failed s = _
  simp [execQuarantineSelfTestComplete, hq, hstage, htest, hbrace, hok]

theorem exec_quarantineSelfTestComplete_fails (hbad : (s.selfTest failed).hl.failed = true) :
    exec (.quarantineSelfTestComplete failed) s = .next (s.selfTest failed) := by
  change execQuarantineSelfTestComplete failed s = _
  simp [execQuarantineSelfTestComplete, hq, hstage, htest, hbrace, hbad]

end

/-! ### The statement -/

/-- Settles O50, message by message, on the state once the frame has been taken. -/
theorem agreementInstallsViews : Obligations.AgreementInstallsViews := by
  unfold Obligations.AgreementInstallsViews
  intro s h ep bal v b m
  refine ⟨fun hin hq => ?_, fun hin hq he => ?_, fun hin hq he => ?_, fun hin w hw => exec_viewreq_answers hin hw,
    fun r hr => ⟨fun hfail hlong => ⟨_, exec_quorumTimeout_fails hr hfail hlong, rfl⟩, exec_ballotRetryTimer_retries hr⟩,
    fun failed hq hstage htest hbrace => ?_⟩
  · have hrx := State.rxMemb_quarantine hin hq
    exact ⟨exec_prepare_unanswered hrx ep bal, exec_commit_unanswered hrx v, exec_view_unanswered hrx v⟩
  · have hrx := State.rxMemb_older hin hq he
    exact ⟨exec_prepare_unanswered hrx ep bal, exec_commit_unanswered hrx v⟩
  · have hf : MembFrame s h := ⟨hin, hq, he⟩
    refine ⟨fun hs h0 hep => ?_, fun r hr hep hbal hfail hm => ?_, fun hv he hme => ?_, fun x hx hst hv => ?_,
      fun mid hs hmid => exec_suspect_notes hf hs hmid,
      fun d att t => ⟨exec_recon_current hf d att t, exec_recon_later hf d att t⟩,
      fun action mid rank spareMid hc hok hnew => exec_forwardedViewchgReceived_notes hf hc hok hnew⟩
    · have ha := taken_answers (h := h) hs h0 hep
      exact ⟨exec_prepare_promises hf ha, exec_prepare_belowPromise hf, exec_accept_accepts hf ha, exec_accept_belowPromise hf v⟩
    · have hround := taken_roundOf hr hep hbal hfail hm
      exact ⟨fun a hacc hok hnew => exec_promise_collects hf (hacc ▸ hround) hok hnew,
        fun hacc hnew => exec_accepted_collects hf (hacc ▸ hround) hnew⟩
    · exact ⟨exec_commit_installs hf hv he hme, exec_commit_barred hf hv he hme⟩
    · exact ⟨exec_view_ofEpoch hf hv hx hst, exec_view_installs hf hv hx hst⟩
  · exact ⟨fun hok => ⟨_, exec_quarantineSelfTestComplete_offers hq hstage htest hbrace hok, rfl, rfl⟩,
      exec_quarantineSelfTestComplete_fails hq hstage htest hbrace⟩

end Sys2Proof.Machine

/-! ## Messages sent, and the tables they are sent by (R386, R412)

What O41 and O44 share: a message is headed and held by its way out and by the pauses of its port, so an update that keeps these sends
it as the state before would. -/

namespace Sys2Proof.Machine

open Claim

/-! ### Tables kept as lists by number -/

theorem alGet_alSet {α : Type} (l : List (Nat × α)) (i j : Nat) (x : α) :
    alGet (alSet l i x) j = if j = i then some x else alGet l j := by
  induction l with
  | nil => simp [alSet, alGet, eq_comm]
  | cons p r ih =>
    obtain ⟨k, y⟩ := p
    obtain hlt | rfl | hgt := lt_trichotomy i k
    · simp [alSet, alGet, hlt, eq_comm]
    · simp +contextual [alSet, alGet, eq_comm]
    · simp only [alSet, if_neg hgt.not_gt, if_neg hgt.ne', alGet, ih]
      by_cases hk : k = j
      · simp [← hk, hgt.ne]
      · simp [hk]

theorem alGet_alDel_self {α : Type} (l : List (Nat × α)) (i : Nat) : alGet (alDel l i) i = none := by
  induction l with
  | nil => rfl
  | cons p r ih =>
    obtain ⟨k, y⟩ := p
    by_cases hk : k = i
    · simpa [alDel, hk] using ih
    · simpa [alDel, alGet, hk] using ih

theorem State.qp?_setQp (s : State) (i j : Nat) (q : Qp) : (s.setQp i q).qp? j = if j = i then some q else s.qp? j :=
  alGet_alSet _ _ _ _

@[simp] theorem State.setQp_ports (s : State) (i : Nat) (q : Qp) : (s.setQp i q).host.ports = s.host.ports := rfl

theorem State.modHPort_get (s : State) (p q : Fin 4) (f : HPort → HPort) :
    (s.modHPort p f).host.ports.get q = if q = p then f (s.host.ports.get p) else s.host.ports.get q := by
  simp [State.modHPort, vget_eq, Vector.getElem_set, Fin.ext_iff, eq_comm]

theorem State.setPPort_get (s : State) (p q : Fin 12) (f : PPort → PPort) :
    (s.setPPort p f).fab.ports.get q = if q = p then f (s.fab.ports.get p) else s.fab.ports.get q := by
  simp [State.setPPort, vget_eq, Vector.getElem_set, Fin.ext_iff, eq_comm]

theorem getLsbD_setBit {w : Nat} (v : BitVec w) {i k : Nat} (b : Bool) (hk : k < w) :
    (setBit v i b).getLsbD k = if k = i then b else v.getLsbD k := by
  have hbit : (BitVec.ofNat w (2 ^ i)).getLsbD k = decide (k = i) := by
    rw [BitVec.getLsbD_ofNat, Nat.testBit_two_pow]
    simp [hk, eq_comm]
  cases b
  · simp only [setBit, Bool.false_eq_true, if_false, BitVec.getLsbD_and, BitVec.getLsbD_not, hbit]
    by_cases hki : k = i <;> simp [hki, hk]
  · simp only [setBit, if_true, BitVec.getLsbD_or, hbit]
    by_cases hki : k = i <;> simp [hki]

theorem since?_eq_true_iff {s : State} {t : Option Dword} {n : Nat} :
    since? s t n = true ↔ ∀ y, t = some y → n ≤ (s.aon.counter - y).toNat := by
  cases t <;> simp [since?, State.elapsed]

/-! ### Sending -/

theorem next_of_exec_eq {i : Instr} {s t : State} {P : State → Prop} (h : exec i s = .next t) (hP : P t) : Next i s P :=
  ⟨t, h, hP⟩

theorem outputs_nil {s t : State} (ho : t.outbox = s.outbox) (hh : t.heldTx = s.heldTx) : Outputs s t [] := by
  simp [Outputs, ho, hh]

/-- t has sent nothing since s, and o leaves t as it would leave s: by the same way, with the same header, past the same pauses. -/
structure SendsAs (s t : State) (o : Out) : Prop where
  outbox : t.outbox = s.outbox
  heldTx : t.heldTx = s.heldTx
  via : t.via o = s.via o
  cfg : t.cfg = s.cfg
  hostPaused : ∀ p, (t.host.ports.get p).paused = (s.host.ports.get p).paused
  peerPaused : ∀ p, (t.fab.ports.get p).paused = (s.fab.ports.get p).paused

theorem SendsAs.stamp {s t : State} {o : Out} (h : SendsAs s t o) : t.stamp o = s.stamp o := by
  simp [State.stamp, State.roceHdr, h.via, h.cfg]

theorem SendsAs.pausedTo {s t : State} {o : Out} (h : SendsAs s t o) : t.pausedTo o = s.pausedTo o := by
  simp only [State.pausedTo, State.roceHdr, h.via, h.cfg, h.hostPaused, h.peerPaused]

theorem SendsAs.outputs {s t : State} {o : Out} (h : SendsAs s t o) : Outputs s (t.send o) [o] := by
  cases hp : s.pausedTo o <;> simp [Outputs, h.outbox, h.heldTx, h.stamp, h.pausedTo, hp]

end Sys2Proof.Machine

/-! ## Congestion, addresses and pauses of ports (R386, R412, R413)

O44, one lemma for each command and each case of the statement. -/

namespace Sys2Proof.Machine

open Claim

/-! ### Pacing of a host queue pair (R413) -/

section
variable {s : State} {port : Fin 4} {qp : BitVec 12} {q : Qp} (hq : s.qp? qp.toNat = some q)
include hq

/-- A notification on a queue pair leaves by the queue pair's port, whatever is noted of the queue pair and counted by a port. -/
theorem sendsAs_cnp (q' : Qp) (hport : q'.port = q.port) (f : HPort → HPort) (hf : ∀ p, (f p).paused = p.paused) :
    SendsAs s ((s.setQp qp.toNat q').modHPort port f) (.cnp (.host qp)) where
  outbox := rfl
  heldTx := rfl
  via := by
    have hget : alGet s.host.qps qp.toNat = some q := hq
    have hset : alGet (alSet s.host.qps qp.toNat q') qp.toNat = some q' := by simp [alGet_alSet]
    simp [State.via, State.qpPort, State.modHPort, State.setQp, hget, hset, hport]
  cfg := rfl
  hostPaused p := by
    rw [State.modHPort_get]
    split_ifs with hp
    · rw [hf, hp]; rfl
    · rfl
  peerPaused _ := rfl

theorem exec_cePacketReceived_notifies (hecn : s.cfg.hp.getLsbD 9 = true) (hquiet : since? s q.cnpSent 2500 = true) :
    exec (.cePacketReceived port (.host qp)) s = .next (((s.setQp qp.toNat { q with cnpSent := some s.aon.counter }).modHPort port
      fun p => { p with cnpSent := satAdd p.cnpSent 1 sat16 }).send (.cnp (.host qp))) := by
  change execCePacketReceived port (.host qp) s = _
  simp [execCePacketReceived, hecn, hq, hquiet, State.now]

theorem exec_cePacketReceived_early (hearly : ¬ since? s q.cnpSent 2500 = true) :
    exec (.cePacketReceived port (.host qp)) s = .next s := by
  change execCePacketReceived port (.host qp) s = _
  simp [execCePacketReceived, hq, hearly]

theorem exec_cnpReceived_lowers : ∃ q' : Qp,
    exec (.cnpReceived port (.host qp)) s = .next ((s.setQp qp.toNat q').modHPort port
      fun p => { p with cnpRcvd := satAdd p.cnpRcvd 1 sat16 }) ∧
    q'.rate = (if since? s q.lowered 2500 then max 1 (q.rate * 7 / 8) else q.rate) ∧ q'.cnpRcvd = some s.aon.counter := by
  refine ⟨{ q with
    cnpRcvd := some s.aon.counter
    rate := if since? s q.lowered 2500 then max 1 (q.rate * 7 / 8) else q.rate
    lowered := if since? s q.lowered 2500 then some s.aon.counter else q.lowered }, ?_, rfl, rfl⟩
  change execCnpReceived port (.host qp) s = _
  simp only [execCnpReceived, hq]
  rfl

theorem exec_rateIncreaseTimer_raises (hrcvd : since? s q.cnpRcvd 2500 = true) (hup : since? s q.rateUp 2500 = true) :
    exec (.rateIncreaseTimer (.host qp)) s =
      .next (s.setQp qp.toNat { q with rate := min (q.rate + 1) s.lineRate, rateUp := some s.aon.counter }) := by
  change execRateIncreaseTimer (.host qp) s = _
  simp [execRateIncreaseTimer, hq, hrcvd, hup, State.now]

end

/-! ### Requests for an own address (R412) -/

section
variable {s : State} {isHost : Bool} {p : Fin 12} {addr : BitVec 128} (hup : s.portUp isHost p = true)
  (hown : s.ownAddr isHost p addr = true)
include hup hown

theorem exec_arpFrameReceived_answers (mac : BitVec 48) :
    exec (.arpFrameReceived isHost p false addr mac) s = .next (s.send (.arpReply isHost p addr)) := by
  change execArpFrameReceived isHost p false addr mac s = _
  simp [execArpFrameReceived, hup, hown]

theorem exec_icmpEchoReceived_answers (payload : List Byte) :
    exec (.icmpEchoReceived isHost p addr payload) s = .next (s.send (.echoReply isHost p payload)) := by
  change execIcmpEchoReceived isHost p addr payload s = _
  simp [execIcmpEchoReceived, hup, hown]

end

/-! ### Pauses (R386, R412) -/

section
variable {s : State} {p : Fin 12} {priority : BitVec 3}

theorem exec_pfcFrameReceived_host {port : Fin 4} (hp : p.val = port.val) (hk : priority.toNat = s.cfg.hp.toNat % 8) (pause : Bool) :
    exec (.pfcFrameReceived true p priority pause) s =
      .next (s.modHPort port fun x => { x with paused := setBit x.paused priority.toNat pause }).flushTx := by
  change execPfcFrameReceived true p priority pause s = _
  have hport : Fin.ofNat 4 p.val = port := by rw [hp]; exact Fin.ofNat_val_eq_self port
  have hlt : ¬ 4 ≤ p.val := by omega
  simp only [execPfcFrameReceived, hport]
  simp [hlt, hk]

theorem exec_pfcFrameReceived_host_other (hk : priority.toNat ≠ s.cfg.hp.toNat % 8) (pause : Bool) :
    exec (.pfcFrameReceived true p priority pause) s = .next s := by
  change execPfcFrameReceived true p priority pause s = _
  simp [execPfcFrameReceived, hk]

theorem exec_pfcFrameReceived_peer (hk : priority.toNat = s.cfg.pp.toNat % 8 ∨ priority.toNat = s.cfg.pp.toNat / 8 % 8) (pause : Bool) :
    exec (.pfcFrameReceived false p priority pause) s =
      .next (s.setPPort p fun x => { x with paused := setBit x.paused priority.toNat pause }).flushTx.flushWaiting := by
  change execPfcFrameReceived false p priority pause s = _
  have hours : ¬ (priority.toNat ≠ s.cfg.pp.toNat % 8 ∧ priority.toNat ≠ s.cfg.pp.toNat / 8 % 8) := by tauto
  simp only [execPfcFrameReceived, if_neg hours, Bool.false_eq_true, if_false]

theorem exec_pfcFrameReceived_peer_other
    (hk : ¬ (priority.toNat = s.cfg.pp.toNat % 8 ∨ priority.toNat = s.cfg.pp.toNat / 8 % 8)) (pause : Bool) :
    exec (.pfcFrameReceived false p priority pause) s = .next s := by
  change execPfcFrameReceived false p priority pause s = _
  simp only [execPfcFrameReceived, if_pos (not_or.1 hk), Bool.false_eq_true, if_false]

end

/-! ### The statement -/

/-- Settles O44, command by command: what the queue pair notes of congestion, the answers to an own address, and the pauses of a
port. -/
theorem portsPaceAnswerAndPause : Obligations.PortsPaceAnswerAndPause := by
  unfold Obligations.PortsPaceAnswerAndPause
  intro s port
  refine ⟨fun qp q hq => ?_, fun isHost p addr mac payload hup hown =>
      ⟨exec_arpFrameReceived_answers hup hown mac, exec_icmpEchoReceived_answers hup hown payload⟩,
    fun p priority pause hp => ⟨fun hk => ?_, fun hk => exec_pfcFrameReceived_host_other hk pause⟩,
    fun p priority pause => ⟨fun hk => ?_, fun hk => exec_pfcFrameReceived_peer_other hk pause⟩⟩
  · simp only [← since?_eq_true_iff]
    refine ⟨fun hecn hquiet => ?_, fun _ hearly => exec_cePacketReceived_early hq hearly, ?_, fun hrcvd hup => ?_⟩
    · exact next_of_exec_eq (exec_cePacketReceived_notifies hq hecn hquiet)
        ⟨rfl, (sendsAs_cnp hq _ (by rfl) _ fun _ => by rfl).outputs, (State.qp?_setQp _ _ _ _).trans (if_pos rfl), by
          simp [State.modHPort_get, satAdd, sat16]⟩
    · obtain ⟨q', hexec, hrate, hrcvd⟩ := exec_cnpReceived_lowers (port := port) hq
      exact ⟨_, hexec, rfl, outputs_nil rfl rfl, q', (State.qp?_setQp _ _ _ _).trans (if_pos rfl),
        fun hquiet => hrate.trans (if_pos hquiet), fun hearly => hrate.trans (if_neg hearly), hrcvd⟩
    · exact ⟨_, exec_rateIncreaseTimer_raises hq hrcvd hup, rfl, outputs_nil rfl rfl, _,
        (State.qp?_setQp _ _ _ _).trans (if_pos rfl), rfl⟩
  · refine ⟨_, exec_pfcFrameReceived_host hp hk pause, rfl, outputs_nil rfl rfl, fun k hk8 => ?_⟩
    simp [State.modHPort_get, getLsbD_setBit _ _ hk8]
  · refine ⟨_, exec_pfcFrameReceived_peer hk pause, rfl, outputs_nil rfl rfl, fun k hk8 => ?_⟩
    simp [State.setPPort_get, getLsbD_setBit _ _ hk8]

end Sys2Proof.Machine

/-! ## The store's queue pairs (R421, R422)

O41. What the module does around a lost queue pair of the store (the writes it loses, the checkpoint and the reads it abandons, the
completions of both) leaves every region and the counter as they were (`SameRegions`); so the region the queue pair carried is the
one `State.reopen` finds and marks. -/

namespace Sys2Proof.Machine

open Claim

/-- The table of the store's queue pairs with q at entry i, as `State.setQp` is of the hosts'. -/
def State.setSqp (s : State) (i : Nat) (q : SQp) : State := s.modHost fun x => { x with sqps := alSet x.sqps i q }

/-! ### What leaves the regions and the counter -/

structure SameRegions (s t : State) : Prop where
  regions : t.host.regions = s.host.regions
  aon : t.aon = s.aon

theorem SameRegions.refl (s : State) : SameRegions s s := ⟨rfl, rfl⟩

theorem SameRegions.trans {s t u : State} (h : SameRegions s t) (k : SameRegions t u) : SameRegions s u :=
  ⟨k.regions.trans h.regions, k.aon.trans h.aon⟩

theorem SameRegions.foldl {α : Type} {f : State → α → State} (h : ∀ s a, SameRegions s (f s a)) (l : List α) (s : State) :
    SameRegions s (l.foldl f s) :=
  foldl_rel SameRegions .refl (fun _ _ _ => .trans) f h l s

theorem State.send_sameRegions (s : State) (o : Out) : SameRegions s (s.send o) := ⟨rfl, rfl⟩

theorem State.lose_sameRegions (s : State) (w : Carried) : SameRegions s (s.lose w) := by
  cases w <;> exact ⟨rfl, rfl⟩

theorem State.modQp_sameRegions (s : State) (i : Nat) (f : Qp → Qp) : SameRegions s (s.modQp i f) := by
  unfold State.modQp
  split <;> exact ⟨rfl, rfl⟩

theorem State.writeRegion_sameRegions (s : State) (tr : Option Nat) (rn off : Nat) (data : List Byte) (what : Carried) (tag : Nat) :
    SameRegions s (s.writeRegion tr rn off data what tag) := by
  unfold State.writeRegion
  split
  · exact s.lose_sameRegions what
  · split
    · exact s.lose_sameRegions what
    · split
      · exact s.lose_sameRegions what
      · exact ⟨rfl, rfl⟩

theorem State.ringPut_sameRegions (s : State) (qi : Nat) (tr : Option Nat) (c : Compl) (own : Bool) :
    SameRegions s (s.ringPut qi tr c own) := by
  unfold State.ringPut
  split
  · exact .refl s
  · split
    · exact .refl s
    · exact .trans (t := s.setQp qi _) ⟨rfl, rfl⟩ (State.writeRegion_sameRegions _ _ _ _ _ _ _)

theorem State.ringWrite_sameRegions (s : State) (qi : Nat) (tr : Option Nat) (c : Compl) (own : Bool) :
    SameRegions s (s.ringWrite qi tr c own) := by
  unfold State.ringWrite
  split
  · exact s.ringPut_sameRegions _ _ _ _
  · refine .trans (.trans ?_ (State.ringPut_sameRegions _ _ _ _ _)) (State.ringPut_sameRegions _ _ _ _ _)
    exact .trans (s.modQp_sameRegions qi _) ⟨rfl, rfl⟩

theorem State.postTo_sameRegions (s : State) (qi : Nat) (tr : Option Nat) (c : Compl) : SameRegions s (s.postTo qi tr c) := by
  unfold State.postTo
  split
  · exact s.ringWrite_sameRegions _ _ _ _
  · exact ⟨rfl, rfl⟩

theorem State.postOwner_sameRegions (s : State) (tr : Option Nat) (c : Compl) : SameRegions s (s.postOwner tr c) := by
  unfold State.postOwner
  split
  · exact s.ringWrite_sameRegions _ _ _ _
  · split <;> exact ⟨rfl, rfl⟩

theorem State.complete_sameRegions (s : State) (h : HostCmd) (opc status : Byte) (l : List Byte) :
    SameRegions s (s.complete h opc status l) := by
  unfold State.complete
  split
  · exact .trans (t := { s with host := { s.host with errCmd := true } }) ⟨rfl, rfl⟩ (State.postTo_sameRegions _ _ _ _)
  · exact s.postTo_sameRegions _ _ _

theorem State.doOut_sameRegions (s : State) (h : HeldOut) : SameRegions s (s.doOut h) := by
  cases h with
  | write t rn off data ring => exact s.writeRegion_sameRegions _ _ _ _ _ _
  | ownerCompl t c => exact s.postOwner_sameRegions _ _
  | compl t q c => exact s.postTo_sameRegions _ _ _

theorem State.flushHeldGo_sameRegions (n : Nat) (s : State) : SameRegions s (s.flushHeldGo n) := by
  induction n generalizing s with
  | zero => exact .refl s
  | succ n ih =>
    unfold State.flushHeldGo
    split
    · exact .refl s
    · rename_i h r _
      split
      · exact .refl s
      · exact .trans (.trans (t := { s with host := { s.host with heldOut := r } }) ⟨rfl, rfl⟩ (State.doOut_sameRegions _ h)) (ih _)

theorem State.flushHeld_sameRegions (s : State) : SameRegions s s.flushHeld := State.flushHeldGo_sameRegions _ s

theorem State.ckFinish_sameRegions (s : State) (w : CkWrite) : SameRegions s (s.ckFinish w) := by
  unfold State.ckFinish
  refine .trans (t := { s.setRecov fun r => { r with ck := none } with
    stat := { s.stat with ckTrick := w.shard.trick, ckA := w.aOk, ckB := w.bOk, ckValid := true } }) ⟨rfl, rfl⟩ ?_
  refine SameRegions.foldl (fun s h => ?_) _ _
  split <;> exact s.complete_sameRegions _ _ _ _

theorem State.ckPut_sameRegions (s : State) (w : CkWrite) : SameRegions s (s.ckPut w).2 := by
  unfold State.ckPut
  obtain ⟨rn, off⟩ := w.place
  dsimp only
  split
  · exact .refl s
  split
  · exact .refl s
  generalize (if w.step = 0 then _ else _ : Nat × List Byte) = ad
  split
  · exact s.lose_sameRegions .bytes
  · exact s.send_sameRegions _

theorem State.ckNextTarget_sameRegions (s : State) (w : CkWrite) : SameRegions s (s.ckNextTarget w) := by
  unfold State.ckNextTarget
  split
  · dsimp only
    split
    · exact .trans (s.ckPut_sameRegions _) ⟨rfl, rfl⟩
    · exact .trans (s.ckPut_sameRegions _) (State.ckFinish_sameRegions _ _)
  · exact s.ckFinish_sameRegions w

theorem State.ckAbandon_sameRegions (s : State) : SameRegions s s.ckAbandon := by
  unfold State.ckAbandon
  split
  · exact .refl s
  · exact .trans (s.lose_sameRegions _) (State.ckNextTarget_sameRegions _ _)

theorem State.refuseAdmit_sameRegions (s : State) (h : HostCmd) (st : Byte) : SameRegions s (s.refuseAdmit h st) :=
  .trans (t := { s with job := { s.job.leftOver with subArea := s.job.subArea } }) ⟨rfl, rfl⟩ (State.complete_sameRegions _ _ _ _ _)

theorem State.readsFail_sameRegions (s : State) (has : Nat → Bool) : SameRegions s (s.readsFail has) := by
  unfold State.readsFail
  extract_lets a b vs rs as c d e f
  have hb : SameRegions s b := by
    refine .trans (t := a) ⟨rfl, rfl⟩ ?_
    unfold b
    split
    · exact .refl a
    · split
      · exact a.refuseAdmit_sameRegions _ _
      · exact .refl a
  have hc : SameRegions b c := ⟨rfl, rfl⟩
  have hd : SameRegions c d := .foldl (fun s v => s.complete_sameRegions _ _ _ _) _ _
  have he : SameRegions d e := .foldl (fun s v => s.complete_sameRegions _ _ _ _) _ _
  have hf : SameRegions e f := .foldl (fun s v => s.complete_sameRegions _ _ _ _) _ _
  refine .trans (.trans (.trans (.trans (.trans hb hc) hd) he) hf) ?_
  split
  · exact .refl f
  · split <;> exact ⟨rfl, rfl⟩

/-! ### The region being opened -/

/-- The region being opened waits for its registration or for its next attempt, and its queue pair is in the table, not READY. -/
theorem openingRegion_spec {s : State} {n : Nat} {r : Region} {i : Nat} {q : SQp} (ho : s.openingRegion n = some (r, i, q)) :
    r.opening = true ∧ r.sqp = some i ∧ alGet s.host.sqps i = some q ∧ q.ready = false := by
  unfold State.openingRegion at ho
  split at ho
  · cases ho
  rename_i x hx
  split at ho
  · cases ho
  rename_i j hj
  split at ho
  · cases ho
  rename_i y hy
  split at ho
  · cases ho
  rename_i hready
  cases ho
  have hcond := List.find?_some hx
  simp only [Bool.and_eq_true] at hcond
  obtain ⟨⟨-, hopening⟩, -⟩ := hcond
  exact ⟨hopening, hj, hy, Bool.eq_false_iff.2 hready⟩

/-- Becoming READY leaves the way by which a queue pair of the store sends. -/
theorem sendsAs_rtu {s : State} {i : Nat} {q : SQp} (hq : alGet s.host.sqps i = some q) (k : BitVec 6) :
    SendsAs s (s.setSqp i { q with ready := true }) (.rtu (.store k)) where
  outbox := rfl
  heldTx := rfl
  via := by
    simp only [State.via, State.qpPort, State.setSqp, State.modHost, alGet_alSet]
    split_ifs with hk
    · simp [hk, hq]
    · rfl
  cfg := rfl
  hostPaused _ := rfl
  peerPaused _ := rfl

theorem State.storeFail_registering {s : State} {r : Region} {h : HostCmd} (i : Nat) (hp : r.pending = some h) : s.storeFail r i =
    ((s.dropSqp i).setRegions (s.host.regions.filter fun x => x != r)).complete h 0x20 stBUFFER [] := by
  simp only [State.storeFail, hp]
  rfl

section
variable {s : State} {region : BitVec 16} {r : Region} {i : Nat} {q : SQp} (ho : s.openingRegion region.toNat = some (r, i, q))
include ho

theorem exec_storeConnectReply_registers (harp : (s.host.arp.any fun e => e.1 == r.addr) = true) (hp : r.pending.isSome = true) :
    exec (.storeConnectReply region true) s =
      .next ((((s.setSqp i { q with ready := true }).send (.rtu (.store (BitVec.ofNat 6 i)))).regTry r.num).pump) := by
  change execStoreConnectReply region true s = _
  obtain ⟨h, hp⟩ := Option.isSome_iff_exists.1 hp
  simp only [execStoreConnectReply, ho, harp, hp]
  rfl

theorem exec_storeConnectReply_reconnects (harp : (s.host.arp.any fun e => e.1 == r.addr) = true) (hp : r.pending = none) :
    exec (.storeConnectReply region true) s =
      .next (((((s.setSqp i { q with ready := true }).send (.rtu (.store (BitVec.ofNat 6 i)))).setRegions
        (s.host.regions.map fun x => if x = r then { x with orphaned := false, retry := none } else x)).regTry r.num).pump) := by
  change execStoreConnectReply region true s = _
  simp only [execStoreConnectReply, ho, harp, hp]
  rfl

theorem exec_storeConnectReply_rejected (harp : (s.host.arp.any fun e => e.1 == r.addr) = true) :
    exec (.storeConnectReply region false) s = .next (s.storeFail r i) := by
  change execStoreConnectReply region false s = _
  simp [execStoreConnectReply, ho, harp]

theorem exec_storeConnectTimeout_late (hlate : 5000000 ≤ (s.aon.counter - q.since).toNat) :
    exec (.storeConnectTimeout region) s = .next (s.storeFail r i) := by
  change execStoreConnectTimeout region s = _
  have helapsed : s.elapsed q.since 5000000 = true := decide_eq_true hlate
  simp [execStoreConnectTimeout, ho, helapsed]

end

/-! ### Address resolution -/

theorem filterMap_eq_singleton {α β : Type} [DecidableEq α] {f : α → Option β} {l : List α} {a : α} {b : β} (ha : f a = some b)
    (hother : ∀ x ∈ l, x ≠ a → f x = none) (honce : l.filter (fun x => x == a) = [a]) : l.filterMap f = [b] := by
  have hf : l.filterMap f = l.filterMap fun x => if x == a then f x else none := by
    refine List.filterMap_congr fun x hx => ?_
    by_cases hxa : x = a
    · simp [hxa]
    · simp [hxa, hother x hx hxa]
  rw [hf, ← List.filterMap_filter, honce]
  simp [ha]

theorem exec_arpFrameReceived_resolves {s : State} {n : Nat} {r : Region} {i : Nat} {q : SQp} (mac : BitVec 48)
    (hup : (s.fab.ports.get q.port).up = true) (ho : s.openingRegion n = some (r, i, q))
    (hnew : (s.host.arp.any fun e => e.1 == r.addr) = false) (haddr : ∀ x ∈ s.host.regions, x.addr = r.addr → x = r)
    (honce : s.host.regions.filter (fun x => x == r) = [r]) :
    exec (.arpFrameReceived false q.port true r.addr mac) s =
      .next ((s.modHost fun x => { x with arp := x.arp ++ [(r.addr, mac)] }).send (s.storeReq q.port i r.addr)) := by
  change execArpFrameReceived false q.port true r.addr mac s = _
  obtain ⟨hopening, hsqp, hq, hready⟩ := openingRegion_spec ho
  have hportUp : s.portUp false q.port = true := hup
  simp only [execArpFrameReceived, hportUp]
  rw [filterMap_eq_singleton (a := r) (b := i) ?_ (fun x hx hne => ?_) honce]
  · simp only [hnew]
    rfl
  · simp [hopening, hsqp, hq, hready]
  · have hne : x.addr ≠ r.addr := fun h => hne (haddr x hx h)
    simp [hne]

/-! ### The next attempt -/

/-- With a peer port for the address and a free entry, a store queue pair is being opened for the region. -/
theorem State.openStore_opens {s : State} {r : Region} {p : Fin 12} {i : Nat} (hport : s.storePort r.addr = some p)
    (hfree : s.freeSqp = some i) : ∃ (q : SQp) (o : Out), s.openStore r = some (i, (s.setSqp i q).send o) ∧
      q.port = p ∧ q.ready = false ∧ q.region = r.num := by
  refine ⟨⟨r.num, p, false, s.now, 0, 1600, none, none, none, none⟩, if s.host.arp.any (fun e => e.1 == r.addr) then
    s.storeReq p i r.addr else .arpRequest p r.addr, ?_, rfl, rfl, rfl⟩
  simp only [State.openStore, hport, hfree]
  split_ifs <;> rfl

theorem State.openStore_sameRegions {s t : State} {r : Region} {i : Nat} (h : s.openStore r = some (i, t)) : SameRegions s t := by
  unfold State.openStore at h
  split at h
  · dsimp only at h
    split_ifs at h <;> cases h <;> exact ⟨rfl, rfl⟩
  · cases h

theorem State.reopen_opens {s t : State} {r : Region} {i : Nat} (h : s.openStore r = some (i, t)) : s.reopen r =
    t.setRegions (s.host.regions.map fun x => if x = r then { r with sqp := some i, retry := some s.aon.counter } else x) := by
  have hsame := State.openStore_sameRegions h
  simp only [State.reopen, h, State.now, hsame.regions, hsame.aon]

/-- Trying again marks the region with the time of the attempt, whether a queue pair could be had or not. -/
theorem State.reopen_regions (s : State) (r : Region) : ∃ j, (s.reopen r).host.regions = s.host.regions.map fun x =>
    if x = r then { r with sqp := j, retry := some s.aon.counter } else x := by
  cases h : s.openStore r with
  | none =>
    refine ⟨none, ?_⟩
    simp only [State.reopen, h]
    rfl
  | some p =>
    obtain ⟨i, t⟩ := p
    refine ⟨some i, ?_⟩
    rw [State.reopen_opens h]
    rfl

theorem State.reopen_aon (s : State) (r : Region) : (s.reopen r).aon = s.aon := by
  cases h : s.openStore r with
  | none =>
    simp only [State.reopen, h]
    rfl
  | some p =>
    obtain ⟨i, t⟩ := p
    rw [State.reopen_opens h]
    exact (State.openStore_sameRegions h).aon

theorem exec_storeReconnectTimer_reopens {s : State} {region : BitVec 16} {r : Region}
    (hfind : s.host.regions.find? (fun r => r.num == region.toNat && r.peer && r.orphaned && r.pending.isNone) = some r)
    (hsqp : r.sqp = none) (hlate : since? s r.retry 50000 = true) : exec (.storeReconnectTimer region) s = .next (s.reopen r) := by
  change execStoreReconnectTimer region s = _
  simp [execStoreReconnectTimer, hfind, hsqp, hlate]

/-! ### A store queue pair closed or lost -/

theorem State.regTry_idle {s : State} {n : Nat} (h : ∀ x ∈ s.host.regions, x.num = n → x.pending = none ∧ x.deleting = none) :
    s.regTry n = s := by
  have hpending : (s.host.regions.find? fun x => x.num == n && x.pending.isSome) = none := by
    refine List.find?_eq_none.2 fun x hx => ?_
    by_cases hn : x.num = n
    · simp [(h x hx hn).1]
    · simp [hn]
  unfold State.regTry
  split
  · rfl
  · cases hold : s.host.regions.find? fun x => x.num == n && x.pending.isNone with
    | none => simp only [hpending]
    | some x =>
      have hcond : x.num = n ∧ x.pending.isNone = true := by simpa using List.find?_some hold
      simp only [(h x (List.mem_of_find?_eq_some hold) hcond.1).2, hpending]

/-- A registered region whose store queue pair is lost is orphaned, and then it is tried again. -/
theorem State.storeLost_reopens {s : State} {k : Nat} {r : Region} (hfind : s.host.regions.find? (fun r => r.sqp == some k) = some r)
    (hpending : r.pending = none) : ∃ t : State,
      s.storeLost k = ((t.reopen { r with orphaned := true, sqp := none }).regTry r.num).flushHeld ∧ t.aon = s.aon ∧
      t.host.regions = s.host.regions.map fun x => if x = r then { r with orphaned := true, sqp := none } else x := by
  have hlost (keep : Unacked → Bool) (gone : List Unacked) : SameRegions s (gone.foldl (fun s u => s.lose u.what)
      ((s.dropSqp k).modHost fun x => { x with unacked := x.unacked.filter keep })) :=
    .trans (t := (s.dropSqp k).modHost _) ⟨rfl, rfl⟩ (.foldl (fun s u => s.lose_sameRegions u.what) gone _)
  have hreads (u : State) (hit : Bool) (has : Nat → Bool) : SameRegions u ((if hit then u.ckAbandon else u).readsFail has) := by
    refine .trans ?_ (State.readsFail_sameRegions _ has)
    cases hit
    · exact .refl u
    · exact u.ckAbandon_sameRegions
  unfold State.storeLost
  simp only [hfind, hpending]
  exact ⟨_, rfl, (hreads _ _ _).aon.trans (hlost _ _).aon, (hreads _ _ _).regions.trans (congrArg (List.map _) (hlost _ _).regions)⟩

/-- The region the lost queue pair carried stands in the table as orphaned, tried again now. -/
theorem State.storeLost_orphans {s : State} {k : Nat} {r : Region} (hfind : s.host.regions.find? (fun r => r.sqp == some k) = some r)
    (hpending : r.pending = none) (hdeleting : r.deleting = none) (hnum : ∀ x ∈ s.host.regions, x.num = r.num → x = r) :
    ∃ x ∈ (s.storeLost k).host.regions, x.num = r.num ∧ x.addr = r.addr ∧ x.orphaned = true ∧ x.retry = some s.aon.counter := by
  obtain ⟨t, hlost, haon, hregions⟩ := State.storeLost_reopens hfind hpending
  obtain ⟨j, hreopen⟩ := t.reopen_regions { r with orphaned := true, sqp := none }
  rw [haon, hregions, List.map_map] at hreopen
  have hidle : ∀ x ∈ (t.reopen { r with orphaned := true, sqp := none }).host.regions, x.num = r.num →
      x.pending = none ∧ x.deleting = none := by
    rw [hreopen]
    simp only [List.mem_map, Function.comp_apply, forall_exists_index, and_imp, forall_apply_eq_imp_iff₂]
    intro x hx
    by_cases hxr : x = r
    · simp [hxr, hpending, hdeleting]
    · simp only [hxr, if_false]
      split_ifs
      · simp [hpending, hdeleting]
      · exact fun hn => absurd (hnum x hx hn) hxr
  refine ⟨{ r with orphaned := true, sqp := j, retry := some s.aon.counter }, ?_, rfl, rfl, rfl, rfl⟩
  rw [hlost, State.regTry_idle hidle, (State.flushHeld_sameRegions _).regions, hreopen]
  exact List.mem_map.2 ⟨r, List.mem_of_find?_eq_some hfind, by simp⟩

section
variable {s : State} {k : BitVec 6} {q : SQp} (hq : alGet s.host.sqps k.toNat = some q)
include hq

theorem exec_cmDreq_store : exec (.cmDreq (.store k)) s = .next ((s.send (.drep (.store k))).storeLost k.toNat).pump := by
  change execCmDreq (.store k) s = _
  simp [execCmDreq, hq]

theorem exec_cmDrep_store : exec (.cmDrep (.store k)) s = .next (s.storeLost k.toNat).pump := by
  change execCmDrep (.store k) s = _
  simp [execCmDrep, hq]

theorem exec_qpRetryExhausted_store (hready : q.ready = true) :
    exec (.qpRetryExhausted (.store k)) s = .next (s.storeLost k.toNat).pump := by
  change execQpRetryExhausted (.store k) s = _
  simp [execQpRetryExhausted, hq, hready]

end

/-! ### The statement -/

/-- Settles O41, command by command; a lost queue pair's region by `State.storeLost_orphans`. -/
theorem storeQueuePairsOpenAgain : Obligations.StoreQueuePairsOpenAgain := by
  unfold Obligations.StoreQueuePairsOpenAgain
  intro s region r i q
  refine ⟨fun ho harp => ?_, fun h ho hp => ?_, fun mac hup ho hnew haddr honce => ?_, fun port hfind hsqp hlate hport hfree => ?_,
    fun k hfind hq hp hd hnum => ?_⟩
  · obtain ⟨-, -, hq, -⟩ := openingRegion_spec ho
    have hsqp : alGet (s.setSqp i { q with ready := true }).host.sqps i = some { q with ready := true } :=
      (alGet_alSet _ _ _ _).trans (if_pos rfl)
    have hout := (sendsAs_rtu hq (BitVec.ofNat 6 i)).outputs
    cases hp : r.pending with
    | some h =>
      exact ⟨_, exec_storeConnectReply_registers ho harp (by simp [hp]), rfl, hsqp, hout, fun _ => rfl, nofun⟩
    | none => exact ⟨_, exec_storeConnectReply_reconnects ho harp hp, rfl, hsqp, hout, nofun, fun _ => rfl⟩
  · have hfail := State.storeFail_registering i hp (s := s)
    have hgone : alGet ((s.dropSqp i).setRegions (s.host.regions.filter fun x => x != r)).host.sqps i = none :=
      alGet_alDel_self _ _
    exact ⟨fun harp => ⟨_, (exec_storeConnectReply_rejected ho harp).trans (congrArg _ hfail), hgone, rfl⟩,
      fun hlate => ⟨_, (exec_storeConnectTimeout_late ho hlate).trans (congrArg _ hfail), hgone, rfl⟩⟩
  · refine next_of_exec_eq (exec_arpFrameReceived_resolves mac hup ho hnew haddr honce) ⟨rfl, rfl, ?_⟩
    exact SendsAs.outputs ⟨rfl, rfl, rfl, rfl, fun _ => rfl, fun _ => rfl⟩
  · obtain ⟨q', o, hopen, hqport, hready, hregion⟩ := State.openStore_opens hport hfree
    refine next_of_exec_eq (exec_storeReconnectTimer_reopens hfind hsqp (since?_eq_true_iff.2 hlate)) ?_
    rw [State.reopen_opens hopen]
    exact ⟨rfl, ⟨q', (alGet_alSet _ _ _ _).trans (if_pos rfl), hqport, hready, hregion⟩, rfl⟩
  · have hlost := State.storeLost_orphans hfind hp hd hnum
    have hlostDrep := State.storeLost_orphans (s := s.send (.drep (.store k))) hfind hp hd hnum
    exact ⟨⟨_, exec_cmDreq_store hq, hlostDrep⟩, ⟨_, exec_cmDrep_store hq, hlost⟩,
      fun hready => ⟨_, exec_qpRetryExhausted_store hq hready, hlost⟩⟩

end Sys2Proof.Machine

/-! ## Acknowledgements, NAKs and timeouts of the module's writes (R414, R424, R431, R456)

O43. A retry marks every request of the queue pair as sent now (`State.resent`) and changes nothing else but the count of retries; what
follows a queue pair's fall from READY (writes lost, reads and the checkpoint abandoned, regions let go, completions) touches host queue
pairs only in their rings, so every state they are in stays (`State.qpState`), the ERROR just entered among them. -/

namespace Sys2Proof.Machine

open Claim

/-! ### A write that is lost -/

theorem State.lose_only (s : State) (w : Carried) : HostOnly s (s.lose w) := by
  cases w <;> rfl

theorem State.lose_unacked (s : State) (w : Carried) : (s.lose w).host.unacked = s.host.unacked := by
  cases w <;> rfl

/-! ### What leaves the states of the host queue pairs -/

/-- The state of host queue pair i, if the table has it. -/
def State.qpState (s : State) (i : Nat) : Option QpState := (s.qp? i).map Qp.st

theorem foldl_qpState {α : Type} {f : State → α → State} (h : ∀ s a, (f s a).qpState = s.qpState) (l : List α) (s : State) :
    (l.foldl f s).qpState = s.qpState :=
  foldl_rel (fun s t => t.qpState = s.qpState) (fun _ => rfl) (fun _ _ _ h k => k.trans h) f h l s

theorem State.setQp_qpState {s : State} {i : Nat} {q q' : Qp} (hq : s.qp? i = some q) (hst : q'.st = q.st) :
    (s.setQp i q').qpState = s.qpState := by
  funext j
  simp only [State.qpState, State.qp?_setQp]
  split_ifs with hj
  · simp [hj, hq, hst]
  · rfl

@[simp] theorem State.lose_qpState (s : State) (w : Carried) : (s.lose w).qpState = s.qpState := by
  cases w <;> rfl

@[simp] theorem State.writeRegion_qpState (s : State) (tr : Option Nat) (rn off : Nat) (data : List Byte) (what : Carried) (tag : Nat) :
    (s.writeRegion tr rn off data what tag).qpState = s.qpState := by
  unfold State.writeRegion
  split
  · exact s.lose_qpState what
  · split
    · exact s.lose_qpState what
    · split
      · exact s.lose_qpState what
      · rfl

@[simp] theorem State.ringPut_qpState (s : State) (qi : Nat) (tr : Option Nat) (c : Compl) (own : Bool) :
    (s.ringPut qi tr c own).qpState = s.qpState := by
  unfold State.ringPut
  split
  · rfl
  · rename_i q hq
    split
    · rfl
    · exact (State.writeRegion_qpState _ _ _ _ _ _ _).trans (State.setQp_qpState hq rfl)

theorem State.modQp_qpState (s : State) (i : Nat) {f : Qp → Qp} (hst : ∀ q, (f q).st = q.st) : (s.modQp i f).qpState = s.qpState := by
  unfold State.modQp
  split
  · rfl
  · rename_i q hq
    exact State.setQp_qpState hq (hst q)

@[simp] theorem State.ringWrite_qpState (s : State) (qi : Nat) (tr : Option Nat) (c : Compl) (own : Bool) :
    (s.ringWrite qi tr c own).qpState = s.qpState := by
  unfold State.ringWrite
  split
  · exact s.ringPut_qpState _ _ _ _
  · refine (State.ringPut_qpState _ _ _ _ _).trans ((State.ringPut_qpState _ _ _ _ _).trans ?_)
    exact s.modQp_qpState qi fun _ => rfl

@[simp] theorem State.postTo_qpState (s : State) (qi : Nat) (tr : Option Nat) (c : Compl) : (s.postTo qi tr c).qpState = s.qpState := by
  unfold State.postTo
  split
  · exact s.ringWrite_qpState _ _ _ _
  · rfl

@[simp] theorem State.postOwner_qpState (s : State) (tr : Option Nat) (c : Compl) : (s.postOwner tr c).qpState = s.qpState := by
  unfold State.postOwner
  split
  · exact s.ringWrite_qpState _ _ _ _
  · split <;> rfl

@[simp] theorem State.complete_qpState (s : State) (h : HostCmd) (opc status : Byte) (l : List Byte) :
    (s.complete h opc status l).qpState = s.qpState := by
  unfold State.complete
  split
  · exact State.postTo_qpState _ _ _ _
  · exact s.postTo_qpState _ _ _

@[simp] theorem State.doOut_qpState (s : State) (h : HeldOut) : (s.doOut h).qpState = s.qpState := by
  cases h with
  | write t rn off data ring => exact s.writeRegion_qpState _ _ _ _ _ _
  | ownerCompl t c => exact s.postOwner_qpState _ _
  | compl t q c => exact s.postTo_qpState _ _ _

theorem State.flushHeldGo_qpState (n : Nat) (s : State) : (s.flushHeldGo n).qpState = s.qpState := by
  induction n generalizing s with
  | zero => rfl
  | succ n ih =>
    unfold State.flushHeldGo
    split
    · rfl
    · rename_i h r _
      split
      · rfl
      · exact (ih _).trans (State.doOut_qpState _ h)

@[simp] theorem State.flushHeld_qpState (s : State) : s.flushHeld.qpState = s.qpState := State.flushHeldGo_qpState _ s

@[simp] theorem State.ckFinish_qpState (s : State) (w : CkWrite) : (s.ckFinish w).qpState = s.qpState := by
  unfold State.ckFinish
  refine (foldl_qpState (fun s h => ?_) _ _).trans rfl
  split <;> exact s.complete_qpState _ _ _ _

@[simp] theorem State.ckPut_qpState (s : State) (w : CkWrite) : (s.ckPut w).2.qpState = s.qpState := by
  unfold State.ckPut
  obtain ⟨rn, off⟩ := w.place
  dsimp only
  split
  · rfl
  split
  · rfl
  generalize (if w.step = 0 then _ else _ : Nat × List Byte) = ad
  split
  · exact s.lose_qpState .bytes
  · rfl

@[simp] theorem State.ckNextTarget_qpState (s : State) (w : CkWrite) : (s.ckNextTarget w).qpState = s.qpState := by
  unfold State.ckNextTarget
  split
  · dsimp only
    split
    · exact s.ckPut_qpState _
    · exact (State.ckFinish_qpState _ _).trans (s.ckPut_qpState _)
  · exact s.ckFinish_qpState w

@[simp] theorem State.ckAbandon_qpState (s : State) : s.ckAbandon.qpState = s.qpState := by
  unfold State.ckAbandon
  split
  · rfl
  · exact (State.ckNextTarget_qpState _ _).trans (s.lose_qpState _)

@[simp] theorem State.refuseAdmit_qpState (s : State) (h : HostCmd) (st : Byte) : (s.refuseAdmit h st).qpState = s.qpState :=
  State.complete_qpState _ _ _ _ _

theorem State.readsFail_qpState (s : State) (has : Nat → Bool) : (s.readsFail has).qpState = s.qpState := by
  unfold State.readsFail
  extract_lets a b vs rs as c d e f
  have hb : b.qpState = s.qpState := by
    unfold b
    split
    · rfl
    · split
      · exact a.refuseAdmit_qpState _ _
      · rfl
  have hd : d.qpState = c.qpState := foldl_qpState (fun s v => s.complete_qpState _ _ _ _) _ _
  have he : e.qpState = d.qpState := foldl_qpState (fun s v => s.complete_qpState _ _ _ _) _ _
  have hf : f.qpState = e.qpState := foldl_qpState (fun s v => s.complete_qpState _ _ _ _) _ _
  have hreads : f.qpState = s.qpState := hf.trans (he.trans (hd.trans hb))
  split
  · exact hreads
  · split <;> exact hreads

@[simp] theorem State.closeRegion_qpState (s : State) (r : Region) : (s.closeRegion r).qpState = s.qpState := by
  unfold State.closeRegion
  dsimp only
  split <;> rfl

@[simp] theorem State.regTry_qpState (s : State) (n : Nat) : (s.regTry n).qpState = s.qpState := by
  unfold State.regTry
  split
  · rfl
  extract_lets old a b
  clear_value old
  have ha : a.qpState = s.qpState := by
    unfold a
    split
    · rfl
    · split
      · rfl
      · exact (State.complete_qpState _ _ _ _ _).trans (s.closeRegion_qpState _)
  have hb : b.qpState = a.qpState := by
    unfold b
    split
    · rfl
    · exact a.closeRegion_qpState _
  split
  · exact ha
  extract_lets ready c
  split
  · exact ha
  split
  · exact ha
  exact (State.complete_qpState _ _ _ _ _).trans (hb.trans ha)

@[simp] theorem State.trimHolding_qpState (s : State) : s.trimHolding.qpState = s.qpState := by
  unfold State.trimHolding
  extract_lets n
  clear_value n
  split <;> rfl

/-- A queue pair that leaves READY changes the state of no other, nor its own again. -/
theorem State.qpOff_qpState (s : State) (i : Nat) : (s.qpOff i).qpState = s.qpState := by
  unfold State.qpOff
  extract_lets mine has ref own gone a b c d
  have ha : a.qpState = s.qpState := State.trimHolding_qpState _
  have hb : b.qpState = a.qpState := foldl_qpState (fun s (u : Unacked) => s.lose_qpState u.what) _ _
  have hc : c.qpState = b.qpState := b.readsFail_qpState has
  have hd : d.qpState = c.qpState := by
    unfold d
    split
    · rfl
    · split
      · exact c.ckAbandon_qpState
      · rfl
  have hregions : d.regTryAll.qpState = d.qpState := foldl_qpState State.regTry_qpState _ _
  rw [State.flushHeld_qpState, hregions, hd, hc, hb, ha]

/-- A READY queue pair that enters ERROR is still there, in ERROR, when all that follows from it is done (R424). -/
theorem State.qpError_of_ready {s : State} {i : Nat} {q : Qp} (hq : s.qp? i = some q) (hready : q.st = .ready) :
    ∃ q', (s.qpError i).qp? i = some q' ∧ q'.st = .error := by
  refine Option.map_eq_some_iff.1 (show (s.qpError i).qpState i = some .error from ?_)
  unfold State.qpError
  simp only [hq, hready]
  refine (congrFun (State.qpOff_qpState _ i) i).trans ?_
  exact congrArg (Option.map Qp.st) ((State.qp?_setQp s i i _).trans (if_pos rfl))

/-! ### The count of retries -/

theorem State.setTries_only (s : State) (qp : QpRef) (n : Nat) : HostOnly s (s.setTries qp n) := by
  unfold State.setTries
  split
  · exact s.modQp_only _ _
  · split <;> rfl

/-- Of the host attachment, the count of retries stands in the two tables of queue pairs. -/
theorem State.setTries_host (s : State) (qp : QpRef) (n : Nat) : ∃ qps sqps,
    (s.setTries qp n).host = { s.host with qps := qps, sqps := sqps } := by
  unfold State.setTries
  split
  · unfold State.modQp
    split <;> exact ⟨_, _, rfl⟩
  · split <;> exact ⟨_, _, rfl⟩

@[simp] theorem State.setTries_unacked (s : State) (qp : QpRef) (n : Nat) : (s.setTries qp n).host.unacked = s.host.unacked := by
  obtain ⟨qps, sqps, hhost⟩ := s.setTries_host qp n
  rw [hhost]

@[simp] theorem State.setTries_sentOn (s : State) (qp ref : QpRef) (n : Nat) : (s.setTries qp n).sentOn ref = s.sentOn ref := by
  obtain ⟨qps, sqps, hhost⟩ := s.setTries_host qp n
  unfold State.sentOn State.carries
  rw [hhost, State.setTries_job]

theorem State.setTries_retryOf {s : State} {qp : QpRef} {retry t k : Nat} (hr : s.retryOf qp = some (retry, t, k)) (n : Nat) :
    (s.setTries qp n).retryOf qp = some (retry, t, n) := by
  cases qp with
  | host i =>
    obtain ⟨q, hq, heq⟩ := Option.map_eq_some_iff.1 hr
    cases heq
    simp only [State.setTries, State.modQp, hq, State.retryOf, State.qp?_setQp, if_true, Option.map_some]
  | store i =>
    obtain ⟨q, hq, heq⟩ := Option.map_eq_some_iff.1 hr
    cases heq
    simp only [State.setTries, hq, State.retryOf, State.modHost, alGet_alSet, if_true, Option.map_some]

theorem State.setTries_qpPort (s : State) (qp : QpRef) (n : Nat) : (s.setTries qp n).qpPort qp = s.qpPort qp := by
  cases qp with
  | host i =>
    cases hq : alGet s.host.qps i.toNat with
    | none => simp [State.setTries, State.modQp, State.qp?, hq]
    | some q => simp [State.setTries, State.modQp, State.setQp, State.qp?, State.qpPort, hq, alGet_alSet]
  | store i =>
    cases hq : alGet s.host.sqps i.toNat with
    | none => simp [State.setTries, hq]
    | some q => simp [State.setTries, State.modHost, State.qpPort, hq, alGet_alSet]

/-! ### Requests sent again -/

/-- A change of the host attachment after one of the host attachment and the job. -/
theorem HostOnly.eq_of_jobChange {s r e : State} (h : HostOnly r e) (hr : r = { s with host := r.host, job := r.job }) :
    e = { s with host := e.host, outbox := e.outbox, heldTx := e.heldTx, job := e.job } := by
  rw [h.job]
  exact Eq.trans h (congrArg (fun r : State => { r with host := e.host, outbox := e.outbox, heldTx := e.heldTx }) hr)

/-- s with every request of the queue pair marked as sent now: what `State.sendAgain` does but for the count and the message. -/
def State.resent (s : State) (qp : QpRef) : State :=
  let t := s.modHost fun x => { x with
    unacked := x.unacked.map fun u => if u.qp = qp then { u with sent := s.now } else u
    reads := x.reads.map fun r => if r.qp = qp then { r with sent := s.now } else r }
  match s.job.recov.ck with
  | none => t
  | some w => if s.carries qp w.place.1 then t.setRecov fun r => { r with ck := some { w with sent := s.now } } else t

theorem State.sendAgain_retries {retry tries : Nat} (s : State) (qp : QpRef) (h : tries < retry) :
    s.sendAgain qp retry tries = ((s.resent qp).setTries qp (tries + 1)).send (.resend qp) := by
  unfold State.sendAgain
  rw [if_neg (Nat.not_le.2 h)]
  rfl

theorem State.sendAgain_exhausted {retry tries : Nat} (s : State) (qp : QpRef) (h : retry ≤ tries) :
    s.sendAgain qp retry tries = s.retryOut qp := if_pos h

theorem State.resent_host (s : State) (qp : QpRef) : (s.resent qp).host = { s.host with
    unacked := s.host.unacked.map fun u => if u.qp = qp then { u with sent := s.aon.counter } else u
    reads := s.host.reads.map fun r => if r.qp = qp then { r with sent := s.aon.counter } else r } := by
  unfold State.resent
  dsimp only
  split
  · rfl
  · split <;> rfl

theorem State.resent_eq (s : State) (qp : QpRef) : s.resent qp = { s with host := (s.resent qp).host, job := (s.resent qp).job } := by
  unfold State.resent
  dsimp only
  split
  · rfl
  · split <;> rfl

theorem State.resent_ck (s : State) (qp : QpRef) : (s.resent qp).job.recov.ck =
    s.job.recov.ck.map fun w => if s.carries qp w.place.1 then { w with sent := s.aon.counter } else w := by
  cases hck : s.job.recov.ck with
  | none => simp [State.resent, hck, State.modHost]
  | some w =>
    by_cases hcarries : s.carries qp w.place.1 = true
    · simp [State.resent, hck, hcarries, State.setRecov, State.now]
    · simp [State.resent, hck, hcarries, State.modHost]

theorem State.resent_retryOf (s : State) (qp ref : QpRef) : (s.resent qp).retryOf ref = s.retryOf ref := by
  cases ref <;> simp [State.retryOf, State.qp?, State.resent_host]

theorem State.resent_qpPort (s : State) (qp ref : QpRef) : (s.resent qp).qpPort ref = s.qpPort ref := by
  cases ref <;> simp [State.qpPort, State.resent_host]

/-- Every request outstanding on the queue pair, a write, a READ or the checkpoint write, has been sent now. -/
theorem State.resent_sentOn {s : State} {qp : QpRef} : ∀ x ∈ (s.resent qp).sentOn qp, x = s.aon.counter := by
  have hcarries (n : Nat) : (s.resent qp).carries qp n = s.carries qp n := by simp [State.carries, State.resent_host]
  intro x hx
  unfold State.sentOn at hx
  simp only [List.mem_append] at hx
  obtain (hwrite | hread) | hck := hx
  · obtain ⟨u, hu, rfl⟩ := List.mem_map.1 hwrite
    rw [State.resent_host] at hu
    simp only [List.mem_filter, List.mem_map, beq_iff_eq] at hu
    obtain ⟨⟨u, -, rfl⟩, hqp⟩ := hu
    split_ifs at hqp ⊢ with h
    · rfl
    · exact absurd hqp h
  · obtain ⟨r, hr, rfl⟩ := List.mem_map.1 hread
    replace hr := List.mem_of_mem_take hr
    rw [State.resent_host] at hr
    simp only [List.mem_filter, List.mem_map, beq_iff_eq] at hr
    obtain ⟨⟨r, -, rfl⟩, hqp⟩ := hr
    split_ifs at hqp ⊢ with h
    · rfl
    · exact absurd hqp h
  · rw [State.resent_ck] at hck
    cases hw : s.job.recov.ck with
    | none => simp [hw] at hck
    | some w =>
      by_cases hc : s.carries qp w.place.1 = true
      · have hplace : CkWrite.place { w with sent := s.aon.counter } = w.place := rfl
        simp only [hw, Option.map_some, if_pos hc, hplace, hcarries] at hck
        split_ifs at hck <;> simp_all
      · simp [hw, hcarries, hc] at hck

/-- The resend request leaves as it would have before the requests were marked and the retry counted. -/
theorem State.sendsAs_resend (s : State) (qp : QpRef) (n : Nat) : SendsAs s ((s.resent qp).setTries qp n) (.resend qp) := by
  obtain ⟨qps, sqps, hhost⟩ := (s.resent qp).setTries_host qp n
  refine ⟨?_, ?_, ?_, ?_, fun p => ?_, fun p => ?_⟩
  · rw [State.setTries_outbox, State.resent_eq]
  · rw [State.setTries_heldTx, State.resent_eq]
  · exact congrArg some ((State.setTries_qpPort _ _ _).trans (s.resent_qpPort qp qp))
  · rw [State.setTries_cfg, State.resent_eq]
  · rw [hhost, State.resent_host]
  · rw [State.setTries_fab, State.resent_eq]

/-- One retry (R414): the request is sent, the retry counted, and nothing outstanding changes but when it was sent. -/
theorem State.sendAgain_spec {s : State} {qp : QpRef} {retry t tries : Nat} (hr : s.retryOf qp = some (retry, t, tries))
    (hlt : tries < retry) : let e := s.sendAgain qp retry tries;
      e = { s with host := e.host, outbox := e.outbox, heldTx := e.heldTx, job := e.job } ∧ Outputs s e [.resend qp] ∧
      e.retryOf qp = some (retry, t, tries + 1) ∧ (∀ x ∈ e.sentOn qp, x = s.aon.counter) ∧
      e.host.unacked.map (fun u => { u with sent := 0 }) = s.host.unacked.map fun u => { u with sent := 0 } := by
  rw [State.sendAgain_retries s qp hlt]
  refine ⟨?_, (s.sendsAs_resend qp _).outputs, ?_, ?_, ?_⟩
  · exact HostOnly.eq_of_jobChange (.trans ((s.resent qp).setTries_only qp _) (State.send_hostOnly _ _)) (s.resent_eq qp)
  · exact State.setTries_retryOf ((s.resent_retryOf qp qp).trans hr) _
  · intro x hx
    replace hx : x ∈ ((s.resent qp).setTries qp (tries + 1)).sentOn qp := hx
    rw [State.setTries_sentOn] at hx
    exact State.resent_sentOn x hx
  · change List.map _ ((s.resent qp).setTries qp (tries + 1)).host.unacked = _
    rw [State.setTries_unacked, State.resent_host, List.map_map]
    refine List.map_congr_left fun u _ => ?_
    by_cases h : u.qp = qp <;> simp [h]

/-! ### The commands -/

/-- The local ACK timeout in counts of 20 ns, rounded up, against its length in nanoseconds (Table 15-2). -/
theorem ackCounts_le_iff (t n : Nat) : ackCounts t ≤ n ↔ 4096 * 2 ^ t ≤ 20 * n := by
  unfold ackCounts ceilDiv
  generalize 2 ^ t = m
  omega

section
variable {s : State} {qp : QpRef} {u : Unacked} (hu : s.host.unacked.find? (fun u => u.qp == qp) = some u)
include hu

theorem exec_rdmaWriteAck_erases : exec (.rdmaWriteAck qp) s =
    .next (((((s.modHost fun x => { x with unacked := x.unacked.erase u }).setTries qp 0).regTry u.region).flushHeld).pump) := by
  change execRdmaWriteAck qp s = _
  simp only [execRdmaWriteAck, hu]

/-- A write that is not acknowledged is outstanding. -/
theorem State.sentOn_isEmpty : (s.sentOn qp).isEmpty = false := by
  have hmem : u ∈ s.host.unacked.filter fun u => u.qp == qp :=
    List.mem_filter.2 ⟨List.mem_of_find?_eq_some hu, List.find?_some (p := fun u : Unacked => u.qp == qp) hu⟩
  have hsent : u.sent ∈ s.sentOn qp := List.mem_append_left _ (List.mem_append_left _ (List.mem_map_of_mem hmem))
  exact List.isEmpty_eq_false_iff.2 (List.ne_nil_of_mem hsent)

theorem exec_roceNakReceived_refused : exec (.roceNakReceived qp false) s =
    .next (((((s.modHost fun x => { x with unacked := x.unacked.erase u }).lose u.what).regTry u.region).flushHeld).pump) := by
  change execRoceNakReceived qp false s = _
  simp [execRoceNakReceived, State.sentOn_isEmpty hu, hu]

theorem exec_roceNakReceived_sequence {retry t tries : Nat} (hr : s.retryOf qp = some (retry, t, tries)) :
    exec (.roceNakReceived qp true) s = .next (s.sendAgain qp retry tries).pump := by
  change execRoceNakReceived qp true s = _
  simp [execRoceNakReceived, State.sentOn_isEmpty hu, hr]

end

section
variable {s : State} {qp : QpRef} {retry t tries : Nat} (hr : s.retryOf qp = some (retry, t, tries))
include hr

theorem exec_localAckTimeout_late (hlate : ∃ x ∈ s.sentOn qp, 4096 * 2 ^ t ≤ 20 * (s.aon.counter - x).toNat) :
    exec (.localAckTimeout qp) s = .next (s.sendAgain qp retry tries).pump := by
  change execLocalAckTimeout qp s = _
  have hany : ((s.sentOn qp).any fun x => s.elapsed x (ackCounts t)) = true := by
    simpa [State.elapsed, ackCounts_le_iff] using hlate
  simp only [execLocalAckTimeout, hr, hany, if_true]

theorem exec_localAckTimeout_early (hearly : ¬ ∃ x ∈ s.sentOn qp, 4096 * 2 ^ t ≤ 20 * (s.aon.counter - x).toNat) :
    exec (.localAckTimeout qp) s = .next s := by
  change execLocalAckTimeout qp s = _
  have hany : ((s.sentOn qp).any fun x => s.elapsed x (ackCounts t)) = false := by
    simpa [State.elapsed, ackCounts_le_iff] using hearly
  simp only [execLocalAckTimeout, hr, hany, Bool.false_eq_true, if_false]

end

/-! ### The statement -/

/-- Settles O43: an acknowledgement and a refusal by the write they end (the oldest, for a refusal by log entry 62), a retry by
`State.sendAgain_spec`, and a retry run out by `State.qpError_of_ready`. -/
theorem acknowledgementsReleaseWrites : Obligations.AcknowledgementsReleaseWrites := by
  unfold Obligations.AcknowledgementsReleaseWrites
  intro s qp u hu
  refine ⟨⟨_, exec_rdmaWriteAck_erases hu, ?_, ?_, ?_, fun n t k hr => ?_⟩, fun retry t tries hr => ?_,
    ⟨_, exec_roceNakReceived_refused hu, ?_, ?_, ?_, fun hwhat => ?_, fun hwhat => ?_⟩⟩
  · exact HostOnly.trans (State.modHost_only s _) (State.setTries_only _ qp 0)
  · exact outputs_nil (State.setTries_outbox _ _ _) (State.setTries_heldTx _ _ _)
  · exact State.setTries_unacked _ _ _
  · exact State.setTries_retryOf (by cases qp <;> exact hr) 0
  · intro late again out
    have hagain {i : Instr} (hi : exec i s = .next (s.sendAgain qp retry tries).pump) (hlt : tries < retry) : again i :=
      ⟨_, hi, State.sendAgain_spec hr hlt⟩
    have hout {i : Instr} (hi : exec i s = .next (s.sendAgain qp retry tries).pump) (hle : retry ≤ tries) : out i := by
      rw [State.sendAgain_exhausted s qp hle] at hi
      cases qp with
      | host k => exact ⟨_, hi, fun q hq hready => State.qpError_of_ready hq hready⟩
      | store k => exact hi
    have hnak := exec_roceNakReceived_sequence hu hr
    exact ⟨fun hlate => hagain (exec_localAckTimeout_late hr hlate), hagain hnak,
      fun hlate => hout (exec_localAckTimeout_late hr hlate), hout hnak, exec_localAckTimeout_early hr⟩
  · exact State.lose_only _ _
  · exact outputs_nil (State.lose_outbox _ _) (State.lose_heldTx _ _)
  · exact State.lose_unacked _ _
  · rw [hwhat]; rfl
  · rw [hwhat]; rfl

end Sys2Proof.Machine

/-! ## Resets of the module (R482, R489, R490, R495 to R498, R537)

O54. A cold reset and a module reset both end in `State.cleared`, so what both leave is proved once, as `ResetFrom`. A command that
changes readings or the host's queue pairs first leaves what a reset carries over (`SameAtReset`). That the queue of records is among
what is cleared is log entry 59. -/

namespace Sys2Proof.Machine

open Claim

/-! ### The Scoresheet at a reset -/

/-- A page being programmed when the module resets ends in the flash and takes at most a free value: nothing else changes. -/
theorem State.flashStop_eq (s : State) (lost : Bool) : ∃ n sc, s.flashStop lost = { s with fresh := n, score := sc } := by
  unfold State.flashStop
  split
  · exact ⟨s.fresh, s.score, rfl⟩
  · split
    · exact ⟨s.fresh, s.score, rfl⟩
    · dsimp only [State.setFlash]
      split <;> exact ⟨_, _, rfl⟩

theorem State.flashStop_idle {s : State} (h : s.score.cur = none) (lost : Bool) : s.flashStop lost = s := by
  unfold State.flashStop
  rw [h]

@[simp] theorem State.flashStop_aon (s : State) (lost : Bool) : (s.flashStop lost).aon = s.aon := by
  obtain ⟨n, sc, h⟩ := s.flashStop_eq lost
  rw [h]

@[simp] theorem State.flashStop_outbox (s : State) (lost : Bool) : (s.flashStop lost).outbox = s.outbox := by
  obtain ⟨n, sc, h⟩ := s.flashStop_eq lost
  rw [h]

@[simp] theorem State.flashStop_pending (s : State) (lost : Bool) : (s.flashStop lost).pending = s.pending := by
  obtain ⟨n, sc, h⟩ := s.flashStop_eq lost
  rw [h]

/-! ### What every reset leaves -/

/-- t is what a reset leaves of s, whatever its cause and the boot step it begins with. -/
structure ResetFrom (s t : State) : Prop where
  job : t.job = Job.cleared
  stat : t.stat = Stat.reset
  host : t.host = HostSt.reset
  fab : t.fab = Fab.reset
  att : t.att = Att.reset
  cfg : t.cfg = { Cfg.reset with kcfg := parityG t.aon.latch }
  tret : t.hl.tret = 0
  failed : t.hl.failed = false
  pending : t.pending = s.pending
  outbox : t.outbox = s.outbox
  heldTx : t.heldTx = []
  cur : t.score.cur = none
  queue : t.score.queue = []
  contacts : t.aon.contacts = s.aon.contacts
  ready : t.aon.ready = false
  flash : s.score.cur = none → t.score.f0 = s.score.f0 ∧ t.score.f1 = s.score.f1

theorem ResetFrom.resets {i : Instr} {s t : State} {cause step : Nat} {fin : State → State} {P : State → Prop} (h : ResetFrom s t)
    (hexec : exec i s = .next (fin t)) (hcause : t.aon.rstCause = cause) (hstep : t.aon.bootStep = step) (hP : P t) :
    Resets i s cause step fin P :=
  ⟨t, hexec, h.job, h.stat, h.host, h.fab, h.att, h.cfg, h.tret, h.failed, h.pending, h.outbox, h.heldTx, h.cur, h.queue, h.contacts,
    h.ready, hcause, hstep, h.flash, hP⟩

/-- u has what a reset carries over from s. -/
structure SameAtReset (s u : State) : Prop where
  pending : u.pending = s.pending
  outbox : u.outbox = s.outbox
  score : u.score = s.score
  contacts : u.aon.contacts = s.aon.contacts

theorem ResetFrom.of_same {s u t : State} (h : ResetFrom u t) (hu : SameAtReset s u) : ResetFrom s t :=
  { h with
    pending := h.pending.trans hu.pending
    outbox := h.outbox.trans hu.outbox
    contacts := h.contacts.trans hu.contacts
    flash := hu.score ▸ h.flash }

theorem State.newVin_same (s : State) : SameAtReset s s.newVin := ⟨rfl, rfl, rfl, rfl⟩
theorem State.newTemps_same (s : State) : SameAtReset s s.newTemps := ⟨rfl, rfl, rfl, rfl⟩

/-- Clearing after the flash has stopped is a reset, if H-AON keeps the contacts and is not READY. -/
theorem State.cleared_resetFrom {s : State} {aon : Aon} (lost : Bool) (hcontacts : aon.contacts = s.aon.contacts)
    (hready : aon.ready = false) : ResetFrom s ((s.flashStop lost).cleared aon) where
  job := rfl
  stat := rfl
  host := rfl
  fab := rfl
  att := rfl
  cfg := rfl
  tret := rfl
  failed := rfl
  pending := s.flashStop_pending lost
  outbox := s.flashStop_outbox lost
  heldTx := rfl
  cur := rfl
  queue := rfl
  contacts := hcontacts
  ready := hready
  flash hcur := by rw [State.flashStop_idle hcur]; exact ⟨rfl, rfl⟩

/-! ### Cold reset -/

/-- H-AON after a cold reset (Table 18-4), before what its event sets or holds. -/
def Aon.cold (a : Aon) (cause step : Nat) : Aon :=
  { Aon.reset with
    contacts := a.contacts
    vin := a.vin
    pin := a.pin
    temps := a.temps
    tempHub := a.tempHub
    tempDram := a.tempDram
    rstCause := cause
    bootStep := step
    refOk := a.refOk
    holdOv := a.holdOv
    holdOt := a.holdOt
    holdRst := a.holdRst }

theorem State.coldReset_aon (s : State) (cause step : Nat) (f : Aon → Aon) :
    (s.coldReset cause step f).aon = f (s.aon.cold cause step) :=
  congrArg (fun a : Aon => f (a.cold cause step)) (s.flashStop_aon true)

/-- f leaves what a reset has set of H-AON. -/
structure LeavesBoot (f : Aon → Aon) : Prop where
  contacts : ∀ a, (f a).contacts = a.contacts
  ready : ∀ a, (f a).ready = a.ready
  rstCause : ∀ a, (f a).rstCause = a.rstCause
  bootStep : ∀ a, (f a).bootStep = a.bootStep

theorem LeavesBoot.id : LeavesBoot id := ⟨fun _ => rfl, fun _ => rfl, fun _ => rfl, fun _ => rfl⟩

theorem State.coldReset_resetFrom (s : State) (cause step : Nat) {f : Aon → Aon} (hf : LeavesBoot f) :
    ResetFrom s (s.coldReset cause step f) := by
  have hcontacts : (f ((s.flashStop true).aon.cold cause step)).contacts = s.aon.contacts := by
    rw [hf.contacts, State.flashStop_aon]; rfl
  -- the reset moves the domains' faults out of the escalation window besides, which `ResetFrom` does not speak of
  have h : ResetFrom s ((s.flashStop true).cleared (f ((s.flashStop true).aon.cold cause step))) :=
    State.cleared_resetFrom true hcontacts (hf.ready _)
  exact { h with }

/-- A command that resets the module cold from u, which is s but for readings. -/
theorem resets_of_coldReset {i : Instr} {s u : State} {cause step : Nat} {f : Aon → Aon} {P : State → Prop}
    (hexec : exec i s = .next (u.coldReset cause step f)) (hu : SameAtReset s u) (hf : LeavesBoot f)
    (hP : P (u.coldReset cause step f)) : Resets i s cause step id P :=
  ((u.coldReset_resetFrom cause step hf).of_same hu).resets hexec
    (by rw [State.coldReset_aon, hf.rstCause]; rfl) (by rw [State.coldReset_aon, hf.bootStep]; rfl) hP

/-! ### Module reset -/

theorem State.moduleReset_resetFrom (s : State) (cause : Nat) : ResetFrom s (s.moduleReset cause) :=
  State.cleared_resetFrom false (congrArg Aon.contacts (s.flashStop_aon false) :) rfl

@[simp] theorem State.moduleReset_counter (s : State) (cause : Nat) : (s.moduleReset cause).aon.counter = s.aon.counter :=
  (congrArg Aon.counter (s.flashStop_aon false) :)

@[simp] theorem State.moduleReset_latch (s : State) (cause : Nat) : (s.moduleReset cause).aon.latch = s.aon.latch :=
  (congrArg Aon.latch (s.flashStop_aon false) :)

@[simp] theorem State.moduleReset_holdRst (s : State) (cause : Nat) : (s.moduleReset cause).aon.holdRst = s.aon.holdRst :=
  (congrArg Aon.holdRst (s.flashStop_aon false) :)

/-- A reset leaves no queue pair. -/
theorem State.moduleReset_qpReady (s : State) (cause i : Nat) : (s.moduleReset cause).qpReady i = false := rfl

/-- PWR.MRESET takes only its key (R498). -/
theorem State.writeReg_mreset (s : State) (v : Word) :
    s.writeReg 0x201C v = if v.toNat % 65536 = 0xA55A then s.moduleReset 6 else s := by
  simp [State.writeReg, State.writePWR]

/-! ### Commands -/

section
variable {s : State}

theorem State.powered_of_le (h : 3 ≤ s.aon.bootStep) : s.powered = true := decide_eq_true h

theorem exec_resetLevel_powered (h : s.powered = true) : exec .resetLevel s = .next (s.newVin.coldReset 1 0 id) := by
  simp [exec, execResetLevel, h]

theorem exec_overvoltage_resets {mv : Nat} (h : s.powered = true) (hlo : 58000 < mv) (hhi : mv ≤ 65000) :
    exec (.overvoltage mv) s =
      .next (({ s with aon := { s.aon with vin := BitVec.ofNat 16 mv } }).coldReset 2 1 fun a => { a with holdOv := true }) := by
  simp [exec, execOvervoltage, busMax, h, hlo.not_ge, hhi.not_gt]

theorem exec_overvoltage_beyond {mv : Nat} (h : s.powered = true) (hmv : 65000 < mv) :
    exec (.overvoltage mv) s = .fault .beyondRatings := by
  have hlo : ¬ mv ≤ 58000 := by omega
  simp [exec, execOvervoltage, busMax, h, hlo, hmv]

theorem exec_overtemperature_powered (h : s.powered = true) :
    exec .overtemperature s = .next (s.newTemps.coldReset 3 1 fun a => { a with holdOt := true }) := by
  simp [exec, execOvertemperature, h]

theorem exec_aonOscillatorStop_powered (h : s.powered = true) :
    exec .aonOscillatorStop s = .next (s.coldReset 4 1 fun a => { a with oscOn := false }) := by
  simp [exec, execAonOscillatorStop, h]

/-- Domain 67 is H-AON (Table 01-8). -/
theorem exec_domainFault_aon (h : s.powered = true) (lostLock : Bool) :
    exec (.domainFault 67 lostLock) s = .next (s.coldReset 4 1 id) := by
  simp [exec, execDomainFault, h]

theorem exec_resetNAssert_powered (h : s.powered = true) :
    exec .resetNAssert s = .next (({ s with aon := { s.aon with holdRst := true } } : State).moduleReset 5) := by
  have hheld : ({ s with aon := { s.aon with holdRst := true } } : State).powered = true := h
  simp [exec, execResetNAssert, hheld]

theorem exec_powerOn_beyond {mv : Nat} (h : s.aon.bootStep = 0) (hmv : 65000 < mv) :
    exec (.powerOn mv) s = .fault .beyondRatings := by
  have hlo : ¬ mv ≤ 46000 := by omega
  simp [exec, execPowerOn, busMax, h, hlo, hmv]

/-- A packet of a queue pair in READY arrives; at most the host's tables change. -/
theorem State.arrive_ready {qp : BitVec 12} {q : Qp} (hq : s.qp? qp.toNat = some q) (hst : q.st = .ready) :
    ∃ u, s.arrive qp = some (q, u) ∧ SameAtReset s u ∧ u.aon = s.aon ∧ u.qpReady qp.toNat = true := by
  have htouch : s.touch qp.toNat = s.setQp qp.toNat q := by simp [State.touch, State.modQp, hq, hst]
  have hfind : (s.setQp qp.toNat q).qp? qp.toNat = some q := by simp [State.qp?_setQp]
  refine ⟨s.setQp qp.toNat q, ?_, ⟨rfl, rfl, rfl, rfl⟩, rfl, ?_⟩
  · simp [State.arrive, htouch, hfind, hst]
  · simp [State.qpReady, hfind, hst]

/-- Whole words written over a queue pair of role 2 are written in turn, and acknowledged if it is still there. -/
theorem State.winWrite_ready {u : State} {qp : BitVec 12} {q : Qp} {off : Nat} {data : List Byte} (harrive : s.arrive qp = some (q, u))
    (hrole : q.role = 2) (hoff : off % 4 = 0) (hlen : data.length % 4 = 0) (hend : off + data.length ≤ 2 ^ 24) :
    s.winWrite qp off data = ((u.writeWords qp.toNat off (wordsOf (data.length / 4) data)).ackIf qp).pump := by
  unfold State.winWrite
  rw [harrive]
  dsimp only
  rw [if_neg]
  simpa [hrole, hoff, hlen] using hend

/-- The key written over a queue pair of role 2: the reset ends the queue pair, so the write is not acknowledged (R498). -/
theorem exec_mresetWrite_ready {qp : BitVec 12} {q : Qp} (hq : s.qp? qp.toNat = some q) (hst : q.st = .ready) (hrole : q.role = 2) :
    ∃ u, exec (.mresetWrite qp) s = .next (u.moduleReset 6).pump ∧ SameAtReset s u ∧ u.aon = s.aon := by
  obtain ⟨u, harrive, hsame, haon, hready⟩ := State.arrive_ready hq hst
  have hwords : u.writeWords qp.toNat 0x201C [(0xA55A : Word)] = u.moduleReset 6 := by
    simp [State.writeWords, hready, State.writeReg_mreset]
  have hack : (u.moduleReset 6).ackIf qp = u.moduleReset 6 := by simp [State.ackIf, State.moduleReset_qpReady]
  have hdata : wordsOf 1 (leBytes (0xA55A : Word).toNat 4) = [0xA55A] := by decide
  have hwrite : s.regWrite1 qp 0x201C 0xA55A =
      ((u.writeWords qp.toNat 0x201C (wordsOf 1 (leBytes (0xA55A : Word).toNat 4))).ackIf qp).pump :=
    State.winWrite_ready harrive hrole (by decide) rfl (by decide)
  rw [hdata, hwords, hack] at hwrite
  exact ⟨u, congrArg Host.Outcome.next hwrite, hsame, haon⟩

end

/-- Settles O54: five commands reset the module cold (`resets_of_coldReset`), two by a module reset, which keeps the counter and the
straps latched; in both the queued records are lost as log entry 59 says. -/
theorem resetsClearTheModule : Obligations.ResetsClearTheModule := by
  unfold Obligations.ResetsClearTheModule
  intro s
  refine ⟨fun hboot => ?_, fun qp q hq hst hrole => ?_, fun v hv => ?_, fun hboot mv hmv => exec_powerOn_beyond hboot hmv⟩
  · have hp := State.powered_of_le hboot
    have hsame : SameAtReset s s := ⟨rfl, rfl, rfl, rfl⟩
    refine ⟨resets_of_coldReset (exec_resetLevel_powered hp) s.newVin_same .id trivial, fun mv hlo hhi => ?_,
      fun mv hmv => exec_overvoltage_beyond hp hmv, ?_, ?_,
      fun lostLock => resets_of_coldReset (exec_domainFault_aon hp lostLock) hsame .id trivial, ?_⟩
    · refine resets_of_coldReset (exec_overvoltage_resets hp hlo hhi) ⟨rfl, rfl, rfl, rfl⟩
        ⟨fun _ => rfl, fun _ => rfl, fun _ => rfl, fun _ => rfl⟩ ?_
      rw [State.coldReset_aon]
      exact ⟨rfl, Nat.mod_eq_of_lt (by omega)⟩
    · refine resets_of_coldReset (exec_overtemperature_powered hp) s.newTemps_same
        ⟨fun _ => rfl, fun _ => rfl, fun _ => rfl, fun _ => rfl⟩ ?_
      rw [State.coldReset_aon]
    · refine resets_of_coldReset (exec_aonOscillatorStop_powered hp) hsame
        ⟨fun _ => rfl, fun _ => rfl, fun _ => rfl, fun _ => rfl⟩ ?_
      rw [State.coldReset_aon]
    · have hheld : SameAtReset s { s with aon := { s.aon with holdRst := true } } := ⟨rfl, rfl, rfl, rfl⟩
      exact ((State.moduleReset_resetFrom _ 5).of_same hheld).resets (exec_resetNAssert_powered hp) rfl rfl
        ⟨State.moduleReset_holdRst _ 5, State.moduleReset_counter _ 5, State.moduleReset_latch _ 5⟩
  · obtain ⟨u, hexec, hsame, haon⟩ := exec_mresetWrite_ready hq hst hrole
    exact ((u.moduleReset_resetFrom 6).of_same hsame).resets hexec rfl rfl
      ⟨haon ▸ u.moduleReset_counter 6, haon ▸ u.moduleReset_latch 6⟩
  · rw [State.writeReg_mreset, if_neg hv]

end Sys2Proof.Machine

/-! ## One step (R35)

O57: the two cases of the queue, and the count with the oscillator running or stopped. -/

namespace Sys2Proof.Machine

theorem step_pending_cons (s : State) (c : Instr) (rest : List Instr) :
    step { s with pending := c :: rest } = exec c { s with pending := rest } := rfl

theorem step_pending_nil (s : State) : step { s with pending := [] } = .next { s with pending := [] }.tick := rfl

theorem State.tick_counter {s : State} (h : s.aon.oscOn = true) : s.tick.aon.counter = s.aon.counter + 1 := by
  simp [State.tick, h]

theorem State.tick_of_stopped {s : State} (h : s.aon.oscOn = false) : s.tick = s := by
  simp [State.tick, h]

/-- Settles O57, by the two cases of the queue and the two of the oscillator; that an empty queue counts is log entry 2. -/
theorem stepRunsFrontCommand : Obligations.StepRunsFrontCommand := by
  unfold Obligations.StepRunsFrontCommand
  exact fun s => ⟨step_pending_cons s, step_pending_nil s, State.tick_counter, State.tick_of_stopped⟩

end Sys2Proof.Machine

/-! ## The leaf reservation (R520 to R526)

O60 in three parts: what the attestation unit's own operations do to the counter and its limit (only `State.attSign` moves the
counter, and only below the limit), the register writes and resets that reach the unit, and the other commands, which leave it alone
because the operations they are made of do (Laws/Kept). -/

namespace Sys2Proof.Machine

open Claim

/-! ### The attestation unit through the shared operations -/

/-- The attestation unit is the last part of what `State.kept` speaks of, so that the lemmas about `kept` carry over to it. -/
theorem State.att_eq_kept (s : State) : s.att = s.kept.2.2 := rfl

@[simp] theorem State.readWord_kept (s : State) (i off : Nat) : (s.readWord i off).2.kept = s.kept := by
  unfold State.readWord
  repeat' split
  all_goals simp

@[simp] theorem State.readWords_kept (s : State) (i off n : Nat) : (s.readWords i off n).2.kept = s.kept := by
  induction n generalizing s off with
  | zero => rfl
  | succ n ih => exact (ih _ _).trans (s.readWord_kept i off)

theorem State.arrive_kept {s u : State} {qp : BitVec 12} {q : Qp} (h : s.arrive qp = some (q, u)) : u.kept = s.kept := by
  have hu : s.touch qp.toNat = u := by
    unfold State.arrive at h
    grind
  exact hu ▸ State.touch_kept _ _

@[simp] theorem State.ackIf_kept (s : State) (qp : BitVec 12) : (s.ackIf qp).kept = s.kept := by
  unfold State.ackIf
  split <;> simp

@[simp] theorem State.winRead_kept (s : State) (qp : BitVec 12) (off len : Nat) : (s.winRead qp off len).kept = s.kept := by
  unfold State.winRead
  split
  · simp
  next q u h =>
    split <;> simp [State.arrive_kept h]

@[simp] theorem State.retryOut_kept (s : State) (qp : QpRef) : (s.retryOut qp).kept = s.kept := by
  cases qp <;> simp [State.retryOut]

@[simp] theorem State.sendAgain_kept (s : State) (qp : QpRef) (retry tries : Nat) : (s.sendAgain qp retry tries).kept = s.kept := by
  rcases le_or_gt retry tries with h | h
  · simp [State.sendAgain_exhausted s qp h]
  · have hr : (s.resent qp).kept = s.kept := by rw [State.resent_eq]; rfl
    simp [State.sendAgain_retries s qp h, hr]

@[simp] theorem State.smbAnswer_kept (s : State) (code : Byte) (w : BitVec 16) : (s.smbAnswer code w).kept = s.kept := by
  unfold State.smbAnswer
  split <;> simp

@[simp] theorem State.jtagLoad_kept (s : State) (i : Tap) : (s.jtagLoad i).kept = s.kept := by
  unfold State.jtagLoad
  split <;> simp

@[simp] theorem State.attReport_kept (s : State) : s.attReport.2.kept = s.kept := s.repairHash_kept

/-! ### Operations that leave the reservation as it is -/

/-- The bound of the limit is the number of leaves (R520). -/
theorem leavesReserved_iff (s : State) : LeavesReserved s ↔ s.att.next ≤ s.att.limit ∧ s.att.limit ≤ leafEnd := Iff.rfl

theorem leavesReserved_of_counters {s t : State} (hn : t.att.next = s.att.next) (hl : t.att.limit = s.att.limit)
    (h : LeavesReserved s) : LeavesReserved t := by
  unfold LeavesReserved
  rwa [hn, hl]

theorem leavesReserved_of_att {s t : State} (ha : t.att = s.att) : LeavesReserved s → LeavesReserved t :=
  leavesReserved_of_counters (ha ▸ rfl) (ha ▸ rfl)

theorem leavesReserved_of_kept {s t : State} (hk : t.kept = s.kept) : LeavesReserved s → LeavesReserved t :=
  leavesReserved_of_att (congrArg (fun k => k.2.2) hk)

/-- A reset empties the counter; boot reads it again (R522). -/
theorem leavesReserved_of_reset {t : State} (ha : t.att = Att.reset) : LeavesReserved t := by
  simp [LeavesReserved, ha, Att.reset]

theorem State.coldReset_leaves (s : State) (cause step : Nat) (f : Aon → Aon) : LeavesReserved (s.coldReset cause step f) :=
  leavesReserved_of_reset rfl

theorem State.moduleReset_leaves (s : State) (cause : Nat) : LeavesReserved (s.moduleReset cause) :=
  leavesReserved_of_reset rfl

theorem State.attDone_leaves {s : State} (st : Byte) : LeavesReserved s → LeavesReserved (s.attDone st) :=
  leavesReserved_of_counters rfl rfl

/-! ### Signing -/

/-- O60 turns on this: a leaf is spent only below the limit (R521), the guard under which `State.attStep` signs. -/
theorem State.attSign_leaves {s : State} (q : AttReq) (hlt : s.att.next < s.att.limit) (h : LeavesReserved s) :
    LeavesReserved (s.attSign q) :=
  ⟨hlt, h.2⟩

theorem State.attStep_leaves {s : State} (h : LeavesReserved s) : LeavesReserved s.attStep := by
  unfold State.attStep
  split
  · exact h
  split
  · exact h
  split
  · exact State.attDone_leaves _ h
  split
  · split
    · exact h
    · exact leavesReserved_of_kept (State.requestRec_kept _ _ _) (leavesReserved_of_counters rfl rfl h)
  next hlt =>
    split
    · exact leavesReserved_of_counters rfl rfl h
    · exact State.attSign_leaves _ (not_le.mp hlt) h

theorem State.attGo_leaves {s : State} (region : Nat) (h : LeavesReserved s) : LeavesReserved (s.attGo region) := by
  unfold State.attGo
  split
  · exact leavesReserved_of_counters rfl rfl h
  · have hr : LeavesReserved s.attReport.2 := leavesReserved_of_kept s.attReport_kept h
    exact State.attStep_leaves (leavesReserved_of_counters (s := s.attReport.2) rfl rfl hr)

/-- A reservation that has been read back raises the limit (R521), never past the number of leaves. -/
theorem State.setLimit_leaves {s : State} (n : Nat) (h : LeavesReserved s) :
    LeavesReserved (s.setAtt { s.att with limit := max s.att.limit (min n leafEnd) }) := by
  obtain ⟨hnext, hlimit⟩ := (leavesReserved_iff s).1 h
  have hle : max s.att.limit (min n leafEnd) ≤ leafEnd := max_le hlimit (min_le_right n leafEnd)
  exact ⟨hnext.trans (le_max_left _ _), hle⟩

theorem State.recWritten_leaves {s : State} (q : WReq) (h : LeavesReserved s) : LeavesReserved (s.recWritten q) := by
  unfold State.recWritten
  split
  · exact State.attStep_leaves (State.setLimit_leaves _ h)
  · repeat' split
    all_goals exact h

/-! ### Register writes -/

@[simp] theorem State.rlWrite_att (s : State) (f : Cfg → Cfg) : (s.rlWrite f).att = s.att := by
  unfold State.rlWrite
  split <;> rfl

@[simp] theorem State.writeTail_kept (s : State) (q : Fin 128) (v : Word) : (s.writeTail q v).kept = s.kept := by
  unfold State.writeTail execSqtailWrite
  dsimp only
  split_ifs <;> simp

/-! #### Blocks of the window that write nothing of the attestation unit -/

theorem State.writeHEALTH_att (s : State) (o : Nat) (v : Word) : (s.writeHEALTH o v).att = s.att := by
  unfold State.writeHEALTH State.modStat
  repeat' split
  all_goals simp

theorem State.writeSEAL_att (s : State) (o : Nat) (v : Word) : (s.writeSEAL o v).att = s.att := by
  unfold State.writeSEAL State.modStat
  repeat' split
  all_goals simp

theorem State.writeMEMBER_att (s : State) (o : Nat) (v : Word) : (s.writeMEMBER o v).att = s.att := by
  unfold State.writeMEMBER
  repeat' split
  all_goals simp

theorem State.writeHOSTPORT_att (s : State) (o : Nat) (v : Word) : (s.writeHOSTPORT o v).att = s.att := by
  unfold State.writeHOSTPORT
  dsimp only
  repeat' split
  all_goals simp

theorem State.writePEERPORT_att (s : State) (o : Nat) (v : Word) : (s.writePEERPORT o v).att = s.att := by
  unfold State.writePEERPORT
  repeat' split
  all_goals simp

theorem State.writeSCORE_att (s : State) (o : Nat) (v : Word) : (s.writeSCORE o v).att = s.att := by
  have hload (u : State) (r k : Nat) : (u.loadGo r k).att = u.att := by simp [State.att_eq_kept]
  unfold State.writeSCORE State.writeLoad
  dsimp only
  repeat' split
  all_goals simp [hload]

theorem State.writeSCHED_att (s : State) (o : Nat) (v : Word) : (s.writeSCHED o v).att = s.att := by
  unfold State.writeSCHED State.writeShare State.modStat
  dsimp only
  repeat' split
  all_goals rfl

theorem State.writeSERVE_att (s : State) (o : Nat) (v : Word) : (s.writeSERVE o v).att = s.att := by
  have htail (q : Fin 128) : (s.writeTail q v).att = s.att := by simp [State.att_eq_kept]
  unfold State.writeSERVE State.modStat
  repeat' split
  all_goals simp [htail]

theorem State.writeDEALER_att (s : State) (o : Nat) (v : Word) : (s.writeDEALER o v).att = s.att := by
  unfold State.writeDEALER State.modStat
  split <;> rfl

/-! #### PWR, whose MRESET resets the module, and ATTEST -/

theorem State.writePWR_leaves {s : State} (o : Nat) (v : Word) (h : LeavesReserved s) : LeavesReserved (s.writePWR o v) := by
  unfold State.writePWR
  split
  · exact leavesReserved_of_att rfl h
  split
  · exact leavesReserved_of_att rfl h
  split
  · split
    · exact State.moduleReset_leaves s 6
    · exact h
  · exact h

theorem State.writeATTEST_leaves {s : State} (o : Nat) (v : Word) (h : LeavesReserved s) : LeavesReserved (s.writeATTEST o v) := by
  unfold State.writeATTEST State.writeAttCtl
  dsimp only
  split
  · split
    · exact State.attGo_leaves _ h
    · exact h
  · repeat' split
    all_goals exact h

theorem State.writeReg_leaves {s : State} (off : Nat) (v : Word) (h : LeavesReserved s) : LeavesReserved (s.writeReg off v) := by
  unfold State.writeReg
  dsimp only
  split
  · exact h
  split
  · exact State.writePWR_leaves _ _ h
  · exact leavesReserved_of_att (State.writeHEALTH_att _ _ _) h
  · exact leavesReserved_of_att (State.writeSEAL_att _ _ _) h
  · exact leavesReserved_of_att (State.writeMEMBER_att _ _ _) h
  · exact leavesReserved_of_att (State.writeHOSTPORT_att _ _ _) h
  · exact leavesReserved_of_att (State.writePEERPORT_att _ _ _) h
  · exact leavesReserved_of_att (State.writeSCORE_att _ _ _) h
  · exact State.writeATTEST_leaves _ _ h
  · exact leavesReserved_of_att (State.writeSCHED_att _ _ _) h
  · exact leavesReserved_of_att (State.writeSERVE_att _ _ _) h
  · exact leavesReserved_of_att (State.writeDEALER_att _ _ _) h
  · exact h

theorem State.writeWords_leaves {s : State} (i off : Nat) (ws : List Word) (h : LeavesReserved s) :
    LeavesReserved (s.writeWords i off ws) := by
  induction ws generalizing s off with
  | nil => exact h
  | cons w ws ih =>
    unfold State.writeWords
    split
    · exact ih _ (State.writeReg_leaves _ _ h)
    · exact h

theorem State.winWrite_leaves {s : State} (qp : BitVec 12) (off : Nat) (data : List Byte) (h : LeavesReserved s) :
    LeavesReserved (s.winWrite qp off data) := by
  unfold State.winWrite
  split
  · exact leavesReserved_of_kept (State.send_kept _ _) h
  next q u hu =>
    have hleaves : LeavesReserved u := leavesReserved_of_kept (State.arrive_kept hu) h
    split
    · exact leavesReserved_of_kept (State.send_kept _ _) hleaves
    · have hwords := State.writeWords_leaves qp.toNat off (wordsOf (data.length / 4) data) hleaves
      exact leavesReserved_of_kept (by simp) hwords

/-! ### Commands that leave the attestation unit alone -/

/-- Whatever o answers has the attestation unit as s has it. -/
def LeavesAtt (s : State) (o : Host.Outcome State Fault Refusal) : Prop := ∀ t, o = .next t → t.att = s.att

@[simp] theorem leavesAtt_next (s t : State) : LeavesAtt s (.next t) ↔ t.att = s.att :=
  ⟨fun h => h t rfl, fun h _ ht => by cases ht; exact h⟩

@[simp] theorem leavesAtt_fault (s : State) (r : Fault) : LeavesAtt s (.fault r) := fun _ h => nomatch h

section
variable {s : State} {c : CtxId} {g : Guard} {word : Dword} {legal : Bool} {uses : List SReg} {body : State → Ctx → State}

theorem seatRun_leavesAtt (hb : ∀ u x, (body u x).kept = u.kept) : LeavesAtt s (seatRun s c g word legal uses body) := by
  unfold seatRun
  dsimp only
  repeat' split
  all_goals simp [State.att_eq_kept, hb]

theorem seatTake_leavesAtt (hb : ∀ u x, (body u x).kept = u.kept) : LeavesAtt s (seatTake s c g word legal uses body) := by
  unfold seatTake
  dsimp only
  repeat' split
  all_goals simp [State.att_eq_kept, hb]

theorem engineRun_leavesAtt {k : EngKind} {f : Fin3} {early : Job → Ctx → List Nat} {issue : State → Ctx → Issue} :
    LeavesAtt s (engineRun s c g word legal uses k f early issue) := by
  refine seatTake_leavesAtt fun u x => ?_
  dsimp only
  repeat' split
  all_goals simp

end

/-- The parts the commands fall into, after the files of Sys2Proof/Machine that give them their meanings: instruction words, what the
engines and stalled seats wait for, tricks and what they commit, host commands, the host's transport, links, the Talon, views, and the
rest of the board. The last part is that of the commands that may write the attestation unit. -/
inductive Part where
  | word | engine | trick | host | transport | peer | health | member | board | att

/-- The part of a command; an instruction word is what the other parts do not name. -/
def partOf : Instr → Part
  | .exitComplete .. | .waitSatisfied .. | .fenceDrained .. | .stalledTbeginResume .. | .sealedQueryResume ..
  | .engineWorkGrant .. | .outputTileDrain .. | .epilogue .. | .accumulatorSlotReload .. | .spotDuplicateCompare ..
  | .thirdCopyVerdict .. | .instructionComplete .. | .potReservationGrant | .roomRequestGrant | .roomRequestFail
  | .stashSpillComplete .. | .stashFillComplete .. | .relocationComplete .. | .hostStagingGrant => .engine
  | .seatError .. | .moduleVoteOk .. | .sealVoteReceived .. | .sealDecisionReceived .. | .swapOutComplete ..
  | .swapInComplete .. | .schedStuckTimeout | .sqtailWrite .. | .submitEntryTaken .. | .cancelEntryTaken .. | .planFreeze
  | .requestDeadlineExpiry .. | .dataFrameReceived .. | .stateFrameReceived .. | .refreshDoneReceived ..
  | .refreshCommitReceived .. | .shadowCopyComplete | .checkpointWriteAck | .substituteRebuildComplete | .streamStripeRepair ..
  | .seatCorrectedError .. => .trick
  | .admitJob .. | .admissionImageReceived .. | .endJob .. | .jobEndDrained | .wipeComplete | .resume .. | .own .. | .create ..
  | .kill .. | .inpub .. | .cqbind .. | .sqbind .. | .joinview .. | .override .. | .viewchg .. | .ckptcfg .. | .ckptnow ..
  | .restore .. | .viewRecordReceived .. | .restoreRecordReceived .. => .host
  | .regreg .. | .regdel .. | .cmReq .. | .cmRtu .. | .cmDreq .. | .cmDrep .. | .connectingTimeout .. | .qpErrorTimeout ..
  | .qpRetryExhausted .. | .controlSendReceived .. | .rdmaWriteAck .. | .cePacketReceived .. | .cnpReceived ..
  | .rateIncreaseTimer .. | .storeConnectReply .. | .storeConnectTimeout .. | .storeReconnectTimer .. | .arpFrameReceived ..
  | .icmpEchoReceived .. | .pfcFrameReceived .. | .unsupportedHostFrame .. | .refusedRocePacket .. | .localAckTimeout ..
  | .roceNakReceived .. => .transport
  | .linkKeepalive .. | .linkAck .. | .linkNak .. | .retransmitTimeout .. | .hello .. | .helloTimer | .lanecap .. | .fenced ..
  | .routeDownTimeout .. | .peerSuspectTimeout .. | .laneFailure .. | .laneFecWindow .. | .spareLaneTrained .. | .portLinkUp ..
  | .portLinkDown .. | .ringOrHubFrameRetryExhausted .. | .keepaliveReceived .. | .peerFrameDropped .. => .peer
  | .quarantineSelfTestComplete .. | .dramUncorrectableError .. | .dramCorrectableError .. | .spareChannelCopyComplete ..
  | .workingStoreCorrectedError .. | .wsue .. | .ringLinkLoss .. | .hubLinkLoss .. | .escalationWindowExpiry
  | .escalationStepSettled .. | .rotationDue .. | .spareTestComplete .. | .rotationTargetTestComplete ..
  | .longRotationTimeout .. | .selfTestComplete .. => .health
  | .prepare .. | .promise .. | .accept .. | .accepted .. | .commit .. | .suspect .. | .viewreq .. | .view .. | .recon ..
  | .quorumTimeout | .ballotRetryTimer | .forwardedViewchgReceived .. => .member
  | .rdmaReadReceived .. | .wearTimer | .pageProgramComplete .. | .sectorEraseComplete .. | .startFilter | .brace | .braceEnd
  | .overvoltageRelease | .junctionHot | .overtemperatureRelease | .serdesReferenceChange .. | .resetNRelease | .bootRepairLoad
  | .bootholdRelease | .bootDomainWave | .pllLock .. | .dramTrainingComplete | .bootReady | .scoreLoadDataReceived ..
  | .loRegisterRead .. | .hiRegisterRead .. | .smbReadVin | .smbReadPin | .smbReadDieTemp .. | .smbReadHubTemp
  | .smbReadDramTemp | .smbReadStatus | .smbUndefinedAccess .. | .jtagBypass | .jtagIdcode | .jtagSample | .jtagPreload
  | .jtagExtest | .jtagExtestPulse | .jtagExtestTrain | .powerOn .. | .recoveryFilterStart | .hotCleared
  | .strapContactChange .. => .board
  | .rdmaWriteReceived .. | .recordReadbackComplete .. | .resetLevel | .overvoltage .. | .overtemperature | .aonOscillatorStop
  | .domainFault .. | .resetNAssert | .bootScoresheetRead .. | .mresetWrite .. | .vminclr .. | .peakclr ..
  | .scoreLoadPatternSet .. | .scoreLoadKeySet .. | .scoreLoadReservedKind .. | .attestGo .. | .lowerTreeGenerated
  | .attestReportWritten | .registerWrite .. => .att
  | _ => .word

theorem exec_leavesAtt_of_word {i : Instr} (s : State) (h : partOf i = .word) : LeavesAtt s (exec i s) := by
  cases i with
  | alu | alui | li | cmp | plog | evtLocal | queryTag | queryLastjoin | queryFeature | queryMembers =>
    delta exec
    exact seatRun_leavesAtt fun u x => u.modArch_kept _ _
  | exit | evtSet | evtAdd | fence | tseal | queryFlags | queryUpdstat | queryNumshare =>
    delta exec
    refine seatRun_leavesAtt fun u x => ?_
    repeat' split
    all_goals simp
  | br | jal | tbegin | evtRead =>
    delta exec
    refine seatRun_leavesAtt fun u x => ?_
    dsimp only [State.takeFresh]
    repeat' split
    all_goals simp
  | rel | evtBind =>
    delta exec
    refine seatTake_leavesAtt fun u x => ?_
    repeat' split
    all_goals simp
  | sld | sst | decl | spillr | shareExport | shareBind | wait =>
    delta exec
    refine seatTake_leavesAtt fun u x => ?_
    dsimp only
    repeat' split
    all_goals simp
  | copy | gather | scatter | fill | mma | vew | vsel | vcmp | vlut | vred =>
    delta exec
    exact engineRun_leavesAtt
  | fold | loss | finish | grad | pass1 | pass2 | rebuild | ared | rscat | agath | bcast | send | recv =>
    delta exec
    dsimp only [execFold, execLoss, execFinish, execGrad, execPass1, execPass2, execRebuild, execAred, execRscat, execAgath, execBcast,
      execSend, execRecv, stsRun, updRun, collRun]
    exact engineRun_leavesAtt
  | _ => cases h

theorem execRoomRequestGrant_leavesAtt (s : State) : LeavesAtt s (execRoomRequestGrant s) := by
  unfold execRoomRequestGrant
  repeat' split
  case h_2 hroom => simp [State.att_eq_kept, State.makeRoom_kept hroom]
  case h_3 hroom => simp [State.att_eq_kept, State.makeRoom_kept hroom]
  all_goals simp [State.att_eq_kept]

theorem execRegreg_leavesAtt (s : State) (h r path access rkey vaddr length qpn addr) :
    LeavesAtt s (execRegreg h r path access rkey vaddr length qpn addr s) := by
  unfold execRegreg
  dsimp only
  repeat' split
  case h_2 hopen => simp [State.att_eq_kept, State.openStore_kept hopen]
  all_goals simp [State.att_eq_kept]

theorem execControlSendReceived_leavesAtt (s : State) (qp bytes) : LeavesAtt s (execControlSendReceived qp bytes s) := by
  unfold execControlSendReceived
  split
  · simp [State.att_eq_kept]
  next q u harrive =>
    dsimp only
    repeat' split
    all_goals simp [State.att_eq_kept, State.arrive_kept harrive]

theorem execRdmaReadReceived_leavesAtt (s : State) (qp rkey vaddr len) : LeavesAtt s (execRdmaReadReceived qp rkey vaddr len s) := by
  unfold execRdmaReadReceived
  split
  · simp [State.att_eq_kept]
  split
  · simp [State.att_eq_kept]
  next q u harrive => simp [State.att_eq_kept, State.arrive_kept harrive]

/-! In each part below, `cases h` leaves the commands of that part; each is taken apart at its branches, and what a branch answers is
made of operations that keep the unit. -/

theorem exec_leavesAtt_of_engine {i : Instr} (s : State) (h : partOf i = .engine) : LeavesAtt s (exec i s) := by
  cases i <;> cases h
  case roomRequestGrant => exact execRoomRequestGrant_leavesAtt s
  all_goals
    delta exec
    dsimp only [execExitComplete, execWaitSatisfied, execFenceDrained, execStalledTbeginResume, execSealedQueryResume, execEngineWorkGrant,
      execOutputTileDrain, execEpilogue, execAccumulatorSlotReload, execSpotDuplicateCompare, execThirdCopyVerdict,
      execInstructionComplete, execPotReservationGrant, execRoomRequestFail, execStashSpillComplete, execStashFillComplete,
      execRelocationComplete, execHostStagingGrant]
    repeat' split
  all_goals simp [State.att_eq_kept]

theorem exec_leavesAtt_of_trick {i : Instr} (s : State) (h : partOf i = .trick) : LeavesAtt s (exec i s) := by
  cases i <;> cases h
  all_goals
    delta exec
    dsimp only [execSeatError, execModuleVoteOk, execSealVoteReceived, execSealDecisionReceived, execSwapOutComplete, execSwapInComplete,
      execSchedStuckTimeout, execSqtailWrite, execSubmitEntryTaken, execCancelEntryTaken, execPlanFreeze,
      execRequestDeadlineExpiry, execDataFrameReceived, execStateFrameReceived, execRefreshDoneReceived,
      execRefreshCommitReceived, execShadowCopyComplete, execCheckpointWriteAck, execSubstituteRebuildComplete,
      execStreamStripeRepair, execSeatCorrectedError]
    repeat' split
  all_goals simp [State.att_eq_kept, kept_foldl]

theorem exec_leavesAtt_of_host {i : Instr} (s : State) (h : partOf i = .host) : LeavesAtt s (exec i s) := by
  cases i <;> cases h
  all_goals
    delta exec
    dsimp only [execAdmitJob, execAdmissionImageReceived, execEndJob, execJobEndDrained, execWipeComplete, execResume, execOwn, execCreate,
      execKill, execInpub, execCqbind, execSqbind, execJoinview, execOverride, execViewchg, execCkptcfg, execCkptnow,
      execRestore, execViewRecordReceived, execRestoreRecordReceived]
    repeat' split
  all_goals simp [State.att_eq_kept, kept_foldl]

theorem exec_leavesAtt_of_transport {i : Instr} (s : State) (h : partOf i = .transport) : LeavesAtt s (exec i s) := by
  cases i <;> cases h
  case regreg => exact execRegreg_leavesAtt s _ _ _ _ _ _ _ _ _
  case controlSendReceived => exact execControlSendReceived_leavesAtt s _ _
  all_goals
    delta exec
    dsimp only [execRegdel, execCmReq, execCmRtu, execCmDreq, execCmDrep, execConnectingTimeout, execQpErrorTimeout, execQpRetryExhausted,
      execRdmaWriteAck, execCePacketReceived, execCnpReceived, execRateIncreaseTimer, execStoreConnectReply,
      execStoreConnectTimeout, execStoreReconnectTimer, execArpFrameReceived, execIcmpEchoReceived, execPfcFrameReceived,
      execUnsupportedHostFrame, execRefusedRocePacket, execLocalAckTimeout, execRoceNakReceived]
    repeat' split
  all_goals simp [State.att_eq_kept, kept_foldl]

theorem exec_leavesAtt_of_peer {i : Instr} (s : State) (h : partOf i = .peer) : LeavesAtt s (exec i s) := by
  cases i <;> cases h
  all_goals
    delta exec
    dsimp only [execLinkKeepalive, execLinkAck, execLinkNak, execRetransmitTimeout, execHello, execHelloTimer, execLanecap, execFenced,
      execRouteDownTimeout, execPeerSuspectTimeout, execLaneFailure, execLaneFecWindow, execSpareLaneTrained, execPortLinkUp,
      execPortLinkDown, execRingOrHubFrameRetryExhausted, execKeepaliveReceived, execPeerFrameDropped]
    repeat' split
  all_goals simp [State.att_eq_kept, kept_foldl]

theorem exec_leavesAtt_of_health {i : Instr} (s : State) (h : partOf i = .health) : LeavesAtt s (exec i s) := by
  cases i <;> cases h
  all_goals
    delta exec
    dsimp only [execQuarantineSelfTestComplete, execDramUncorrectableError, execDramCorrectableError, execSpareChannelCopyComplete,
      execWorkingStoreCorrectedError, execWsue, execRingLinkLoss, execHubLinkLoss, execEscalationWindowExpiry,
      execEscalationStepSettled, execRotationDue, execSpareTestComplete, execRotationTargetTestComplete, execLongRotationTimeout,
      execSelfTestComplete]
    repeat' split
  all_goals simp [State.att_eq_kept]

theorem exec_leavesAtt_of_member {i : Instr} (s : State) (h : partOf i = .member) : LeavesAtt s (exec i s) := by
  cases i <;> cases h
  all_goals
    delta exec
    dsimp only [execPrepare, execPromise, execAccept, execAccepted, execCommit, execSuspect, execViewreq, execView, execRecon,
      execQuorumTimeout, execBallotRetryTimer, execForwardedViewchgReceived]
    repeat' split
  all_goals simp [State.att_eq_kept]

theorem exec_leavesAtt_of_board {i : Instr} (s : State) (h : partOf i = .board) : LeavesAtt s (exec i s) := by
  cases i <;> cases h
  case rdmaReadReceived => exact execRdmaReadReceived_leavesAtt s _ _ _ _
  all_goals
    delta exec
    dsimp only [execWearTimer, execPageProgramComplete, execSectorEraseComplete, execStartFilter, execBrace, execBraceEnd,
      execOvervoltageRelease, execJunctionHot, execOvertemperatureRelease, execSerdesReferenceChange, execResetNRelease,
      execBootRepairLoad, execBootholdRelease, execBootDomainWave, execPllLock, execDramTrainingComplete, execBootReady,
      execScoreLoadDataReceived, execLoRegisterRead, execHiRegisterRead, execSmbReadVin, execSmbReadPin, execSmbReadDieTemp,
      execSmbReadHubTemp, execSmbReadDramTemp, execSmbReadStatus, execSmbUndefinedAccess, execJtagBypass, execJtagIdcode,
      execJtagSample, execJtagPreload, execJtagExtest, execJtagExtestPulse, execJtagExtestTrain, execPowerOn,
      execRecoveryFilterStart, execHotCleared, execStrapContactChange]
    repeat' split
  all_goals simp [State.att_eq_kept, kept_foldl]

/-! ### Commands that may write the attestation unit -/

/-- If the leaves are reserved in s, they are in whatever state o answers. -/
def KeepsReservation (s : State) (o : Host.Outcome State Fault Refusal) : Prop :=
  LeavesReserved s → ∀ t, o = .next t → LeavesReserved t

@[simp] theorem keepsReservation_next (s t : State) : KeepsReservation s (.next t) ↔ (LeavesReserved s → LeavesReserved t) :=
  ⟨fun h hs => h hs t rfl, fun h hs _ ht => by cases ht; exact h hs⟩

@[simp] theorem keepsReservation_fault (s : State) (r : Fault) : KeepsReservation s (.fault r) := fun _ _ h => nomatch h

theorem LeavesAtt.keepsReservation {s : State} {o : Host.Outcome State Fault Refusal} (h : LeavesAtt s o) : KeepsReservation s o :=
  fun hs t ht => leavesReserved_of_att (h t ht) hs

theorem execResetLevel_keepsReservation (s : State) : KeepsReservation s (execResetLevel s) := by
  unfold execResetLevel
  split <;> simp [State.coldReset_leaves]

theorem execOvervoltage_keepsReservation (s : State) (mv : Nat) : KeepsReservation s (execOvervoltage mv s) := by
  unfold execOvervoltage
  repeat' split
  all_goals simp [State.coldReset_leaves]

theorem execOvertemperature_keepsReservation (s : State) : KeepsReservation s (execOvertemperature s) := by
  unfold execOvertemperature
  split <;> simp [State.coldReset_leaves]

theorem execAonOscillatorStop_keepsReservation (s : State) : KeepsReservation s (execAonOscillatorStop s) := by
  unfold execAonOscillatorStop
  split <;> simp [State.coldReset_leaves]

theorem execResetNAssert_keepsReservation (s : State) : KeepsReservation s (execResetNAssert s) := by
  unfold execResetNAssert
  dsimp only
  split
  · simp [State.moduleReset_leaves]
  · exact (keepsReservation_next _ _).2 (leavesReserved_of_att rfl)

theorem execDomainFault_keepsReservation (s : State) (d : Fin 80) (lostLock : Bool) :
    KeepsReservation s (execDomainFault d lostLock s) := by
  unfold execDomainFault
  split
  · split <;> simp [State.coldReset_leaves]
  · refine LeavesAtt.keepsReservation ?_
    dsimp only
    repeat' split
    all_goals simp [State.att_eq_kept]

/-- What boot sets counter and limit to (R522): 0 where no record is valid, and no request signs then (R523). -/
theorem bootLeaf_le (r : Option (List Byte)) : (r.map fun p => min (fieldAt p 0 4 + 64) leafEnd).getD 0 ≤ leafEnd := by
  cases r with
  | none => exact Nat.zero_le _
  | some p => exact min_le_right _ leafEnd

theorem execBootScoresheetRead_keepsReservation (s : State) (sfdp0 sfdp1 : Bool) :
    KeepsReservation s (execBootScoresheetRead sfdp0 sfdp1 s) := by
  unfold execBootScoresheetRead
  split
  · simp
  · dsimp only
    refine (keepsReservation_next _ _).2 fun _ => (leavesReserved_iff _).2 ⟨le_rfl, ?_⟩
    dsimp only
    exact bootLeaf_le _

theorem execRecordReadbackComplete_keepsReservation (s : State) (matched : Bool) :
    KeepsReservation s (execRecordReadbackComplete matched s) := by
  unfold execRecordReadbackComplete
  split
  · simp
  next w _ =>
    split
    · simp
    split
    · refine (keepsReservation_next _ _).2 fun h => leavesReserved_of_kept (State.nextRec_kept _) ?_
      exact State.recWritten_leaves _ (leavesReserved_of_kept (State.eraseAfter_kept _ _) (leavesReserved_of_att rfl h))
    · refine LeavesAtt.keepsReservation ?_
      dsimp only [State.takeFresh]
      split <;> simp [State.att_eq_kept]

/-- Between the tree and the signature only the record of the tree is queued (R524). -/
theorem execLowerTreeGenerated_keepsReservation (s : State) : KeepsReservation s (execLowerTreeGenerated s) := by
  unfold execLowerTreeGenerated
  split
  · simp
  split
  · simp
  · refine (keepsReservation_next _ _).2 fun h => State.attStep_leaves ?_
    have htree : LeavesReserved (s.setAtt { s.att with tree := some (s.att.next / 32768) }) := leavesReserved_of_counters rfl rfl h
    split
    · exact htree
    · exact leavesReserved_of_kept (State.requestRec_kept _ _ _) htree

theorem execAttestReportWritten_keepsReservation (s : State) : KeepsReservation s (execAttestReportWritten s) := by
  unfold execAttestReportWritten
  split
  · simp
  split
  · simp
  · dsimp only
    split_ifs
    · exact (keepsReservation_next _ _).2 fun h =>
        State.attDone_leaves _ (leavesReserved_of_kept (State.writeRegion_kept _ _ _ _ _ _ _) h)
    · exact (keepsReservation_next _ _).2 (State.attDone_leaves _)

theorem execRdmaWriteReceived_keepsReservation (s : State) (qp : BitVec 12) (rkey : Word) (vaddr : Dword) (data : List Byte) :
    KeepsReservation s (execRdmaWriteReceived qp rkey vaddr data s) := by
  unfold execRdmaWriteReceived
  dsimp only
  split
  · exact (keepsReservation_next _ _).2 (State.winWrite_leaves qp _ data)
  refine LeavesAtt.keepsReservation ?_
  split
  · simp [State.att_eq_kept]
  next q u harrive =>
    repeat' split
    all_goals simp [State.att_eq_kept, State.arrive_kept harrive]

theorem exec_keepsReservation_of_att {i : Instr} (s : State) (h : partOf i = .att) : KeepsReservation s (exec i s) := by
  cases i with
  | resetLevel => exact execResetLevel_keepsReservation s
  | overvoltage mv => exact execOvervoltage_keepsReservation s mv
  | overtemperature => exact execOvertemperature_keepsReservation s
  | aonOscillatorStop => exact execAonOscillatorStop_keepsReservation s
  | resetNAssert => exact execResetNAssert_keepsReservation s
  | domainFault d lostLock => exact execDomainFault_keepsReservation s d lostLock
  | bootScoresheetRead sfdp0 sfdp1 => exact execBootScoresheetRead_keepsReservation s sfdp0 sfdp1
  | recordReadbackComplete matched => exact execRecordReadbackComplete_keepsReservation s matched
  | lowerTreeGenerated => exact execLowerTreeGenerated_keepsReservation s
  | attestReportWritten => exact execAttestReportWritten_keepsReservation s
  | rdmaWriteReceived qp rkey vaddr data => exact execRdmaWriteReceived_keepsReservation s qp rkey vaddr data
  | registerWrite | mresetWrite | vminclr | peakclr | scoreLoadPatternSet | scoreLoadKeySet | scoreLoadReservedKind | attestGo =>
    delta exec
    exact (keepsReservation_next _ _).2 (State.winWrite_leaves _ _ _)
  | _ => cases h

theorem exec_keepsReservation (i : Instr) (s : State) : KeepsReservation s (exec i s) := by
  cases h : partOf i with
  | word => exact (exec_leavesAtt_of_word s h).keepsReservation
  | engine => exact (exec_leavesAtt_of_engine s h).keepsReservation
  | trick => exact (exec_leavesAtt_of_trick s h).keepsReservation
  | host => exact (exec_leavesAtt_of_host s h).keepsReservation
  | transport => exact (exec_leavesAtt_of_transport s h).keepsReservation
  | peer => exact (exec_leavesAtt_of_peer s h).keepsReservation
  | health => exact (exec_leavesAtt_of_health s h).keepsReservation
  | member => exact (exec_leavesAtt_of_member s h).keepsReservation
  | board => exact (exec_leavesAtt_of_board s h).keepsReservation
  | att => exact exec_keepsReservation_of_att s h

/-! ### The step -/

theorem State.tick_att (s : State) : s.tick.att = s.att := by
  unfold State.tick
  split <;> rfl

/-- Settles O60: a command outside the part `att` leaves the unit alone, and one of that part signs, raises the limit, boots or resets
only as R521 and R522 allow. The limit spoken of is the one held in memory. -/
theorem stepsKeepLeafReservation : Obligations.StepsKeepLeafReservation := by
  unfold Obligations.StepsKeepLeafReservation
  intro s t h hstep
  unfold step at hstep
  split at hstep
  · cases hstep
    exact leavesReserved_of_att s.tick_att h
  next i rest _ => exact exec_keepsReservation i { s with pending := rest } (leavesReserved_of_att rfl h) t hstep

end Sys2Proof.Machine

/-! ## Every command answers (R540; log entry 19)

O58: apart from the two commands that report a bus voltage, no meaning ends in a stop or a refusal. An instruction word answers
because whatever a seat takes does; the other commands by the branches of their meanings, part by part. -/

namespace Sys2Proof.Machine

/-- o is a next state: neither a stop nor a refusal. -/
def Answers (o : Host.Outcome State Fault Refusal) : Prop := ∃ t, o = .next t

theorem answers_next (t : State) : Answers (.next t) := ⟨t, rfl⟩

section
variable {s : State} {c : CtxId} {g : Guard} {word : Dword} {legal : Bool} {uses : List SReg} {body : State → Ctx → State}

theorem seatRun_answers : Answers (seatRun s c g word legal uses body) := by
  unfold seatRun
  dsimp only
  repeat' split
  all_goals exact answers_next _

theorem seatTake_answers : Answers (seatTake s c g word legal uses body) := by
  unfold seatTake
  dsimp only
  repeat' split
  all_goals exact answers_next _

theorem engineRun_answers {k : EngKind} {f : Fin3} {early : Job → Ctx → List Nat} {issue : State → Ctx → Issue} :
    Answers (engineRun s c g word legal uses k f early issue) :=
  seatTake_answers

theorem stsRun_answers (c f func s) : Answers (stsRun c f func s) := engineRun_answers

theorem updRun_answers (c f func s) : Answers (updRun c f func s) := engineRun_answers

theorem collRun_answers (c f func s) : Answers (collRun c f func s) := engineRun_answers

end

/-! ### The parts: each branch of each meaning is a next state -/

theorem exec_answers_of_word {i : Instr} (s : State) (h : partOf i = .word) : Answers (exec i s) := by
  delta exec
  cases i with
  | alu | alui | li | cmp | plog | br | jal | exit | evtRead | evtSet | evtAdd | evtLocal | fence | tbegin | tseal | queryTag
  | queryLastjoin | queryFlags | queryUpdstat | queryFeature | queryMembers | queryNumshare => exact seatRun_answers
  | sld | sst | decl | spillr | rel | shareExport | shareBind | wait | evtBind => exact seatTake_answers
  | copy | gather | scatter | fill | mma | vew | vsel | vcmp | vlut | vred => exact engineRun_answers
  | fold | loss | finish | grad => exact stsRun_answers _ _ _ _
  | pass1 | pass2 | rebuild => exact updRun_answers _ _ _ _
  | ared | rscat | agath | bcast | send | recv => exact collRun_answers _ _ _ _
  | _ => cases h

theorem exec_answers_of_engine {i : Instr} (s : State) (h : partOf i = .engine) : Answers (exec i s) := by
  cases i <;> cases h
  all_goals
    delta exec
    dsimp only [execExitComplete, execWaitSatisfied, execFenceDrained, execStalledTbeginResume, execSealedQueryResume,
      execEngineWorkGrant, execOutputTileDrain, execEpilogue, execAccumulatorSlotReload, execSpotDuplicateCompare, execThirdCopyVerdict,
      execInstructionComplete, execPotReservationGrant, execRoomRequestGrant, execRoomRequestFail, execStashSpillComplete,
      execStashFillComplete, execRelocationComplete, execHostStagingGrant]
    repeat' split
  all_goals exact answers_next _

theorem exec_answers_of_trick {i : Instr} (s : State) (h : partOf i = .trick) : Answers (exec i s) := by
  cases i <;> cases h
  all_goals
    delta exec
    dsimp only [execSeatError, execModuleVoteOk, execSwapOutComplete, execSwapInComplete, execSchedStuckTimeout, execSqtailWrite,
      execSubmitEntryTaken, execCancelEntryTaken, execPlanFreeze, execRequestDeadlineExpiry, execShadowCopyComplete,
      execCheckpointWriteAck, execSubstituteRebuildComplete, execStreamStripeRepair]
    repeat' split
  all_goals exact answers_next _

theorem exec_answers_of_host {i : Instr} (s : State) (h : partOf i = .host) : Answers (exec i s) := by
  cases i <;> cases h
  all_goals
    delta exec
    dsimp only [execAdmitJob, execAdmissionImageReceived, execEndJob, execWipeComplete, execResume, execOwn, execCreate, execKill,
      execInpub, execCqbind, execSqbind, execJoinview, execOverride, execViewchg, execCkptcfg, execCkptnow, execRestore,
      execViewRecordReceived, execRestoreRecordReceived]
    repeat' split
  all_goals exact answers_next _

theorem exec_answers_of_transport {i : Instr} (s : State) (h : partOf i = .transport) : Answers (exec i s) := by
  cases i <;> cases h
  all_goals
    delta exec
    dsimp only [execRegreg, execRegdel, execCmReq, execCmDreq, execCmDrep, execConnectingTimeout, execQpErrorTimeout,
      execQpRetryExhausted, execControlSendReceived, execRdmaWriteAck, execCePacketReceived, execCnpReceived, execRateIncreaseTimer,
      execStoreConnectReply, execStoreConnectTimeout, execStoreReconnectTimer, execArpFrameReceived, execIcmpEchoReceived,
      execPfcFrameReceived, execUnsupportedHostFrame, execRefusedRocePacket, execLocalAckTimeout, execRoceNakReceived]
    repeat' split
  all_goals exact answers_next _

theorem exec_answers_of_peer {i : Instr} (s : State) (h : partOf i = .peer) : Answers (exec i s) := by
  cases i <;> cases h
  all_goals
    delta exec
    dsimp only [execLinkKeepalive, execLinkNak, execRetransmitTimeout, execHello, execHelloTimer, execLanecap, execFenced,
      execRouteDownTimeout, execPeerSuspectTimeout, execLaneFailure, execLaneFecWindow, execPortLinkUp, execPortLinkDown,
      execPeerFrameDropped]
    repeat' split
  all_goals exact answers_next _

theorem exec_answers_of_health {i : Instr} (s : State) (h : partOf i = .health) : Answers (exec i s) := by
  cases i <;> cases h
  all_goals
    delta exec
    dsimp only [execQuarantineSelfTestComplete, execDramUncorrectableError, execSpareChannelCopyComplete, execWsue, execRingLinkLoss,
      execEscalationWindowExpiry, execEscalationStepSettled, execRotationDue, execSpareTestComplete, execRotationTargetTestComplete,
      execLongRotationTimeout, execSelfTestComplete]
    repeat' split
  all_goals exact answers_next _

theorem exec_answers_of_member {i : Instr} (s : State) (h : partOf i = .member) : Answers (exec i s) := by
  cases i <;> cases h
  all_goals
    delta exec
    dsimp only [execPrepare, execPromise, execAccept, execAccepted, execCommit, execSuspect, execViewreq, execView, execRecon,
      execQuorumTimeout, execBallotRetryTimer, execForwardedViewchgReceived]
    repeat' split
  all_goals exact answers_next _

theorem exec_answers_of_board {i : Instr} (s : State) (h : partOf i = .board) (hv : ∀ mv, i ≠ .powerOn mv) : Answers (exec i s) := by
  cases i <;> cases h
  case powerOn mv => exact absurd rfl (hv mv)
  all_goals
    delta exec
    dsimp only [execRdmaReadReceived, execWearTimer, execPageProgramComplete, execSectorEraseComplete, execStartFilter, execBrace,
      execBraceEnd, execOvervoltageRelease, execJunctionHot, execOvertemperatureRelease, execSerdesReferenceChange, execBootRepairLoad,
      execBootholdRelease, execBootDomainWave, execPllLock, execDramTrainingComplete, execBootReady, execScoreLoadDataReceived,
      execSmbUndefinedAccess, execRecoveryFilterStart, execHotCleared]
    repeat' split
  all_goals exact answers_next _

theorem exec_answers_of_att {i : Instr} (s : State) (h : partOf i = .att) (hv : ∀ mv, i ≠ .overvoltage mv) : Answers (exec i s) := by
  cases i <;> cases h
  case overvoltage mv => exact absurd rfl (hv mv)
  all_goals
    delta exec
    dsimp only [execRdmaWriteReceived, execRecordReadbackComplete, execResetLevel, execOvertemperature, execAonOscillatorStop,
      execDomainFault, execBootScoresheetRead, execLowerTreeGenerated, execAttestReportWritten]
    repeat' split
  all_goals exact answers_next _

/-! ### The two commands that report a bus voltage (R540; log entry 19) -/

theorem execPowerOn_answers (s : State) (mv : Nat) :
    Answers (execPowerOn mv s) ∨ execPowerOn mv s = .fault .beyondRatings ∧ busMax < mv ∧ s.aon.bootStep = 0 := by
  unfold execPowerOn
  split
  · exact .inl (answers_next _)
  next hoff =>
    split
    next hmax => exact .inr ⟨rfl, hmax, by simpa using (not_or.1 hoff).1⟩
    · exact .inl (answers_next _)

theorem execOvervoltage_answers (s : State) (mv : Nat) :
    Answers (execOvervoltage mv s) ∨ execOvervoltage mv s = .fault .beyondRatings ∧ busMax < mv ∧ 3 ≤ s.aon.bootStep := by
  unfold execOvervoltage
  split
  · exact .inl (answers_next _)
  next hon =>
    split
    next hmax => exact .inr ⟨rfl, hmax, by simpa [State.powered] using (not_or.1 hon).1⟩
    · exact .inl (answers_next _)

theorem exec_answers {i : Instr} (s : State) (ho : ∀ mv, i ≠ .overvoltage mv) (hp : ∀ mv, i ≠ .powerOn mv) :
    Answers (exec i s) := by
  cases h : partOf i with
  | word => exact exec_answers_of_word s h
  | engine => exact exec_answers_of_engine s h
  | trick => exact exec_answers_of_trick s h
  | host => exact exec_answers_of_host s h
  | transport => exact exec_answers_of_transport s h
  | peer => exact exec_answers_of_peer s h
  | health => exact exec_answers_of_health s h
  | member => exact exec_answers_of_member s h
  | board => exact exec_answers_of_board s h hp
  | att => exact exec_answers_of_att s h ho

/-- Settles O58: the two commands that report a bus voltage stop beyond `busMax`, and every other command answers, part by part
(`partOf`). -/
theorem everyCommandAnswers : Obligations.EveryCommandAnswers := by
  unfold Obligations.EveryCommandAnswers
  intro i s
  by_cases ho : ∃ mv, i = .overvoltage mv
  · obtain ⟨mv, rfl⟩ := ho
    exact (execOvervoltage_answers s mv).imp_right fun ⟨hstop, hmax, hon⟩ => ⟨hstop, mv, hmax, .inl ⟨rfl, hon⟩⟩
  by_cases hp : ∃ mv, i = .powerOn mv
  · obtain ⟨mv, rfl⟩ := hp
    exact (execPowerOn_answers s mv).imp_right fun ⟨hstop, hmax, hoff⟩ => ⟨hstop, mv, hmax, .inr ⟨rfl, hoff⟩⟩
  · exact .inl (exec_answers s (not_exists.1 ho) (not_exists.1 hp))

end Sys2Proof.Machine

/-! ## The register window, the sideband and the JTAG port (R418, R503, R532 to R535, R549)

O56: a MANAGE queue pair reads and writes one word at a time, on the state in which its packet has arrived (`State.winRead_word`,
`State.regWrite1_eq`); each command that writes a register with a meaning of its own is what that one write does, acknowledged. -/

namespace Sys2Proof.Machine

open Claim

/-! ### Little-endian words -/

@[simp] theorem leBytes_length (n k : Nat) : (leBytes n k).length = k := by
  induction k generalizing n with
  | zero => rfl
  | succ k ih => simp [leBytes, ih]

theorem leNat_leBytes (n k : Nat) : leNat (leBytes n k) = n % 256 ^ k := by
  induction k generalizing n with
  | zero => simp [leBytes, leNat, Nat.mod_one]
  | succ k ih => simp [leBytes, leNat, ih, Nat.pow_succ', Nat.mod_mul]

theorem wordsOf_leBytes (v : Word) : wordsOf 1 (leBytes v.toNat 4) = [v] := by
  have htake : (leBytes v.toNat 4).take 4 = leBytes v.toNat 4 := List.take_of_length_le (by simp)
  simp only [wordsOf, fieldAt, List.drop_zero, htake, leNat_leBytes]
  congr
  exact BitVec.eq_of_toNat_eq (by simpa using v.isLt)

/-! ### Registers and the queue pair that reads them -/

theorem State.blockCode_setQp (s : State) (i : Nat) (q : Qp) (x : Ctx) : (s.setQp i q).blockCode x = s.blockCode x := rfl

theorem State.schedJobid_setQp (s : State) (i : Nat) (q : Qp) : (s.setQp i q).schedJobid = s.schedJobid := rfl

theorem State.cstate_setQp (s : State) (i : Nat) (q : Qp) (c : CtxId) : (s.setQp i q).cstate c = s.cstate c := rfl

theorem State.readSCHED_setQp (s : State) (i : Nat) (q : Qp) (o : Nat) : (s.setQp i q).readSCHED o = s.readSCHED o := by
  simp only [State.readSCHED, State.cstate_setQp, State.blockCode_setQp, State.schedJobid_setQp, State.setQp_job, State.setQp_cfg,
    State.setQp_stat]

/-- Only HOSTPORT counts the queue pairs (Table 15-11). -/
theorem State.readReg_setQp (s : State) (i : Nat) (q : Qp) {off : Nat} (h : off / 4096 ≠ 9) :
    (s.setQp i q).readReg off = s.readReg off := by
  unfold State.readReg
  simp only [State.readSCHED_setQp]
  congr 2
  split
  case h_10 h9 => exact absurd h9 h
  all_goals rfl

theorem capturedLO_block {off : Nat} (h : capturedLO off = true) : off / 4096 ≠ 9 ∧ (off + 4) / 4096 ≠ 9 := by
  simp only [capturedLO, List.contains_eq_mem, List.mem_cons, List.not_mem_nil, or_false, Bool.decide_or, Bool.or_eq_true,
    decide_eq_true_eq, Bool.and_eq_true] at h
  omega

theorem alSet_alSet {α : Type} (l : List (Nat × α)) (i : Nat) (x y : α) : alSet (alSet l i x) i y = alSet l i y := by
  induction l with
  | nil => simp [alSet]
  | cons p r ih =>
    obtain ⟨k, z⟩ := p
    obtain hlt | rfl | hgt := lt_trichotomy i k
    · simp [alSet, hlt]
    · simp [alSet]
    · simp [alSet, hgt.not_gt, hgt.ne', ih]

theorem State.setQp_setQp (s : State) (i : Nat) (p q : Qp) : (s.setQp i p).setQp i q = s.setQp i q := by
  simp [State.setQp, alSet_alSet]

section
variable {s : State} {i off : Nat} {q : Qp} (hq : s.qp? i = some q)
include hq

theorem State.readWord_lo (hlo : capturedLO off = true) : s.readWord i off =
    (s.readReg off, s.setQp i { q with latches := alSet q.latches (off + 4) (s.readReg (off + 4)) }) := by
  simp [State.readWord, hq, hlo]

variable (hlo : capturedLO off = false) (hoff : 4 ≤ off) (hhi : capturedLO (off - 4) = true)
include hlo hoff hhi

theorem State.readWord_hi_latched {v : Word} (hv : alGet q.latches off = some v) :
    s.readWord i off = (v, s.setQp i { q with latches := alDel q.latches off }) := by
  simp [State.readWord, hq, hlo, hoff, hhi, hv]

theorem State.readWord_hi_unlatched (hv : alGet q.latches off = none) : s.readWord i off = (s.readReg off, s) := by
  simp [State.readWord, hq, hlo, hoff, hhi, hv]

end

/-! ### The accesses of a MANAGE queue pair in READY (R418) -/

/-- An aligned word lies in the register window. -/
theorem offset_word_le {off : BitVec 24} (h : off.toNat % 4 = 0) : off.toNat + 4 ≤ 2 ^ 24 := by
  have := off.isLt
  omega

theorem State.qp?_setQp_self (s : State) (i : Nat) (q : Qp) : (s.setQp i q).qp? i = some q := by
  simp [State.qp?_setQp]

section
variable {s : State} {qp : BitVec 12} {q : Qp} (hq : s.qp? qp.toNat = some q) (hst : q.st = .ready) (hrole : q.role = 2)

include hq in
theorem State.qp?_setQp_of_eq (j : Nat) : (s.setQp qp.toNat q).qp? j = s.qp? j := by
  rw [State.qp?_setQp]
  split_ifs with hj
  · rw [hj, hq]
  · rfl

include hq in
/-- A reply to a queue pair goes as before, whatever its latches hold. -/
theorem sendsAs_readReply (l : List Word) (q' : Qp) (hport : q'.port = q.port) :
    SendsAs s (s.setQp qp.toNat q') (.readReply qp l) where
  outbox := rfl
  heldTx := rfl
  via := by
    have hget : alGet s.host.qps qp.toNat = some q := hq
    simp [State.via, State.qpPort, State.setQp, alGet_alSet, hget, hport]
  cfg := rfl
  hostPaused _ := rfl
  peerPaused _ := rfl

include hq hst in
theorem State.arrive_setQp : s.arrive qp = some (q, s.setQp qp.toNat q) := by
  have htouch : s.touch qp.toNat = s.setQp qp.toNat q := by simp [State.touch, State.modQp, hq, hst]
  simp [State.arrive, htouch, State.qp?_setQp_self, hst]

include hq hst hrole in
theorem State.winRead_word {off : Nat} (hoff : off % 4 = 0) (hend : off + 4 ≤ 2 ^ 24) :
    s.winRead qp off 4 = ((s.setQp qp.toNat q).readWord qp.toNat off).2.send
      (.readReply qp [((s.setQp qp.toNat q).readWord qp.toNat off).1]) := by
  unfold State.winRead
  rw [State.arrive_setQp hq hst]
  dsimp only
  rw [if_neg (by simpa [hrole, hoff] using hend)]
  rfl

include hq hst hrole in
theorem State.regWrite1_eq {off : Nat} (v : Word) (hoff : off % 4 = 0) (hend : off + 4 ≤ 2 ^ 24) :
    s.regWrite1 qp off v = (((s.setQp qp.toNat q).writeReg off v).ackIf qp).pump := by
  have hready : (s.setQp qp.toNat q).qpReady qp.toNat = true := by simp [State.qpReady, State.qp?_setQp_self, hst]
  have hwrite := State.winWrite_ready (data := leBytes v.toNat 4) (State.arrive_setQp hq hst) hrole hoff (by simp) (by simpa using hend)
  rw [leBytes_length, wordsOf_leBytes] at hwrite
  simpa [State.regWrite1, State.writeWords, hready] using hwrite

end

/-! ### What the writes do -/

theorem State.ackIf_only (s : State) (qp : BitVec 12) : HostOnly s (s.ackIf qp) := by
  unfold State.ackIf
  split
  · exact s.send_hostOnly _
  · exact .refl s

theorem State.writeReg_pwrClear (s : State) (v : Word) : s.writeReg 0x2018 v = { s with aon := { s.aon with
    vmin := if v.getLsbD 0 then s.aon.vin else s.aon.vmin
    peak := if v.getLsbD 1 then s.aon.pin else s.aon.peak } } := by
  simp [State.writeReg, State.writePWR]

/-- The fields of SCORE.LOAD and ATTEST.CTL with GO set. -/
theorem loadWord_toNat (region : BitVec 16) {kind : Nat} (h : kind < 4) :
    (loadWord region kind).toNat = 2 ^ 31 + kind * 65536 + region.toNat := by
  have := region.isLt
  simp only [loadWord, BitVec.toNat_ofNat]
  omega

theorem loadWord_go (region : BitVec 16) {kind : Nat} (h : kind < 4) : (loadWord region kind).getLsbD 31 = true := by
  have := region.isLt
  rw [BitVec.getLsbD, Nat.testBit_eq_decide_div_mod_eq, loadWord_toNat region h]
  simp only [decide_eq_true_eq]
  omega

theorem loadWord_region (region : BitVec 16) {kind : Nat} (h : kind < 4) : (loadWord region kind).toNat % 65536 = region.toNat := by
  have := region.isLt
  rw [loadWord_toNat region h]
  omega

theorem loadWord_kind (region : BitVec 16) {kind : Nat} (h : kind < 4) : (loadWord region kind).toNat / 65536 % 4 = kind := by
  have := region.isLt
  rw [loadWord_toNat region h]
  omega

/-- s with the value last written to SCORE.LOAD. -/
def State.withLoad (s : State) (v : Word) : State := { s with cfg := { s.cfg with load := v &&& 0x3FFFF } }

theorem State.writeReg_load {s : State} (hidle : s.job.state = .idle) (region : BitVec 16) {kind : Nat} (h : kind < 4) :
    s.writeReg 0xB004 (loadWord region kind) = (s.withLoad (loadWord region kind)).loadGo region.toNat kind := by
  simp [State.writeReg, State.writeSCORE, State.writeLoad, State.rlWrite, State.withLoad, hidle, loadWord_go region h,
    loadWord_region region h, loadWord_kind region h]

theorem State.loadGo_reserved {s : State} (hload : s.score.load = none) (region : Nat) {kind : Nat} (hk : kind = 0 ∨ kind = 3) :
    s.loadGo region kind = s.loadDone stILLEGAL := by
  simp [State.loadGo, hload, hk]

theorem State.sendRead_only (s : State) (rn off len : Nat) : HostOnly s (s.sendRead rn off len) := by
  unfold State.sendRead
  dsimp only
  repeat' split
  all_goals rfl

theorem State.loadGo_starts {s : State} (hload : s.score.load = none) (region : Nat) {kind : Nat} (hk : ¬ (kind = 0 ∨ kind = 3))
    (hread : s.canRead region (s.cfg.loadLo.toNat + 2 ^ 32 * s.cfg.loadHi.toNat) s.cfg.loadLen.toNat = true) :
    (s.loadGo region kind).score.load = some ⟨kind, region, s.cfg.loadLen.toNat, false⟩ := by
  simp only [State.loadGo, hload, hk, hread]
  exact congrArg Score.load (State.sendRead_only _ _ _ _).score

/-- s with the value last written to ATTEST.CTL. -/
def State.withAttCtl (s : State) (v : Word) : State := { s with cfg := { s.cfg with attCtl := v &&& 0xFFFF } }

theorem State.writeReg_attGo (s : State) (region : BitVec 16) :
    s.writeReg 0xC000 (loadWord region 0) = (s.withAttCtl (loadWord region 0)).attGo region.toNat := by
  have hkind : 0 < 4 := by decide
  simp [State.writeReg, State.writeATTEST, State.writeAttCtl, State.withAttCtl, loadWord_go region hkind, loadWord_region region hkind]

/-! ### The attestation report and its signature (R517, R520 to R525) -/

theorem State.attGo_busy {s : State} (h : s.att.busy = true) (region : Nat) :
    s.attGo region = s.setAtt { s.att with overrun := true } := by
  simp [State.attGo, h]

@[simp] theorem shaBytes_length (h : BitVec 256) : (shaBytes h).length = 32 := by simp [shaBytes]

@[simp] theorem beWord_length (n : Nat) : (beWord n).length = 4 := by simp [beWord]

@[simp] theorem lmsSig_length (n : Nat) (body : Nat → Byte) : (lmsSig n body).length = 2668 := by simp [lmsSig]

@[simp] theorem lmsKey_length (body : Nat → Byte) : (lmsKey body).length = 56 := by simp [lmsKey]

theorem State.lowRecord_length (s : State) (t : Nat) : (s.lowRecord t).length = 2728 := by
  unfold State.lowRecord
  split
  next h =>
    unfold State.lowTree at h
    split at h
    · assumption
    · cases h
  · simp [lowPayload]

theorem State.hssSign_length (s : State) (leaf : Nat) (msg : List Byte) : (s.hssSign leaf msg).length = 5396 := by
  simp [State.hssSign, State.lowRecord_length]

theorem State.repairHash_length (s : State) : s.repairHash.1.length = 32 := by
  unfold State.repairHash
  split
  · simp
  · simp [List.length_flatMap]

theorem State.repairHash_fresh (s : State) : ∃ n, s.repairHash.2 = { s with fresh := n } := by
  unfold State.repairHash
  split
  · exact ⟨s.fresh, rfl⟩
  · exact ⟨s.fresh + 4, rfl⟩

theorem State.attReport_fresh (s : State) : ∃ n, s.attReport.2 = { s with fresh := n } := s.repairHash_fresh

theorem State.attReport_length (s : State) : s.attReport.1.length = 384 := by
  have hpat (p : Prop) [Decidable p] (x : BitVec 256) : (if p then leBytes 0 32 else shaBytes x).length = 32 := by split_ifs <;> simp
  simp [State.attReport, List.length_flatMap, State.repairHash_length, hpat]

/-- A leaf below the limit of the tree in H-HOST signs at once (R525). -/
theorem State.attGo_signs {s : State} (region : Nat) (hbusy : s.att.busy = false) (hleaf : s.att.next < leafEnd)
    (hlms : s.score.nolms = false) (hlimit : s.att.next < s.att.limit) (htree : s.att.tree = some (s.att.next / 32768)) :
    (s.attGo region).att.busy = true ∧ (s.attGo region).att.next = s.att.next + 1 ∧
      (s.attGo region).att.signed.length = 384 + 5396 ∧ (s.attGo region).job = s.job := by
  obtain ⟨n, hfresh⟩ := s.attReport_fresh
  have hlen := s.attReport_length
  have hsign : ∃ q : AttReq, s.attGo region = (s.attReport.2.setAtt { s.att with
      busy := true
      req := some q
      signed := [] }).attSign q ∧ q.report = s.attReport.1 := by
    refine ⟨⟨region, s.cfg.destLo.toNat + 2 ^ 32 * s.cfg.destHi.toNat, s.attReport.1, false, false⟩, ?_, rfl⟩
    simp [State.attGo, State.attStep, State.setAtt, hfresh, hbusy, hleaf.not_ge, hlms, hlimit.not_ge, htree]
  obtain ⟨q, hgo, hreport⟩ := hsign
  rw [hgo]
  refine ⟨rfl, rfl, ?_, ?_⟩
  · simp [State.attSign, State.setAtt, State.hssSign_length, hreport, hlen]
  · rw [hfresh]
    rfl

/-! ### Fields that only an idle module takes (R7, R533) -/

theorem State.rlWrite_idle {s : State} (h : s.job.state = .idle) (f : Cfg → Cfg) : s.rlWrite f = { s with cfg := f s.cfg } := by
  simp [State.rlWrite, h]

theorem State.rlWrite_locked {s : State} (h : s.job.state ≠ .idle) (f : Cfg → Cfg) :
    s.rlWrite f = { s with host := { s.host with errLocked := true } } := by
  simp [State.rlWrite, h]

theorem State.writeReg_idle {s : State} (h : s.job.state = .idle) (v : Word) :
    (s.writeReg 0x9000 v).cfg.hp = v &&& 0x3FF ∧ (s.writeReg 0x8000 v).cfg.mem = v ∧ (s.writeReg 0x7040 v).cfg.kcfg = v &&& 0x1F ∧
      (s.writeReg 0x5004 v).cfg.esc = v &&& 0x0FFFFFFF := by
  simp [State.writeReg, State.writeHOSTPORT, State.writeMEMBER, State.writeSEAL, State.writeHEALTH, State.rlWrite_idle h]

theorem State.writeReg_locked {s : State} (h : s.job.state ≠ .idle) (v : Word) {off : Nat}
    (hoff : off ∈ [0x5004, 0x5008, 0x5040, 0x7040, 0x8000, 0x9000, 0xA000, 0xB008, 0xB00C, 0xB010, 0xE000, 0xE004]) :
    s.writeReg off v = { s with host := { s.host with errLocked := true } } := by
  fin_cases hoff
  all_goals simp [State.writeReg, State.writeHEALTH, State.writeSEAL, State.writeMEMBER, State.writeHOSTPORT, State.writePEERPORT,
    State.writeSCORE, State.writeSERVE, State.rlWrite_locked h]

/-! ### The sideband (R503) -/

theorem State.smbAnswer_powered {s : State} (h : s.powered = true) (code : Byte) (w : BitVec 16) :
    s.smbAnswer code w = s.send (.smbWord w (smbPec code w)) := by
  simp [State.smbAnswer, h]

/-- The word of command code 9: PWR.STATUS [4:0]. -/
def State.statusWord (s : State) : BitVec 16 := BitVec.ofNat 16 (s.pwrStatus % 32)

theorem State.statusWord_bits (s : State) : s.statusWord.toNat < 32 ∧ s.statusWord.getLsbD 0 = s.aon.braceAt.isSome ∧
    s.statusWord.getLsbD 1 = s.aon.recover.isSome ∧ s.statusWord.getLsbD 2 = s.aon.ready ∧ s.statusWord.getLsbD 3 = s.aon.hot ∧
    s.statusWord.getLsbD 4 = s.aon.hold := by
  unfold State.statusWord State.pwrStatus
  generalize s.aon.braceAt.isSome = brace, s.aon.recover.isSome = recover, s.aon.ready = ready, s.aon.hot = hot, s.aon.hold = hold
  revert brace recover ready hot hold
  decide

theorem exec_smbUndefinedAccess (s : State) {isWrite : Bool} {code : Byte} (h : isWrite = true ∨ code = 0 ∨ 9 < code.toNat) :
    exec (.smbUndefinedAccess isWrite code) s = .next (s.send .smbNack) := by
  change execSmbUndefinedAccess isWrite code s = _
  unfold execSmbUndefinedAccess
  rw [if_neg]
  obtain rfl | rfl | hcode := h
  · simp
  · simp
  · simp [hcode]

/-! ### The JTAG port (R549) -/

/-- The answer of the port is no RoCEv2 message: no pause holds it. -/
theorem State.jtagLoad_powered {s : State} (h : s.powered = true) {i : Tap} {sel : Nat} {v : Word}
    (hsel : ({ s with aon := { s.aon with jtag := i } } : State).tapPath = sel) (hv : (if sel = 1 then idcode else 0) = v) :
    s.jtagLoad i = { s with aon := { s.aon with jtag := i }, outbox := s.outbox ++ [⟨none, .jtag sel v⟩] } := by
  subst hsel hv
  simp [State.jtagLoad, h, State.send, State.pausedTo, State.via, State.stamp]

/-- EXTEST and its 1149.6 forms take effect only while the boot is held. -/
theorem State.jtagLoad_extest {s : State} (h : s.powered = true) {i : Tap} (hi : i.drives = true) : s.jtagLoad i = { s with
    aon := { s.aon with jtag := i }, outbox := s.outbox ++ [⟨none, .jtag (if s.aon.hold then 2 else 0) 0⟩] } := by
  refine State.jtagLoad_powered h ?_ (if_neg (by split_ifs <;> decide))
  cases i with
  | extest | extestPulse | extestTrain => rfl
  | _ => cases hi

theorem idcode_toNat : idcode.toNat = (dieRecord 4).toNat / 2 ^ 67 % 16 * 2 ^ 28 + 0x4B31 * 2 ^ 12 + Config.jtagMaker.toNat := by
  have hmaker := Config.jtagMaker.isLt
  unfold idcode
  generalize (dieRecord 4).toNat = n
  rw [BitVec.toNat_ofNat]
  omega

theorem idcode_fields : idcode.toNat / 2 ^ 12 % 2 ^ 16 = 0x4B31 ∧ idcode.toNat % 2 ^ 12 = Config.jtagMaker.toNat % 2 ^ 12 ∧
    idcode.toNat / 2 ^ 28 = (dieRecord 4).toNat / 2 ^ 67 % 16 := by
  have hmaker := Config.jtagMaker.isLt
  rw [idcode_toNat]
  generalize (dieRecord 4).toNat = n
  omega

/-! ### The commands of a MANAGE queue pair -/

section
variable {s : State} {qp : BitVec 12} {q : Qp} (hq : s.qp? qp.toNat = some q) (hst : q.st = .ready) (hrole : q.role = 2)
include hq hst hrole

omit hst hrole in
theorem next_of_reply {i : Instr} {w : Word} {q' : Qp} (hexec : exec i s = .next ((s.setQp qp.toNat q').send (.readReply qp [w])))
    (hport : q'.port = q.port) {P : Qp → Prop} (hP : P q') :
    Next i s fun t => HostChange s t ∧ Outputs s t [.readReply qp [w]] ∧ ∃ p, t.qp? qp.toNat = some p ∧ P p :=
  next_of_exec_eq hexec ⟨rfl, (sendsAs_readReply hq [w] q' hport).outputs, q', s.qp?_setQp_self _ q', hP⟩

theorem exec_loRegisterRead_captures {off : BitVec 24} (hoff : off.toNat % 4 = 0) (hlo : capturedLO off.toNat = true) :
    Next (.loRegisterRead qp off) s fun t => HostChange s t ∧ Outputs s t [.readReply qp [s.readReg off.toNat]] ∧
      ∃ p, t.qp? qp.toNat = some p ∧ alGet p.latches (off.toNat + 4) = some (s.readReg (off.toNat + 4)) := by
  obtain ⟨hblock, hblock4⟩ := capturedLO_block hlo
  refine next_of_reply hq (q' := { q with latches := alSet q.latches (off.toNat + 4) (s.readReg (off.toNat + 4)) }) ?_ rfl ?_
  · change Host.Outcome.next (s.winRead qp off.toNat 4) = _
    rw [State.winRead_word hq hst hrole hoff (offset_word_le hoff), State.readWord_lo (s.qp?_setQp_self _ q) hlo,
      s.readReg_setQp _ q hblock, s.readReg_setQp _ q hblock4, State.setQp_setQp]
  · simp [alGet_alSet]

section
variable {off : BitVec 24} (hoff : off.toNat % 4 = 0) (hlo : capturedLO off.toNat = false) (hfour : 4 ≤ off.toNat)
  (hhi : capturedLO (off.toNat - 4) = true)
include hoff hlo hfour hhi

theorem exec_hiRegisterRead_latched {v : Word} (hv : alGet q.latches off.toNat = some v) :
    Next (.hiRegisterRead qp off) s fun t => HostChange s t ∧ Outputs s t [.readReply qp [v]] ∧
      ∃ p, t.qp? qp.toNat = some p ∧ alGet p.latches off.toNat = none := by
  refine next_of_reply hq (q' := { q with latches := alDel q.latches off.toNat }) ?_ rfl (alGet_alDel_self _ _)
  change Host.Outcome.next (s.winRead qp off.toNat 4) = _
  rw [State.winRead_word hq hst hrole hoff (offset_word_le hoff), State.readWord_hi_latched (s.qp?_setQp_self _ q) hlo hfour hhi hv,
    State.setQp_setQp]

theorem exec_hiRegisterRead_unlatched (hv : alGet q.latches off.toNat = none) :
    Next (.hiRegisterRead qp off) s fun t => HostChange s t ∧ Outputs s t [.readReply qp [s.readReg off.toNat]] := by
  have hblock : off.toNat / 4096 ≠ 9 := by simpa [Nat.sub_add_cancel hfour] using (capturedLO_block hhi).2
  refine next_of_exec_eq (t := (s.setQp qp.toNat q).send (.readReply qp [s.readReg off.toNat])) ?_
    ⟨rfl, (sendsAs_readReply hq _ q rfl).outputs⟩
  change Host.Outcome.next (s.winRead qp off.toNat 4) = _
  rw [State.winRead_word hq hst hrole hoff (offset_word_le hoff), State.readWord_hi_unlatched (s.qp?_setQp_self _ q) hlo hfour hhi hv,
    s.readReg_setQp _ q hblock]

end

theorem exec_registerWrite_ready {off : BitVec 24} (v : Word) (hoff : off.toNat % 4 = 0) :
    ∃ b : State, HostChange s b ∧ Outputs s b [] ∧ (∀ j, b.qp? j = s.qp? j) ∧
      exec (.registerWrite qp off v) s = .next ((b.writeReg off.toNat v).ackIf qp).pump :=
  ⟨s.setQp qp.toNat q, rfl, outputs_nil rfl rfl, State.qp?_setQp_of_eq hq,
    congrArg Host.Outcome.next (State.regWrite1_eq hq hst hrole v hoff (offset_word_le hoff))⟩

/-- A command that writes one register ends in what the write leaves, acknowledged. -/
theorem ends_of_regWrite1 {i : Instr} {off : Nat} {v : Word} {P : State → Prop} (hexec : exec i s = .next (s.regWrite1 qp off v))
    (hoff : off % 4 = 0) (hend : off + 4 ≤ 2 ^ 24) (hP : ∀ e, HostOnly ((s.setQp qp.toNat q).writeReg off v) e → P e) :
    Ends i s State.pump P :=
  ⟨_, hexec.trans (congrArg Host.Outcome.next (State.regWrite1_eq hq hst hrole v hoff hend)), hP _ (State.ackIf_only _ qp)⟩

theorem exec_vminclr_clears : Ends (.vminclr qp) s State.pump fun e => e.aon = { s.aon with vmin := s.aon.vin } ∧ e.job = s.job := by
  refine ends_of_regWrite1 hq hst hrole (off := 0x2018) (v := 1) rfl rfl (by decide) fun e he => ?_
  rw [he.aon, he.job, State.writeReg_pwrClear]
  exact ⟨rfl, rfl⟩

theorem exec_peakclr_clears : Ends (.peakclr qp) s State.pump fun e => e.aon = { s.aon with peak := s.aon.pin } ∧ e.job = s.job := by
  refine ends_of_regWrite1 hq hst hrole (off := 0x2018) (v := 2) rfl rfl (by decide) fun e he => ?_
  rw [he.aon, he.job, State.writeReg_pwrClear]
  exact ⟨rfl, rfl⟩

section
variable (region : BitVec 16) (hidle : s.job.state = .idle) (hload : s.score.load = none)
include hidle hload

theorem exec_scoreLoadReservedKind_refused (kind3 : Bool) : Ends (.scoreLoadReservedKind qp region kind3) s State.pump fun e =>
    e.score.load = none ∧ e.score.loadStatus = stILLEGAL ∧ e.score.loadDone = true := by
  refine ends_of_regWrite1 hq hst hrole (off := 0xB004) rfl rfl (by decide) fun e he => ?_
  have hkind : (if kind3 then 3 else 0) = 0 ∨ (if kind3 then 3 else 0) = 3 := by cases kind3 <;> simp
  have hlt : (if kind3 then 3 else 0) < 4 := by cases kind3 <;> decide
  rw [he.score, State.writeReg_load (s := s.setQp qp.toNat q) hidle region hlt,
    State.loadGo_reserved (s := (s.setQp qp.toNat q).withLoad _) hload _ hkind]
  exact ⟨rfl, rfl, rfl⟩

/-- A load of a set whose kind SCORE.LOAD has, from a range of a region that may be read. -/
theorem ends_of_loadGo {i : Instr} {kind : Nat} (hexec : exec i s = .next (s.regWrite1 qp 0xB004 (loadWord region kind)))
    (hkind : kind = 1 ∨ kind = 2)
    (hread : s.canRead region.toNat (s.cfg.loadLo.toNat + 2 ^ 32 * s.cfg.loadHi.toNat) s.cfg.loadLen.toNat = true) :
    Ends i s State.pump fun e => e.score.load = some ⟨kind, region.toNat, s.cfg.loadLen.toNat, false⟩ := by
  refine ends_of_regWrite1 hq hst hrole hexec rfl (by decide) fun e he => ?_
  have hlt : kind < 4 := by omega
  rw [he.score, State.writeReg_load (s := s.setQp qp.toNat q) hidle region hlt]
  have hnamed : ¬ (kind = 0 ∨ kind = 3) := by omega
  exact State.loadGo_starts (s := (s.setQp qp.toNat q).withLoad _) hload region.toNat hnamed hread

end

theorem exec_attestGo_busy (region : BitVec 16) (hbusy : s.att.busy = true) : Ends (.attestGo qp region) s State.pump fun e =>
    e.att = { s.att with overrun := true } ∧ e.job = s.job := by
  refine ends_of_regWrite1 hq hst hrole (off := 0xC000) rfl rfl (by decide) fun e he => ?_
  rw [he.att, he.job, State.writeReg_attGo, State.attGo_busy (s := (s.setQp qp.toNat q).withAttCtl _) hbusy]
  exact ⟨rfl, rfl⟩

theorem exec_attestGo_signs (region : BitVec 16) (hbusy : s.att.busy = false) (hleaf : s.att.next < leafEnd)
    (hlms : s.score.nolms = false) (hlimit : s.att.next < s.att.limit) (htree : s.att.tree = some (s.att.next / 32768)) :
    Ends (.attestGo qp region) s State.pump fun e =>
      e.att.busy = true ∧ e.att.next = s.att.next + 1 ∧ e.att.signed.length = 384 + 5396 ∧ e.job = s.job := by
  refine ends_of_regWrite1 hq hst hrole (off := 0xC000) rfl rfl (by decide) fun e he => ?_
  rw [he.att, he.job, State.writeReg_attGo]
  exact State.attGo_signs (s := (s.setQp qp.toNat q).withAttCtl _) region.toNat hbusy hleaf hlms hlimit htree

end

/-- Settles O56, access by access of a MANAGE queue pair, then the registers that only an idle module takes, then the sideband and the
JTAG port, of which the check code of an answer (log entry 33), the register an instruction selects (entry 32) and the boot step both
answer from (entry 66) are the model's. -/
theorem registersAndSideband : Obligations.RegistersAndSideband := by
  unfold Obligations.RegistersAndSideband
  intro s
  refine ⟨fun qp q hq hst hrole => ⟨fun off => exec_loRegisterRead_captures hq hst hrole,
      fun off v hoff hlo hfour hhi => ⟨exec_hiRegisterRead_latched hq hst hrole hoff hlo hfour hhi,
        exec_hiRegisterRead_unlatched hq hst hrole hoff hlo hfour hhi⟩,
      fun off v => exec_registerWrite_ready hq hst hrole v, exec_vminclr_clears hq hst hrole, exec_peakclr_clears hq hst hrole,
      fun region kind3 hidle hload => ⟨exec_scoreLoadReservedKind_refused hq hst hrole region hidle hload kind3,
        fun r _ hread => ⟨ends_of_loadGo hq hst hrole region hidle hload rfl (.inl rfl) hread,
          ends_of_loadGo hq hst hrole region hidle hload rfl (.inr rfl) hread⟩⟩,
      exec_attestGo_busy hq hst hrole, exec_attestGo_signs hq hst hrole⟩,
    fun v hidle => State.writeReg_idle hidle v, fun v off hrun => State.writeReg_locked hrun v, fun hboot => ?_,
    fun isWrite code => exec_smbUndefinedAccess s, fun hboot => ?_, idcode_fields⟩
  · have hword (code : Byte) (w : BitVec 16) := congrArg (Host.Outcome.next (φ := Fault) (ρ := Refusal))
      (State.smbAnswer_powered (State.powered_of_le hboot) code w)
    exact ⟨hword 1 _, hword 2 _, hword 7 _, hword 8 _, fun die => hword _ _, s.statusWord, hword 9 _, s.statusWord_bits⟩
  · have hloads {i : Tap} {sel : Nat} {v : Word} := State.jtagLoad_powered (i := i) (sel := sel) (v := v) (State.powered_of_le hboot)
    have hextest {i : Tap} := State.jtagLoad_extest (i := i) (State.powered_of_le hboot)
    exact ⟨⟨_, rfl, hloads rfl rfl⟩, ⟨_, rfl, hloads rfl rfl⟩, ⟨_, rfl, hloads rfl rfl⟩, ⟨_, rfl, hloads rfl rfl⟩,
      ⟨_, rfl, hextest rfl⟩, ⟨_, rfl, hextest rfl⟩, ⟨_, rfl, hextest rfl⟩⟩

end Sys2Proof.Machine

/-! ## Scalar memory (R280)

O4 from what the checks of an access answer where R280 allows it, and what the two effects leave. -/

namespace Sys2Proof.Machine

open Claim

/-- An access R280 allows passes its checks. -/
theorem State.scalarAccess_of_ok {s : State} {x : Ctx} {bh : HReg} {k : Hnd} {b : Buffer} {addr : Dword} {n : Nat} {store : Bool}
    (h : ScalarOk s x bh k b addr.toNat n store) : s.scalarAccess x bh addr n store = .ok b addr.toNat := by
  obtain ⟨hlive, hcls, hwrite, hinside, haligned, hhere, hquiet⟩ := h
  have hclass : ¬ (!(b.cls == .resident || b.cls == .stash) || (store && !k.write)) = true := by
    have : k.write = true ∨ store = false := by cases store <;> simp_all
    rcases hcls with hcls | hcls <;> rcases this with hw | hw <;> simp [hcls, hw]
  unfold State.scalarAccess
  rw [hlive]
  dsimp only
  rw [if_neg hclass, if_neg (Nat.not_lt.2 hinside), if_neg (not_not.2 haligned), if_neg (by simp [hhere, hquiet])]

theorem Job.id_of_buf? {j : Job} {n : Nat} {b : Buffer} (h : j.buf? n = some b) : b.id = n := by
  simpa using List.find?_some h

/-- A valid handle names the buffer that the job has under its number. -/
theorem Job.buf?_of_live {j : Job} {h : Option Hnd} {k : Hnd} {b : Buffer} (hl : j.live h = some (k, b)) :
    h = some k ∧ k.buf = b.id ∧ j.buf? b.id = some b := by
  unfold Job.live at hl
  split at hl
  · cases hl
  · split at hl
    · cases hl
    · rename_i hb
      split at hl
      · cases hl
      · cases hl
        have hid := Job.id_of_buf? hb
        exact ⟨rfl, hid.symm, by rw [hid, hb]⟩

/-- Sign extension adds 2^64 less the span of the size, modulo 2^64. -/
theorem ofNat_sub_add_eq_ofInt (p v : Nat) (hp : p ≤ 2 ^ 64) :
    BitVec.ofNat 64 (2 ^ 64 - p + v) = BitVec.ofInt 64 ((v : Int) - p) := by
  apply BitVec.eq_of_toNat_eq
  simp only [BitVec.toNat_ofNat, BitVec.toNat_ofInt]
  omega

/-- The value loaded, over the integers. -/
theorem loadFn_eq (size : BitVec 2) (sx : Bool) (v : Nat) :
    loadFn (2 ^ size.toNat) sx v = BitVec.ofInt 64 (if sx = true ∧ v ≥ 2 ^ (8 * 2 ^ size.toNat - 1) then
      (v : Int) - 2 ^ (8 * 2 ^ size.toNat) else v) := by
  have hspan : 2 ^ (8 * 2 ^ size.toNat) ≤ 2 ^ 64 :=
    Nat.pow_le_pow_right (by omega) (Nat.mul_le_mul_left 8 (Nat.pow_le_pow_right (by omega) (Nat.le_of_lt_succ size.isLt) : _ ≤ 2 ^ 3))
  unfold loadFn
  split
  · rw [ofNat_sub_add_eq_ofInt _ _ hspan]
    norm_cast
  · rw [BitVec.ofInt_natCast]

/-- The state after a scalar access: context c with architectural state a, the buffers l, one more number taken. -/
def State.accessed (s : State) (c : CtxId) (x : Ctx) (a : Arch) (l : List Buffer) : State :=
  { s with job := { s.job with
      ctxs := (s.job.setCtx c (some { x with arch := a })).ctxs
      bufs := l
      nextUid := s.job.nextUid + 1 } }

theorem State.modArch_accessed {s : State} {c : CtxId} {x : Ctx} (hx : s.job.ctx? c = some x) (l : List Buffer) (f : Arch → Arch) :
    ({ s with job := { s.job with bufs := l, nextUid := s.job.nextUid + 1 } } : State).modArch c f = s.accessed c x (f x.arch) l :=
  State.modArch_eq _ c x f hx

/-- An SLD taken whose access R280 allows loads its register. -/
theorem exec_sld_ok {s : State} {c : CtxId} {x : Ctx} {k : Hnd} {b : Buffer} {f : SldF} (h : Takes s c x f.g f.legal [f.sd, f.sa])
    (ha : ScalarOk s x f.bh k b (scalarAddr x f.sa f.imm) (2 ^ f.size.toNat) false) :
    exec (.sld c f) s = .next (s.accessed c x (x.arch.setReg f.sd (loadFn (2 ^ f.size.toNat) f.sx
      (leNat (memReadN 0 b.mem (scalarAddr x f.sa f.imm) (2 ^ f.size.toNat))))).next (s.job.touch [b.id] s.job.nextUid).bufs) := by
  change execSld c f s = _
  refine (seatTake_takes _ h).trans ?_
  have hacc := State.scalarAccess_of_ok (addr := x.arch.reg f.sa + f.imm.signExtend 64) ha
  dsimp only
  rw [hacc, h.legal]
  exact congrArg Host.Outcome.next (State.modArch_accessed h.here _ _)

/-- An SST taken whose access R280 allows stores. -/
theorem exec_sst_ok {s : State} {c : CtxId} {x : Ctx} {k : Hnd} {b : Buffer} {f : SstF} (h : Takes s c x f.g f.legal [f.ss, f.sa])
    (ha : ScalarOk s x f.bh k b (scalarAddr x f.sa f.imm) (2 ^ f.size.toNat) true) :
    exec (.sst c f) s = .next (s.accessed c x x.arch.next ((s.job.modBuf b.id fun y =>
      y.writeBytes (scalarAddr x f.sa f.imm) (leBytes (x.arch.reg f.ss).toNat (2 ^ f.size.toNat))).touch [b.id] s.job.nextUid).bufs) := by
  change execSst c f s = _
  refine (seatTake_takes _ h).trans ?_
  have hacc := State.scalarAccess_of_ok (addr := x.arch.reg f.sa + f.imm.signExtend 64) ha
  dsimp only
  rw [hacc, h.legal]
  exact congrArg Host.Outcome.next (State.modArch_accessed h.here _ _)

/-! ### The buffers -/

/-- A buffer with byte string l written at a, and its access noted. -/
def Buffer.stored (y : Buffer) (a : Nat) (l : List Byte) (n : Nat) : Buffer := { y.writeBytes a l with lastAccess := n }

/-- Noting an access changes the order of accesses alone. -/
theorem Job.touch_bufs_map {β : Type} (j : Job) (l : List Nat) (n : Nat) (g : Buffer → β)
    (hg : ∀ y, g { y with lastAccess := n } = g y) : (j.touch l n).bufs.map g = j.bufs.map g := by
  simp only [Job.touch, List.map_map]
  refine List.map_congr_left fun y _ => ?_
  simp only [Function.comp_apply, apply_ite g, hg, ite_self]

/-- A store and its noting: the buffers with the number hold the bytes, every other one is as it was. -/
theorem Job.touch_modBuf_bufs (j : Job) (b a n : Nat) (l : List Byte) :
    ((j.modBuf b fun y => y.writeBytes a l).touch [b] n).bufs = j.bufs.map fun y => if y.id = b then y.stored a l n else y := by
  simp only [Job.touch, Job.modBuf, List.map_map]
  refine List.map_congr_left fun y _ => ?_
  by_cases hy : y.id = b
  · simp [hy, Buffer.stored, Buffer.writeBytes]
  · simp [hy]

theorem find?_id_map_ite {l : List Buffer} {b : Nat} {f : Buffer → Buffer} (hf : ∀ y, (f y).id = y.id) :
    (l.map fun y => if y.id = b then f y else y).find? (fun y => y.id == b) = (l.find? fun y => y.id == b).map f := by
  induction l with
  | nil => rfl
  | cons y r ih =>
    by_cases hy : y.id = b
    · simp [hy, hf]
    · simp [hy, ih]

theorem length_leBytes (n k : Nat) : (leBytes n k).length = k := by
  induction k generalizing n with
  | zero => rfl
  | succ k ih => simp [leBytes, ih]

/-- Byte i of a little-endian string. -/
theorem getD_leBytes (n k i : Nat) (hi : i < k) : (leBytes n k).getD i 0 = BitVec.ofNat 8 (n / 256 ^ i) := by
  induction k generalizing n i with
  | zero => omega
  | succ k ih =>
    cases i with
    | zero => simp [leBytes]
    | succ i => rw [leBytes, List.getD_cons_succ, ih _ _ (by omega), Nat.div_div_eq_div_mul, Nat.pow_succ, Nat.mul_comm]

/-- Settles O4: what an allowed access answers (`exec_sld_ok`, `exec_sst_ok`), and byte by byte what a store leaves
(`memRead_memWriteN`). -/
theorem scalarMemoryLoadsAndStores : Obligations.ScalarMemoryLoadsAndStores := by
  unfold Obligations.ScalarMemoryLoadsAndStores
  intro s c x k b
  refine ⟨fun f h ha => ⟨_, exec_sld_ok h ha, ?_⟩, fun f h ha => ⟨_, exec_sst_ok h ha, ?_⟩⟩
  · refine ⟨_, ⟨rfl, Job.touch_bufs_map _ _ _ _ fun _ => rfl⟩, Job.touch_bufs_map _ _ _ _ fun _ => rfl, ?_⟩
    dsimp only
    rw [← loadFn_eq]
    exact regWritten_setReg_next _ _ _
  · obtain ⟨-, -, hbuf⟩ := Job.buf?_of_live ha.live
    rw [Job.touch_modBuf_bufs]
    generalize hl : leBytes (x.arch.reg f.ss).toNat (2 ^ f.size.toNat) = l
    have hlen : l.length = 2 ^ f.size.toNat := by rw [← hl, length_leBytes]
    refine ⟨⟨rfl, ?_⟩, fun d hd hne => ⟨d, List.mem_map.2 ⟨d, hd, if_neg hne⟩, rfl, rfl⟩,
      b.stored (scalarAddr x f.sa f.imm) l s.job.nextUid, ?_, fun i hi => ?_, fun i hi => ?_⟩
    · refine List.map_map.trans (List.map_congr_left fun y _ => ?_)
      simp only [Function.comp_apply]
      split <;> rfl
    · exact (find?_id_map_ite (f := fun y => y.stored _ l _) fun _ => rfl).trans (congrArg _ hbuf)
    · refine (memRead_memWriteN 0 l b.mem _ _).trans ?_
      rw [if_pos ⟨by omega, by omega⟩, Nat.add_sub_cancel_left, ← hl, getD_leBytes _ _ _ hi]
    · exact (memRead_memWriteN 0 l b.mem _ _).trans (if_neg (by omega))

end Sys2Proof.Machine

/-! ## Compares and predicate logic (R278)

O2 from the table of R278 on bit vectors, against its reading over the integers. -/

namespace Sys2Proof.Machine

open Claim

theorem predWritten_setPred_next (a : Arch) (p : PReg) (v : Bool) : PredWritten a (a.setPred p v).next p v := by
  refine ⟨by simp, fun q => ?_, by simp, by simp, by simp, by simp⟩
  have hq : q = p ∧ p ≠ 0 ↔ q = p ∧ q ≠ 0 := and_congr_right fun h => by rw [h]
  rw [Arch.pred_next, Arch.pred_setPred, if_congr hq rfl rfl]

theorem Fp.isNan_iff (a : Fp) : a.isNan = true ↔ a = .nan := by
  cases a <;> simp [Fp.isNan]

/-- R278 on bit vectors decides its table over the integers and the floating-point values. -/
theorem cmpFn_iff (n : Nat) (a b : Dword) : cmpFn n a b = true ↔ cmpHolds n a b := by
  unfold cmpFn cmpHolds
  rw [BitVec.ofNat_toNat, BitVec.ofNat_toNat]
  match n with
  | 0 => exact beq_iff_eq
  | 1 => exact bne_iff_ne
  | 2 => exact BitVec.slt_iff_toInt_lt
  | 3 => exact decide_eq_true_iff.trans BitVec.lt_def
  | 4 =>
    change (!b.slt a) = true ↔ a.toInt ≤ b.toInt
    rw [Bool.not_eq_true', ← Bool.not_eq_true, BitVec.slt_iff_toInt_lt, Int.not_lt]
  | 5 =>
    change (!decide (b < a)) = true ↔ a.toNat ≤ b.toNat
    rw [Bool.not_eq_true', decide_eq_false_iff_not, BitVec.not_lt, BitVec.le_def]
  | 6 => exact Iff.rfl
  | 7 => exact Iff.rfl
  | 8 => exact Iff.rfl
  | n + 9 => exact (Bool.or_eq_true _ _).to_iff.trans (or_congr (Fp.isNan_iff _) (Fp.isNan_iff _))

theorem exec_cmp_takes {s : State} {c : CtxId} {x : Ctx} {f : CmpF}
    (h : Takes s c x f.g f.legal (if f.useImm then [f.sa] else [f.sa, f.sb])) :
    exec (.cmp c f) s = .next (s.modArch c fun a =>
      (a.setPred f.pd (cmpFn f.funct.toNat (a.reg f.sa) (if f.useImm then f.imm.signExtend 64 else a.reg f.sb))).next) := by
  change execCmp c f s = _
  exact seatRun_takes _ h

theorem exec_plog_takes {s : State} {c : CtxId} {x : Ctx} {f : PlogF}
    (h : Takes s c x f.g f.legal (if f.funct.toNat ≥ 4 then [f.sd] else [])) :
    exec (.plog c f) s = .next (s.modArch c fun a =>
      (if f.funct = 4 then a.setPred f.pd (a.reg f.sd != 0)
       else if f.funct = 5 then a.setReg f.sd (if a.pred f.pa then 1 else 0)
       else a.setPred f.pd (plogFn f.funct.toNat (a.pred f.pa) (a.pred f.pb))).next) := by
  change execPlog c f s = _
  exact seatRun_takes _ h

/-- The functions of two predicates are those of FUNCT 0 to 3. -/
theorem plogFn_eq (n : BitVec 3) (a b v : Bool) (hn : n.toNat ≤ 3) :
    plogFn n.toNat a b = if n = 0 then a && b else if n = 1 then a || b else if n = 2 then xor a b
      else if n = 3 then a && !b else v := by
  have hcases : n = 0 ∨ n = 1 ∨ n = 2 ∨ n = 3 := by bv_omega
  rcases hcases with h | h | h | h <;> subst h <;> rfl

theorem PlogF.funct_le_of_legal {f : PlogF} (h : f.legal = true) : f.funct.toNat ≤ 5 := by
  simp only [PlogF.legal, Bool.and_eq_true, decide_eq_true_eq] at h
  obtain ⟨⟨-, hf⟩, -⟩ := h
  exact hf

/-- Settles O2: a compare by `cmpFn_iff`, PLOG by whether its FUNCT writes a register, reads one, or joins two predicates. -/
theorem comparesAndLogicWritePredicate : Obligations.ComparesAndLogicWritePredicate := by
  unfold Obligations.ComparesAndLogicWritePredicate
  refine fun s c x => ⟨fun f h => ?_, fun f h => ?_⟩
  · exact gives_of_modArch h.here (exec_cmp_takes h) ⟨_, predWritten_setPred_next _ _ _, cmpFn_iff _ _ _⟩
  · refine gives_of_modArch h.here (exec_plog_takes h) ?_
    have hle := PlogF.funct_le_of_legal h.legal
    dsimp only
    by_cases h4 : f.funct = 4
    · have hne : (x.arch.reg f.sd != 0) = decide (x.arch.reg f.sd ≠ 0) :=
        Bool.eq_iff_iff.2 (bne_iff_ne.trans decide_eq_true_iff.symm)
      rw [hne]
      simpa [h4] using predWritten_setPred_next x.arch f.pd (decide (x.arch.reg f.sd ≠ 0))
    by_cases h5 : f.funct = 5
    · rw [h5]
      exact regWritten_setReg_next _ _ _
    have hlow : f.funct.toNat ≤ 3 := by
      have h4' : f.funct.toNat ≠ 4 := fun e => h4 (BitVec.eq_of_toNat_eq e)
      have h5' : f.funct.toNat ≠ 5 := fun e => h5 (BitVec.eq_of_toNat_eq e)
      omega
    rw [if_neg h4, if_neg h5, if_neg h5, ← plogFn_eq _ _ _ _ hlow]
    exact predWritten_setPred_next _ _ _

end Sys2Proof.Machine

/-! ## Branches and misuse of the trick tag (R279, R281, R297, R298)

O3 and O6: what each word taken answers. -/

namespace Sys2Proof.Machine

open Claim

theorem State.goodPc_iff (s : State) (t : Dword) : s.goodPc t = true ↔ t.toNat % 8 = 0 ∧ t.toNat < s.job.code.length := by
  simp [State.goodPc]

theorem exec_br_takes {s : State} {c : CtxId} {x : Ctx} {f : BrF} (h : Takes s c x f.g f.legal []) :
    exec (.br c f) s = .next (
      if s.goodPc (x.arch.pc + 8 * f.off.signExtend 64) then s.modArch c fun a => { a with pc := x.arch.pc + 8 * f.off.signExtend 64 }
      else s.seatFault c x stILLEGAL 0xFF f.word 0) := by
  change execBr c f s = _
  exact seatRun_takes _ h

theorem exec_jal_takes {s : State} {c : CtxId} {x : Ctx} {f : JalF} (h : Takes s c x f.g f.legal [f.sd, f.sa]) :
    exec (.jal c f) s = .next (
      if s.goodPc (x.arch.reg f.sa + f.imm.signExtend 64) then
        s.modArch c fun a => { a.setReg f.sd (a.pc + 8) with pc := x.arch.reg f.sa + f.imm.signExtend 64 }
      else s.seatFault c x stILLEGAL 0xFF f.word 0) := by
  change execJal c f s = _
  exact seatRun_takes _ h

/-- The target of a BR, over the integers. -/
theorem brTarget_eq (pc : Dword) (off : Word) :
    pc + 8 * off.signExtend 64 = BitVec.ofInt 64 (pc.toNat + 8 * off.toInt) := by
  rw [BitVec.ofInt_add, BitVec.ofInt_mul, ofInt_toNat]
  rfl

/-- The target of a JAL is the address of a scalar access. -/
theorem jalTarget_eq (x : Ctx) (sa : SReg) (imm : Word) :
    x.arch.reg sa + imm.signExtend 64 = BitVec.ofNat 64 (scalarAddr x sa imm) := by
  rw [scalarAddr, BitVec.ofNat_toNat, BitVec.setWidth_eq]
  rfl

/-- JAL writes its link register; its PC apart, that is one register written. -/
theorem regWritten_link (a : Arch) (sd : SReg) : RegWritten a { a.setReg sd (a.pc + 8) with pc := a.pc + 8 } sd (a.pc + 8) := by
  simpa [Arch.next] using regWritten_setReg_next a sd (a.pc + 8)

/-- Settles O3, by whether the target is one of the code. -/
theorem branchesSetPcOrFault : Obligations.BranchesSetPcOrFault := by
  unfold Obligations.BranchesSetPcOrFault
  refine fun s c x => ⟨fun f h => ?_, fun f h => ?_⟩
  · have hexec := exec_br_takes h
    rw [brTarget_eq] at hexec
    dsimp only
    split <;> rename_i ht
    · rw [hexec, if_pos ((s.goodPc_iff _).2 ht), State.modArch_eq s c x _ h.here]
    · rw [hexec, if_neg ((s.goodPc_iff _).not.2 ht)]
      rfl
  · have hexec := exec_jal_takes h
    rw [jalTarget_eq] at hexec
    dsimp only
    split <;> rename_i ht
    · rw [if_pos ((s.goodPc_iff _).2 ht)] at hexec
      exact gives_of_modArch h.here hexec ⟨rfl, regWritten_link _ _⟩
    · rw [hexec, if_neg ((s.goodPc_iff _).not.2 ht)]
      rfl

/-! ### The trick tag -/

theorem exec_exit_takes {s : State} {c : CtxId} {x : Ctx} {f : BareF} (h : Takes s c x f.g f.legal []) :
    exec (.exit c f) s = .next (
      if x.tag.isSome then s.seatFault c x stILLEGAL 0xFF (f.word 0x0A) 0
      else if x.joined.isEmpty then s.endCtx c
      else { s with job := s.job.modCtx c fun x => { x with stall := some .exit } }.settle) := by
  change execExit c f s = _
  exact seatRun_takes _ h

theorem exec_tbegin_takes {s : State} {c : CtxId} {x : Ctx} {f : TbeginF} (h : Takes s c x f.g f.legal [f.sd]) :
    exec (.tbegin c f) s = .next (
      if x.tag.isSome ∨ s.joinTarget x > trickMax then s.seatFault c x stILLEGAL 0xFF f.word 0
      else if (s.setRecov fun r => { r with issuedT := true }).stallHolds x (.tbegin f.sd f.word) then
        (s.setRecov fun r => { r with issuedT := true }).stallAt c (.tbegin f.sd f.word)
      else (s.setRecov fun r => { r with issuedT := true }).join c (s.joinTarget x) f.sd) := by
  change execTbegin c f s = _
  exact seatRun_takes _ h

/-- What TSEAL leaves of its context: no tag, the next word, and the trick marked. -/
def Ctx.tseal (x : Ctx) (t : Nat) : Ctx :=
  { x with
    tag := none
    arch := x.arch.next
    joined := x.joined.map fun (k : Joined) => if k.trick = t then { k with tsealed := true } else k }

theorem exec_tseal_takes {s : State} {c : CtxId} {x : Ctx} {f : BareF} (h : Takes s c x f.g f.legal []) :
    exec (.tseal c f) s = .next (match x.tag with
      | none => s.seatFault c x stILLEGAL 0xFF (f.word 0x1C) 0
      | some t => (withCtx s c (some (x.tseal t))).settle) := by
  change execTseal c f s = _
  refine (seatRun_takes _ h).trans ?_
  cases x.tag with
  | none => rfl
  | some t =>
    dsimp only
    rw [Job.modCtx_eq _ _ _ _ h.here]
    rfl

/-- Settles O6: each word taken is the fault. -/
theorem trickTagMisuseFaults : Obligations.TrickTagMisuseFaults := by
  unfold Obligations.TrickTagMisuseFaults
  refine fun s c x => ⟨fun f h ht => ?_, fun f h ht => ?_, fun f h ht => ?_⟩
  · rw [exec_exit_takes h, if_pos ht]
    rfl
  · rw [exec_tbegin_takes h, if_pos (.inl ht)]
    rfl
  · rw [exec_tseal_takes h, State.seatFault, ht]

end Sys2Proof.Machine

/-! ## The end of a context (R257, R281, R431)

O5 from what is left where a context goes (`State.dropCtx`). -/

namespace Sys2Proof.Machine

open Claim

/-- Collecting keeps who owns a buffer that stays and whether it is released. -/
theorem Job.collect_owners {j : Job} {b : Buffer} (hb : b ∈ j.collect.bufs) :
    ∃ a ∈ j.bufs, a.owner = b.owner ∧ a.released = b.released := by
  simp only [Job.collect, Job.mapCtxs_bufs, List.mem_map, List.mem_filter] at hb
  obtain ⟨a, ⟨ha, -⟩, rfl⟩ := hb
  refine ⟨a, ha, ?_⟩
  split <;> exact ⟨rfl, rfl⟩

/-- Collecting takes no context and adds none. -/
theorem Job.collect_ctx?_none {j : Job} {c : CtxId} (h : j.ctx? c = none) : j.collect.ctx? c = none := by
  simp only [Job.collect, Job.ctx?_mapCtxs, Option.map_eq_none_iff]
  exact h

/-- A context that has gone is there no more. -/
theorem State.dropCtx_ctx?_self (s : State) (c : CtxId) (rel : Buffer → Buffer) : (s.dropCtx c rel).job.ctx? c = none := by
  unfold State.dropCtx
  split
  · assumption
  · exact Job.collect_ctx?_none (Job.ctx?_setCtx_same s.job c none)

/-- The buffers left that a context owned are released, where rel releases. -/
theorem State.dropCtx_released {s : State} {c : CtxId} {x : Ctx} {rel : Buffer → Buffer} (hx : s.job.ctx? c = some x)
    (hrel : ∀ b, (rel b).released = true) {b : Buffer} (hb : b ∈ (s.dropCtx c rel).job.bufs) (ho : b.owner = c) :
    b.released = true := by
  unfold State.dropCtx at hb
  rw [hx] at hb
  obtain ⟨a, ha, hown, hr⟩ := Job.collect_owners hb
  simp only [Job.dropGone, List.mem_map] at ha
  obtain ⟨-, ⟨y, -, rfl⟩, rfl⟩ := ha
  rw [← hr]
  dsimp only at hown ⊢
  split at hown <;> rename_i hy
  · rw [if_pos hy, hrel]
  · exact absurd (hown.trans ho) hy

/-- What a context that ends leaves (R281). -/
def Ended (c : CtxId) (x : Ctx) (e : State) : Prop :=
  e.job.ctx? c = none ∧ (∀ b ∈ e.job.bufs, b.owner = c → b.released = true) ∧
    ∃ d : State, d.job.ctx? c = none ∧ e = d.release (.ownerCompl x.last ⟨2, stOK, 0, 0, zerosTo [stOK, BitVec.ofNat 8 c.val] 48⟩)

theorem State.endCtx_ended {s : State} {c : CtxId} {x : Ctx} (hx : s.job.ctx? c = some x) :
    ∃ e, s.endCtx c = e.settle ∧ Ended c x e := by
  have hrel := State.release_only (s.dropCtx c Buffer.relNow)
    (.ownerCompl x.last ⟨2, stOK, 0, 0, zerosTo [stOK, BitVec.ofNat 8 c.val] 48⟩)
  refine ⟨_, ?_, ?_, fun b hb ho => ?_, _, State.dropCtx_ctx?_self s c Buffer.relNow, rfl⟩
  · rw [State.endCtx, hx]
    rfl
  · rw [hrel.job]
    exact State.dropCtx_ctx?_self s c Buffer.relNow
  · rw [hrel.job] at hb
    exact State.dropCtx_released hx (fun _ => rfl) hb ho

/-- Settles O5: both commands end the context (`State.endCtx_ended`). -/
theorem exitEndsContext : Obligations.ExitEndsContext := by
  unfold Obligations.ExitEndsContext
  refine fun s c x => ⟨fun f h ht hj => ?_, fun hx hr hs hj => ?_⟩
  · obtain ⟨e, hend, he⟩ := State.endCtx_ended h.here
    refine ⟨e, ?_, he⟩
    rw [exec_exit_takes h, if_neg (by simp [ht]), if_pos (by simp [hj]), hend]
  · obtain ⟨e, hend, he⟩ := State.endCtx_ended hx
    refine ⟨e, ?_, he⟩
    change execExitComplete c s = _
    unfold execExitComplete
    rw [hx]
    dsimp only
    rw [if_pos ⟨hr, hs, hj⟩, hend]

end Sys2Proof.Machine

/-! ## REL and SHARE (R256, R257, R285, R286)

O8 and O9: each word taken, and of several checks that fail the greatest code (R12). -/

namespace Sys2Proof.Machine

open Claim

/-- A release through handle bh, which is k to buffer b, before the Table looks again. -/
def State.relThrough (s : State) (c : CtxId) (x : Ctx) (bh : HReg) (k : Hnd) (b : Buffer) : State :=
  (if k.owner then { s with job := s.job.modBuf b.id fun y => y.relOwner x.tag } else s).withArch c x (x.arch.setHnd bh none).next

theorem exec_rel_takes {s : State} {c : CtxId} {x : Ctx} {f : RelF} (h : Takes s c x f.g f.legal []) :
    exec (.rel c f) s = .next (match s.job.live (x.arch.hnd f.bh) with
      | none => s.seatFault c x stBUFFER (f.bh.setWidth 8) f.word (BitVec.allOnes 64)
      | some (k, b) => (s.relThrough c x f.bh k b).settle) := by
  change execRel c f s = _
  refine (seatTake_takes _ h).trans ?_
  cases hl : s.job.live (x.arch.hnd f.bh) with
  | none => rfl
  | some p =>
    dsimp only
    rw [if_neg (by simp [h.legal]), State.modArch_eq _ c x _ (by split <;> exact h.here)]
    rfl

/-- Settles O8: the release comes before the handle goes, and touches the buffer's own number alone. -/
theorem relReleasesThroughOwner : Obligations.RelReleasesThroughOwner := by
  unfold Obligations.RelReleasesThroughOwner
  refine fun s c x f h => ⟨fun hl => ?_, fun k b hl => ⟨s.relThrough c x f.bh k b, ?_, ?_, fun ho => ?_, fun ho => ?_⟩⟩
  · rw [exec_rel_takes h, hl]
    rfl
  · rw [exec_rel_takes h, hl]
  · exact Job.ctx?_setCtx_same _ c _
  · rw [State.relThrough, ho]
    rfl
  · rw [State.relThrough, ho]
    rfl

/-! ### EXPORT -/

theorem badBufid_iff {v : Nat} : badBufid true v = none ↔ v ≠ 0 ∧ v ≤ 4095 := by
  simp [badBufid, illegal, chk]

theorem badBufid_eq {v : Nat} (hv : v = 0 ∨ v > 4095) : badBufid true v = some ⟨stILLEGAL, 0xFF, 0⟩ :=
  if_pos (by simpa [or_assoc] using hv)

/-- Of a form and a buffer that both fail, the buffer is reported. -/
theorem pickLate_buffer (p : Bool) (hb : Byte) (d : Dword) :
    pickLate [illegal p, some ⟨stBUFFER, hb, d⟩] = some ⟨stBUFFER, hb, d⟩ := by
  cases p <;> rfl

/-- A buffer exported, its context gone on to the next word; an area made whole is attached (R362). -/
def State.exportAs (s : State) (c : CtxId) (x : Ctx) (b : Buffer) (v : Nat) (acc : Bool) : State :=
  { s with job := { (s.job.setCtx c (some { x with arch := { x.arch with pc := x.arch.pc + 8 } })) with
    bufs := s.job.bufs.map fun y => if y.id = b.id then { y with exp := some (v, acc, x.tag) } else y } }

theorem exec_shareExport_bad {s : State} {c : CtxId} {x : Ctx} {f : ShareF} {st hb : Byte} {d : Dword} (h : Takes s c x f.g f.legal [f.sI])
    (hl : pickLate [badBufid true (x.arch.reg f.sI).toNat, s.job.exportBad x f.bh (x.arch.reg f.sI).toNat] = some ⟨st, hb, d⟩) :
    exec (.shareExport c f) s = .next (s.raiseFault c x.tag st hb x.arch.pc (f.word 0) d) := by
  change execShareExport c f s = _
  refine (seatTake_takes _ h).trans ?_
  rw [h.legal]
  dsimp only
  rw [hl]
  rfl

theorem exec_shareExport_good {s : State} {c : CtxId} {x : Ctx} {f : ShareF} {k : Hnd} {b : Buffer}
    (h : Takes s c x f.g f.legal [f.sI]) (hlive : s.job.live (x.arch.hnd f.bh) = some (k, b))
    (hl : pickLate [badBufid true (x.arch.reg f.sI).toNat, s.job.exportBad x f.bh (x.arch.reg f.sI).toNat] = none) :
    exec (.shareExport c f) s = .next (if s.serveAttached then s.exportAs c x b (x.arch.reg f.sI).toNat f.acc
      else (s.exportAs c x b (x.arch.reg f.sI).toNat f.acc).serveAttach) := by
  change execShareExport c f s = _
  refine (seatTake_takes _ h).trans ?_
  rw [h.legal]
  dsimp only
  rw [hl, hlive]
  dsimp only
  rw [State.modArch_eq _ c x _ (by exact h.here)]
  rfl

/-! ### BIND -/

/-- What a BIND is refused for when its BUFID is a number that a buffer may be exported under. -/
theorem Job.bindBad_eq {j : Job} {v : Nat} (bh : HReg) (acc : Bool) (h0 : v ≠ 0) (h1 : v ≤ 4095) :
    j.bindBad bh v acc = match (j.exported v).bind Buffer.exp with
      | none => some ⟨stBUFFER, bh.setWidth 8, BitVec.allOnes 64⟩
      | some (_, a, _) => if acc && !a then some ⟨stBUFFER, bh.setWidth 8, BitVec.allOnes 64⟩ else none := by
  unfold Job.bindBad
  exact if_neg (by omega)

theorem Job.bindBad_of_range {j : Job} {v : Nat} (bh : HReg) (acc : Bool) (hv : v = 0 ∨ v > 4095) : j.bindBad bh v acc = none :=
  if_pos hv

/-- The checks of a BIND through handle field bh. -/
def bindChecks (s : State) (x : Ctx) (f : ShareF) (v : Nat) : List (Option Late) :=
  [badBufid true v, if (s.job.live (x.arch.hnd f.bh)).isSome then some ⟨stILLEGAL, f.bh.setWidth 8, 0⟩ else none,
    s.job.bindBad f.bh v f.acc]

/-- The region of a HOST buffer, or any other buffer, may be written (R557). -/
def State.mayWrite (s : State) (b : Buffer) : Bool := b.cls != .host || (match s.region? b.region with
  | none => false
  | some r => r.write)

theorem State.mayWrite_of_ne {s : State} {b : Buffer} (h : b.cls ≠ .host) : s.mayWrite b = true := by
  simp [State.mayWrite, h]

theorem State.mayWrite_host {s : State} {b : Buffer} (h : b.cls = .host) :
    s.mayWrite b = true ↔ ∃ q, s.region? b.region = some q ∧ q.write = true := by
  unfold State.mayWrite
  rw [h]
  cases s.region? b.region <;> simp

theorem exec_shareBind_bad {s : State} {c : CtxId} {x : Ctx} {f : ShareF} {st hb : Byte} {d : Dword} (h : Takes s c x f.g f.legal [f.sI])
    (hl : pickLate (bindChecks s x f (x.arch.reg f.sI).toNat) = some ⟨st, hb, d⟩) :
    exec (.shareBind c f) s = .next (s.raiseFault c x.tag st hb x.arch.pc (f.word 1) d) := by
  change execShareBind c f s = _
  refine (seatTake_takes _ h).trans ?_
  rw [h.legal]
  dsimp only
  unfold bindChecks at hl
  rw [hl]
  rfl

theorem exec_shareBind_good {s : State} {c : CtxId} {x : Ctx} {f : ShareF} {b : Buffer} (h : Takes s c x f.g f.legal [f.sI])
    (hl : pickLate (bindChecks s x f (x.arch.reg f.sI).toNat) = none) (hb : s.job.exported (x.arch.reg f.sI).toNat = some b) :
    exec (.shareBind c f) s = .next (s.modArch c fun a => (a.setHnd f.bh (some ⟨b.id, false, f.acc && s.mayWrite b⟩)).next) := by
  change execShareBind c f s = _
  refine (seatTake_takes _ h).trans ?_
  rw [h.legal]
  dsimp only
  unfold bindChecks at hl
  rw [hl, hb]
  rfl

/-- Settles O9: which checks fail in each case of Table 10-8, and what is left when none does. -/
theorem shareExportsAndBinds : Obligations.ShareExportsAndBinds := by
  unfold Obligations.ShareExportsAndBinds
  intro s c x f h
  generalize hv : (x.arch.reg f.sI).toNat = v
  dsimp only
  refine ⟨fun hl => ?_, fun k b hl ho => ?_, fun k b hl ho he => ?_, fun k b hl ho he hx hr => ?_, fun h0 h1 hg => ?_,
    fun hr => ?_, fun h0 h1 hg hl => ?_, fun k b h0 h1 hl ho he hx => ?_, fun b a k h0 h1 hl hx he ha => ?_⟩
  · have hbad : s.job.exportBad x f.bh v = some ⟨stBUFFER, f.bh.setWidth 8, BitVec.allOnes 64⟩ := by simp [Job.exportBad, hl]
    exact exec_shareExport_bad h (by rw [hv, hbad]; exact pickLate_buffer _ _ _)
  · have hbad : s.job.exportBad x f.bh v = some ⟨stBUFFER, f.bh.setWidth 8, BitVec.allOnes 64⟩ := by simp [Job.exportBad, hl, ho]
    exact exec_shareExport_bad h (by rw [hv, hbad]; exact pickLate_buffer _ _ _)
  · have hbad : s.job.exportBad x f.bh v = some ⟨stBUFFER, f.bh.setWidth 8, 0⟩ := by simp [Job.exportBad, hl, ho, he]
    exact exec_shareExport_bad h (by rw [hv, hbad]; exact pickLate_buffer _ _ _)
  · have hgood : s.job.exportBad x f.bh v = none := by simp [Job.exportBad, hl, ho, he, hx]
    exact exec_shareExport_bad h (by rw [hv, hgood, badBufid_eq hr]; rfl)
  · have hbad : s.job.bindBad f.bh v f.acc = some ⟨stBUFFER, f.bh.setWidth 8, BitVec.allOnes 64⟩ := by
      rw [Job.bindBad_eq _ _ h0 h1]
      rcases hg with hx | ⟨ha, b, k, hx, he⟩
      · rw [hx]; rfl
      · rw [hx, ha]; simp [he]
    exact exec_shareBind_bad h (by rw [hv, bindChecks, badBufid_iff.2 ⟨h0, h1⟩, hbad]; split <;> rfl)
  · exact exec_shareBind_bad h (by rw [hv, bindChecks, badBufid_eq hr, Job.bindBad_of_range _ _ hr]; split <;> rfl)
  · have hgood : s.job.bindBad f.bh v f.acc = none := by
      rw [Job.bindBad_eq _ _ h0 h1]
      rcases hg with ⟨b, k, hx, he⟩ | ⟨ha, b, k, hx, he⟩
      · rw [hx]; simp [he]
      · rw [hx, ha]; simp [he]
    exact exec_shareBind_bad h (by rw [hv, bindChecks, badBufid_iff.2 ⟨h0, h1⟩, if_pos hl, hgood]; rfl)
  · have hgood : s.job.exportBad x f.bh v = none := by simp [Job.exportBad, hl, ho, he, hx]
    have hexec := exec_shareExport_good h hl (by rw [hv, hgood, badBufid_iff.2 ⟨h0, h1⟩]; rfl)
    rw [hv] at hexec
    exact hexec
  · have hgood : s.job.bindBad f.bh v f.acc = none := by
      rw [Job.bindBad_eq _ _ h0 h1, hx]
      cases hacc : f.acc <;> simp [he, ha, hacc]
    have hexec := exec_shareBind_good h (by rw [hv, bindChecks, badBufid_iff.2 ⟨h0, h1⟩, hl, hgood]; rfl) (by rw [hv, hx])
    refine gives_of_modArch h.here hexec ⟨_, rfl, fun hc => ?_, fun hc => ?_⟩
    · rw [State.mayWrite_of_ne hc, Bool.and_true]
    · rw [Bool.and_eq_true, State.mayWrite_host hc]

end Sys2Proof.Machine

/-! ## A TBEGIN that stalls (R297, R458)

The refutation of O12: the statement has a TBEGIN that stalls change its context alone, and the model notes beside it that a TBEGIN
has been issued, after which a RESTORE comes too late. -/

namespace Sys2Proof.Machine

open Claim

/-- The Table's decisions leave the recovery state of the job. -/
@[simp] theorem State.settle_recov (s : State) : s.settle.job.recov = s.job.recov := by
  rw [(State.settle_only s).rest]

/-- A context just created, in seat 0. -/
def firstCtx : Ctx := { State.reset.ctxNew 0 0 7 0x100 0x100 0x100 with
  resid := .resident
  seat := some 0 }

/-- A running job under HALT, of two words of code, with that context. -/
def haltedJob : State :=
  { State.reset with job := { (Job.cleared.setCtx 0 (some firstCtx)) with
      state := .running
      code := List.replicate 16 0
      halt := true } }

/-- TBEGIN into s1. -/
def tbeginS1 : TbeginF := ⟨⟨0, false⟩, 1, 0⟩

theorem takes_tbeginS1 : Takes haltedJob 0 firstCtx tbeginS1.g tbeginS1.legal [tbeginS1.sd] where
  here := rfl
  free := rfl
  begun := rfl
  code := by decide
  legal := rfl
  guard := rfl
  ready := rfl

/-- A TBEGIN that stalls has noted that one was issued. -/
theorem exec_tbegin_halted : exec (.tbegin 0 tbeginS1) haltedJob =
    .next ((haltedJob.setRecov fun r => { r with issuedT := true }).stallAt 0 (.tbegin tbeginS1.sd tbeginS1.word)) := by
  have hjoin : haltedJob.joinTarget firstCtx = 0 := rfl
  have hstall : (haltedJob.setRecov fun r => { r with issuedT := true }).stallHolds firstCtx (.tbegin tbeginS1.sd tbeginS1.word) = true :=
    rfl
  rw [exec_tbegin_takes takes_tbeginS1, hjoin, if_neg (by decide), if_pos hstall]

/-- Refutes O12: under HALT, before any TBEGIN of the job, a TBEGIN stalls its context and notes that it was issued (R458), which the
statement's next state has not noted. -/
theorem not_tbeginJoinsAndTsealCloses : ¬ Obligations.TbeginJoinsAndTsealCloses := by
  unfold Obligations.TbeginJoinsAndTsealCloses
  intro h
  obtain ⟨-, hstalls, -⟩ := h haltedJob 0 firstCtx
  have hexec := hstalls tbeginS1 takes_tbeginS1 rfl (by decide) (.inr rfl)
  rw [exec_tbegin_halted, Host.Outcome.next.injEq] at hexec
  have hissued := congrArg (fun s : State => s.job.recov.issuedT) hexec
  simp only [State.stallAt, State.settle_recov, Job.modCtx_recov] at hissued
  exact absurd hissued (by decide)

end Sys2Proof.Machine

/-! ## QUERY (R300, R301, Table 10-14)

O13: one lemma for each query taken. -/

namespace Sys2Proof.Machine

open Claim

section
variable {s : State} {c : CtxId} {x : Ctx} {f : QueryF}

theorem exec_queryTag_takes (h : Takes s c x f.g (f.legal 0) [f.sd]) :
    exec (.queryTag c f) s = .next (s.modArch c fun a => (a.setReg f.sd (BitVec.ofNat 64 (x.tag.getD allOnes48))).next) := by
  change execQueryTag c f s = _
  exact seatRun_takes _ h

theorem exec_queryLastjoin_takes (h : Takes s c x f.g (f.legal 1) [f.sd]) :
    exec (.queryLastjoin c f) s = .next (s.modArch c fun a => (a.setReg f.sd (BitVec.ofNat 64 (x.last.getD allOnes48))).next) := by
  change execQueryLastjoin c f s = _
  exact seatRun_takes _ h

theorem exec_queryFeature_takes (h : Takes s c x f.g (f.legal 4) [f.sd]) :
    exec (.queryFeature c f) s = .next (s.modArch c fun a => (a.setReg f.sd (s.job.feature.setWidth 64)).next) := by
  change execQueryFeature c f s = _
  exact seatRun_takes _ h

theorem exec_queryMembers_takes (h : Takes s c x f.g (f.legal 5) [f.sd]) :
    exec (.queryMembers c f) s =
      .next (s.modArch c fun a => (a.setReg f.sd (BitVec.ofNat 64 (s.jobN + 65536 * s.myRank))).next) := by
  change execQueryMembers c f s = _
  exact seatRun_takes _ h

/-- A sealed-state query that waits for nothing, at the seat or after its stall, writes its register. -/
theorem State.doQuery_eq {sel : Nat} (sd sa : SReg) (hx : s.job.ctx? c = some x) :
    s.doQuery c x sel sd sa = (withCtx s c (some { x with
      stall := none
      arch := (x.arch.setReg sd (if sel = 3 then s.updStat c x else s.numShare (x.arch.reg sa))).next })).settle := by
  unfold State.doQuery
  rw [State.unstall_eq _ hx]

theorem State.stallHolds_sealedQuery {sel : Nat} (sd sa : SReg) (hq : s.queryHeld x = false) (hp : sel = 3 → x.passOpen = false) :
    s.stallHolds x (.sealedQuery sel sd sa) = false := by
  simpa [State.stallHolds, hq] using hp

theorem exec_queryUpdstat_ready (h : Takes s c x f.g (f.legal 3) [f.sd]) (hq : s.queryHeld x = false) (hp : x.passOpen = false) :
    exec (.queryUpdstat c f) s = .next (s.doQuery c x 3 f.sd f.sa) := by
  change execQueryUpdstat c f s = _
  refine (seatRun_takes _ h).trans ?_
  rw [if_neg (by simp [State.stallHolds_sealedQuery f.sd f.sa hq fun _ => hp])]

theorem exec_queryNumshare_ready (h : Takes s c x f.g (f.legal 6) [f.sd, f.sa]) (hn : (x.arch.reg f.sa).toNat % 8 ≤ 4)
    (hq : s.queryHeld x = false) : exec (.queryNumshare c f) s = .next (s.doQuery c x 6 f.sd f.sa) := by
  change execQueryNumshare c f s = _
  refine (seatRun_takes _ h).trans ?_
  have hbits : ¬ bits (x.arch.reg f.sa) 2 0 > 4 := by simp only [bits]; omega
  rw [if_neg hbits, if_neg (by simp [hq])]

theorem exec_sealedQueryResume_ready {sel : Nat} {sd sa : SReg} (hx : s.job.ctx? c = some x) (hr : x.resid = .resident)
    (hs : x.stall = some (.sealedQuery sel sd sa)) (hq : s.queryHeld x = false) (hp : sel = 3 → x.passOpen = false) :
    exec (.sealedQueryResume c) s = .next (s.doQuery c x sel sd sa) := by
  change execSealedQueryResume c s = _
  unfold execSealedQueryResume
  simp [hx, hs, hr, State.stallHolds_sealedQuery sd sa hq hp]

/-! ### FLAGS -/

theorem exec_queryFlags_drained (h : Takes s c x f.g (f.legal 2) [f.sd, f.sa]) (he : x.fenceEmpty 7) :
    exec (.queryFlags c f) s = .next (withCtx s c (some (x.doFlags f.sd f.sa f.clr))) := by
  change execQueryFlags c f s = _
  refine (seatRun_takes _ h).trans ?_
  rw [if_neg (ne_true_of_eq_false ((x.fenceHeld_eq_false_iff 7).2 he)), Job.modCtx_eq _ _ _ _ h.here]
  rfl

theorem Ctx.noteFlags_arch (x : Ctx) (t : Nat) (clr set : Fl) : (x.noteFlags t clr set).arch = x.arch := by
  unfold Ctx.noteFlags
  split <;> rfl

theorem Ctx.clearFlags_arch (x : Ctx) (m : Fl) : (x.clearFlags m).arch = { x.arch with cur := x.arch.cur &&& ~~~m } := by
  unfold Ctx.clearFlags
  cases x.tag with
  | none => rfl
  | some t => exact Ctx.noteFlags_arch _ _ _ _

/-- FLAGS writes its register, and with CLR takes the named flags out of CURRENT. -/
theorem Ctx.doFlags_arch (x : Ctx) (sd sa : SReg) (clr : Bool) : (x.doFlags sd sa clr).arch =
    (({ x.arch with cur := if clr then x.arch.cur &&& ~~~((x.arch.reg sa).setWidth 5) else x.arch.cur } : Arch).setReg sd
      x.flagsWord).next := by
  unfold Ctx.doFlags
  cases clr with
  | false => rfl
  | true =>
    dsimp only
    rw [if_pos rfl, Ctx.clearFlags_arch]
    rfl

end

/-- Settles O13, query by query; FLAGS by what it leaves of the architectural state (`Ctx.doFlags_arch`). -/
theorem queriesWriteRegister : Obligations.QueriesWriteRegister := by
  unfold Obligations.QueriesWriteRegister
  intro s c x f
  refine ⟨fun h => gives_of_modArch h.here (exec_queryTag_takes h) (regWritten_setReg_next _ _ _),
    fun h => gives_of_modArch h.here (exec_queryLastjoin_takes h) (regWritten_setReg_next _ _ _),
    fun h => gives_of_modArch h.here (exec_queryFeature_takes h) ?_,
    fun h => gives_of_modArch h.here (exec_queryMembers_takes h) (regWritten_setReg_next _ _ _),
    fun h hq hp => ⟨_, ?_, regWritten_setReg_next _ _ _⟩, fun h hn hq => ⟨_, ?_, regWritten_setReg_next _ _ _⟩,
    fun sel sa hx hr hs hq hp => ⟨_, ?_, regWritten_setReg_next _ _ _⟩, fun h hm hv hc => ⟨_, exec_queryFlags_drained h ?_, ?_⟩⟩
  · rw [BitVec.ofNat_toNat]
    exact regWritten_setReg_next _ _ _
  · rw [exec_queryUpdstat_ready h hq hp, State.doQuery_eq _ _ h.here]
    rfl
  · rw [exec_queryNumshare_ready h hn hq, State.doQuery_eq _ _ h.here]
    rfl
  · rw [exec_sealedQueryResume_ready hx hr hs hq hp, State.doQuery_eq _ _ hx]
  · exact ⟨fun _ => hm, fun _ => hv, fun _ => hc⟩
  · rw [Ctx.doFlags_arch]
    obtain ⟨hpc, hreg, hpreds, hctrs, hhnds, hcur⟩ := regWritten_setReg_next
      ({ x.arch with cur := if f.clr then x.arch.cur &&& ~~~((x.arch.reg f.sa).setWidth 5) else x.arch.cur } : Arch) f.sd x.flagsWord
    refine ⟨?_, hcur, hpc, fun r hr => (hreg r).trans (if_neg fun h => hr h.1), hpreds, hctrs, hhnds⟩
    by_cases h0 : f.sd = 0
    · rw [if_pos h0, h0]
      rfl
    · rw [if_neg h0]
      exact (hreg f.sd).trans (if_pos ⟨rfl, h0⟩)

end Sys2Proof.Machine

/-! ## DECL and SPILLR (R181, R191, R282 to R284, R557, R558)

O7: the operand words of DECL field by field (`declReq_reads`), then where the buffer is entered; SPILLR by its two checks. -/

namespace Sys2Proof.Machine

open Claim

/-! ### The operand words of DECL -/

/-- What accepted operand words say, field by field (Table 10-7). -/
structure DeclReads (sS sA sT : Dword) (q : DeclReq) : Prop where
  cls : clsOf (bits sA 2 0) = some q.cls
  fmt : fmtOf (bits sA 5 3) = some q.fmt
  dir : dirOf (bits sA 11 10) = some q.dir
  pot : q.cls = .pot → q.potP = bits sS 31 0 ∧ q.potK = bits sS 40 32 ∧ q.potTap = bits sS 63 41
  shape : q.cls ≠ .pot → q.rows = bits sS 31 0 ∧ q.cols = bits sS 63 32
  mode : q.mode = bits sA 7 6
  block : q.b = 16 * 2 ^ bits sA 9 8
  auto : q.auto = sA.getLsbD 12
  prio : q.prio = bits sA 23 20
  region : q.region = bits sA 47 32
  sT : q.sT = sT

theorem declReq_reads {sS sA sT : Dword} {q : DeclReq} (h : declReq sS sA sT = some (q, false)) : DeclReads sS sA sT q := by
  unfold declReq at h
  split at h
  · cases h
  · rename_i cls hcls
    simp only [Option.some.injEq, Prod.mk.injEq] at h
    obtain ⟨rfl, hbad⟩ := h
    obtain ⟨fmt, hfmt⟩ : ∃ fmt, fmtOf (bits sA 5 3) = some fmt := by
      cases hf : fmtOf (bits sA 5 3) with
      | none => simp [hf] at hbad
      | some fmt => exact ⟨fmt, rfl⟩
    obtain ⟨dir, hdir⟩ : ∃ dir, dirOf (bits sA 11 10) = some dir := by
      cases hd : dirOf (bits sA 11 10) with
      | none => simp [hd] at hbad
      | some dir => exact ⟨dir, rfl⟩
    refine ⟨hcls, ?_, ?_, ?_, ?_, rfl, rfl, rfl, rfl, rfl, rfl⟩
    · simp [hfmt]
    · simp [hdir]
    · exact fun hp => ⟨if_pos hp, if_pos hp, if_pos hp⟩
    · intro hp
      have hsized : (decide (cls ≠ .pot) && (fmtOf (bits sA 5 3)).isSome) = true := by simp [hfmt, show cls ≠ .pot from hp]
      exact ⟨if_pos hsized, if_pos hsized⟩

/-- CLASS 5 and 6 are INPUT and HOST. -/
theorem clsOf_host_or_input {n : Nat} {k : Cls} (h : clsOf n = some k) : k = .host ∨ k = .input ↔ n = 5 ∨ n = 6 := by
  unfold clsOf at h
  split at h <;> cases h <;> simp_all

theorem bits_63_32 (w : Dword) : bits w 63 32 = w.toNat / 2 ^ 32 := by
  unfold bits
  omega

theorem bits_63_41 (w : Dword) : bits w 63 41 = w.toNat / 2 ^ 41 := by
  unfold bits
  omega

/-- What the fields of the buffer declared say, in terms of the operand words. -/
theorem DeclReads.buffer {sS sA sT : Dword} {q : DeclReq} (h : DeclReads sS sA sT q) (id uid sb : Nat) (c : CtxId) (bh : HReg)
    (tag : Option Nat) :
    let b := q.buffer id c bh sb tag uid
    (if b.cls = .pot then b.potP = sS.toNat % 2 ^ 32 ∧ b.potK = sS.toNat / 2 ^ 32 % 2 ^ 9 ∧ b.potTap = sS.toNat / 2 ^ 41
      else b.rows = sS.toNat % 2 ^ 32 ∧ b.cols = sS.toNat / 2 ^ 32) ∧
    (sA.toNat / 64 % 4 = 0 → b.scale = .none) ∧
    (sA.toNat / 64 % 4 = 1 → b.scale = .tensor (BitVec.ofNat 32 sT.toNat) (BitVec.ofNat 32 (sT.toNat / 2 ^ 32))) ∧
    (sA.toNat / 64 % 4 = 2 → ∃ d, dirOf (sA.toNat / 1024 % 4) = some d ∧
      b.scale = .block (16 * 2 ^ (sA.toNat / 256 % 4)) d (sA.toNat / 4096 % 2 == 1) sb) ∧
    b.prio = sA.toNat / 2 ^ 20 % 16 ∧ (sA.toNat % 8 = 6 → b.region = sA.toNat / 2 ^ 32 % 2 ^ 16) ∧
    b.offset = (if sA.toNat % 8 = 5 ∨ sA.toNat % 8 = 6 then sT.toNat else 0) := by
  have hmode : q.mode = sA.toNat / 64 % 4 := h.mode
  refine ⟨?_, fun h0 => ?_, fun h1 => ?_, fun h2 => ⟨q.dir, h.dir, ?_⟩, h.prio, fun _ => h.region, ?_⟩
  · split <;> rename_i hp
    · obtain ⟨hP, hK, hT⟩ := h.pot hp
      exact ⟨hP.trans (congrArg (· % 2 ^ 32) (Nat.div_one _)), hK, hT.trans (bits_63_41 sS)⟩
    · obtain ⟨hr, hc⟩ := h.shape hp
      exact ⟨hr.trans (congrArg (· % 2 ^ 32) (Nat.div_one _)), hc.trans (bits_63_32 sS)⟩
  · simp [DeclReq.buffer, hmode, h0]
  · have hhi : (sT >>> 32).setWidth 32 = BitVec.ofNat 32 (sT.toNat / 2 ^ 32) := by
      rw [← BitVec.ofNat_toNat, BitVec.toNat_ushiftRight, Nat.shiftRight_eq_div_pow]
    simp only [DeclReq.buffer, hmode, h1, h.sT, if_true, hhi, BitVec.ofNat_toNat]
  · have hauto : q.auto = (sA.toNat / 4096 % 2 == 1) := by
      rw [h.auto, BitVec.getLsbD, Nat.testBit_eq_decide_div_mod_eq]
      rfl
    have hblock : q.b = 16 * 2 ^ (sA.toNat / 256 % 4) := h.block
    simp [DeclReq.buffer, hmode, h2, hauto, hblock]
  · have hcls := clsOf_host_or_input h.cls
    rw [show bits sA 2 0 = sA.toNat % 8 from congrArg (· % 8) (Nat.div_one _)] at hcls
    rw [← h.sT]
    exact if_congr hcls rfl rfl

/-! ### The buffer entered -/

/-- What waits for room at its declaration (R191). -/
def State.declWaits (s : State) (q : DeclReq) (b : Buffer) : Bool :=
  q.cls == .stash && !(s.fits (s.job.units b) noUnits && s.job.roomQ.isEmpty)

theorem State.declWaits_iff (s : State) (q : DeclReq) (b : Buffer) :
    s.declWaits q b = true ↔ q.cls = .stash ∧ ¬ (s.fits (s.job.units b) noUnits = true ∧ s.job.roomQ = []) := by
  rw [State.declWaits, Bool.and_eq_true, beq_iff_eq, Bool.not_eq_true', ← Bool.not_eq_true, Bool.and_eq_true, List.isEmpty_iff]

/-- A declared buffer entered, with its room request when it waits, before the Table looks again. -/
def State.declared (s : State) (c : CtxId) (x : Ctx) (f : DeclF) (b : Buffer) (write ask : Bool) : State :=
  { s with job := { s.job with
      bufs := s.job.bufs ++ [b]
      nextBuf := s.job.nextBuf + 1
      nextUid := s.job.nextUid + 1
      roomQ := if ask then s.job.roomQ ++ [(⟨c, b.id, .place, x.tag, x.arch.pc, f.word, f.bh.setWidth 8, 0⟩ : RoomReq)]
        else s.job.roomQ } }.withArch c x (x.arch.setHnd f.bh (some ⟨b.id, true, write⟩)).next

theorem State.declPut_eq {s : State} {c : CtxId} {x : Ctx} (f : DeclF) (b : Buffer) (write ask : Bool) (hx : s.job.ctx? c = some x) :
    s.declPut c x f b write ask = (s.declared c x f b write ask).settle := by
  exact congrArg State.settle (State.modArch_eq _ c x _ hx)

/-- Where a buffer that waits for room or lies in place stands. -/
def Buffer.put (b : Buffer) (waits : Bool) : Buffer := { b with place := if waits then .waiting else .placed }

/-- A declaration whose room is there, or that may wait for it, is entered. -/
theorem State.declGo_eq {s : State} {c : CtxId} {x : Ctx} (f : DeclF) {q : DeclReq} {b : Buffer} (hx : s.job.ctx? c = some x)
    (hp : b.place = .placed) (hr : q.cls = .resident → s.fits (s.job.units b) noUnits = true) :
    s.declGo c x f q b = (s.declared c x f (b.put (s.declWaits q b)) (q.cls != .host || (match s.region? q.region with
      | none => false
      | some r => r.write)) (s.declWaits q b)).settle := by
  have hput : b.put false = b := (congrArg (fun p => { b with place := p }) hp).symm
  unfold State.declGo
  dsimp only
  split <;> rename_i hc
  · have hroom : s.makeRoom (s.job.units b) = some (true, s) := if_pos (hr hc)
    have hw : s.declWaits q b = false := by simp [State.declWaits, hc]
    rw [hroom, hw, hput]
    exact State.declPut_eq f b _ _ hx
  · split <;> rename_i hf
    · have hw : s.declWaits q b = false := by simp [State.declWaits, hf]
      rw [hw, hput]
      exact State.declPut_eq f b _ _ hx
    · have hw : s.declWaits q b = true := by simp [State.declWaits, hc, hf]
      rw [hw]
      exact State.declPut_eq f _ _ _ hx
  · have hw : s.declWaits q b = false := by
      simp only [State.declWaits, Bool.and_eq_false_imp, beq_iff_eq]
      exact fun h => absurd h ‹_›
    rw [hw, hput]
    exact State.declPut_eq f b _ _ hx

theorem exec_decl_good {s : State} {c : CtxId} {x : Ctx} {f : DeclF} {q : DeclReq} {sb : Nat}
    (h : Takes s c x f.g f.legal [f.sS, f.sA, f.sT]) (hl : s.job.live (x.arch.hnd f.bh) = none)
    (hq : declReq (x.arch.reg f.sS) (x.arch.reg f.sA) (x.arch.reg f.sT) = some (q, false)) (hs : s.declScale x q = some sb)
    (hroom : s.declRoom q (q.buffer s.job.nextBuf c f.bh sb x.tag s.job.nextUid) = none)
    (hr : q.cls = .resident → s.fits (s.job.units (q.buffer s.job.nextBuf c f.bh sb x.tag s.job.nextUid)) noUnits = true) :
    exec (.decl c f) s = .next (s.declGo c x f q (q.buffer s.job.nextBuf c f.bh sb x.tag s.job.nextUid)) := by
  change execDecl c f s = _
  refine (seatTake_takes _ h).trans ?_
  dsimp only
  rw [hq]
  dsimp only
  rw [hs, Option.getD_some]
  have hresident : ¬ (q.cls = .resident ∧
      (s.makeRoom (s.job.units (q.buffer s.job.nextBuf c f.bh sb x.tag s.job.nextUid))).isNone = true) := by
    rintro ⟨hc, hn⟩
    rw [State.makeRoom, if_pos (hr hc)] at hn
    cases hn
  have hgood : pickLate ([illegal !f.legal, if (s.job.live (x.arch.hnd f.bh)).isSome then some ⟨stILLEGAL, f.bh.setWidth 8, 0⟩ else none]
      ++ s.declBad x f q false (q.buffer s.job.nextBuf c f.bh sb x.tag s.job.nextUid)) = none := by
    rw [State.declBad, hs, hroom, if_neg hresident, hl, h.legal]
    rfl
  rw [hgood]

theorem DeclReads.clsOf_mod {sS sA sT : Dword} {q : DeclReq} (h : DeclReads sS sA sT q) : clsOf (sA.toNat % 8) = some q.cls := by
  rw [← h.cls]
  exact congrArg (fun n => clsOf (n % 8)) (Nat.div_one _).symm

/-! ### SPILLR -/

/-- The region a context has of SPILLR before the Table looks again; storage kept aside comes back with its contents (R558). -/
def State.spillGiven (s : State) (c : CtxId) (x : Ctx) (z : Nat) : State :=
  withCtx { s with job := if x.aside.contains z then s.job.reattach c z else s.job } c (some { x with
    spill := some z
    spillTrick := x.tag
    aside := x.aside.erase z
    arch := x.arch.next })

/-- The form of the operand, then the room for a region that does not come back. -/
def State.spillChecks (s : State) (x : Ctx) (z : Nat) : List (Option Late) :=
  [illegal (decide (z = 0) || decide (z % 4096 ≠ 0) || x.spill.isSome),
    if z ∉ x.aside ∧ s.job.dramUsed + z > jobDram then some ⟨stBUFFER, 0xFF, 0⟩ else none]

theorem exec_spillr_takes {s : State} {c : CtxId} {x : Ctx} {f : SpillrF} {z : Nat} (h : Takes s c x f.g f.legal [f.sS])
    (hz : (x.arch.reg f.sS).toNat = z) :
    exec (.spillr c f) s = .next (match pickLate (s.spillChecks x z) with
      | some l => s.raiseFault c x.tag l.status l.handle x.arch.pc f.word l.detail
      | none => (s.spillGiven c x z).settle) := by
  change execSpillr c f s = _
  refine (seatTake_takes _ h).trans ?_
  have hctx : (if x.aside.contains z then s.job.reattach c z else s.job).ctx? c = some x := by split <;> exact h.here
  have hroom : (if (!x.aside.contains z) = true ∧ s.job.dramUsed + z > jobDram then some (⟨stBUFFER, 0xFF, 0⟩ : Late) else none) =
      if z ∉ x.aside ∧ s.job.dramUsed + z > jobDram then some ⟨stBUFFER, 0xFF, 0⟩ else none :=
    if_congr (by simp) rfl rfl
  dsimp only
  rw [hz, h.legal, Bool.not_true, Bool.false_or, hroom, Job.modCtx_eq _ c _ x hctx, ← State.spillChecks]
  cases pickLate (s.spillChecks x z) <;> rfl

theorem State.spillGiven_bufs (s : State) (c : CtxId) (x : Ctx) (z : Nat) : (s.spillGiven c x z).job.bufs =
    s.job.bufs.map fun b => if z ∈ x.aside ∧ b.owner = c ∧ b.inAside = some z then { b with inAside := none } else b := by
  change (if x.aside.contains z then s.job.reattach c z else s.job).bufs = _
  split <;> rename_i ha <;> simp only [List.contains_iff_mem] at ha <;> simp [ha, Job.reattach]

theorem State.spillGiven_tiles (s : State) (c : CtxId) (x : Ctx) (z : Nat) : (s.spillGiven c x z).job.tiles =
    s.job.tiles.map fun o => if z ∈ x.aside ∧ o.ctx = c ∧ o.lies = .region (some z) then { o with lies := .region none } else o := by
  change (if x.aside.contains z then s.job.reattach c z else s.job).tiles = _
  split <;> rename_i ha <;> simp only [List.contains_iff_mem] at ha <;> simp [ha, Job.reattach]

theorem State.spillGiven_ctx?_other (s : State) {c d : CtxId} (x : Ctx) (z : Nat) (hd : d ≠ c) :
    (s.spillGiven c x z).job.ctx? d = s.job.ctx? d := by
  refine (Job.ctx?_setCtx_other _ c d _ hd).trans ?_
  dsimp only
  split <;> rfl

/-- Settles O7: DECL by what its words say and where its buffer is entered, SPILLR by which of its checks fail. -/
theorem declAndSpillrDeclare : Obligations.DeclAndSpillrDeclare := by
  unfold Obligations.DeclAndSpillrDeclare
  refine ⟨fun s c x f q sb h hl hq hs => ?_, fun s c x f h => ?_⟩
  · intro new hroom hr sS sA sT host
    have hreads := declReq_reads hq
    obtain ⟨hshape, h0, h1, h2, hprio, hregion, hoffset⟩ := hreads.buffer s.job.nextBuf s.job.nextUid sb c f.bh x.tag
    refine ⟨_, (exec_decl_good h hl hq hs hroom hr).trans (congrArg Host.Outcome.next (State.declGo_eq f h.here rfl hr)),
      ⟨new.put (s.declWaits q new), rfl, rfl, rfl, rfl, rfl, hreads.clsOf_mod, hreads.fmt, hshape, h0, h1, h2, hprio, hregion,
        hoffset, rfl, rfl, rfl, ?_⟩, _, _, Job.ctx?_setCtx_same _ c _, rfl, rfl, fun b => Arch.hnd_setHnd _ _ _ _, fun hc => ?_,
        fun hc => ?_, rfl, rfl, rfl, rfl⟩
    · exact if_congr (s.declWaits_iff q new) rfl rfl
    · exact State.mayWrite_of_ne (s := s) (b := new) hc
    · exact State.mayWrite_host (s := s) (b := new) hc
  · generalize hz : (x.arch.reg f.sS).toNat = z
    have hexec := exec_spillr_takes h hz
    dsimp only
    refine ⟨fun ha hd => ?_, fun hd hi => ?_, fun h0 hm hn hd => ⟨s.spillGiven c x z, ?_, rfl, Job.ctx?_setCtx_same _ c _,
      fun d hne => s.spillGiven_ctx?_other x z hne, s.spillGiven_bufs c x z, s.spillGiven_tiles c x z⟩⟩
    · have hbad : pickLate (s.spillChecks x z) = some ⟨stBUFFER, 0xFF, 0⟩ := by
        rw [State.spillChecks, if_pos ⟨ha, hd⟩]
        exact pickLate_buffer _ _ _
      rw [hexec, hbad]
    · have hroom : ¬ (z ∉ x.aside ∧ s.job.dramUsed + z > jobDram) := fun hn =>
        hd.elim hn.1 (Nat.not_le.2 hn.2)
      have hbad : pickLate (s.spillChecks x z) = some ⟨stILLEGAL, 0xFF, 0⟩ := by
        rw [State.spillChecks, if_neg hroom, illegal, chk, if_pos (by simpa [or_assoc] using hi)]
        rfl
      rw [hexec, hbad]
    · have hroom : ¬ (z ∉ x.aside ∧ s.job.dramUsed + z > jobDram) := fun hn =>
        hd.elim hn.1 (Nat.not_le.2 hn.2)
      have hgood : pickLate (s.spillChecks x z) = none := by
        rw [State.spillChecks, if_neg hroom, illegal, chk, if_neg (by simp [h0, hm, hn])]
        rfl
      rw [hexec, hgood]

end Sys2Proof.Machine

/-! ## Issue of engine instructions and copies (R219, R253, R262, R287, R302)

O14, O15 and O16: every one of these instructions is `engineRun` with its own operands, so one lemma says what an instruction that
passes its checks leaves, and each obligation names the queue and the operands. -/

namespace Sys2Proof.Machine

open Claim

/-! ### What issuing records beside the queue entry -/

theorem State.modTrick_ctxs (s : State) (t : Nat) (f : TrickRec → TrickRec) : (s.modTrick t f).job.ctxs = s.job.ctxs := by
  unfold State.modTrick; split <;> [rfl; (split <;> rfl)]

theorem State.modTrick_bufs (s : State) (t : Nat) (f : TrickRec → TrickRec) : (s.modTrick t f).job.bufs = s.job.bufs := by
  unfold State.modTrick; split <;> [rfl; (split <;> rfl)]

/-- What issuing records beside the queue entry changes of a context at most its count of collectives, and no buffer. -/
structure Recorded (s e : State) (c : CtxId) : Prop where
  bufs : e.job.bufs = s.job.bufs
  other : ∀ d, d ≠ c → e.job.ctx? d = s.job.ctx? d
  self : ∀ x, s.job.ctx? c = some x → ∃ l, e.job.ctx? c = some { x with collK := l }

theorem Recorded.of_eq {s e : State} (c : CtxId) (hb : e.job.bufs = s.job.bufs) (hc : e.job.ctxs = s.job.ctxs) : Recorded s e c := by
  have hget : ∀ d, e.job.ctx? d = s.job.ctx? d := fun d => congrArg (fun v : Vector _ 64 => v.get d) hc
  exact ⟨hb, fun d _ => hget d, fun x hx => ⟨x.collK, (hget c).trans hx⟩⟩

theorem Recorded.modTrick (s : State) (c : CtxId) (t : Nat) (f : TrickRec → TrickRec) : Recorded s (s.modTrick t f) c :=
  .of_eq c (s.modTrick_bufs t f) (s.modTrick_ctxs t f)

theorem State.noteUpd_recorded (s : State) (c : CtxId) (uid t : Nat) (pc : Dword) (u : UpdOp) : Recorded s (s.noteUpd c uid t pc u) c := by
  unfold State.noteUpd
  split
  · exact .of_eq c (State.modTrick_bufs _ _ _) (State.modTrick_ctxs _ _ _)
  · exact .of_eq c (State.modTrick_bufs _ _ _) (State.modTrick_ctxs _ _ _)
  · exact .of_eq c rfl rfl

theorem State.noteColl_recorded (s : State) (c : CtxId) (t : Nat) (o : CollOp) : Recorded s (s.noteColl c t o) c := by
  unfold State.noteColl
  split
  · exact ⟨Job.modCtx_bufs _ _ _, fun d hd => Job.ctx?_modCtx_other _ _ _ _ hd, fun x hx => ⟨_, by rw [Job.ctx?_modCtx_same, hx]; rfl⟩⟩
  · exact .modTrick s c t _

theorem State.noteIssue_recorded (s : State) (c : CtxId) (uid t : Nat) (pc : Dword) (op : EOp) :
    Recorded s (s.noteIssue c uid t pc op) c := by
  cases op with
  | mma m =>
    simp only [State.noteIssue]
    exact .modTrick s c t _
  | sts o =>
    simp only [State.noteIssue]
    split <;> exact .modTrick s c t _
  | upd u => exact s.noteUpd_recorded c uid t pc u
  | coll o => exact s.noteColl_recorded c t o
  | _ => exact .of_eq c rfl rfl

/-! ### The queue entry -/

/-- The entry issuing makes. -/
def State.issued (s : State) (c : CtxId) (x : Ctx) (word : Dword) (f : Fin3) (i : Issue) (op : EOp) (t : Nat) : QE :=
  ⟨s.job.nextUid, op, t, x.arch.pc, word, if f.cnt then some f.ec else none, if f.pub then i.dst else none, f.sum, 0, i.reads,
    i.writes, [], [], false, none, false, false, 0, none, s.job.bucketsOf c op i.reads i.writes,
    (i.reads ++ i.writes).eraseDups.map fun b => (b, x.handleIn s.job word b)⟩

/-- The context that issued, before what else is recorded of it. -/
def State.issuer (s : State) (c : CtxId) (x : Ctx) (k : EngKind) (word : Dword) (f : Fin3) (i : Issue) (op : EOp) (t : Nat) : Ctx :=
  { x.setQueue k (x.queue k ++ [s.issued c x word f i op t]) with arch := x.arch.next }

theorem State.enqueue_recorded (s : State) (c : CtxId) (x : Ctx) (k : EngKind) (word : Dword) (f : Fin3) (i : Issue) (op : EOp) (t : Nat) :
    ∃ l, (s.enqueue c x k word f i op t).job.ctx? c = some { s.issuer c x k word f i op t with collK := l } ∧
      (s.enqueue c x k word f i op t).job.bufs.map Buffer.mem = s.job.bufs.map Buffer.mem ∧
      (∀ d, d ≠ c → (s.enqueue c x k word f i op t).job.ctx? d = s.job.ctx? d) := by
  obtain ⟨hbufs, hother, hself⟩ := State.noteIssue_recorded
    { s with job := { (s.job.setCtx c (some (s.issuer c x k word f i op t))).touch (i.reads ++ i.writes) s.job.nextUid with
      nextUid := s.job.nextUid + 1 } } c s.job.nextUid t x.arch.pc op
  obtain ⟨l, hl⟩ := hself _ (Job.ctx?_setCtx_same s.job c _)
  refine ⟨l, hl, (congrArg (List.map Buffer.mem) hbufs).trans ?_, fun d hd => (hother d hd).trans (Job.ctx?_setCtx_other _ _ _ _ hd)⟩
  exact Job.touch_bufs_map _ _ _ Buffer.mem fun _ => rfl

theorem Ctx.setQueue_queue_other (x : Ctx) {k l : EngKind} (q : List QE) (h : l ≠ k) : (x.setQueue k q).queue l = x.queue l := by
  cases k <;> cases l <;> simp_all [Ctx.setQueue, Ctx.queue]

/-- An engine instruction that passes its checks is entered in its queue. -/
theorem issues_of_engineReady {i : Instr} {s : State} {c : CtxId} {x : Ctx} {g : Guard} {word : Dword} {legal : Bool} {uses : List SReg}
    {k : EngKind} {f : Fin3} {early : Job → Ctx → List Nat} {issue : State → Ctx → Issue} {op : EOp} {t : Nat}
    (hi : exec i s = engineRun s c g word legal uses k f early issue)
    (h : EngineReady s c x k g legal uses f (early s.job x) (issue s x) op t) : Issues i s c x k word f op t := by
  obtain ⟨htakes, hroom, hearly, htag, hctr, hfine, hop⟩ := h
  obtain ⟨l, hself, hbufs, hother⟩ := s.enqueue_recorded c x k word f (issue s x) op t
  have hbound : (f.cnt && (x.arch.ctr f.ec).bound.isSome) = false := by
    cases hc : f.cnt
    · rfl
    · rw [hctr hc]; rfl
  refine ⟨s.enqueue c x k word f (issue s x) op t, ?_, _, s.issued c x word f (issue s x) op t, hself, ?_, fun q hq => ?_, rfl, rfl,
    rfl, rfl, rfl, fun hp => if_neg (ne_true_of_eq_false hp), rfl, rfl, rfl, rfl, rfl, ?_, ?_, hbufs, hother⟩
  · rw [hi, engineRun, seatTake_takes _ htakes]
    simp [Nat.not_le.2 hroom, hearly, htakes.legal, hfine, hop, htag, hbound, illegal, chk, pickLate]
  · exact Ctx.queue_setQueue x k _
  · exact x.setQueue_queue_other _ hq
  · cases k <;> rfl
  · cases k <;> rfl

/-! ### Copies: the operands of COPY and FILL -/

theorem exec_copy (c : CtxId) (f : CopyF) (s : State) : exec (.copy c f) s = execCopy c f s := rfl
theorem exec_gather (c : CtxId) (f : GatherF) (s : State) : exec (.gather c f) s = execGather c f s := rfl
theorem exec_scatter (c : CtxId) (f : GatherF) (s : State) : exec (.scatter c f) s = execScatter c f s := rfl
theorem exec_fill (c : CtxId) (f : FillF) (s : State) : exec (.fill c f) s = execFill c f s := rfl

theorem State.issueCopy_op {s : State} {x : Ctx} {f : CopyF} {op : EOp} (h : (s.issueCopy x f).op = some op) :
    ∃ bd bs rc, op = .copy bd bs (lo32 (x.arch.reg f.sDO)) (hi32 (x.arch.reg f.sDO)) (lo32 (x.arch.reg f.sSO)) (hi32 (x.arch.reg f.sSO))
      (lo32 (x.arch.reg f.sEXT)) (hi32 (x.arch.reg f.sEXT)) rc := by
  dsimp only [State.issueCopy] at h
  split at h
  next bd bs _ _ => exact ⟨bd.id, bs.id, _, (Option.some.inj h).symm⟩
  next => cases h

theorem State.issueFill_op {s : State} {x : Ctx} {f : FillF} {op : EOp} (h : (s.issueFill x f).op = some op) :
    ∃ bd, op = .fill bd (lo32 (x.arch.reg f.sDO)) (hi32 (x.arch.reg f.sDO)) (lo32 (x.arch.reg f.sEXT)) (hi32 (x.arch.reg f.sEXT))
      ((x.arch.reg f.sV).setWidth 32) := by
  dsimp only [State.issueFill] at h
  split at h
  next bd _ => exact ⟨bd.id, (Option.some.inj h).symm⟩
  next => cases h

/-- Settles O14: each is `engineRun` with its own operands; those of COPY and FILL are the halves of its registers. -/
theorem copiesEnterQueue : Obligations.CopiesEnterQueue := by
  unfold Obligations.CopiesEnterQueue
  intro s c x op t
  refine ⟨fun f h => ⟨issues_of_engineReady (exec_copy c f s) h, ?_⟩, fun f h => issues_of_engineReady (exec_gather c f s) h,
    fun f h => issues_of_engineReady (exec_scatter c f s) h, fun f h => ⟨issues_of_engineReady (exec_fill c f s) h, ?_⟩⟩
  · exact State.issueCopy_op h.op
  · rw [BitVec.ofNat_toNat]
    exact State.issueFill_op h.op

/-! ### Matrix and vector instructions -/

theorem exec_mma (c : CtxId) (f : MmaF) (s : State) : exec (.mma c f) s = execMma c f s := rfl
theorem exec_vew (c : CtxId) (f : VewF) (s : State) : exec (.vew c f) s = execVew c f s := rfl
theorem exec_vsel (c : CtxId) (f : VselF) (s : State) : exec (.vsel c f) s = execVsel c f s := rfl
theorem exec_vcmp (c : CtxId) (f : VewF) (s : State) : exec (.vcmp c f) s = execVcmp c f s := rfl
theorem exec_vlut (c : CtxId) (f : VlutF) (s : State) : exec (.vlut c f) s = execVlut c f s := rfl
theorem exec_vred (c : CtxId) (f : VredF) (s : State) : exec (.vred c f) s = execVred c f s := rfl

/-- Settles O15: each is `engineRun` with its own operands and completion fields. -/
theorem matrixAndVectorEnterQueues : Obligations.MatrixAndVectorEnterQueues := by
  unfold Obligations.MatrixAndVectorEnterQueues
  intro s c x op t
  exact ⟨fun f h => issues_of_engineReady (exec_mma c f s) h, fun f h => issues_of_engineReady (exec_vew c f s) h,
    fun f h => issues_of_engineReady (exec_vsel c f s) h, fun f h => issues_of_engineReady (exec_vcmp c f s) h,
    fun f h => issues_of_engineReady (exec_vlut c f s) h, fun f h => issues_of_engineReady (exec_vred c f s) h⟩

/-! ### Functions of one instruction -/

theorem exec_sts {c : CtxId} {f : StsF} {n : Nat} {i : Instr}
    (hi : (n, i) ∈ [(0, .fold c f), (1, .loss c f), (2, .finish c f), (3, Instr.grad c f)]) (s : State) : exec i s = stsRun c f n s := by
  simp only [List.mem_cons, Prod.mk.injEq, List.not_mem_nil, or_false] at hi
  obtain ⟨rfl, rfl⟩ | ⟨rfl, rfl⟩ | ⟨rfl, rfl⟩ | ⟨rfl, rfl⟩ := hi <;> rfl

theorem exec_upd {c : CtxId} {f : UpdF} {n : Nat} {i : Instr}
    (hi : (n, i) ∈ [(0, .pass1 c f), (1, .pass2 c f), (2, Instr.rebuild c f)]) (s : State) : exec i s = updRun c f n s := by
  simp only [List.mem_cons, Prod.mk.injEq, List.not_mem_nil, or_false] at hi
  obtain ⟨rfl, rfl⟩ | ⟨rfl, rfl⟩ | ⟨rfl, rfl⟩ := hi <;> rfl

theorem exec_coll {c : CtxId} {f : CollF} {n : Nat} {i : Instr}
    (hi : (n, i) ∈ [(0, .ared c f), (1, .rscat c f), (2, .agath c f), (3, .bcast c f), (4, .send c f), (5, Instr.recv c f)]) (s : State) :
    exec i s = collRun c f n s := by
  simp only [List.mem_cons, Prod.mk.injEq, List.not_mem_nil, or_false] at hi
  obtain ⟨rfl, rfl⟩ | ⟨rfl, rfl⟩ | ⟨rfl, rfl⟩ | ⟨rfl, rfl⟩ | ⟨rfl, rfl⟩ | ⟨rfl, rfl⟩ := hi <;> rfl

/-- Settles O16: the functions of one instruction differ in the word alone, so each family is one `engineRun`. -/
theorem softTargetUpdateCollectiveEnterQueues : Obligations.SoftTargetUpdateCollectiveEnterQueues := by
  unfold Obligations.SoftTargetUpdateCollectiveEnterQueues
  intro s c x op t
  refine ⟨fun f n i hi h => issues_of_engineReady (exec_sts hi s) h, fun f n i hi h => ?_,
    fun f n i hi h => issues_of_engineReady (exec_coll hi s) h⟩
  refine issues_of_engineReady (exec_upd hi s) ?_
  by_cases hn : n = 1
  · rw [if_pos hn] at h ⊢
    exact h
  · rw [if_neg hn] at h ⊢
    exact h

end Sys2Proof.Machine

/-! ## Votes and seals (R229 to R235)

O29 and O30. What a seal does after it has counted leaves the sealed count and the two trick records alone (`SameCount`), so a second
look at the root finds nothing more to seal. -/

namespace Sys2Proof.Machine

open Claim

/-! ### Steps that keep the sealed count and the records of the open tricks -/

/-- t has the sealed count and the records of the open tricks that s has. -/
structure SameCount (s t : State) : Prop where
  sealedN : t.stat.sealedN = s.stat.sealedN
  t0 : t.job.t0 = s.job.t0
  t1 : t.job.t1 = s.job.t1

theorem SameCount.refl (s : State) : SameCount s s := ⟨rfl, rfl, rfl⟩
theorem SameCount.trans {s t u : State} (h : SameCount s t) (k : SameCount t u) : SameCount s u :=
  ⟨k.sealedN.trans h.sealedN, k.t0.trans h.t0, k.t1.trans h.t1⟩
theorem SameCount.foldl {α : Type} {f : State → α → State} (hf : ∀ s a, SameCount s (f s a)) (l : List α) (s : State) :
    SameCount s (l.foldl f s) :=
  foldl_rel SameCount .refl (fun _ _ _ => .trans) f hf l s
/-- The loop runs on what an earlier step left. -/
theorem SameCount.thenFoldl {α : Type} {f : State → α → State} {l : List α} {s t : State} (h : SameCount s t)
    (hf : ∀ s a, SameCount s (f s a)) : SameCount s (l.foldl f t) := h.trans (.foldl hf l t)
theorem HostOnly.sameCount {s t : State} (h : HostOnly s t) : SameCount s t := by
  refine ⟨by rw [h.stat], ?_, ?_⟩ <;> rw [h.job]
theorem FabOnly.sameCount {s t : State} (h : FabOnly s t) : SameCount s t := by
  refine ⟨by rw [h.stat], ?_, ?_⟩ <;> rw [h.job]
theorem TableOnly.sameCount {s t : State} (h : TableOnly s t) : SameCount s t :=
  ⟨by rw [h.only.stat], by rw [h.rest], by rw [h.rest]⟩
theorem State.SameTricks.sameCount {s t : State} (h : s.SameTricks t) : SameCount s t := ⟨h.sealedN, h.job.t0, h.job.t1⟩

theorem SameCount.ite_snd {s : State} {p : Prop} [Decidable p] {a b : Bool × State} (ha : SameCount s a.2) (hb : SameCount s b.2) :
    SameCount s (if p then a else b).2 := by
  split
  · exact ha
  · exact hb

theorem SameCount.ite {s : State} {p : Prop} [Decidable p] {a b : State} (ha : SameCount s a) (hb : SameCount s b) :
    SameCount s (if p then a else b) := by
  split
  · exact ha
  · exact hb

theorem State.setRecov_sameCount (s : State) (f : Recov → Recov) : SameCount s (s.setRecov f) := ⟨rfl, rfl, rfl⟩
theorem State.sendState_sameCount (s : State) (m : BitVec 9) (ty point p off : Nat) (data : List Byte) :
    SameCount s (s.sendState m ty point p off data) :=
  (State.sendPeer_only _ _ _ _ _ _ _).sameCount

/-! ### Checkpoints and refreshes -/

theorem State.ckPut_sameCount (s : State) (w : CkWrite) : SameCount s (s.ckPut w).2 := by
  unfold State.ckPut
  dsimp only
  split
  · exact .refl s
  · split
    · exact .refl s
    · exact .ite_snd (State.lose_only s .bytes).sameCount (State.send_hostOnly s _).sameCount

theorem State.ckFinish_sameCount (s : State) (w : CkWrite) : SameCount s (s.ckFinish w) := by
  unfold State.ckFinish
  dsimp only
  refine .thenFoldl ⟨rfl, rfl, rfl⟩ fun s h => ?_
  split <;> exact (State.complete_only _ _ _ _ _).sameCount

theorem State.ckNextTarget_sameCount (s : State) (w : CkWrite) : SameCount s (s.ckNextTarget w) := by
  unfold State.ckNextTarget
  split
  · dsimp only
    split
    · exact (s.ckPut_sameCount _).trans (State.setRecov_sameCount _ _)
    · exact (s.ckPut_sameCount _).trans (State.ckFinish_sameCount _ _)
  · exact s.ckFinish_sameCount w

theorem State.ckStep_sameCount (s : State) (w : CkWrite) : SameCount s (s.ckStep w) := by
  unfold State.ckStep
  split
  · exact s.setRecov_sameCount _
  · dsimp only
    split
    · exact (s.ckPut_sameCount w).trans (State.setRecov_sameCount _ _)
    · exact (s.ckPut_sameCount w).trans (State.ckNextTarget_sameCount _ w)

theorem State.failRefresh_sameCount (s : State) : SameCount s s.failRefresh := by
  unfold State.failRefresh
  split
  · exact .refl s
  · split
    · exact .refl s
    · exact .trans (t := { s with stat := { s.stat with rfail := true } }) ⟨rfl, rfl, rfl⟩
        ((State.setRecov_sameCount _ _).trans (State.setRecov_sameCount _ _))

theorem State.commitRefresh_sameCount (s : State) : SameCount s s.commitRefresh := by
  unfold State.commitRefresh
  split
  · exact .refl s
  · exact .thenFoldl ⟨rfl, rfl, rfl⟩ fun s m => s.sendState_sameCount m 3 _ 0 0 []

theorem State.checkDone_sameCount (s : State) : SameCount s s.checkDone := by
  unfold State.checkDone
  split
  · exact .refl s
  · dsimp only
    split
    · split
      · exact (s.setRecov_sameCount _).trans (State.commitRefresh_sameCount _)
      · exact (s.setRecov_sameCount _).trans (State.sendState_sameCount _ _ _ _ _ _ _)
    · exact .refl s

theorem State.refuseRefresh_sameCount (s : State) (point : Nat) (m : Option (BitVec 9)) : SameCount s (s.refuseRefresh point m) := by
  unfold State.refuseRefresh
  dsimp only
  split
  · exact .refl s
  · refine .thenFoldl (.trans ?_ (State.setRecov_sameCount _ _)) fun s m => s.sendState_sameCount m 4 _ 0 0 []
    split
    · exact s.failRefresh_sameCount
    · exact ⟨rfl, rfl, rfl⟩

theorem State.refreshSettle_sameCount (s : State) : SameCount s s.refreshSettle := by
  unfold State.refreshSettle
  split
  · exact .refl s
  · split
    · exact (s.setRecov_sameCount _).trans (State.checkDone_sameCount _)
    · exact .refl s

theorem State.refreshPiece_sameCount (s : State) (rank off : Nat) (data : List Byte) : SameCount s (s.refreshPiece rank off data) := by
  unfold State.refreshPiece
  split
  · exact .refl s
  · exact (s.setRecov_sameCount _).trans (State.refreshSettle_sameCount _)

theorem State.refreshDone_sameCount (s : State) (rank : Nat) : SameCount s (s.refreshDone rank) := by
  unfold State.refreshDone
  split
  · exact .refl s
  · exact (s.setRecov_sameCount _).trans (State.checkDone_sameCount _)

theorem State.sendPieces_sameCount (m : BitVec 9) (ty point p n off : Nat) (d : List Byte) (s : State) :
    SameCount s (s.sendPieces m ty point p n off d) := by
  induction n generalizing s off d with
  | zero => exact .refl s
  | succ n ih =>
    unfold State.sendPieces
    split
    · exact .refl s
    · exact (State.sendPeer_only s _ _ _ _ _ _).sameCount.trans (ih _ _ _)

theorem State.sendChunks_sameCount (s : State) (f : Refresh) (z : Nat) : SameCount s (s.sendChunks f z) := by
  refine .foldl (fun s c => ?_) _ s
  split
  · exact .refl s
  · exact State.sendPieces_sameCount _ _ _ _ _ _ _ s

theorem State.refreshLength_sameCount (s : State) (rank len : Nat) : SameCount s (s.refreshLength rank len) := by
  unfold State.refreshLength
  split
  · exact .refl s
  · dsimp only
    refine .ite (s.setRecov_sameCount _) (.ite ?_ ?_)
    · refine .trans ?_ (State.refuseRefresh_sameCount _ _ _)
      exact ⟨rfl, rfl, rfl⟩
    · refine .trans ?_ ((State.sendChunks_sameCount _ _ _).trans
        ((State.checkDone_sameCount _).trans (State.refreshSettle_sameCount _)))
      exact ⟨rfl, rfl, rfl⟩

theorem State.refreshTake_sameCount (s : State) (point rank : Nat) (src : Option (BitVec 9)) (m : RefreshMsg) :
    SameCount s (s.refreshTake point rank src m) := by
  cases m with
  | length n => exact s.refreshLength_sameCount rank n
  | piece off d => exact s.refreshPiece_sameCount rank off d
  | done => exact s.refreshDone_sameCount rank
  | refused => exact s.refuseRefresh_sameCount point src

theorem State.takeEarly_sameCount (s : State) : SameCount s s.takeEarly := by
  unfold State.takeEarly
  split
  · exact .refl s
  · exact .thenFoldl (State.setRecov_sameCount _ _) fun s e => s.refreshTake_sameCount _ _ _ _

theorem State.startRefresh_sameCount (s : State) (ckpt fromShadow : Bool) : SameCount s (s.startRefresh ckpt fromShadow) := by
  unfold State.startRefresh
  split
  · exact ⟨rfl, rfl, rfl⟩
  · dsimp only
    split
    · exact ⟨rfl, rfl, rfl⟩
    · refine .trans (.thenFoldl (State.setRecov_sameCount _ _) fun s r => ?_)
        ((State.refreshLength_sameCount _ _ _).trans (State.takeEarly_sameCount _))
      split
      · exact .refl s
      · exact s.sendState_sameCount _ _ _ _ _ _

/-- A checkpoint header that waited for the seal just applied goes on. -/
def State.ckAtSeal (s : State) : State :=
  match s.job.recov.ck with
  | none => s
  | some w => if w.awaitSeal && s.stat.sealedN > w.shard.trick then s.ckStep w else s

theorem State.ckAtSeal_sameCount (s : State) : SameCount s s.ckAtSeal := by
  unfold State.ckAtSeal
  split
  · exact .refl s
  · split
    · exact s.ckStep_sameCount _
    · exact .refl s

theorem State.pointCheck_sameCount (s : State) : SameCount s s.pointCheck :=
  s.ckAtSeal_sameCount.trans (.ite (s.ckAtSeal.startRefresh_sameCount _ false) (.refl s.ckAtSeal))

/-! ### Token rings -/

theorem State.ringEntry_sameCount (s : State) (r : Req) (hold : Option Nat) (l : List Byte) : SameCount s (s.ringEntry r hold l) := by
  unfold State.ringEntry
  dsimp only
  split
  · exact (State.writeRegion_only s _ _ _ _ _ _).sameCount
  · exact (State.release_only s _).sameCount

theorem State.modReq_sameCount (s : State) (r : Req) (f : Req → Req) : SameCount s (s.modReq r f) := ⟨rfl, rfl, rfl⟩

theorem State.gcReqs_sameCount (s : State) : SameCount s s.gcReqs := ⟨rfl, rfl, rfl⟩

theorem State.reqCompl_sameCount (s : State) (ring : Fin 128) (hold : Option Nat) (status : Byte) (reqid : Dword) (kind : Byte) :
    SameCount s (s.reqCompl ring hold status reqid kind) := by
  unfold State.reqCompl
  split
  · exact s.dropCompl_only.sameCount
  · dsimp only
    split
    · exact (State.postTo_only s _ _ _).sameCount
    · exact (State.release_only s _).sameCount

theorem State.countEnd_sameCount (s : State) (status : Byte) : SameCount s (s.countEnd status) := by
  unfold State.countEnd
  refine ⟨?_, rfl, rfl⟩
  dsimp only
  split
  · rfl
  · split
    · rfl
    · split <;> rfl

theorem State.cancelsDone_sameCount (r : Req) (hold : Option Nat) (status : Byte) (n : Nat) (s : State) :
    SameCount s (s.cancelsDone r hold status n) := by
  induction n generalizing s with
  | zero => exact .refl s
  | succ n ih => exact (s.reqCompl_sameCount _ _ _ _ _).trans (ih _)

theorem State.endReq_sameCount (s : State) (r : Req) (status : Byte) (hold : Option Nat) (step : Nat) :
    SameCount s (s.endReq r status hold step) := by
  unfold State.endReq
  exact .trans (s.ringEntry_sameCount r hold _) (.trans (State.countEnd_sameCount _ status)
    (.trans (State.cancelsDone_sameCount r hold _ r.cancels _) (State.modReq_sameCount _ r _)))

theorem State.releaseToks_sameCount (n slot : Nat) (l : List TokStage) (s : State) : SameCount s (s.releaseToks n slot l) := by
  induction l generalizing s with
  | nil => exact .refl s
  | cons t rest ih =>
    unfold State.releaseToks
    split
    · exact .refl s
    next r _ =>
      have h := s.ringEntry_sameCount r (some n)
      refine .trans (.ite (.trans ?_ (State.countEnd_sameCount _ _)) ?_) (ih _)
      · exact ⟨(h _).sealedN, (h _).t0, (h _).t1⟩
      · exact ⟨(h _).sealedN, (h _).t0, (h _).t1⟩

theorem State.resolveReq_sameCount (s : State) (n : Nat) (e : PlanE) : SameCount s (s.resolveReq n e) := by
  unfold State.resolveReq
  split
  · exact .refl s
  · split
    · exact .refl s
    · exact .ite (s.endReq_sameCount _ _ _ _) (.ite (s.endReq_sameCount _ _ _ _) (State.releaseToks_sameCount n _ _ s))

theorem State.resolvePlan_sameCount (s : State) (n : Nat) : SameCount s (s.resolvePlan n) := by
  unfold State.resolvePlan
  split
  · exact .refl s
  · exact .foldl (fun s e => s.resolveReq_sameCount n e) _ s

theorem State.releaseStaged_sameCount (s : State) (n : Nat) : SameCount s (s.releaseStaged n) := by
  have write (u : State) (w : Staged) : SameCount u (match w with
      | .host t _ rn off d => u.release (.write t rn off d false)
      | .emit t => u.resolvePlan t) := by
    cases w with
    | host t _ rn off d => exact (u.release_only _).sameCount
    | emit t => exact u.resolvePlan_sameCount t
  unfold State.releaseStaged
  dsimp only
  refine .trans ?_ (State.gcReqs_sameCount _)
  have h := SameCount.foldl write
  split
  · exact ⟨(h _ _).sealedN, (h _ _).t0, (h _ _).t1⟩
  · have hr (u : State) := u.resolvePlan_sameCount n
    exact ⟨(hr _).sealedN.trans (h _ _).sealedN, (hr _).t0.trans (h _ _).t0, (hr _).t1.trans (h _ _).t1⟩

/-! ### The seal -/

theorem State.sealUpdate_sameCount (s : State) (t : Nat) (commit : Bool) : SameCount s (s.sealUpdate t commit) := by
  unfold State.sealUpdate
  split
  · exact .refl s
  · dsimp only
    refine .ite ⟨rfl, rfl, rfl⟩ (.ite ⟨rfl, rfl, rfl⟩ (.trans ?_ (State.release_only _ _).sameCount))
    exact ⟨rfl, rfl, rfl⟩

/-- Moving a held sum changes the oldest trick's record in its places alone. -/
theorem Job.moveSum_foldl_fwdOk (place : List (Nat × Nat)) (l : List OutTile) (j : Job) :
    (l.foldl (Job.moveSum place) j).t0.fwdOk = j.t0.fwdOk := by
  induction l generalizing j with
  | nil => rfl
  | cons o l ih => exact ih _

theorem State.relocSums_fwdOk (s : State) (place : List (Nat × Nat)) : (s.relocSums place).job.t0.fwdOk = s.job.t0.fwdOk :=
  Job.moveSum_foldl_fwdOk place _ s.job

/-- A seal takes the count one further, and the next trick's record becomes the oldest one's. -/
theorem State.applySeal_counts (s : State) (commit : Bool) :
    (s.applySeal commit).stat.sealedN = s.stat.sealedN + 1 ∧ (s.applySeal commit).job.t0.fwdOk = s.job.t1.fwdOk := by
  unfold State.applySeal
  extract_lets t r job s1 s2 s3 e s4 j0 j stat s5 s6 s7 s8 s9 s10
  have h2 : SameCount s s2 := .trans (t := s1) ⟨rfl, rfl, rfl⟩ (s1.sealUpdate_sameCount t commit)
  clear_value s2
  have h5 : s5.stat.sealedN = s.stat.sealedN + 1 ∧ s5.job.t0 = s.job.t1 := by
    refine ⟨rfl, Eq.trans ?_ h2.t1⟩
    dsimp only [s5, j, j0, s4, s3, Job.fixBuckets, Job.mapCtxs, State.setRecov, State.sealCounts]
  clear_value s5
  have h6 : s6.stat.sealedN = s5.stat.sealedN ∧ s6.job.t0.fwdOk = s5.job.t0.fwdOk := by
    dsimp only [s6]
    split
    · exact ⟨rfl, s5.relocSums_fwdOk _⟩
    · exact ⟨rfl, rfl⟩
  have h9 : SameCount s6 s9 := (s6.releaseStaged_sameCount t).trans
    (.trans (.ite (State.release_only _ _).sameCount (.refl _)) s8.flushHeld_only.sameCount)
  have h10 : SameCount s9 s10 := by
    dsimp only [s10]
    split
    · exact .refl s9
    · split
      · exact .refl s9
      · exact s9.sendState_sameCount _ _ _ _ _ _
  have hend (u : State) : SameCount u u.takeHeldData.pointCheck.settle.lagSwap.settle :=
    u.takeHeldData_sameTricks.sameCount.trans ((State.pointCheck_sameCount _).trans ((State.settle_only _).sameCount.trans
      ((State.lagSwap_sameTricks _).sameCount.trans (State.settle_only _).sameCount)))
  have hall := h9.trans (h10.trans (hend s10))
  exact ⟨hall.sealedN.trans (h6.1.trans h5.1), (congrArg TrickRec.fwdOk hall.t0).trans (h6.2.trans (congrArg TrickRec.fwdOk h5.2))⟩

theorem State.sendDecision_sameCount (s : State) (t : Nat) (a : Byte) (v : Verdict) (commit : Bool) (cause : BitVec 4)
    (origin : BitVec 16) : SameCount s (s.sendDecision t a v commit cause origin) :=
  .foldl (fun s m => (s.sendPeer_only m _ _ _ _ _).sameCount) _ s

/-- The root's seal of a trick that is OK from the whole tree, where the next one is not yet: one trick, once. -/
theorem State.rootSeal_rootSeal {s : State} (hroot : s.isRoot = true) (h0 : s.job.t0.fwdOk = true) (hv : s.job.t0.fwdVoid = false)
    (h1 : s.job.t1.fwdOk = false) : s.rootSeal.rootSeal.stat.sealedN = s.stat.sealedN + 1 := by
  have hfirst : s.rootSeal = s.decided s.stat.sealedN .ok s.job.t0.commits 0 0xFFFF := by
    simp [State.rootSeal, hroot, h0, hv]
  have hseal : (s.applied s.stat.sealedN .ok s.job.t0.commits 0 0xFFFF) = s.applySeal s.job.t0.commits := if_pos rfl
  have hcount : s.rootSeal.stat.sealedN = s.stat.sealedN + 1 ∧ s.rootSeal.job.t0.fwdOk = false := by
    obtain ⟨hn, hf⟩ := s.applySeal_counts s.job.t0.commits
    rw [hfirst, State.decided, hseal]
    have hsend := (s.applySeal s.job.t0.commits).sendDecision_sameCount s.stat.sealedN ((s.trick? s.stat.sealedN).getD .empty).att .ok
      s.job.t0.commits 0 0xFFFF
    exact ⟨hsend.sealedN.trans hn, (congrArg TrickRec.fwdOk hsend.t0).trans (hf.trans h1)⟩
  have hsecond : s.rootSeal.rootSeal = s.rootSeal := by
    rw [State.rootSeal.eq_1 s.rootSeal]
    simp [hcount.2]
  rw [hsecond]
  exact hcount.1

/-! ### The module's own vote -/

/-- The module's own vote, once its conditions hold. -/
theorem exec_moduleVoteOk_ready {s : State} {t : BitVec 48} (h : s.voteReady t.toNat = true) :
    exec (.moduleVoteOk t) s = .next ((s.modTrick t.toNat fun r => { r with voted := some .ok }).nodeVote t.toNat
      ⟨none, .ok, ((s.trick? t.toNat).getD .empty).commitBit, 0, 0xFFFF⟩).refault.pump := by
  change execModuleVoteOk t s = _
  simp [execModuleVoteOk, h]

theorem State.trick?_of_voteReady {s : State} {t : Nat} (h : s.voteReady t = true) : ∃ r, s.trick? t = some r := by
  cases hr : s.trick? t with
  | none => simp [State.voteReady, hr] at h
  | some r => exact ⟨r, rfl⟩

theorem TrickRec.commitBit_eq (r : TrickRec) : r.commitBit = r.upd.all fun u => !u.nf && !u.nf2 := by
  unfold TrickRec.commitBit
  cases r.upd <;> simp

/-- An OK vote of a module that is its own tree seals the oldest trick. -/
theorem State.nodeVote_sole {s : State} {t : Nat} {v : VoteR} (ht : t = s.stat.sealedN) (hview : s.fab.view = none) (hrecon : s.fab.reconciling = false)
    (hown : v.rank = none) (hok : v.verdict = .ok) (h0 : s.job.t0.fwdOk = false) (hv : s.job.t0.fwdVoid = false)
    (h1 : s.job.t1.fwdOk = false) : (s.nodeVote t v).stat.sealedN = s.stat.sealedN + 1 := by
  subst ht
  have hranks : s.ranks = [] := by simp [State.ranks, hview]
  have hchildren : s.children = [] := by simp [State.children, hranks]
  have hall (r : TrickRec) : s.allOk { r with votes := r.votes ++ [v] } = true := by
    simp [State.allOk, hchildren, hown, hok]
  have hroot : ∀ r, (s.modTrick s.stat.sealedN fun _ => r).isRoot = true := by
    intro r
    simp [State.isRoot, State.position, State.ranks, hview]
  have htrick : s.trick? s.stat.sealedN = some s.job.t0 := if_pos rfl
  rw [State.nodeVote, htrick]
  have hforward : (s.allOk { s.job.t0 with votes := s.job.t0.votes ++ [v] } && !s.job.t0.fwdOk && !s.job.t0.fwdVoid) = true := by
    rw [hall, h0, hv]
    rfl
  dsimp only
  rw [if_neg (ne_true_of_eq_false hrecon), if_pos (beq_iff_eq.2 hok), if_pos hforward, if_pos (hroot _)]
  refine (State.rootSeal_rootSeal (hroot _) ?_ ?_ ?_).trans ?_
  all_goals simp [State.modTrick, hv, h1]

/-- Settles O30: the module's own vote is the whole tree's, the root seals the trick (`State.applySeal_counts`) and finds nothing more. -/
theorem soleMemberOkVoteSeals : Obligations.SoleMemberOkVoteSeals := by
  unfold Obligations.SoleMemberOkVoteSeals
  intro s t hview hrecon hready ht _ h0 hv h1
  have hvote := State.nodeVote_sole (s := s.modTrick t.toNat fun r => { r with voted := some .ok })
    (v := ⟨none, .ok, ((s.trick? t.toNat).getD .empty).commitBit, 0, 0xFFFF⟩)
    (by simpa using ht) (by simpa using hview) (by simpa using hrecon) rfl rfl (by simp [State.modTrick, ht, h0]) (by simp [State.modTrick, ht, hv])
    (by simp [State.modTrick, ht, h1])
  refine ⟨_, exec_moduleVoteOk_ready hready, ?_⟩
  rw [State.modTrick_stat] at hvote
  exact hvote

/-! ### Votes and decisions of the tree -/

@[simp] theorem taken_reconciling (s : State) (h : FrameHdr) : (taken s h).fab.reconciling = s.fab.reconciling := by
  rw [taken_linkOnly s h]

/-- A frame of the job, in order and of the current epoch, is processed. -/
theorem rxJob_jobFrame {s : State} {h : FrameHdr} (hf : JobFrame s h) (i : Instr) : s.rxJob h i = (true, taken s h) := by
  obtain ⟨hin, hjob, hlive, hepoch, hq, ho⟩ := hf
  unfold State.rxJob
  rw [State.rxFrame_inOrder hin]
  exact State.epochGate_current i (by simpa using hjob) (by simpa using hlive) (by simpa using hq) (by simpa using ho)
    (by simpa using hepoch)

/-- Settles O29: the module's own vote (`exec_moduleVoteOk_ready`), and `State.takeVote` and `State.takeDecision` past their checks on
the state once the frame has been taken, which is acknowledged at once (log entry 18). -/
theorem votesAndDecisionsAreTaken : Obligations.VotesAndDecisionsAreTaken := by
  unfold Obligations.VotesAndDecisionsAreTaken
  intro s h v commit cause origin
  refine ⟨fun t hready => ?_, fun r hf hr hatt hhalt hchild => ?_, fun r hf hr hatt hparent hrecon hok => ?_⟩
  · obtain ⟨r, hr⟩ := State.trick?_of_voteReady hready
    refine ⟨_, exec_moduleVoteOk_ready hready, r, _, hr, rfl, ?_⟩
    rw [hr, Option.getD_some, TrickRec.commitBit_eq]
  · refine ⟨_, ?_, rfl⟩
    change execSealVoteReceived h v commit cause origin s = _
    simp [execSealVoteReceived, rxJob_jobFrame hf, State.takeVote, hr, hatt, hhalt, List.contains_iff_mem.1 hchild]
  · refine ⟨_, ?_, rfl⟩
    change execSealDecisionReceived h v commit cause origin s = _
    have hnow : ¬ (v = .ok ∧ h.trick.toNat ≠ s.stat.sealedN) := fun ⟨hv, hne⟩ => hne (hok hv)
    simp [execSealDecisionReceived, rxJob_jobFrame hf, State.takeDecision, hr, hatt, hparent, hrecon, hnow]

end Sys2Proof.Machine

/-! ## Swaps (R357, R360, R472)

O27. The sums a context leaves behind at its swap-out touch its charge for copies alone (`State.swapSums_leaves`). -/

namespace Sys2Proof.Machine

open Claim

@[simp] theorem Job.ctx?_modTile (j : Job) (b r k : Nat) (f : OutTile → OutTile) (c : CtxId) : (j.modTile b r k f).ctx? c = j.ctx? c := rfl
@[simp] theorem Job.modTile_lagLeft (j : Job) (b r k : Nat) (f : OutTile → OutTile) : (j.modTile b r k f).lagLeft = j.lagLeft := rfl

/-- A held sum that goes to the working store changes of a context at most its charge for copies. -/
theorem Job.spillSum_ctx {j : Job} {o : OutTile} {c : CtxId} {x : Ctx} (hx : j.ctx? c = some x) :
    ∃ n, (j.spillSum o).ctx? c = some { x with copy := n } := by
  by_cases hc : c = o.ctx
  · subst hc
    exact ⟨_, by rw [Job.spillSum, Job.ctx?_modCtx_same, Job.ctx?_modTile, hx]; rfl⟩
  · exact ⟨x.copy, by rw [Job.spillSum, Job.ctx?_modCtx_other _ _ _ _ hc, Job.ctx?_modTile, hx]⟩

theorem Job.spillSum_lagLeft (j : Job) (o : OutTile) : (j.spillSum o).lagLeft = j.lagLeft := by
  simp [Job.spillSum]

/-- The sums of a swap-out change the job alone, and of the context at most its charge for copies. -/
theorem State.swapSums_leaves (c : CtxId) (l : List OutTile) {s : State} {x : Ctx} (hx : s.job.ctx? c = some x) :
    JobOnly s (s.swapSums c l) ∧ (s.swapSums c l).job.lagLeft = s.job.lagLeft ∧
      ∃ n, (s.swapSums c l).job.ctx? c = some { x with copy := n } := by
  induction l generalizing s x with
  | nil => exact ⟨.refl s, rfl, x.copy, hx⟩
  | cons o r ih =>
    unfold State.swapSums
    split
    · obtain ⟨n, hn⟩ := Job.spillSum_ctx (o := o) hx
      obtain ⟨hjob, hlag, m, hm⟩ := ih (s := { s with job := s.job.spillSum o }) hn
      exact ⟨.trans (t := { s with job := s.job.spillSum o }) rfl hjob, hlag.trans (s.job.spillSum_lagLeft o), m, hm⟩
    · exact ih hx

/-- What a swap-out leaves, before the engine queues are looked at. -/
def State.swappedOut (s : State) (c : CtxId) (x : Ctx) : State :=
  let t := s.swapSums c s.job.tiles
  { t with
    job := { (t.job.modCtx c fun y => { y with
      resid := if (s.seatSpare x.seat).isSome then .swapIn else .out
      seat := s.seatSpare x.seat
      cswaps := satAdd y.cswaps 1 sat32 }) with evict := none }
    stat := { t.stat with swaps := (t.stat.swaps + 1) % 2 ^ 64 } }

theorem exec_swapOutComplete {s : State} {c : CtxId} {x : Ctx} (hx : s.job.ctx? c = some x) (hout : x.resid = .swapOut)
    (hbegun : x.entries.any QE.begun = false) (hfins : s.job.fins.any (fun f => f.ctx == c) = false) :
    exec (.swapOutComplete c) s = .next (((s.swappedOut c x).pump).lagSwapN s.job.lagLeft).settle := by
  obtain ⟨hjob, hlag, -⟩ := State.swapSums_leaves c s.job.tiles hx
  have hspare : (s.swapSums c s.job.tiles).seatSpare x.seat = s.seatSpare x.seat := by
    unfold State.seatSpare
    rw [hjob.hl]
  change execSwapOutComplete c s = _
  unfold execSwapOutComplete
  simp only [hx, hout, hbegun, hfins, ne_eq, not_true_eq_false, decide_false, Bool.or_self, Bool.false_eq_true, if_false, hspare, hlag,
    State.swappedOut, Job.modCtx_lagLeft]

/-- Settles O27: the swap-out by `exec_swapOutComplete`; the swap-in and the timeout are their definitions past their checks. -/
theorem swapsMoveContexts : Obligations.SwapsMoveContexts := by
  unfold Obligations.SwapsMoveContexts
  intro s c x hx
  refine ⟨fun hout hbegun hfins => ?_, fun hin => ?_, fun t ht hdue => ?_⟩
  · obtain ⟨hjob, -, n, hn⟩ := State.swapSums_leaves c s.job.tiles hx
    have hself : (s.swappedOut c x).job.ctx? c = some { x with
        copy := n
        resid := if (s.seatSpare x.seat).isSome then .swapIn else .out
        seat := s.seatSpare x.seat
        cswaps := satAdd x.cswaps 1 sat32 } := (Job.ctx?_modCtx_same _ c _).trans (by rw [hn]; rfl)
    refine ⟨s.swappedOut c x, exec_swapOutComplete hx hout hbegun hfins, ⟨_, hself, rfl, rfl, rfl, rfl, rfl, rfl⟩, ?_, rfl⟩
    exact congrArg (fun k : Stat => (k.swaps + 1) % 2 ^ 64) hjob.stat
  · change execSwapInComplete c s = _
    unfold execSwapInComplete
    simp [hx, hin, Job.modCtx_eq s.job c _ x hx, withCtx]
  · change execSchedStuckTimeout s = _
    rw [execSchedStuckTimeout, ht]
    exact if_pos hdue

end Sys2Proof.Machine

/-! ## Completion of an instruction (R253, R265, R287)

O23 from what `Ctx.finish` leaves of the architectural state (`Ctx.finish_arch`). -/

namespace Sys2Proof.Machine

open Claim

/-! ### What an instruction's end leaves of its context -/

/-- The completion counts in its counter, when that is LOCAL (R253). -/
def Arch.counted (a : Arch) : Option EReg → Arch
  | none => a
  | some e => if (a.ctr e).bound.isNone then a.setCtr e { a.ctr e with val := (a.ctr e).val + 1 } else a

/-- The summary goes into its register. -/
def Arch.summed (a : Arch) (v : Dword) : Option SReg → Arch
  | none => a
  | some r => a.setReg r v

theorem Ctx.finish_arch (x : Ctx) (k : EngKind) (q : QE) :
    (x.finish k q).arch = ({ x.arch with cur := x.arch.cur ||| q.flags }.counted q.ec).summed q.sumVal q.sum := by
  unfold Ctx.finish
  dsimp only
  split
  · cases q.ec <;> cases q.sum <;> rfl
  · rw [Ctx.noteFlags_arch]
    cases q.ec <;> cases q.sum <;> rfl

theorem Ctx.noteFlags_queue (x : Ctx) (t : Nat) (clr set : Fl) (k : EngKind) : (x.noteFlags t clr set).queue k = x.queue k := by
  unfold Ctx.noteFlags
  split <;> cases k <;> rfl

theorem Ctx.finish_queue (x : Ctx) (k : EngKind) (q : QE) : (x.finish k q).queue k = (x.queue k).filter fun p => p.uid != q.uid := by
  unfold Ctx.finish
  dsimp only
  split
  · cases k <;> rfl
  · rw [Ctx.noteFlags_queue]
    cases k <;> rfl

theorem Arch.ctr_counted (a : Arch) (e : Option EReg) (k : EReg) :
    (a.counted e).ctr k = if e = some k ∧ (a.ctr k).bound = none then ⟨(a.ctr k).val + 1, none⟩ else a.ctr k := by
  cases e with
  | none => simp [Arch.counted]
  | some e =>
    by_cases hb : (a.ctr e).bound = none
    · by_cases hk : k = e
      · subst hk; simp [Arch.counted, hb, Arch.ctr_setCtr]
      · have hk' : ¬ e = k := fun h => hk h.symm
        simp [Arch.counted, hb, Arch.ctr_setCtr, hk, hk']
    · have hkeep : ¬ (some e = some k ∧ (a.ctr k).bound = none) := fun ⟨h, hn⟩ => hb (by cases h; exact hn)
      rw [if_neg hkeep]
      simp [Arch.counted, hb]

theorem Arch.counted_frame (a : Arch) (e : Option EReg) : (a.counted e).pc = a.pc ∧ (a.counted e).regs = a.regs ∧
    (a.counted e).preds = a.preds ∧ (a.counted e).hnds = a.hnds ∧ (a.counted e).cur = a.cur := by
  cases e with
  | none => exact ⟨rfl, rfl, rfl, rfl, rfl⟩
  | some e =>
    cases hb : (a.ctr e).bound <;> simp [Arch.counted, hb]

theorem Arch.reg_summed (a : Arch) (v : Dword) (o : Option SReg) (r : SReg) :
    (a.summed v o).reg r = if o = some r ∧ r ≠ 0 then v else a.reg r := by
  cases o with
  | none => simp [Arch.summed]
  | some p =>
    refine (a.reg_setReg p r v).trans ?_
    by_cases h : r = p
    · subst h; simp
    · have h' : ¬ p = r := fun k => h k.symm
      simp [h, h']

theorem Arch.summed_frame (a : Arch) (v : Dword) (o : Option SReg) : (a.summed v o).pc = a.pc ∧ (a.summed v o).ctrs = a.ctrs ∧
    (a.summed v o).preds = a.preds ∧ (a.summed v o).hnds = a.hnds ∧ (a.summed v o).cur = a.cur := by
  cases o with
  | none => exact ⟨rfl, rfl, rfl, rfl, rfl⟩
  | some r => exact ⟨a.setReg_pc r v, a.setReg_ctrs r v, a.setReg_preds r v, a.setReg_hnds r v, a.setReg_cur r v⟩

/-! ### The instruction's end -/

/-- The state once an instruction has left its queue, before its publish meets the serving program. -/
def State.finished (s : State) (c : CtxId) (x : Ctx) (kind : EngKind) (q : QE) : State :=
  let j := s.job.setCtx c (some (x.finish kind q))
  let j := match q.pub with
    | none => j
    | some b => j.modBuf b fun y => y.publish q.trick
  { s with job := { j with buckets := j.buckets.map fun (p : BktPass) => if p.uid = q.uid then { p with pub := q.pub } else p } }

theorem State.finished_ctx? (s : State) (c : CtxId) (x : Ctx) (kind : EngKind) (q : QE) :
    (s.finished c x kind q).job.ctx? c = some (x.finish kind q) := by
  unfold State.finished
  cases q.pub <;> exact Job.ctx?_setCtx_same s.job c _

theorem exec_instructionComplete {s : State} {c : CtxId} {x : Ctx} {kind : EngKind} {q : QE} (hx : s.job.ctx? c = some x)
    (hq : (x.queue kind).find? QE.settled = some q) : exec (.instructionComplete c kind) s = .next (match q.pub with
      | none => s.finished c x kind q
      | some b => (s.finished c x kind q).emitPublished b q.trick).pump := by
  change execInstructionComplete c kind s = _
  unfold execInstructionComplete State.finished
  simp only [hx, hq] <;> cases q.pub <;> rfl

/-- Settles O23: `Ctx.finish_arch` and `Ctx.finish_queue` for the context, `State.finished` for the buffers. -/
theorem completionCountsAndPublishes : Obligations.CompletionCountsAndPublishes := by
  unfold Obligations.CompletionCountsAndPublishes
  intro s c x kind q hx hq
  obtain ⟨hpc, hregs, hpreds, hhnds, hcur⟩ := Arch.counted_frame { x.arch with cur := x.arch.cur ||| q.flags } q.ec
  obtain ⟨kpc, kctrs, kpreds, khnds, kcur⟩ :=
    Arch.summed_frame ({ x.arch with cur := x.arch.cur ||| q.flags }.counted q.ec) q.sumVal q.sum
  refine ⟨_, exec_instructionComplete hx hq, s.finished c x kind q, _, s.finished_ctx? c x kind q, x.finish_queue kind q, ?_⟩
  rw [x.finish_arch kind q]
  refine ⟨kpc.trans hpc, kcur.trans hcur, fun k => ?_, fun r => ?_, khnds.trans hhnds, kpreds.trans hpreds, fun hp => ?_, fun b hp => ?_⟩
  · rw [Arch.ctr, kctrs]
    exact Arch.ctr_counted _ q.ec k
  · rw [Arch.reg_summed]
    refine if_congr Iff.rfl rfl ?_
    rw [Arch.reg, hregs]
    rfl
  · rw [hp]
    refine ⟨?_, rfl⟩
    rw [State.finished, hp]
    rfl
  · rw [hp]
    refine ⟨?_, rfl⟩
    rw [State.finished, hp]
    rfl

end Sys2Proof.Machine

/-! ## Grants of work units (R346 to R348)

O19. What beginning a unit leaves before its effect is a state of its own (`State.unitBegun`): the grantee charged, its entry begun. -/

namespace Sys2Proof.Machine

open Claim

theorem Ctx.charge_pass (x : Ctx) (k : EngKind) (n : Nat) : (x.charge k n).pass k = x.pass k + BitVec.ofNat 64 (n * (65536 / x.share k)) := by
  cases k <;> rfl

theorem Ctx.charge_arch (x : Ctx) (k : EngKind) (n : Nat) : (x.charge k n).arch = x.arch := by
  cases k <;> rfl

/-- The grantee of a unit: charged, the entry begun with the units and cells that are left. -/
def State.grantedCtx (s : State) (x : Ctx) (kind : EngKind) (q : QE) (us : List (Nat × Nat)) (i : Nat) : Ctx :=
  ((x.charge kind (us.getD i (0, 0)).2).chargeMove (if q.begun then 0 else s.moveBytes q)).mapEntries fun y =>
    if y.uid = q.uid then { y with begun := true, units := us.eraseIdx i, cells := q.cells.eraseIdx i, granted := false, wait := none }
    else y

/-- The grantee is charged and its entry begun. -/
def State.unitCharged (s : State) (kind : EngKind) (c : CtxId) (q : QE) (us : List (Nat × Nat)) (i : Nat) : State :=
  let t := { s with job := s.job.modCtx c fun x =>
    (x.charge kind (us.getD i (0, 0)).2).chargeMove (if q.begun then 0 else s.moveBytes q) }
  t.modQE c q.uid fun y =>
    { y with begun := true, units := us.eraseIdx i, cells := q.cells.eraseIdx i, granted := false, wait := none }

/-- The state in which a granted unit has its effect: a vector unit is counted for the spot checks. -/
def State.unitBegun (s : State) (die : Fin 4) (kind : EngKind) (c : CtxId) (q : QE) (us : List (Nat × Nat)) (i : Nat) : State :=
  if kind = .vector then (s.unitCharged kind c q us i).spotOp die q.trick else s.unitCharged kind c q us i

section
variable (s : State) (die : Fin 4) (kind : EngKind) (c : CtxId) (q : QE) (us : List (Nat × Nat)) (i : Nat)

/-- Beginning a unit changes contexts, and of the job else only the spot checks that are due. -/
theorem State.unitBegun_job : (s.unitBegun die kind c q us i).job.bufs = s.job.bufs ∧
    (s.unitBegun die kind c q us i).job.ctxs = (s.unitCharged kind c q us i).job.ctxs := by
  have hbufs : (s.unitCharged kind c q us i).job.bufs = s.job.bufs := (Job.modCtx_bufs _ _ _).trans (Job.modCtx_bufs _ _ _)
  unfold State.unitBegun
  split <;> exact ⟨hbufs, rfl⟩

theorem State.unitBegun_self {x : Ctx} (hx : s.job.ctx? c = some x) :
    (s.unitBegun die kind c q us i).job.ctx? c = some (s.grantedCtx x kind q us i) := by
  refine (congrArg (fun v : Vector _ 64 => v.get c) (s.unitBegun_job die kind c q us i).2).trans ?_
  refine (Job.ctx?_modCtx_same _ c _).trans ?_
  rw [Job.ctx?_modCtx_same, hx]
  rfl

theorem State.unitBegun_other {d : CtxId} (hd : d ≠ c) : (s.unitBegun die kind c q us i).job.ctx? d = s.job.ctx? d :=
  (congrArg (fun v : Vector _ 64 => v.get d) (s.unitBegun_job die kind c q us i).2).trans
    ((Job.ctx?_modCtx_other _ c d _ hd).trans (Job.ctx?_modCtx_other _ c d _ hd))

theorem State.grantedCtx_pass (x : Ctx) : (s.grantedCtx x kind q us i).pass kind =
    x.pass kind + BitVec.ofNat 64 ((us.getD i (0, 0)).2 * (65536 / x.share kind)) := by
  cases kind <;> rfl

theorem State.grantedCtx_arch (x : Ctx) : (s.grantedCtx x kind q us i).arch = x.arch := by
  cases kind <;> rfl

/-- A matrix unit whose tile may take its products has their effect. -/
theorem State.grantUnit_tile {m : MmaOp} {l : List OutTile} (hop : q.op = .mma m)
    (hneed : s.tileNeed q m (q.cells.getD i (0, 0)) = .ready l) : s.grantUnit die kind c q us i =
    (s.unitBegun die kind c q us i).runTile c q m (q.cells.getD i (0, 0)) l (us.eraseIdx i).isEmpty := by
  simp only [State.grantUnit, State.unitBegun, State.unitCharged, hop, hneed]

/-- Any other instruction has its effect with its last unit. -/
theorem State.grantUnit_other (hop : ∀ m, q.op ≠ .mma m) : s.grantUnit die kind c q us i =
    if (us.eraseIdx i).isEmpty then
      (s.unitBegun die kind c q us i).runFx c { q with begun := true, units := [], granted := false, wait := none }
    else s.unitBegun die kind c q us i := by
  unfold State.grantUnit State.unitBegun State.unitCharged
  cases hq : q.op with
  | mma m => exact absurd hq (hop m)
  | _ => rfl

end

theorem exec_engineWorkGrant {s : State} {die : Fin 4} {kind : EngKind} {c : CtxId} {x : Ctx} {q : QE} {us : List (Nat × Nat)} {i : Nat}
    (hg : s.grantee kind die.val = some (c, x)) (ho : s.offer x kind die.val = some (q, us, i)) :
    exec (.engineWorkGrant die kind) s = .next (s.grantUnit die kind c q us i).pump := by
  change execEngineWorkGrant die kind s = _
  simp only [execEngineWorkGrant, hg, ho]

/-- Settles O19: the charge by `State.grantedCtx_pass`, the effect by `State.grantUnit_tile` and `State.grantUnit_other`; that an
instruction other than an MMA has its whole effect with its last unit is the model's reading (log entry 5). -/
theorem grantChargesAndRunsEffect : Obligations.GrantChargesAndRunsEffect := by
  unfold Obligations.GrantChargesAndRunsEffect
  intro s die kind
  refine ⟨fun hg => ?_, fun c x q us i hg hx ho => ?_⟩
  · change execEngineWorkGrant die kind s = _
    simp only [execEngineWorkGrant, hg]
  · refine ⟨_, exec_engineWorkGrant hg ho, s.unitBegun die kind c q us i, _, s.unitBegun_self die kind c q us i hx, ?_,
      s.grantedCtx_arch kind q us i x, (s.unitBegun_job die kind c q us i).1, fun d hd => s.unitBegun_other die kind c q us i hd,
      fun m l hop hneed => s.grantUnit_tile die kind c q us i hop hneed, fun hop => s.grantUnit_other die kind c q us i hop⟩
    rw [s.grantedCtx_pass]
    cases kind <;> rfl

end Sys2Proof.Machine

/-! ## FILL and raw COPY (R76, R288, R289, R291)

O21 and O22. Both write elements by `Buffer.setRawEl`, cell after cell; `Buffer.rawEl_foldl_setRawEl` says what an element is afterwards,
and `State.runFx_move_bufs` that the rest of the effect touches no buffer when none is a view of host memory. -/

namespace Sys2Proof.Machine

open Claim

/-! ### Elements of a buffer -/

theorem length_memReadN (d : Byte) (m : Memory) (a n : Nat) : (memReadN d m a n).length = n := by
  induction n generalizing a with
  | zero => rfl
  | succ n ih => simp [memReadN, ih]

theorem getD_memReadN {d : Byte} {m : Memory} {a n i : Nat} (hi : i < n) : (memReadN d m a n).getD i 0 = memRead d m (a + i) := by
  induction n generalizing a i with
  | zero => omega
  | succ n ih =>
    cases i with
    | zero => rfl
    | succ i =>
      have h := ih (a := a + 1) (i := i) (by omega)
      rw [show a + (i + 1) = a + 1 + i by omega, ← h]
      rfl

theorem ext_getD {l k : List Byte} {n : Nat} (hl : l.length = n) (hk : k.length = n) (h : ∀ i, i < n → l.getD i 0 = k.getD i 0) : l = k := by
  refine List.ext_getElem (hl.trans hk.symm) fun i hi hj => ?_
  have := h i (by omega)
  rwa [List.getD_eq_getElem _ _ hi, List.getD_eq_getElem _ _ hj] at this

/-- Bytes read where a list was written are that list. -/
theorem memReadN_memWriteN_same (d : Byte) (m : Memory) (a : Nat) (l : List Byte) : memReadN d (memWriteN d m a l) a l.length = l := by
  refine ext_getD (length_memReadN _ _ _ _) rfl fun i hi => ?_
  rw [getD_memReadN hi, memRead_memWriteN, if_pos ⟨by omega, by omega⟩]
  congr 1
  omega

/-- A write beside what is read changes nothing of it. -/
theorem memReadN_memWriteN_other {d : Byte} {m : Memory} {a k n : Nat} {l : List Byte} (h : k + n ≤ a ∨ a + l.length ≤ k) :
    memReadN d (memWriteN d m a l) k n = memReadN d m k n := by
  refine ext_getD (length_memReadN _ _ _ _) (length_memReadN _ _ _ _) fun i hi => ?_
  rw [getD_memReadN hi, getD_memReadN hi, memRead_memWriteN, if_neg (by omega)]

theorem leNat_lt (l : List Byte) : leNat l < 256 ^ l.length := by
  induction l with
  | nil => simp [leNat]
  | cons b l ih =>
    have hb := b.isLt
    simp only [leNat, List.length_cons, Nat.pow_succ]
    omega

theorem Buffer.rawEl_lt (b : Buffer) (i : Nat) : b.rawEl i < 256 ^ b.fmt.bytes := by
  have h := leNat_lt (memReadN 0 b.mem (i * b.fmt.bytes) b.fmt.bytes)
  rwa [length_memReadN] at h

theorem Buffer.rawEl_setRawEl (b : Buffer) (i k w : Nat) :
    (b.setRawEl i w).rawEl k = if k = i then w % 256 ^ b.fmt.bytes else b.rawEl k := by
  have hlen : (leBytes w b.fmt.bytes).length = b.fmt.bytes := leBytes_length w _
  unfold Buffer.rawEl Buffer.setRawEl
  dsimp only
  split
  next h =>
    subst h
    have hsame := memReadN_memWriteN_same 0 b.mem (k * b.fmt.bytes) (leBytes w b.fmt.bytes)
    rw [hlen] at hsame
    rw [hsame, leNat_leBytes]
  next h =>
    rw [memReadN_memWriteN_other]
    rw [hlen]
    rcases Nat.lt_or_gt_of_ne h with hlt | hgt
    · left
      calc k * b.fmt.bytes + b.fmt.bytes = (k + 1) * b.fmt.bytes := by ring
        _ ≤ i * b.fmt.bytes := Nat.mul_le_mul_right _ hlt
    · right
      calc i * b.fmt.bytes + b.fmt.bytes = (i + 1) * b.fmt.bytes := by ring
        _ ≤ k * b.fmt.bytes := Nat.mul_le_mul_right _ hgt

/-- Elements written one after another, each with the value its place has in g. -/
theorem Buffer.rawEl_foldl_setRawEl {α : Type} (at' val : α → Nat) (g : Nat → Nat) (l : List α) (h : ∀ p ∈ l, val p = g (at' p))
    (b : Buffer) (k : Nat) : (l.foldl (fun y p => y.setRawEl (at' p) (val p)) b).rawEl k =
      if k ∈ l.map at' then g k % 256 ^ b.fmt.bytes else b.rawEl k := by
  induction l generalizing b with
  | nil => rfl
  | cons p l ih =>
    rw [List.foldl_cons, ih (fun q hq => h q (List.mem_cons_of_mem p hq)), b.rawEl_setRawEl, Buffer.setRawEl_fmt, h p List.mem_cons_self]
    by_cases hk : k ∈ l.map at'
    · rw [if_pos hk, List.map_cons, if_pos (List.mem_cons_of_mem _ hk)]
    · by_cases hp : k = at' p
      · rw [if_neg hk, if_pos hp, if_pos (by simp [hp]), hp]
      · rw [if_neg hk, if_neg hp, List.map_cons, if_neg fun hmem => (List.mem_cons.1 hmem).elim hp hk]

/-- Writing elements changes a buffer's bytes alone. -/
theorem Buffer.foldl_setRawEl_keeps {α : Type} (f : α → Nat × Nat) (l : List α) (b : Buffer) :
    (l.foldl (fun y p => y.setRawEl (f p).1 (f p).2) b).id = b.id ∧ (l.foldl (fun y p => y.setRawEl (f p).1 (f p).2) b).cls = b.cls := by
  induction l generalizing b with
  | nil => exact ⟨rfl, rfl⟩
  | cons p l ih => exact ih _

/-! ### Cells of a block -/

theorem mem_rect {r c h w : Nat} {p : Nat × Nat} : p ∈ rect r c h w ↔ r ≤ p.1 ∧ p.1 < r + h ∧ c ≤ p.2 ∧ p.2 < c + w := by
  obtain ⟨a, b⟩ := p
  simp only [rect, List.mem_flatMap, List.mem_range, List.mem_map, Prod.mk.injEq]
  constructor
  · rintro ⟨i, hi, k, hk, rfl, rfl⟩
    omega
  · rintro ⟨h1, h2, h3, h4⟩
    exact ⟨a - r, by omega, b - c, by omega, by omega, by omega⟩

/-- An element lies in a block of its buffer when its place is that of one of the block's cells. -/
theorem mem_rect_place {r c h w cols : Nat} (hw : c + w ≤ cols) {a b : Nat} (hb : b < cols) :
    a * cols + b ∈ (rect r c h w).map (fun p => p.1 * cols + p.2) ↔ r ≤ a ∧ a < r + h ∧ c ≤ b ∧ b < c + w := by
  rw [List.mem_map]
  constructor
  · rintro ⟨p, hp, heq⟩
    obtain ⟨h1, h2, h3, h4⟩ := mem_rect.1 hp
    have hpos : 0 < cols := by omega
    have hrow : p.1 = a := by
      have := congrArg (· / cols) heq
      simpa [Nat.add_comm, Nat.add_mul_div_right _ _ hpos, Nat.div_eq_of_lt hb, Nat.div_eq_of_lt (by omega : p.2 < cols)] using this
    subst hrow
    omega
  · intro h
    exact ⟨(a, b), mem_rect.2 h, rfl⟩

/-! ### The effect of a copy without views -/

/-- No buffer of the job is a view of host memory or of the input region. -/
def Job.NoViews (j : Job) : Prop := ∀ y ∈ j.bufs, y.cls ≠ .host ∧ y.cls ≠ .input

theorem Job.NoViews.buf? {j : Job} (h : j.NoViews) {n : Nat} {b : Buffer} (hb : j.buf? n = some b) : b.cls ≠ .host ∧ b.cls ≠ .input :=
  h b (List.mem_of_find?_eq_some hb)

theorem State.withView_noViews {s : State} (h : s.job.NoViews) (b : Buffer) : s.withView b = s := by
  unfold State.withView
  generalize b.reach = l
  induction l with
  | nil => rfl
  | cons n l ih =>
    rw [List.foldl_cons]
    refine Eq.trans (congrArg (fun t => List.foldl _ t l) ?_) ih
    cases hb : s.job.buf? n with
    | none => rfl
    | some y =>
      obtain ⟨hh, hi⟩ := h.buf? hb
      exact if_neg fun hc => hc.elim hh hi

theorem State.viewAll_noViews {s : State} (h : s.job.NoViews) (l : List Nat) : s.viewAll l = s := by
  induction l with
  | nil => rfl
  | cons n l ih =>
    unfold State.viewAll at ih ⊢
    rw [List.foldl_cons]
    cases s.job.buf? n with
    | none => exact ih
    | some b => exact (congrArg (fun t => List.foldl _ t l) (s.withView_noViews h b)).trans ih

theorem Job.stageHost_bufs (j : Job) (n : Nat) (cells : List (Nat × Nat)) (t c : Nat) : (j.stageHost n cells t c).bufs = j.bufs := by
  unfold Job.stageHost
  split
  · rfl
  · split <;> rfl

theorem Job.NoViews.dropViews {j : Job} (h : j.NoViews) : j.dropViews.bufs = j.bufs := by
  refine (List.map_congr_left fun b hb => ?_).trans (List.map_id _)
  obtain ⟨hh, hi⟩ := h b hb
  exact if_neg fun hc => hc.elim hh hi

theorem Job.NoViews.modBuf {j : Job} (h : j.NoViews) {n : Nat} {g : Buffer → Buffer} (hg : ∀ y, (g y).cls = y.cls) : (j.modBuf n g).NoViews := by
  intro y hy
  obtain ⟨z, hz, rfl⟩ := List.mem_map.1 hy
  split
  · rw [hg]; exact h z hz
  · exact h z hz

theorem State.modQE_bufs (s : State) (c : CtxId) (uid : Nat) (f : QE → QE) : (s.modQE c uid f).job.bufs = s.job.bufs := Job.modCtx_bufs _ _ _

/-- An effect with no late fault touches no buffer that its own work has not. -/
theorem State.takeFx_bufs {s : State} {c : CtxId} {q : QE} {r : FxR} (hl : r.late = none) : (s.takeFx c q r).job.bufs = r.s.job.bufs := by
  unfold State.takeFx
  rw [hl]
  exact (State.modQE_bufs _ _ _ _).trans (State.modTrick_bufs _ _ _)

/-- A move that changes one buffer leaves the rest of them as they are. -/
theorem State.runMove_bufs {s : State} (hv : s.job.NoViews) {q : QE} {c : CtxId} {bd : Nat} {cells : List (Nat × Nat)} {f : Job → FM Job}
    {g : Buffer → Buffer} (hf : (f s.job .zero).1 = s.job.modBuf bd g) (hg : ∀ y, (g y).cls = y.cls) :
    (s.runMove q c bd cells f).late = none ∧ (s.runMove q c bd cells f).s.job.bufs = (s.job.modBuf bd g).bufs := by
  refine ⟨rfl, ?_⟩
  have hstage : ((s.job.modBuf bd g).stageHost bd cells q.trick c.val).NoViews := by
    intro y hy
    rw [Job.stageHost_bufs] at hy
    exact hv.modBuf hg y hy
  change ((f s.job .zero).1.stageHost bd cells q.trick c.val).dropViews.bufs = _
  rw [hf]
  exact hstage.dropViews.trans (Job.stageHost_bufs _ _ _ _ _)

/-- The effect of a copy that reads no orphaned region and has no late fault leaves the buffers of its move. -/
theorem State.runFx_move_bufs {s : State} {c : CtxId} {q : QE} {g : TrickRec → TrickRec} (hb : q.bkts = [])
    (hl : (s.fxCopy c q).late = none) (hgo : s.fxGo c q = (s.takeFx c q (s.fxCopy c q)).modTrick q.trick g) :
    (s.runFx c q).job.bufs = (s.fxCopy c q).s.job.bufs := by
  rw [State.runFx, State.onBuckets, if_pos (by rw [hb]; rfl), hgo]
  exact (State.modTrick_bufs _ _ _).trans (State.takeFx_bufs hl)

theorem Job.buf?_modBuf_same {j : Job} {n : Nat} {g : Buffer → Buffer} (hg : ∀ y, (g y).id = y.id) :
    (j.modBuf n g).buf? n = (j.buf? n).map g :=
  find?_id_map_ite hg

theorem Job.buf?_modBuf_other {j : Job} {n k : Nat} {g : Buffer → Buffer} (hg : ∀ y, (g y).id = y.id) (h : k ≠ n) :
    (j.modBuf n g).buf? k = j.buf? k := by
  unfold Job.buf? Job.modBuf
  dsimp only
  induction j.bufs with
  | nil => rfl
  | cons y l ih =>
    rw [List.map_cons, List.find?_cons, List.find?_cons, ih]
    by_cases hy : y.id = n
    · rw [if_pos hy, hg]
      have hk : (y.id == k) = false := beq_false_of_ne fun h' => h (h'.symm.trans hy)
      rw [hk]
    · rw [if_neg hy]

/-! ### FILL -/

/-- The block of a fill, filled. -/
def Buffer.filled (b : Buffer) (cols dr dc h w : Nat) (v : Word) : Buffer :=
  (rect dr dc h w).foldl (fun y p => y.setRawEl (p.1 * cols + p.2) v.toNat) b

theorem Buffer.filled_keeps (b : Buffer) (cols dr dc h w : Nat) (v : Word) :
    (b.filled cols dr dc h w v).id = b.id ∧ (b.filled cols dr dc h w v).cls = b.cls :=
  Buffer.foldl_setRawEl_keeps (fun p : Nat × Nat => (p.1 * cols + p.2, v.toNat)) _ b

/-- A fill, as its effect runs it. -/
def fillMove (bd dr dc h w : Nat) (v : Word) (j : Job) : FM Job := do
  match j.buf? bd with
  | none => return j
  | some d =>
    if d.fmt.isFloat then j.storeEls bd ((rect dr dc h w).map fun p => (p.1, p.2, ofBits v)) fun _ => none
    else return j.modBuf bd fun y => y.filled d.cols dr dc h w v

section
variable {s : State} {c : CtxId} {q : QE} {bd dr dc h w : Nat} {v : Word} {d : Buffer}

theorem State.fxCopy_fill (hop : q.op = .fill bd dr dc h w v) (hv : s.job.NoViews) :
    s.fxCopy c q = s.runMove q c bd (rect dr dc h w) (fillMove bd dr dc h w v) := by
  unfold State.fxCopy
  rw [hop]
  dsimp only
  rw [s.viewAll_noViews hv]
  rfl

theorem State.runFx_fill_bufs (hop : q.op = .fill bd dr dc h w v) (hbk : q.bkts = []) (hd : s.job.buf? bd = some d)
    (hf : d.fmt.isFloat = false) (hv : s.job.NoViews) :
    (s.runFx c q).job.bufs = (s.job.modBuf bd fun y => y.filled d.cols dr dc h w v).bufs := by
  have hmove : (fillMove bd dr dc h w v s.job .zero).1 = s.job.modBuf bd fun y => y.filled d.cols dr dc h w v := by
    simp only [fillMove, hd, hf]
    rfl
  obtain ⟨hlate, hbufs⟩ := State.runMove_bufs hv (q := q) (c := c) (cells := rect dr dc h w) hmove
    fun y => (y.filled_keeps d.cols dr dc h w v).2
  have horphan : s.orphanRead q = none := by simp only [State.orphanRead, hop]
  rw [← State.fxCopy_fill hop hv] at hlate hbufs
  exact (State.runFx_move_bufs hbk hlate (by simp only [State.fxGo, hop, horphan]; rfl)).trans hbufs

end

/-- Settles O21: `State.runFx_fill_bufs` for the buffers, `Buffer.rawEl_foldl_setRawEl` for the elements. -/
theorem fillWritesItsBlock : Obligations.FillWritesItsBlock := by
  unfold Obligations.FillWritesItsBlock
  intro s c q bd dr dc h w v d hop hbk hd hfmt _ _ hv _ _ hw
  have hf : d.fmt.isFloat = false := by rcases hfmt with hfmt | hfmt <;> rw [hfmt] <;> rfl
  have hbufs := State.runFx_fill_bufs (c := c) hop hbk hd hf hv
  have hget (n : Nat) : (s.runFx c q).job.buf? n = (s.job.modBuf bd fun y => y.filled d.cols dr dc h w v).buf? n :=
    congrArg (fun l : List Buffer => l.find? fun y : Buffer => y.id == n) hbufs
  have hid (y : Buffer) := (y.filled_keeps d.cols dr dc h w v).1
  refine ⟨d.filled d.cols dr dc h w v, ?_, fun r k _ hk => ?_, fun n y hn hy => ?_⟩
  · rw [hget, Job.buf?_modBuf_same hid, hd]
    rfl
  · have hel := Buffer.rawEl_foldl_setRawEl (fun p : Nat × Nat => p.1 * d.cols + p.2) (fun _ => v.toNat) (fun _ => v.toNat)
      (rect dr dc h w) (fun _ _ => rfl) d (r * d.cols + k)
    exact hel.trans (if_congr (mem_rect_place hw hk) rfl rfl)
  · rw [hget, Job.buf?_modBuf_other hid hn]
    exact hy

/-! ### Raw COPY -/

/-- The block of a raw copy, its values those of the source b. -/
def Buffer.copiedFrom (y b : Buffer) (cols dr dc sr sc h w : Nat) : Buffer :=
  (rect dr dc h w).foldl (fun y p => y.setRawEl (p.1 * cols + p.2) (b.rawEl ((p.1 - dr + sr) * b.cols + (p.2 - dc + sc)))) y

theorem Buffer.copiedFrom_keeps (y b : Buffer) (cols dr dc sr sc h w : Nat) :
    (y.copiedFrom b cols dr dc sr sc h w).id = y.id ∧ (y.copiedFrom b cols dr dc sr sc h w).cls = y.cls :=
  Buffer.foldl_setRawEl_keeps (fun p : Nat × Nat => (p.1 * cols + p.2, b.rawEl ((p.1 - dr + sr) * b.cols + (p.2 - dc + sc)))) _ y

/-- The cells of a copy, each with its source cell. -/
def copyPairs (dr dc sr sc h w : Nat) : List ((Nat × Nat) × Option (Nat × Nat)) :=
  (rect dr dc h w).map fun p => (p, some (p.1 - dr + sr, p.2 - dc + sc))

/-- Every source element of a raw copy is read before any is written (R289). -/
theorem Job.moveEls_raw {j : Job} {bd bs dr dc sr sc h w : Nat} {draw : Nat → Option Nat} {d b : Buffer} (hd : j.buf? bd = some d)
    (hb : j.buf? bs = some b) (hraw : rawPair d b = true) (a : Acc) :
    (j.moveEls bd bs (copyPairs dr dc sr sc h w) draw a).1 = j.modBuf bd fun y => y.copiedFrom b d.cols dr dc sr sc h w := by
  simp only [Job.moveEls, hd, hb, hraw, if_true]
  change Job.modBuf _ _ _ = _
  congr 1
  funext y
  simp only [copyPairs, List.map_map, List.foldl_map, Function.comp]
  rfl

section
variable {s : State} {c : CtxId} {q : QE} {bd bs dr dc sr sc h w : Nat} {rc : Rc} {d b : Buffer}

theorem State.fxCopy_copy (hop : q.op = .copy bd bs dr dc sr sc h w rc) (hv : s.job.NoViews) :
    s.fxCopy c q = s.runMove q c bd (rect dr dc h w) fun j =>
      j.moveEls bd bs (copyPairs dr dc sr sc h w) (drawOf j.seed q.trick rc) := by
  unfold State.fxCopy
  rw [hop]
  dsimp only
  rw [s.viewAll_noViews hv]
  rfl

theorem State.runFx_copy_bufs (hop : q.op = .copy bd bs dr dc sr sc h w rc) (hbk : q.bkts = []) (hd : s.job.buf? bd = some d)
    (hb : s.job.buf? bs = some b) (hraw : rawPair d b = true) (hv : s.job.NoViews) :
    (s.runFx c q).job.bufs = (s.job.modBuf bd fun y => y.copiedFrom b d.cols dr dc sr sc h w).bufs := by
  obtain ⟨hlate, hbufs⟩ := State.runMove_bufs hv (q := q) (c := c) (cells := rect dr dc h w)
    (f := fun j => j.moveEls bd bs (copyPairs dr dc sr sc h w) (drawOf j.seed q.trick rc))
    (Job.moveEls_raw hd hb hraw .zero) fun y => (y.copiedFrom_keeps b d.cols dr dc sr sc h w).2
  have horphan : s.orphanRead q = none := by
    have hcls : (b.cls == Cls.host) = false := beq_false_of_ne (hv.buf? hb).1
    simp only [State.orphanRead, hop, hb, hcls, chk, Bool.false_and]
    rfl
  rw [← State.fxCopy_copy hop hv] at hlate hbufs
  exact (State.runFx_move_bufs hbk hlate (by simp only [State.fxGo, hop, horphan]; rfl)).trans hbufs

end

/-- The value a raw copy gives the element at a place of its block. -/
def Buffer.copyAt (b : Buffer) (cols dr dc sr sc place : Nat) : Nat :=
  b.rawEl ((place / cols - dr + sr) * b.cols + (place % cols - dc + sc))

theorem Buffer.copyAt_place (b : Buffer) (cols dr dc sr sc : Nat) {r k : Nat} (hk : k < cols) :
    b.copyAt cols dr dc sr sc (r * cols + k) = b.rawEl ((r - dr + sr) * b.cols + (k - dc + sc)) := by
  have hdiv : (r * cols + k) / cols = r := by
    rw [Nat.add_comm, Nat.add_mul_div_right _ _ (by omega), Nat.div_eq_of_lt hk, Nat.zero_add]
  have hmod : (r * cols + k) % cols = k := by
    rw [Nat.add_comm, Nat.add_mul_mod_self_right, Nat.mod_eq_of_lt hk]
  rw [Buffer.copyAt, hdiv, hmod]

/-- Settles O22: `State.runFx_copy_bufs` for the buffers, `Buffer.rawEl_foldl_setRawEl` for the elements. -/
theorem copyMovesBitsUnchanged : Obligations.CopyMovesBitsUnchanged := by
  unfold Obligations.CopyMovesBitsUnchanged
  intro s c q bd bs dr dc sr sc h w rc d b hop hbk hd hb hfmt hds hbs hv _ hw _ _
  have hraw : rawPair d b = true := by simp [rawPair, hfmt, hds, hbs]
  refine ⟨d.copiedFrom b d.cols dr dc sr sc h w, ?_, fun r k _ hk => ?_⟩
  · have hbufs := State.runFx_copy_bufs (c := c) hop hbk hd hb hraw hv
    have hget := congrArg (fun l : List Buffer => l.find? fun y : Buffer => y.id == bd) hbufs
    refine hget.trans ((Job.buf?_modBuf_same fun y => (y.copiedFrom_keeps b d.cols dr dc sr sc h w).1).trans ?_)
    rw [hd]
    rfl
  · have hval : ∀ p ∈ rect dr dc h w, b.rawEl ((p.1 - dr + sr) * b.cols + (p.2 - dc + sc)) =
        b.copyAt d.cols dr dc sr sc (p.1 * d.cols + p.2) := by
      intro p hp
      obtain ⟨-, -, -, hlt⟩ := mem_rect.1 hp
      exact (b.copyAt_place d.cols dr dc sr sc (by omega)).symm
    have hel := Buffer.rawEl_foldl_setRawEl (fun p : Nat × Nat => p.1 * d.cols + p.2) _ _ (rect dr dc h w) hval d (r * d.cols + k)
    refine hel.trans (if_congr (mem_rect_place hw hk) ?_ rfl)
    rw [b.copyAt_place d.cols dr dc sr sc hk, hfmt]
    exact Nat.mod_eq_of_lt (b.rawEl_lt _)

end Sys2Proof.Machine

/-! ## Drains and epilogues (R134 to R136, R159, R161, R306, R309)

O24. Each of the two instructions is one equation past its look-ups (`exec_outputTileDrain`, `exec_epilogue`); what is left is the tile's
check, found now or kept in the entry. A wrong element reaches the check as the command reports it (log entry 70). -/

namespace Sys2Proof.Machine

open Claim

/-- A finished tile as its checker reports it. -/
def FinTile.reported (f : FinTile) (err : TileErr) : FinTile := { f with acc := errValues err f.h f.w f.acc, chk := errRefs err f.chk }

/-- The state with the finished tile as reported. -/
def State.withReported (s : State) (f : FinTile) (err : TileErr) : State :=
  { s with job := { s.job with fins := s.job.fins.map fun y => if y = f then f.reported err else y } }

/-- The tile in the finished-tile queue. -/
def State.queuedTile (s : State) (f : FinTile) (err : TileErr) (n : Word) : State :=
  { s.withReported f err with job := { (s.withReported f err).job with fins := (s.withReported f err).job.fins.erase (f.reported err) ++
    [{ f.reported err with epi := true, nfrec := n, fail := if err.late then (f.reported err).check else none }] } }

/-- A check found failed votes VOID and names the tile; one that passes leaves the state. -/
def State.checked (s : State) (t : Nat) : Option CheckFail → State
  | none => s
  | some k => s.abft t k

section
variable {s : State} {c : CtxId} {x : Ctx} {f : FinTile} {q : QE} {m : MmaOp} {err : TileErr}

theorem exec_outputTileDrain_store (hx : s.job.ctx? c = some x) (hm : x.mmaOf f.uid = some (q, m))
    (hf : s.job.fins.find? (fun f => f.ctx == c && !f.epi) = some f) (he : m.epi = none) :
    exec (.outputTileDrain c err) s = .next (((s.withReported f err).tileDone (f.reported err)
      ((s.withReported f err).job.onBuckets q.bkts fun j => j.drainTile m (f.reported err) .zero)).checked f.trick (f.reported err).check).pump := by
  change execOutputTileDrain c err s = _
  unfold execOutputTileDrain
  simp only [hf, hx, hm, he, Option.isSome_none, Bool.false_eq_true, if_false]
  cases hk : (f.reported err).check <;> simp only [FinTile.reported] at hk <;> rw [hk] <;> rfl

theorem exec_outputTileDrain_queue (hx : s.job.ctx? c = some x) (hm : x.mmaOf f.uid = some (q, m))
    (hf : s.job.fins.find? (fun f => f.ctx == c && !f.epi) = some f) (he : m.epi.isSome = true) :
    exec (.outputTileDrain c err) s = .next ((s.queuedTile f err
      (((s.withReported f err).job.asBuckets q.bkts true).tileNfrec m (f.reported err))).checked f.trick
        (if err.late then none else (f.reported err).check)).pump := by
  change execOutputTileDrain c err s = _
  unfold execOutputTileDrain
  simp only [hf, hx, hm, he, if_true]
  obtain ⟨els, cells, late⟩ := err
  cases late <;> cases hk : (f.reported _).check <;> simp only [FinTile.reported] at hk <;> rw [hk] <;>
    simp only [State.queuedTile, FinTile.reported, hk] <;> rfl

end

/-- The state in which an epilogue's store is made: the context charged, the vector operation counted for the spot checks. -/
def State.epiBegun (s : State) (c : CtxId) (f : FinTile) (ep : Epi) : State :=
  State.spotOp { s with job := s.job.modCtx c fun x => x.charge .vector (ep.charge (f.h * f.w)) } (Fin.ofNat 4 f.die) f.trick

section
variable {s : State} {die : Fin 4} {c : CtxId} {x : Ctx} {f : FinTile} {q : QE} {m : MmaOp} {ep : Epi}

theorem exec_epilogue (hg : s.grantee .vector die.val = some (c, x)) (hf : s.job.epiEntry c die.val = some f)
    (hm : x.mmaOf f.uid = some (q, m)) (he : m.epi = some ep) :
    exec (.epilogue die) s = .next (((s.epiBegun c f ep).tileDone f
      ((s.epiBegun c f ep).job.onBuckets q.bkts fun j => j.runEpi m ep f .zero)).checked f.trick f.fail).pump := by
  change execEpilogue die s = _
  unfold execEpilogue
  simp only [hg, hf, hm, he]
  cases f.fail <;> rfl

theorem State.epiBegun_self (hx : s.job.ctx? c = some x) :
    (s.epiBegun c f ep).job.ctx? c = some (x.charge .vector (ep.charge (f.h * f.w))) :=
  (Job.ctx?_modCtx_same s.job c _).trans (by rw [hx]; rfl)

end

/-- A check that passes leaves the state; one that fails votes and names the tile. -/
theorem State.checked_spec (s : State) (t : Nat) (o : Option CheckFail) :
    (o = none → s.checked t o = s) ∧ ∀ k, o = some k → s.checked t o = s.abft t k := by
  refine ⟨fun h => ?_, fun k h => ?_⟩
  · rw [h]; rfl
  · rw [h]; rfl

/-- Settles O24: `exec_outputTileDrain_store`, `exec_outputTileDrain_queue` and `exec_epilogue`, the check by `State.checked_spec`. -/
theorem tilesDrainAndEpiloguesRun : Obligations.TilesDrainAndEpiloguesRun := by
  unfold Obligations.TilesDrainAndEpiloguesRun
  refine ⟨fun s c x f q m err hx hm hf => ⟨fun he => ?_, fun he => ?_⟩, fun s die c x f q m ep hg hx hf hm he => ?_⟩
  · exact ⟨_, exec_outputTileDrain_store hx hm hf he, State.checked_spec _ _ _⟩
  · refine ⟨_, exec_outputTileDrain_queue hx hm hf he, ((s.withReported f err).job.asBuckets q.bkts true).tileNfrec m (f.reported err), ?_⟩
    dsimp only
    split
    next hl =>
      simp only [State.checked, State.queuedTile, hl, if_true]
      rfl
    next hl =>
      have hspec := State.checked_spec (s.queuedTile f err (((s.withReported f err).job.asBuckets q.bkts true).tileNfrec m (f.reported err)))
        f.trick (f.reported err).check
      simp only [State.queuedTile, if_neg hl] at hspec ⊢
      exact hspec
  · refine ⟨_, exec_epilogue hg hf hm he, s.epiBegun c f ep, _, _, Job.modCtx_bufs _ _ _, Job.modCtx_fins _ _ _,
      State.epiBegun_self hx, rfl, rfl, rfl, State.checked_spec _ _ _⟩

end Sys2Proof.Machine

/-! ## Grants and movements of the module (R53 to R56, R183, R190 to R192, R228)

O25. Each clause is its command past its look-ups; the lemmas say what a met room request and the seats it wakes leave. -/

namespace Sys2Proof.Machine

open Claim

/-! ### Waking seats, and entries granted -/

theorem Job.wakeRoom_bufs (j : Job) : j.wakeRoom.bufs = j.bufs := Job.mapCtxs_bufs j _
theorem Job.wakeRoom_roomQ (j : Job) : j.wakeRoom.roomQ = j.roomQ := Job.mapCtxs_roomQ j _
theorem Job.wakeRoom_tiles (j : Job) : j.wakeRoom.tiles = j.tiles := Job.mapCtxs_tiles j _

/-- A seat that wakes has only its stall cleared. -/
theorem Job.wakeRoom_copy (j : Job) (c : CtxId) : (j.wakeRoom.ctx? c).map Ctx.copy = (j.ctx? c).map Ctx.copy := by
  rw [Job.wakeRoom, Job.ctx?_mapCtxs, Option.map_map]
  refine congrArg (fun f => Option.map f (j.ctx? c)) (funext fun x => ?_)
  dsimp only [Function.comp]
  split <;> rfl

/-- The entry of a number as its grant leaves it. -/
def QE.grant (q : QE) : QE := { q with granted := true, wait := none }

/-- Every entry of a number is granted. -/
theorem granted_of_mem_map {l : List QE} {uid : Nat} {p : QE} (hp : p ∈ l.map fun q => if q.uid = uid then q.grant else q)
    (hu : p.uid = uid) : p.granted = true ∧ p.wait = none := by
  obtain ⟨q, -, rfl⟩ := List.mem_map.1 hp
  split at hu
  next h => rw [if_pos h]; exact ⟨rfl, rfl⟩
  next h => exact absurd hu h

/-- What a grant leaves of the context's entries. -/
theorem State.modQE_grant_self {s : State} {c : CtxId} {x : Ctx} (hx : s.job.ctx? c = some x) (uid : Nat) :
    (s.modQE c uid QE.grant).job.ctx? c = some (x.mapEntries fun q => if q.uid = uid then q.grant else q) := by
  refine (Job.ctx?_modCtx_same s.job c _).trans ?_
  rw [hx]
  rfl

section
variable {s : State} {c : CtxId} {x : Ctx} {q : QE} {rest : List (Nat × CtxId)} {uid : Nat}

/-- The state once a Pot reservation is granted. -/
def State.potGranted (s : State) (c : CtxId) (t : StsOp) (q : QE) (rest : List (Nat × CtxId)) : State :=
  { s with job := { s.job.potReserve c t q.trick with potQ := rest } }

theorem exec_potReservationGrant {t : StsOp} (hx : s.job.ctx? c = some x) (hQ : s.job.potQ = (uid, c) :: rest)
    (hq : x.qv.find? (fun q => q.uid == uid) = some q) (hop : q.op = .sts t) (hfits : s.job.foldFits t = true) :
    exec .potReservationGrant s = .next ((s.potGranted c t q rest).modQE c uid QE.grant).pump := by
  change execPotReservationGrant s = _
  unfold execPotReservationGrant
  simp only [hQ, hx, Option.bind_some, hq, hop, hfits, Bool.not_true, Bool.false_eq_true, if_false]
  rfl

theorem exec_hostStagingGrant (hx : s.job.ctx? c = some x) (hQ : s.job.stageQ = (uid, c) :: rest)
    (hq : x.qc.find? (fun q => q.uid == uid) = some q) (hask : s.job.stageAsk q.trick (s.job.hostNeed q) = some true) :
    exec .hostStagingGrant s = .next (({ s with job := { s.job with stageQ := rest } } : State).modQE c uid QE.grant).pump := by
  change execHostStagingGrant s = _
  unfold execHostStagingGrant
  simp only [hQ, hx, Option.bind_some, hq, hask]
  rfl

end

/-! ### Room requests -/

theorem OutTile.is_iff {o : OutTile} {b r c : Nat} : o.is b r c = true ↔ o.live = true ∧ o.buf = b ∧ o.r = r ∧ o.c = c := by
  simp [OutTile.is, and_assoc]

/-- A held sum is found again where it was, as it was changed. -/
theorem Job.heldTile_modTile {j : Job} {b r c : Nat} {f : OutTile → OutTile} {o : OutTile} (h : j.heldTile b r c = some o)
    (hf : ∀ y, (f y).is b r c = y.is b r c) : (j.modTile b r c f).heldTile b r c = some (f o) := by
  unfold Job.heldTile at h
  unfold Job.heldTile Job.modTile
  dsimp only
  revert h
  generalize j.tiles = l
  intro h
  induction l with
  | nil => cases h
  | cons y l ih =>
    rw [List.map_cons, List.find?_cons]
    rw [List.find?_cons] at h
    by_cases hy : y.is b r c = true
    · rw [if_pos hy, hf, hy]
      rw [hy] at h
      exact congrArg some (congrArg f (Option.some.inj h))
    · rw [Bool.not_eq_true] at hy
      rw [if_neg (by simp [hy]), hy]
      rw [hy] at h
      exact ih h

theorem Job.heldTile_is {j : Job} {b r c : Nat} {o : OutTile} (h : j.heldTile b r c = some o) : o.buf = b ∧ o.r = r ∧ o.c = c := by
  have := List.find?_some h
  exact (OutTile.is_iff.1 this).2

theorem Job.heldTile_modCtx (j : Job) (k : CtxId) (f : Ctx → Ctx) (b r c : Nat) : (j.modCtx k f).heldTile b r c = j.heldTile b r c := by
  unfold Job.heldTile
  rw [Job.modCtx_tiles]

theorem Job.heldTile_spillSum {j : Job} {b r c : Nat} {o : OutTile} (h : j.heldTile b r c = some o) :
    (j.spillSum o).heldTile b r c = some { o with lies := .store } := by
  obtain ⟨rfl, rfl, rfl⟩ := Job.heldTile_is h
  exact (Job.heldTile_modCtx _ _ _ _ _ _).trans (Job.heldTile_modTile h fun _ => rfl)

theorem Job.heldTile_saveTile {j : Job} {b r c t : Nat} {o : OutTile} (h : j.heldTile b r c = some o) :
    (j.saveTile b r c t).heldTile b r c = some { o with saved := ⟨t, o.acc, o.chk⟩ :: o.saved } := by
  unfold Job.saveTile
  rw [h]
  exact (Job.heldTile_modCtx _ _ _ _ _ _).trans (Job.heldTile_modTile h fun _ => rfl)

theorem Job.meetRoom_roomQ (j : Job) (r : RoomReq) : (j.meetRoom r).roomQ = j.roomQ := by
  unfold Job.meetRoom
  split
  · rfl
  · rfl
  · cases j.heldTile r.buf _ _ with
    | none => rfl
    | some o => exact Job.modCtx_roomQ _ _ _
  · unfold Job.saveTile
    split
    · rfl
    · exact Job.modCtx_roomQ _ _ _

theorem State.makeRoom_fits {s : State} {need : List Nat} (h : s.fits need noUnits = true) : s.makeRoom need = some (true, s) :=
  if_pos h

/-- The state once the oldest room request is met. -/
def State.roomMet (s : State) (r : RoomReq) (rest : List RoomReq) : State :=
  { s with job := ({ s.job with roomQ := rest }.meetRoom r).wakeRoom }

section
variable {s : State} {r : RoomReq} {rest : List RoomReq} {need : List Nat}

theorem exec_roomRequestGrant (hQ : s.job.roomQ = r :: rest) (hneed : s.job.roomNeed r = some need) (hfits : s.fits need noUnits = true) :
    exec .roomRequestGrant s = .next (s.roomMet r rest).pump := by
  change execRoomRequestGrant s = _
  unfold execRoomRequestGrant
  simp only [hQ, hneed, State.makeRoom_fits hfits]
  rfl

theorem State.roomMet_roomQ : (s.roomMet r rest).job.roomQ = rest :=
  (Job.wakeRoom_roomQ _).trans (Job.meetRoom_roomQ _ r)

theorem State.roomMet_buf? (n : Nat) : (s.roomMet r rest).job.buf? n = ({ s.job with roomQ := rest }.meetRoom r).buf? n :=
  congrArg (fun l : List Buffer => l.find? fun y : Buffer => y.id == n) (Job.wakeRoom_bufs _)

theorem State.roomMet_heldTile (b p c : Nat) :
    (s.roomMet r rest).job.heldTile b p c = ({ s.job with roomQ := rest }.meetRoom r).heldTile b p c :=
  congrArg (fun l : List OutTile => l.find? fun o : OutTile => o.is b p c) (Job.wakeRoom_tiles _)

/-- A request for a buffer that is wanted, met. -/
theorem State.roomMet_place {p : Place} (hneed : s.job.roomNeed r = some need)
    (hkind : r.kind = .place ∧ p = .placed ∨ r.kind = .fill ∧ p = .filling) :
    ∃ b y, s.job.buf? r.buf = some b ∧ (s.roomMet r rest).job.buf? r.buf = some y ∧ y = { b with place := p } := by
  have hbuf : ∃ b, s.job.buf? r.buf = some b := by
    rcases hkind with ⟨hk, -⟩ | ⟨hk, -⟩
    all_goals
      simp only [Job.roomNeed, hk, Option.map_eq_some_iff] at hneed
      obtain ⟨b, hb, -⟩ := hneed
      exact ⟨b, hb⟩
  obtain ⟨b, hb⟩ := hbuf
  refine ⟨b, _, hb, ?_, rfl⟩
  rw [State.roomMet_buf?]
  have hmet : ({ s.job with roomQ := rest }.meetRoom r) = ({ s.job with roomQ := rest }.modBuf r.buf fun y => { y with place := p }) := by
    rcases hkind with ⟨hk, rfl⟩ | ⟨hk, rfl⟩ <;> simp only [Job.meetRoom, hk]
  rw [hmet]
  refine (Job.buf?_modBuf_same (g := fun y : Buffer => { y with place := p }) fun _ => rfl).trans ?_
  exact congrArg (Option.map _) hb

/-- A sum's request to leave its slot, met. -/
theorem State.roomMet_slot {a b : Nat} (hneed : s.job.roomNeed r = some need) (hk : r.kind = .slot a b) :
    ∃ o p, s.job.heldTile r.buf a b = some o ∧ (s.roomMet r rest).job.heldTile r.buf a b = some p ∧ p = { o with lies := .store } := by
  simp only [Job.roomNeed, hk, Option.bind_eq_some_iff] at hneed
  obtain ⟨o, ho, -⟩ := hneed
  have hheld : ({ s.job with roomQ := rest } : Job).heldTile r.buf a b = some o := ho
  refine ⟨o, _, ho, ?_, rfl⟩
  rw [State.roomMet_heldTile]
  simp only [Job.meetRoom, hk, hheld, Option.elim_some]
  exact Job.heldTile_spillSum hheld

/-- A request to keep a sum's copy, met. -/
theorem State.roomMet_copy {a b t : Nat} (hneed : s.job.roomNeed r = some need) (hk : r.kind = .copy a b t) :
    ∃ o p, s.job.heldTile r.buf a b = some o ∧ (s.roomMet r rest).job.heldTile r.buf a b = some p ∧
      p = { o with saved := ⟨t, o.acc, o.chk⟩ :: o.saved } := by
  simp only [Job.roomNeed, hk, Option.bind_eq_some_iff] at hneed
  obtain ⟨o, ho, -⟩ := hneed
  have hheld : ({ s.job with roomQ := rest } : Job).heldTile r.buf a b = some o := ho
  refine ⟨o, _, ho, ?_, rfl⟩
  rw [State.roomMet_heldTile]
  simp only [Job.meetRoom, hk]
  exact Job.heldTile_saveTile hheld

/-- The state in which a room request that no spill can meet faults its context. -/
def State.roomFailed (s : State) (r : RoomReq) (rest : List RoomReq) : State :=
  { s with
    job := { s.job with roomQ := rest }.modCtx r.ctx fun x => x.filterEntries fun q => r.uid = 0 || q.uid != r.uid
    stat := { s.stat with exh := true } }

theorem exec_roomRequestFail {x : Ctx} (hx : s.job.ctx? r.ctx = some x) (hQ : s.job.roomQ = r :: rest)
    (hneed : s.job.roomNeed r = some need) (hdead : s.roomDead = true) (hroom : s.makeRoom need = none) :
    exec .roomRequestFail s = .next ((s.roomFailed r rest).raiseFault r.ctx r.trick stSTASH r.handle r.pc r.insn
      (BitVec.ofNat 64 (32768 * need.sum))).pump := by
  change execRoomRequestFail s = _
  unfold execRoomRequestFail
  simp only [hQ, hx, hneed, hdead, hroom, Option.isSome_none, Bool.not_true, Bool.or_self, Bool.false_eq_true, if_false]
  rfl

end

/-! ### Movements -/

section
variable {s : State} {b : Buffer}

/-- The state once a spill, a fill or a move has ended with the buffer changed by f; its owner is charged n bytes. -/
def State.moved (s : State) (b : Buffer) (n : Nat) (f : Buffer → Buffer) : State :=
  { s with job := ((s.job.modBuf b.id f).modCtx b.owner fun x => x.chargeMove n).wakeRoom }

theorem State.moved_buf? (hb : s.job.buf? b.id = some b) (f : Buffer → Buffer) (hf : ∀ y, (f y).id = y.id) (n : Nat) :
    (s.moved b n f).job.buf? b.id = some (f b) := by
  have hbufs : (s.moved b n f).job.bufs = (s.job.modBuf b.id f).bufs := (Job.wakeRoom_bufs _).trans (Job.modCtx_bufs _ _ _)
  refine (congrArg (fun l : List Buffer => l.find? fun y : Buffer => y.id == b.id) hbufs).trans ?_
  exact (Job.buf?_modBuf_same hf).trans (by rw [hb]; rfl)

theorem State.moved_charges {o : Ctx} (ho : s.job.ctx? b.owner = some o) (n : Nat) (f : Buffer → Buffer) :
    ∃ p, (s.moved b n f).job.ctx? b.owner = some p ∧ p.copy = min (o.copy + n) (2 ^ 63 - 1) := by
  have h := Job.wakeRoom_copy ((s.job.modBuf b.id f).modCtx b.owner fun x => x.chargeMove n) b.owner
  rw [Job.ctx?_modCtx_same] at h
  have ho' : (s.job.modBuf b.id f).ctx? b.owner = some o := ho
  rw [ho', Option.map_some, Option.map_some] at h
  obtain ⟨p, hp, hcopy⟩ := Option.map_eq_some_iff.1 h
  exact ⟨p, hp, hcopy⟩

theorem exec_stashSpillComplete (hb : s.job.buf? b.id = some b) (hp : b.place = .spilling) :
    exec (.stashSpillComplete b.id) s = .next (s.moved b (2 * b.bytes) fun y => { y with place := .spilled }).pump := by
  change execStashSpillComplete b.id s = _
  unfold execStashSpillComplete
  simp only [hb, hp, ne_eq, not_true_eq_false, if_false]
  rfl

theorem exec_stashFillComplete (hb : s.job.buf? b.id = some b) (hp : b.place = .filling) :
    exec (.stashFillComplete b.id) s = .next (s.moved b (2 * b.bytes) fun y => { y with place := .placed, inAside := none }).pump := by
  change execStashFillComplete b.id s = _
  unfold execStashFillComplete
  simp only [hb, hp, ne_eq, not_true_eq_false, if_false]
  rfl

end

/-- Settles O25: the grants by `granted_of_mem_map`, room requests by `State.roomMet_place` and its like (what counts as nothing in
flight is log entry 83), movements by `State.moved_buf?` and `State.moved_charges`. -/
theorem grantsAndMovements : Obligations.GrantsAndMovements := by
  unfold Obligations.GrantsAndMovements
  refine ⟨fun s c x uid rest q hx hu => ⟨fun t hQ hq hop hfits => ?_, fun hQ hq hask => ?_⟩, fun s r rest need hQ hneed =>
    ⟨fun hfits => ?_, fun x hx hdead hroom => ?_⟩, fun s b hb => ⟨fun hp => ?_, fun hp => ?_, fun hm => ?_⟩⟩
  · refine ⟨_, exec_potReservationGrant hx hQ hq hop hfits, Job.modCtx_potQ _ _ _, Job.modCtx_bufs _ _ _, _,
      State.modQE_grant_self (s := s.potGranted c t q rest) hx uid, fun p hp hpu => granted_of_mem_map hp hpu⟩
  · exact ⟨_, exec_hostStagingGrant hx hQ hq hask, Job.modCtx_stageQ _ _ _, _,
      State.modQE_grant_self (s := { s with job := { s.job with stageQ := rest } }) hx uid, fun p hp hpu => granted_of_mem_map hp hpu⟩
  · refine ⟨s.roomMet r rest, exec_roomRequestGrant hQ hneed hfits, State.roomMet_roomQ, ?_⟩
    split
    next hk => exact State.roomMet_place hneed (.inl ⟨hk, rfl⟩)
    next hk => exact State.roomMet_place hneed (.inr ⟨hk, rfl⟩)
    next a b hk => exact State.roomMet_slot hneed hk
    next a b t hk => exact State.roomMet_copy hneed hk
  · have hself : (s.roomFailed r rest).job.ctx? r.ctx = some (x.filterEntries fun q => r.uid = 0 || q.uid != r.uid) := by
      refine (Job.ctx?_modCtx_same _ r.ctx _).trans ?_
      exact congrArg (Option.map _) hx
    refine ⟨_, exec_roomRequestFail hx hQ hneed hdead hroom, s.roomFailed r rest, _, Job.modCtx_roomQ _ _ _, rfl, Job.modCtx_bufs _ _ _,
      hself, rfl, fun k => ?_, fun d hd => Job.ctx?_modCtx_other _ _ _ _ hd, rfl⟩
    cases k <;> rfl
  · exact ⟨_, exec_stashSpillComplete hb hp, fun o ho => State.moved_charges ho _ _, _,
      State.moved_buf? hb (fun y => { y with place := .spilled }) (fun _ => rfl) _, rfl⟩
  · exact ⟨_, exec_stashFillComplete hb hp, fun o ho => State.moved_charges ho _ _, _,
      State.moved_buf? hb (fun y => { y with place := .placed, inAside := none }) (fun _ => rfl) _, rfl⟩
  · refine ⟨{ s with job := (s.job.modBuf b.id fun y => { y with moving := false }).wakeRoom }, ?_, fun d => Job.wakeRoom_copy _ d, _, ?_, rfl⟩
    · change execRelocationComplete b.id s = _
      unfold execRelocationComplete
      simp only [hb, hm, Bool.not_true, Bool.false_eq_true, if_false]
    · refine (congrArg (fun l : List Buffer => l.find? fun y : Buffer => y.id == b.id) (Job.wakeRoom_bufs _)).trans ?_
      refine (Job.buf?_modBuf_same (g := fun y : Buffer => { y with moving := false }) fun _ => rfl).trans ?_
      rw [hb]
      rfl

end Sys2Proof.Machine

/-! ## Slot reloads (R117)

O26. The statement asks which sums must leave their slots in the state as it stands; the model first takes the sum that returns out of
reach of that question. The two differ where a second held sum of the same output tile, in a slot, shares that slot with a drained tile. -/

namespace Sys2Proof.Machine

open Claim

/-! ### After a look at every queue, no released buffer is left -/

theorem Job.named_eq_false_of_noCtx {j : Job} (h : ∀ c, j.ctx? c = none) (b : Nat) : j.named b = false := by
  have hl : j.ctxList = [] := by
    unfold Job.ctxList
    rw [List.filterMap_eq_nil_iff]
    intro c _
    rw [h c]
    rfl
  simp [Job.named, allEntries, hl]

/-- With no context, the Table's decisions leave no released buffer. -/
theorem State.settle_released {s : State} (h : ∀ c, s.settle.job.ctx? c = none) : ∀ b ∈ s.settle.job.bufs, b.released = false := by
  intro b hb
  have hnone (c : CtxId) : s.job.ctx? c = none := by
    rcases s.settle_only.ctxs c with ⟨hc, -⟩ | ⟨x, y, -, hy, -⟩
    · exact hc
    · rw [h c] at hy; cases hy
  rw [State.settle, State.schedule_bufs] at hb
  simp only [Job.collect, Job.mapCtxs_bufs, List.mem_map, List.mem_filter] at hb
  obtain ⟨a, ⟨-, ha⟩, rfl⟩ := hb
  have hrel : a.released = false := by
    simpa [Job.free?, Job.named_eq_false_of_noCtx hnone] using ha
  split
  · exact hrel
  · exact hrel

theorem State.pump_released {s : State} (h : ∀ c, s.pump.job.ctx? c = none) : ∀ b ∈ s.pump.job.bufs, b.released = false := by
  unfold State.pump at h ⊢
  exact State.settle_released h

/-! ### The state -/

/-- A held sum of output tile (0, 0) of buffer 1, on tile 0 of die 0. -/
def heldSum (slot : Nat) (lies : SumAt) : OutTile := ⟨1, 0, 0, 0, 0, false, 0, 0, slot, [], ⟨0, [], []⟩, lies, true, []⟩
/-- A drained tile that keeps a slot of tile 0 of die 0. -/
def drainedTile (slot : Nat) : FinTile := ⟨0, 0, 0, 2, 0, 0, 0, 0, false, [], ⟨0, [], []⟩, 0, 0, slot, 0, false, none⟩
/-- A released HOST buffer. -/
def releasedBuffer : Buffer :=
  ⟨7, 0, 0, .host, .byte, 1, 1, .none, 0, 0, 0, 0, 0, 0, [], .placed, none, false, 0, none, none, true, false, none, 0, [], [], [], []⟩

/-- The sum of an output tile is in the working store, a second one of the same tile in slot 3, and every slot of the physical tile is a
drained tile's. -/
def crowdedTile : State :=
  { State.reset with job := { Job.cleared with
      bufs := [releasedBuffer]
      tiles := [heldSum 0 .store, heldSum 3 .slot]
      fins := (List.range 8).map drainedTile } }

/-- The model leaves the state: with the sum's tile out of the slots, drained tiles hold them all. -/
theorem exec_slotReload_crowded : exec (.accumulatorSlotReload 0 1 0 0) crowdedTile = .next crowdedTile := rfl

/-- Refutes O26: in `crowdedTile` the statement finds that one sum must leave its slot and has room for it, yet the sum does not return:
the command leaves the state, which is none that a look at every queue leaves, for it holds a released buffer. -/
theorem not_slotReloadAndSpotChecks : ¬ Obligations.SlotReloadAndSpotChecks := by
  unfold Obligations.SlotReloadAndSpotChecks
  intro h
  obtain ⟨hreload, -⟩ := h crowdedTile 0
  have hheld : crowdedTile.job.heldTile 1 0 0 = some (heldSum 0 .store) := rfl
  have hspills : spillsFor false (crowdedTile.job.slotSums 0 0) (crowdedTile.job.slotsAt 0 0) = some [heldSum 3 .slot] := by decide
  have hroom : crowdedTile.job.roomQ = [] ∧ ({ crowdedTile with job := crowdedTile.job.modTile 1 0 0 fun y =>
      { y with lies := .region none } } : State).fits (unitsAt 0 ([heldSum 3 .slot].map fun (y : OutTile) => 2 * y.slots).sum) noUnits = true :=
    ⟨rfl, by decide⟩
  have hends := hreload 0 1 0 0 (heldSum 0 .store) [heldSum 3 .slot] hheld rfl (by decide) hspills (.inr hroom)
  obtain ⟨e, hexec, -⟩ := hends
  rw [exec_slotReload_crowded, Host.Outcome.next.injEq] at hexec
  have hnone (c : CtxId) : crowdedTile.job.ctx? c = none := by
    simp [crowdedTile, Job.cleared, Job.ctx?, vget_eq]
  have hrel : ∀ b ∈ crowdedTile.job.bufs, b.released = false := by
    rw [hexec] at hnone ⊢
    exact State.pump_released hnone
  exact absurd (hrel releasedBuffer (by simp [crowdedTile])) (by decide)

end Sys2Proof.Machine

/-! ## Requests and plans (R363 to R366, R371, R372, R379, R380)

O45. A refused or ended request answers through the host attachment alone (`HostOnly`), so rings, requests and counts are read off the
step before it. -/

namespace Sys2Proof.Machine

open Claim

/-! ### Rings -/

theorem State.ring_setRing (s : State) (q k : Nat) (r : SRing) : (s.setRing q r).job.ring k = if k = q then r else s.job.ring k := by
  simp only [Job.ring, State.setRing, alGet_alSet]
  split <;> rfl

theorem State.ring_subErr (s : State) (q k : Nat) : (s.subErr q).job.ring k = if k = q then
    { s.job.ring q with refused := BitVec.ofNat 16 (min ((s.job.ring q).refused.toNat + 1) (2 ^ 16 - 1)) } else s.job.ring k :=
  s.ring_setRing q k _

theorem exec_sqtailWrite (s : State) (q : Fin 128) (v : Word) : exec (.sqtailWrite q v) s =
    .next (if (s.job.ring q.val).count (v.setWidth 12) ≥ 2 ^ s.ringLog2 q ∨
      (s.job.ring q.val).count (v.setWidth 12) < (s.job.ring q.val).count (s.job.ring q.val).tail then s.subErr q.val
    else s.setRing q.val { s.job.ring q.val with tail := v.setWidth 12 }) := by
  change execSqtailWrite q v s = _
  unfold execSqtailWrite
  dsimp only
  split <;> rfl

/-! ### Completions and ring entries touch the host attachment alone -/

theorem State.reqCompl_only (s : State) (ring : Fin 128) (hold : Option Nat) (status : Byte) (reqid : Dword) (kind : Byte) :
    HostOnly s (s.reqCompl ring hold status reqid kind) := by
  unfold State.reqCompl
  split
  · exact s.dropCompl_only
  · dsimp only
    split
    · exact State.postTo_only s _ _ _
    · exact State.release_only s _

theorem State.ringEntry_only (s : State) (r : Req) (hold : Option Nat) (l : List Byte) : HostOnly s (s.ringEntry r hold l) := by
  unfold State.ringEntry
  dsimp only
  split
  · exact State.writeRegion_only s _ _ _ _ _ _
  · exact State.release_only s _

theorem State.cancelsDone_only (r : Req) (hold : Option Nat) (status : Byte) (n : Nat) (s : State) :
    HostOnly s (s.cancelsDone r hold status n) := by
  induction n generalizing s with
  | zero => exact .refl s
  | succ n ih => exact (s.reqCompl_only _ _ _ _ _).trans (ih _)

/-! ### SUBMIT -/

theorem leNat_take_lt (l : List Byte) (n : Nat) : leNat (l.take n) < 256 ^ n :=
  (leNat_lt (l.take n)).trans_le (Nat.pow_le_pow_right (by omega) (List.length_take_le n l))

theorem fieldAt_lt (l : List Byte) (i n : Nat) : fieldAt l i n < 256 ^ n := leNat_take_lt (l.drop i) n

theorem worst_failIf_eq_none_iff (a b : Bool) (x y : Byte) : worst (failIf a x) (failIf b y) = none ↔ a = false ∧ b = false := by
  cases a <;> cases b <;> simp [worst, failIf]
  split <;> simp

/-- The request a SUBMIT entry makes. -/
def State.submitted (s : State) (q : Fin 128) (e : List Byte) : Req where
  ring := q
  reqid := BitVec.ofNat 64 (fieldAt e 8 8)
  nlog2 := fieldAt e 1 1
  arrival := s.aon.counter
  deadline := if fieldAt e 4 4 = 0 then none else some (s.aon.counter.toNat + 50 * fieldAt e 4 4)
  promptOff := fieldAt e 16 8
  promptLen := fieldAt e 24 4
  maxNew := fieldAt e 28 4
  stop := BitVec.ofNat 24 (fieldAt e 32 3)
  rregion := fieldAt e 36 2
  ringOff := fieldAt e 40 8
  param := (e.drop 48).take 16
  state := .queued
  slot := none
  planned := 0
  produced := 0
  wrote := 0
  emitEnded := false
  cancels := 0

/-- The region a SUBMIT entry names can be written and has room for its ring. -/
theorem regionOk_iff (o : Option Region) (n : Nat) : (match o with
    | none => true
    | some r => !r.write || decide (n > r.length)) = false ↔ ∃ r, o = some r ∧ r.write = true ∧ n ≤ r.length := by
  cases o with
  | none => simp
  | some r => simp

/-- No held request of the ring has the number. -/
theorem reqs_fresh_iff (l : List Req) (q : Fin 128) (reqid : Dword) :
    (l.any fun r => r.ring == q && r.reqid == reqid && r.state != .ended) = false ↔ ∀ r ∈ l, r.ring = q → r.reqid = reqid → r.state = .ended := by
  rw [List.any_eq_false]
  refine forall₂_congr fun r _ => ?_
  simp only [Bool.and_eq_true, beq_iff_eq, bne_iff_ne, not_and, not_not, and_imp]

/-- The checks of a SUBMIT entry are those of R365. -/
theorem State.submitBad_eq_none_iff (s : State) (q : Fin 128) (e : List Byte) : s.submitBad q e = none ↔ SubmitGood s q e := by
  unfold State.submitBad
  rw [worst_failIf_eq_none_iff]
  simp only [Bool.or_eq_false_iff, bne_eq_false_iff_eq, reqs_fresh_iff, decide_eq_false_iff_not, not_or, Nat.not_lt]
  constructor
  · rintro ⟨⟨⟨⟨⟨⟨⟨⟨⟨⟨⟨hkind, hr1⟩, hr2⟩, hr3⟩, hn⟩, hp⟩, hpl⟩, hmx⟩, hsum⟩, hring⟩, hfresh⟩, hroom⟩
    have hkind' : (fieldAt e 0 1 == 1) = true := beq_iff_eq.2 hkind
    rw [hkind', Bool.true_and, Bool.or_eq_false_iff, decide_eq_false_iff_not, Nat.not_lt] at hroom
    exact ⟨hkind, ⟨hr1, hr2, hr3⟩, hn, ⟨hp, hroom.1⟩, ⟨hpl.1, hmx.1, hpl.2, hmx.2, hsum⟩, hfresh, hring,
      (regionOk_iff _ _).1 hroom.2⟩
  · rintro ⟨hkind, ⟨hr1, hr2, hr3⟩, hn, ⟨hp, hlen⟩, ⟨hl1, hl2, hl3, hl4, hsum⟩, hfresh, hring, hregion⟩
    refine ⟨⟨⟨⟨⟨⟨⟨⟨⟨⟨⟨hkind, hr1⟩, hr2⟩, hr3⟩, hn⟩, hp⟩, hl1, hl3⟩, hl2, hl4⟩, hsum⟩, hring⟩, hfresh⟩, ?_⟩
    rw [Bool.and_eq_false_iff]
    refine .inr (Bool.or_eq_false_iff.2 ⟨?_, (regionOk_iff _ _).2 hregion⟩)
    rw [decide_eq_false_iff_not]
    exact Nat.not_lt.2 hlen

/-- The entry at HEAD is refused: HEAD moves on and the refusal is counted. -/
theorem State.refused_entry (s : State) (q : Fin 128) (st : Byte) (reqid : Dword) (kind : Byte) :
    (((s.pastHead q).subErr q.val).reqCompl q none st reqid kind).job.reqs = s.job.reqs ∧
      (((s.pastHead q).subErr q.val).reqCompl q none st reqid kind).stat = { s.stat with subErr := true } ∧
      (((s.pastHead q).subErr q.val).reqCompl q none st reqid kind).job.ring q.val = { s.job.ring q.val with
        head := (s.job.ring q.val).head + 1
        refused := BitVec.ofNat 16 (min ((s.job.ring q.val).refused.toNat + 1) (2 ^ 16 - 1)) } := by
  have h := ((s.pastHead q).subErr q.val).reqCompl_only q none st reqid kind
  rw [h.job, h.stat]
  refine ⟨rfl, rfl, ?_⟩
  rw [State.ring_subErr, if_pos rfl, State.pastHead, State.ring_setRing, if_pos rfl]

section
variable {s : State} {q : Fin 128} (ht : s.takes q = true)
include ht

theorem exec_submitEntryTaken_good (hk : fieldAt (s.headEntry q) 0 1 ≠ 2) (hgood : s.submitBad q (s.headEntry q) = none) :
    exec (.submitEntryTaken q) s =
      .next { s.pastHead q with job := { (s.pastHead q).job with reqs := s.job.reqs ++ [s.submitted q (s.headEntry q)] } } := by
  change execSubmitEntryTaken q s = _
  unfold execSubmitEntryTaken
  simp only [ht, hk, hgood, Bool.not_true, Bool.false_eq_true, or_self, if_false]
  rfl

theorem exec_submitEntryTaken_bad {st : Byte} (hk : fieldAt (s.headEntry q) 0 1 ≠ 2) (hbad : s.submitBad q (s.headEntry q) = some st) :
    exec (.submitEntryTaken q) s = .next (((s.pastHead q).subErr q.val).reqCompl q none st
      (BitVec.ofNat 64 (fieldAt (s.headEntry q) 8 8)) (byteAt (s.headEntry q) 0)) := by
  change execSubmitEntryTaken q s = _
  unfold execSubmitEntryTaken
  simp only [ht, hk, hbad, Bool.not_true, Bool.false_eq_true, or_self, if_false]

/-! ### CANCEL -/

variable (hk : fieldAt (s.headEntry q) 0 1 = 2)
include hk

theorem exec_cancelEntryTaken_reserved (hz : ¬ (allZero (((s.headEntry q).drop 1).take 7) = true ∧ allZero ((s.headEntry q).drop 16) = true)) :
    exec (.cancelEntryTaken q) s = .next (((s.pastHead q).subErr q.val).reqCompl q none stILLEGAL
      (BitVec.ofNat 64 (fieldAt (s.headEntry q) 8 8)) 2) := by
  have hz' : (!allZero (((s.headEntry q).drop 1).take 7) || !allZero ((s.headEntry q).drop 16)) = true := by
    rwa [← Bool.not_and, Bool.not_eq_true', ← Bool.not_eq_true, Bool.and_eq_true]
  change execCancelEntryTaken q s = _
  unfold execCancelEntryTaken
  simp only [ht, hk, hz', Bool.not_true, Bool.false_eq_true, ne_eq, not_true_eq_false, or_self, if_false, if_true]

variable (hz1 : allZero (((s.headEntry q).drop 1).take 7) = true) (hz2 : allZero ((s.headEntry q).drop 16) = true)
include hz1 hz2

theorem exec_cancelEntryTaken_none (hf : (s.job.reqs.find? fun x => x.ring == q && x.reqid == BitVec.ofNat 64 (fieldAt (s.headEntry q) 8 8) &&
    x.state != .ended) = none) : exec (.cancelEntryTaken q) s =
      .next ((s.pastHead q).reqCompl q none stALREADY (BitVec.ofNat 64 (fieldAt (s.headEntry q) 8 8)) 2) := by
  have hf' : ((s.pastHead q).job.reqs.find? fun x => x.ring == q && x.reqid == BitVec.ofNat 64 (fieldAt (s.headEntry q) 8 8) &&
    x.state != .ended) = none := hf
  change execCancelEntryTaken q s = _
  unfold execCancelEntryTaken
  simp only [ht, hk, hz1, hz2, hf', Bool.not_true, Bool.false_eq_true, ne_eq, not_true_eq_false, or_self, Bool.or_self, if_false]

/-- The state once a cancel has been noted on its request. -/
def State.cancelNoted (s : State) (q : Fin 128) (x : Req) : State := (s.pastHead q).modReq x fun _ => { x with cancels := x.cancels + 1 }

theorem exec_cancelEntryTaken_found {x : Req} (hf : (s.job.reqs.find? fun x => x.ring == q &&
    x.reqid == BitVec.ofNat 64 (fieldAt (s.headEntry q) 8 8) && x.state != .ended) = some x) : exec (.cancelEntryTaken q) s =
      .next (if s.inFlight x then s.cancelNoted q x
        else ((s.cancelNoted q x).endReq { x with cancels := x.cancels + 1 } stCANCELLED none (s.cancelNoted q x).lastStep).gcReqs) := by
  have hf' : ((s.pastHead q).job.reqs.find? fun x => x.ring == q && x.reqid == BitVec.ofNat 64 (fieldAt (s.headEntry q) 8 8) &&
    x.state != .ended) = some x := hf
  have hflight : ((s.pastHead q).modReq x fun _ => { x with cancels := x.cancels + 1 }).inFlight x = s.inFlight x := rfl
  change execCancelEntryTaken q s = _
  unfold execCancelEntryTaken State.cancelNoted
  simp only [ht, hk, hz1, hz2, hf', hflight, Bool.not_true, Bool.false_eq_true, ne_eq, not_true_eq_false, or_self, Bool.or_self, if_false]
  split <;> rfl

end

/-! ### The end of a request -/

theorem Req.sameAs_iff {a b : Req} : a.sameAs b = true ↔ a.ring = b.ring ∧ a.reqid = b.reqid ∧ a.slot = b.slot ∧ a.arrival = b.arrival := by
  simp [Req.sameAs, and_assoc]

theorem State.inFlight_congr (s : State) {a b : Req} (h : a.sameAs b = true) : s.inFlight a = s.inFlight b := by
  obtain ⟨hring, hid, hslot, -⟩ := Req.sameAs_iff.1 h
  unfold State.inFlight
  rw [hring, hid, hslot]

/-- Counting an end changes the counts alone. -/
theorem State.countEnd_eq (s : State) (status : Byte) : s.countEnd status = { s with stat := (s.countEnd status).stat } := rfl

theorem State.countEnd_stat {s t : State} (h : t.stat = s.stat) (status : Byte) : (t.countEnd status).stat = (s.countEnd status).stat := by
  unfold State.countEnd
  rw [h]

/-- The state once a request's terminal entry is written and its end counted, before its record says so. -/
def State.endNoted (s : State) (r : Req) (status : Byte) (hold : Option Nat) (step : Nat) : State :=
  ((s.ringEntry r hold (tokenEntry r.nlog2 r.wrote 0xFFFFFF (r.promptLen + r.wrote) false true true false false status step)).countEnd
    status).cancelsDone r hold (if status = stABORTED then stABORTED else if status = stCANCELLED then stOK else stALREADY) r.cancels

theorem State.endReq_eq (s : State) (r : Req) (status : Byte) (hold : Option Nat) (step : Nat) : s.endReq r status hold step =
    (s.endNoted r status hold step).modReq r fun x => { x with state := .ended, wrote := x.wrote + 1, cancels := 0 } := rfl

section
variable (s : State) (r : Req) (status : Byte) (hold : Option Nat) (step : Nat)

theorem State.endNoted_job : (s.endNoted r status hold step).job = s.job :=
  (State.cancelsDone_only r hold _ r.cancels _).job.trans (State.ringEntry_only s r hold _).job

theorem State.endNoted_stat : (s.endNoted r status hold step).stat = (s.countEnd status).stat :=
  (State.cancelsDone_only r hold _ r.cancels _).stat.trans (State.countEnd_stat (State.ringEntry_only s r hold _).stat status)

theorem State.endReq_gcReqs_stat : (s.endReq r status hold step).gcReqs.stat = (s.countEnd status).stat :=
  s.endNoted_stat r status hold step

theorem State.endReq_gcReqs_ring (k : Nat) : (s.endReq r status hold step).gcReqs.job.ring k = s.job.ring k := by
  change (s.endNoted r status hold step).job.ring k = _
  rw [State.endNoted_job]

/-- A request that has ended and is in no plan is forgotten. -/
theorem State.endReq_gcReqs_gone (h : s.inFlight r = false) : ∀ y ∈ (s.endReq r status hold step).gcReqs.job.reqs, y.sameAs r = false := by
  intro y hy
  have hplans : (s.endReq r status hold step).job.plans = s.job.plans := by
    change (s.endNoted r status hold step).job.plans = _
    rw [State.endNoted_job]
  have hflight (z : Req) : (s.endReq r status hold step).inFlight z = s.inFlight z := by
    unfold State.inFlight
    rw [hplans]
  obtain ⟨hmem, hkeep⟩ := List.mem_filter.1 hy
  obtain ⟨x, -, rfl⟩ := List.mem_map.1 hmem
  by_cases hx : x.sameAs r = true
  · rw [if_pos hx] at hkeep
    have hsame : ({ x with state := .ended, wrote := x.wrote + 1, cancels := 0 } : Req).sameAs r = true := hx
    rw [hflight, s.inFlight_congr hsame, h] at hkeep
    exact absurd hkeep (by simp)
  · rw [if_neg hx]
    exact Bool.eq_false_iff.2 hx

end

/-! ### The plan -/

/-- What one chunk costs of the budget, and that its entry is a prefill. -/
theorem planChunk_entry (r : Req) (k c : Nat) : (planChunk r k c).1.count = c ∧ (planChunk r k c).1.kind ≠ 3 := by
  refine ⟨rfl, ?_⟩
  simp only [planChunk]
  split <;> decide

/-- Prefill entries stay within the budget. -/
theorem planPrefill_budget (chunk : Nat) (l : List Req) (free : List Nat) (budget : Nat) :
    ((planPrefill chunk l free budget).map fun x => x.1.count).sum ≤ budget := by
  induction l generalizing free budget with
  | nil => simp [planPrefill]
  | cons r rest ih =>
    unfold planPrefill
    split
    · simp
    · have hc : min chunk (min (r.promptLen - r.planned) budget) ≤ budget := (Nat.min_le_right _ _).trans (Nat.min_le_right _ _)
      have hrest (fs : List Nat) := ih fs (budget - min chunk (min (r.promptLen - r.planned) budget))
      dsimp only
      split
      · simp only [List.map_cons, List.sum_cons, planChunk_entry]
        exact (Nat.add_le_add_left (hrest _) _).trans (by omega)
      · simp only [List.map_cons, List.sum_cons, planChunk_entry]
        exact (Nat.add_le_add_left (hrest _) _).trans (by omega)
      · exact ih _ _

theorem mem_sortBy {α : Type} {lt : α → α → Bool} {l : List α} {x : α} : x ∈ sortBy lt l ↔ x ∈ l := (sortBy_perm lt l).mem_iff

/-- A plan's prefill entries leave the plans that are there. -/
theorem State.modReq_foldl_plans (l : List (PlanE × Req × Req)) (s : State) :
    (l.foldl (fun s x => s.modReq x.2.1 fun _ => x.2.2) s).job.plans = s.job.plans := by
  induction l generalizing s with
  | nil => rfl
  | cons x l ih => exact ih _

/-- The GENERATE entries, and the prefill entries, of the plan that would be frozen now. -/
def State.genEntries (s : State) : List PlanE :=
  (sortBy slotLt ((sortBy reqLt s.job.reqs).filter fun r => r.state == .generate && !r.emitEnded)).map s.planGen
def State.preEntries (s : State) : List (PlanE × Req × Req) :=
  planPrefill s.chunk (((sortBy reqLt s.job.reqs).filter fun r => r.state == .prefill) ++
    (sortBy reqLt s.job.reqs).filter fun r => r.state == .queued) s.job.freeSlots s.pbudget

theorem State.mem_genEntries {s : State} {x : Req} (hx : x ∈ s.job.reqs) (hg : x.state = .generate) (he : x.emitEnded = false) :
    s.planGen x ∈ s.genEntries := by
  refine List.mem_map_of_mem (mem_sortBy.2 (List.mem_filter.2 ⟨mem_sortBy.2 hx, ?_⟩))
  rw [hg, he]
  rfl

theorem sum_map_filter_le {α : Type} (p : α → Bool) (f : α → Nat) (l : List α) : ((l.filter p).map f).sum ≤ (l.map f).sum :=
  (List.filter_sublist.map f).sum_le_sum fun _ _ => Nat.zero_le _

/-- Only prefill entries count against the budget. -/
theorem State.prefill_budget (s : State) :
    (((s.genEntries ++ s.preEntries.map Prod.fst).filter fun y => y.kind != 3).map PlanE.count).sum ≤ s.pbudget := by
  have hgen : (s.genEntries.filter fun y => y.kind != 3) = [] := by
    refine List.filter_eq_nil_iff.2 fun y hy => ?_
    obtain ⟨x, -, rfl⟩ := List.mem_map.1 hy
    simp [State.planGen]
  rw [List.filter_append, hgen, List.nil_append]
  refine (sum_map_filter_le _ _ _).trans ?_
  rw [List.map_map]
  exact planPrefill_budget _ _ _ _

/-- The state with the plan of trick n frozen. -/
def State.planned (s : State) (n : Nat) : State :=
  let t := s.preEntries.foldl (fun s x => s.modReq x.2.1 fun _ => x.2.2) s
  { t with job := { t.job with plans := t.job.plans ++ [⟨n, s.genEntries ++ s.preEntries.map Prod.fst, false, false⟩] } }

theorem exec_planFreeze {s : State} {n : Nat} (hn : s.planTrick = some n)
    (hdead : ∀ x ∈ s.job.reqs, x.expired s.aon.counter = true → s.inFlight x = true ∨ x.state = .ended) (hne : s.gcReqs.genEntries ≠ []) :
    exec .planFreeze s = .next ((s.gcReqs.planned n).servePublish.settle) := by
  have hnone : (s.job.reqs.filter fun r => r.state != .ended && r.expired s.aon.counter && !s.inFlight r) = [] := by
    refine List.filter_eq_nil_iff.2 fun x hx hc => ?_
    simp only [Bool.and_eq_true, bne_iff_ne, Bool.not_eq_true'] at hc
    obtain ⟨⟨hs, hexp⟩, hf⟩ := hc
    exact (hdead x hx hexp).elim (fun h => by simp [hf] at h) hs
  have hents : (s.gcReqs.genEntries ++ s.gcReqs.preEntries.map Prod.fst).isEmpty = false := by
    cases hg : s.gcReqs.genEntries with
    | nil => exact absurd hg hne
    | cons y l => rfl
  change execPlanFreeze s = _
  unfold execPlanFreeze
  rw [hn]
  dsimp only
  rw [hnone]
  exact if_neg (ne_true_of_eq_false hents)

/-- Settles O45: tail writes by `exec_sqtailWrite`, entries by the `exec_submitEntryTaken` and `exec_cancelEntryTaken` lemmas, the end of a
request by `State.endReq_gcReqs_gone`, the plan by `exec_planFreeze` and `planPrefill_budget`. -/
theorem requestsAreHeldPlannedAndEnded : Obligations.RequestsAreHeldPlannedAndEnded := by
  unfold Obligations.RequestsAreHeldPlannedAndEnded
  intro s q r e reqid gone
  refine ⟨fun value => ?_, fun ht hgood => ?_, fun ht hk hbad => ?_, fun ht hk hz1 hz2 =>
    ⟨fun x hx => ⟨fun hf => ?_, fun hf => ?_⟩, fun hno => ?_⟩, fun ht hk hz => ?_, fun x d hx hd hdue hf => ?_,
    fun n g hn hg hgen hemit hdead => ?_⟩
  · intro n
    refine ⟨fun hn ht => ⟨_, (exec_sqtailWrite s q value).trans (congrArg _ (if_neg ?_)), rfl, ?_, fun k hk => ?_⟩,
      fun hn => ⟨_, (exec_sqtailWrite s q value).trans (congrArg _ (if_pos hn)), ?_, rfl, fun k hk => ?_⟩⟩
    · exact not_or.2 ⟨Nat.not_le.2 hn, Nat.not_lt.2 ht⟩
    · exact (s.ring_setRing q.val _ _).trans (if_pos rfl)
    · exact (s.ring_setRing q.val _ _).trans (if_neg hk)
    · exact (s.ring_subErr q.val _).trans (if_pos rfl)
    · exact (s.ring_subErr q.val _).trans (if_neg hk)
  · have hk : fieldAt e 0 1 ≠ 2 := by rw [hgood.kind]; decide
    refine ⟨_, exec_submitEntryTaken_good ht hk ((s.submitBad_eq_none_iff q e).2 hgood), ?_, rfl, outputs_nil rfl rfl, s.submitted q e, rfl,
      rfl, rfl, rfl, rfl, rfl, rfl, rfl, rfl, ?_, rfl, rfl, rfl, rfl, rfl, rfl, rfl⟩
    · refine Eq.trans ?_ ((s.ring_setRing q.val q.val _).trans (if_pos rfl))
      rfl
    · exact Nat.mod_eq_of_lt (fieldAt_lt e 32 3)
  · have hsome : s.submitBad q e ≠ none := fun h => hbad ((s.submitBad_eq_none_iff q e).1 h)
    obtain ⟨st, hst⟩ := Option.ne_none_iff_exists'.1 hsome
    exact ⟨_, exec_submitEntryTaken_bad ht hk hst, s.refused_entry q st _ _⟩
  · refine ⟨_, (exec_cancelEntryTaken_found ht hk hz1 hz2 hx).trans (congrArg _ (if_neg (ne_true_of_eq_false hf))), ?_, ?_, ?_⟩
    · exact State.endReq_gcReqs_gone (s.cancelNoted q x) { x with cancels := x.cancels + 1 } stCANCELLED none _ hf
    · refine (State.endReq_gcReqs_ring _ _ _ _ _ _).trans ?_
      exact (s.ring_setRing q.val q.val _).trans (if_pos rfl)
    · exact State.endReq_gcReqs_stat _ _ _ _ _
  · refine ⟨_, (exec_cancelEntryTaken_found ht hk hz1 hz2 hx).trans (congrArg _ (if_pos hf)), rfl, outputs_nil rfl rfl, rfl⟩
  · have hnone : (s.job.reqs.find? fun x => x.ring == q && x.reqid == reqid && x.state != .ended) = none := by
      refine List.find?_eq_none.2 fun x hx hc => ?_
      simp only [Bool.and_eq_true, beq_iff_eq, bne_iff_ne] at hc
      exact hc.2 (hno x hx hc.1.1 hc.1.2)
    have honly := (s.pastHead q).reqCompl_only q none stALREADY reqid 2
    refine ⟨_, exec_cancelEntryTaken_none ht hk hz1 hz2 hnone, (congrArg Job.reqs honly.job :), ?_, honly.stat⟩
    refine (congrArg (fun j : Job => j.ring q.val) honly.job :).trans ?_
    exact (s.ring_setRing q.val q.val _).trans (if_pos rfl)
  · exact ⟨_, exec_cancelEntryTaken_reserved ht hk hz, s.refused_entry q _ _ _⟩
  · have hexp : (x.expired s.aon.counter && !s.inFlight x) = true := by
      simp [Req.expired, hd, hdue, hf]
    refine ⟨(s.endReq x stDEADLINE none s.lastStep).gcReqs, ?_, State.endReq_gcReqs_gone s x _ _ _ hf, State.endReq_gcReqs_stat _ _ _ _ _⟩
    change execRequestDeadlineExpiry q x.reqid s = _
    unfold execRequestDeadlineExpiry
    rw [hx]
    exact if_pos hexp
  · have hkept (x : Req) (hx : x ∈ s.job.reqs) (hgx : x.state = .generate) : x ∈ s.gcReqs.job.reqs :=
      List.mem_filter.2 ⟨hx, by simp [hgx]⟩
    have hmem := State.mem_genEntries (hkept g hg hgen) hgen hemit
    refine ⟨s.gcReqs.planned n, s.gcReqs.genEntries ++ s.gcReqs.preEntries.map Prod.fst,
      exec_planFreeze hn hdead (List.ne_nil_of_mem hmem), ?_, fun x hx hgx hex => ?_, ?_⟩
    · exact congrArg (· ++ _) (State.modReq_foldl_plans _ s.gcReqs)
    · exact ⟨_, List.mem_append_left _ (State.mem_genEntries (hkept x hx hgx) hgx hex), rfl, rfl, rfl, rfl, rfl, rfl⟩
    · exact s.gcReqs.prefill_budget

end Sys2Proof.Machine

/-! ## The Scoresheet and the attestation leaves (R508, R510 to R515, R519, R524, R525)

O53. A record in hand moves through `State.beginRec`, `State.nextRec` and `State.requestRec`, none of which touches which devices work;
the flash is read byte by byte. -/

namespace Sys2Proof.Machine

open Claim

/-! ### Devices and flash -/

theorem State.okDev_congr {s t : State} (h0 : t.score.ok0 = s.score.ok0) (h1 : t.score.ok1 = s.score.ok1) (d : Nat) : t.okDev d = s.okDev d := by
  simp only [State.okDev, h0, h1]

@[simp] theorem State.beginRec_okDev (s : State) (req : WReq) (dev fails : Nat) (prev : Option Nat) (d : Nat) :
    (s.beginRec req dev fails prev).okDev d = s.okDev d := by
  unfold State.beginRec
  dsimp only
  split <;> rfl

@[simp] theorem State.nextRec_okDev (s : State) (d : Nat) : s.nextRec.okDev d = s.okDev d := by
  unfold State.nextRec
  split
  · rfl
  · split
    · rfl
    · simp only [State.beginRec_okDev]
      rfl

@[simp] theorem State.requestRec_okDev (s : State) (region : Nat) (payload : List Byte) (d : Nat) :
    (s.requestRec region payload).okDev d = s.okDev d := by
  unfold State.requestRec
  dsimp only
  split
  · rw [State.nextRec_okDev]
    rfl
  · split
    · rfl
    · rw [State.nextRec_okDev]
      rfl

/-- A device that fails is used no more. -/
theorem State.devFail_okDev (s : State) {d : Nat} (hd : d ≤ 1) : (s.devFail d).okDev d = false := by
  have hfailed (t : State) (h0 : t.score.ok0 = (s.score.ok0 && d != 0)) (h1 : t.score.ok1 = (s.score.ok1 && d != 1)) : t.okDev d = false := by
    obtain rfl | rfl : d = 0 ∨ d = 1 := by omega
    · simp [State.okDev, h0]
    · simp [State.okDev, h1]
  unfold State.devFail State.saveRepair
  dsimp only
  rw [State.requestRec_okDev]
  split
  · exact hfailed _ rfl rfl
  · split
    · exact hfailed _ rfl rfl
    · split
      · rw [State.beginRec_okDev]
        exact hfailed _ rfl rfl
      · exact hfailed _ rfl rfl

theorem State.setFlash_eq (s : State) (d : Nat) (m : Memory) : s.setFlash d m = { s with score := (s.setFlash d m).score } := by
  unfold State.setFlash
  split <;> rfl

theorem State.flash_setFlash_same (s : State) (d : Nat) (m : Memory) : (s.setFlash d m).flash d = m := by
  unfold State.setFlash State.flash
  split <;> rfl

theorem State.flash_setFlash_sister (s : State) {d : Nat} (m : Memory) (hd : d ≤ 1) : (s.setFlash d m).flash (1 - d) = s.flash (1 - d) := by
  obtain rfl | rfl : d = 0 ∨ d = 1 := by omega
  · rfl
  · rfl

theorem State.flash_congr {s t : State} (h0 : t.score.f0 = s.score.f0) (h1 : t.score.f1 = s.score.f1) (d : Nat) : t.flash d = s.flash d := by
  simp only [State.flash, h0, h1]

/-- A memory without the cells of a range reads the default there. -/
theorem memRead_filter (d : Byte) (p : Nat → Bool) (m : Memory) (a : Nat) :
    memRead d (m.filter fun c => p c.1) a = if p a then memRead d m a else d := by
  induction m with
  | nil => simp [memRead]
  | cons c m ih =>
    obtain ⟨x, b⟩ := c
    by_cases hx : x = a
    · subst hx
      cases hp : p x with
      | true => simp [hp, memRead]
      | false => simpa [hp] using ih
    · cases hp : p x with
      | true => simpa [hp, memRead, hx] using ih
      | false => simpa [hp, memRead, hx] using ih

/-! ### Pages and records -/

/-- The state with the page in hand programmed. -/
def State.pageDone (s : State) (w : Writing) : State :=
  let t := s.setFlash w.dev (memWriteN 0xFF (s.flash w.dev) (w.slot + 256 * w.page) ((w.bytes.drop (256 * w.page)).take 256))
  { t with score := { t.score with cur := some { w with done := w.done + 1, started := false } } }

theorem State.pageDone_eq (s : State) (w : Writing) : s.pageDone w = { s with score := (s.pageDone w).score } := by
  unfold State.pageDone
  dsimp only
  rw [State.setFlash_eq]

theorem State.pageDone_flash (s : State) (w : Writing) : (s.pageDone w).flash w.dev =
    memWriteN 0xFF (s.flash w.dev) (w.slot + 256 * w.page) ((w.bytes.drop (256 * w.page)).take 256) :=
  s.flash_setFlash_same w.dev _

theorem exec_pageProgramComplete {s : State} {w : Writing} (hw : s.score.cur = some w) (hs : w.started = true) (ok : Bool) :
    exec (.pageProgramComplete ok) s = .next (if ok then (s.pageDone w).resumeFlash else s.devFail w.dev) := by
  change execPageProgramComplete ok s = _
  unfold execPageProgramComplete State.pageDone
  simp only [hw, hs]
  cases ok <;> rfl

theorem exec_recordReadback_matched {s : State} {w : Writing} (hw : s.score.cur = some w) (hd : w.done = w.pages) :
    exec (.recordReadbackComplete true) s =
      .next ((({ s with score := { s.score with cur := none } }).eraseAfter w).recWritten w.req).nextRec := by
  change execRecordReadbackComplete true s = _
  unfold execRecordReadbackComplete
  rw [hw]
  exact if_neg (not_not.2 hd)

/-- The state with the CRC of the record in hand spoiled (log entry 31). -/
def State.crcSpoiled (s : State) (w : Writing) : State :=
  s.takeFresh.2.setFlash w.dev (memWriteN 0xFF (s.flash w.dev) (w.slot + 12) (leBytes (badCrc s.takeFresh.1 (fieldAt w.bytes 12 4)) 4))

theorem exec_recordReadback_differs {s : State} {w : Writing} (hw : s.score.cur = some w) (hd : w.done = w.pages) :
    exec (.recordReadbackComplete false) s = if w.fails + 1 ≥ 3 then .next ((s.crcSpoiled w).devFail w.dev)
      else .next ((s.crcSpoiled w).beginRec w.req w.dev (w.fails + 1) (some w.slot)) := by
  change execRecordReadbackComplete false s = _
  unfold execRecordReadbackComplete
  rw [hw]
  exact if_neg (not_not.2 hd)

theorem badCrc_lt (n good : Nat) : badCrc n good < 2 ^ 32 ∧ badCrc n good ≠ good := by
  unfold badCrc
  dsimp only
  split <;> omega

theorem drop_memReadN (d : Byte) (m : Memory) (a k n : Nat) : (memReadN d m a (k + n)).drop k = memReadN d m (a + k) n := by
  induction k generalizing a with
  | zero => simp
  | succ k ih =>
    rw [Nat.succ_add, memReadN, List.drop_succ_cons, ih, Nat.add_assoc, Nat.add_comm 1]

/-- The CRC that stands in the flash is not the record's own. -/
theorem State.crcSpoiled_differs (s : State) (w : Writing) :
    fieldAt (memReadN 0xFF ((s.crcSpoiled w).flash w.dev) w.slot 16) 12 4 ≠ fieldAt w.bytes 12 4 := by
  obtain ⟨hlt, hne⟩ := badCrc_lt s.takeFresh.1 (fieldAt w.bytes 12 4)
  have hflash : (s.crcSpoiled w).flash w.dev = _ := s.takeFresh.2.flash_setFlash_same w.dev _
  have hread : memReadN 0xFF ((s.crcSpoiled w).flash w.dev) (w.slot + 12) 4 = leBytes (badCrc s.takeFresh.1 (fieldAt w.bytes 12 4)) 4 := by
    rw [hflash]
    have h := memReadN_memWriteN_same 0xFF (s.flash w.dev) (w.slot + 12) (leBytes (badCrc s.takeFresh.1 (fieldAt w.bytes 12 4)) 4)
    rwa [leBytes_length] at h
  have hfield : fieldAt (memReadN 0xFF ((s.crcSpoiled w).flash w.dev) w.slot 16) 12 4 = badCrc s.takeFresh.1 (fieldAt w.bytes 12 4) := by
    rw [fieldAt, drop_memReadN 0xFF _ w.slot 12 4, hread, List.take_of_length_le (leBytes_length _ 4).le, leNat_leBytes]
    exact Nat.mod_eq_of_lt hlt
  rw [hfield]
  exact hne

/-- The state with the oldest sector erased. -/
def State.sectorErased (s : State) (d o : Nat) (rest : List (Nat × Nat)) : State :=
  let t := s.setFlash d ((s.flash d).filter fun c => !(decide (o ≤ c.1 ∧ c.1 < o + sectorLen)))
  { t with score := { t.score with erases := rest } }

theorem State.sectorErased_eq (s : State) (d o : Nat) (rest : List (Nat × Nat)) :
    s.sectorErased d o rest = { s with score := (s.sectorErased d o rest).score } := by
  unfold State.sectorErased
  dsimp only
  rw [State.setFlash_eq]

theorem State.sectorErased_read (s : State) (d o : Nat) (rest : List (Nat × Nat)) (a : Nat) :
    memRead 0xFF ((s.sectorErased d o rest).flash d) a = if o ≤ a ∧ a < o + 65536 then 0xFF else memRead 0xFF (s.flash d) a := by
  have hflash : (s.sectorErased d o rest).flash d = _ := s.flash_setFlash_same d _
  rw [hflash, memRead_filter 0xFF (fun x => !(decide (o ≤ x ∧ x < o + sectorLen)))]
  by_cases h : o ≤ a ∧ a < o + 65536
  · simp [sectorLen, h]
  · simp only [sectorLen, h, decide_false, Bool.not_false, if_true, if_false]

theorem exec_sectorEraseComplete {s : State} {d o : Nat} {rest : List (Nat × Nat)} (he : s.score.erases = (d, o) :: rest)
    (hs : s.score.suspended = false) (ok : Bool) :
    exec (.sectorEraseComplete ok) s = .next (if ok then (s.sectorErased d o rest).resumeFlash else s.devFail d) := by
  change execSectorEraseComplete ok s = _
  unfold execSectorEraseComplete State.sectorErased
  rw [he]
  dsimp only
  rw [if_neg (ne_true_of_eq_false hs)]
  cases ok <;> rfl

/-! ### Hours of wear -/

theorem Health.hoursAt_addHour (h : Health) (d k v : Nat) : (h.addHour d).hoursAt k v =
    if k = d ∧ v = ((h.vstep[d]?).getD 0).toNat then (h.hoursAt k v + 1) % 2 ^ 32 else h.hoursAt k v := by
  have hhours : (h.addHour d).hours = h.hours.filter (fun x => !(x.1 == d && x.2.1 == ((h.vstep[d]?).getD 0).toNat)) ++
      [(d, ((h.vstep[d]?).getD 0).toNat, (h.hoursAt d ((h.vstep[d]?).getD 0).toNat + 1) % 2 ^ 32)] := rfl
  split
  next hkv =>
    obtain ⟨rfl, rfl⟩ := hkv
    have hnone : (h.hours.filter (fun x => !(x.1 == k && x.2.1 == ((h.vstep[k]?).getD 0).toNat))).find?
        (fun x => x.1 == k && x.2.1 == ((h.vstep[k]?).getD 0).toNat) = none :=
      List.find?_eq_none.2 fun x hx => ne_true_of_eq_false (Bool.not_eq_eq_eq_not.mp (List.mem_filter.1 hx).2)
    rw [Health.hoursAt, hhours, List.find?_append, hnone]
    simp
  next hkv =>
    have hfind : (h.addHour d).hours.find? (fun x => x.1 == k && x.2.1 == v) = h.hours.find? fun x => x.1 == k && x.2.1 == v := by
      have hlast (n : Nat) : [(d, ((h.vstep[d]?).getD 0).toNat, n)].find? (fun x => x.1 == k && x.2.1 == v) = none := by
        refine List.find?_eq_none.2 fun x hx hc => hkv ?_
        rw [List.mem_singleton.1 hx, Bool.and_eq_true, beq_iff_eq, beq_iff_eq] at hc
        exact ⟨hc.1.symm, hc.2.symm⟩
      rw [hhours, List.find?_append, hlast, Option.or_none, List.find?_filter]
      congr 1
      funext x
      by_cases hx : x.1 = k ∧ x.2.1 = v
      · have hd : (x.1 == d && x.2.1 == ((h.vstep[d]?).getD 0).toNat) = false := by
          rw [hx.1, hx.2, Bool.and_eq_false_imp]
          exact fun h1 => beq_eq_false_iff_ne.2 fun h2 => hkv ⟨beq_iff_eq.1 h1, h2⟩
        simp only [hd, Bool.not_false, true_and, Bool.decide_eq_true]
      · have hx' : (x.1 == k && x.2.1 == v) = false := by
          rw [Bool.and_eq_false_imp]
          exact fun h1 => beq_eq_false_iff_ne.2 fun h2 => hx ⟨beq_iff_eq.1 h1, h2⟩
        simp only [hx', Bool.false_eq_true, and_false, decide_false]
    unfold Health.hoursAt
    rw [hfind]

theorem Health.foldl_addHour_vstep (l : List Nat) (h : Health) : (l.foldl Health.addHour h).vstep = h.vstep := by
  induction l generalizing h with
  | nil => rfl
  | cons d l ih => exact ih _

theorem Health.hoursAt_foldl {l : List Nat} (hl : l.Nodup) (h : Health) (k v : Nat) : (l.foldl Health.addHour h).hoursAt k v =
    if k ∈ l ∧ v = ((h.vstep[k]?).getD 0).toNat then (h.hoursAt k v + 1) % 2 ^ 32 else h.hoursAt k v := by
  induction l generalizing h with
  | nil => simp
  | cons d l ih =>
    obtain ⟨hd, hl'⟩ := List.nodup_cons.1 hl
    have hstep : (h.addHour d).vstep = h.vstep := rfl
    rw [List.foldl_cons, ih hl', hstep, Health.hoursAt_addHour]
    by_cases hk : k = d
    · subst hk
      simp [hd]
    · simp [hk]

/-- The health record with an hour counted for each domain that is on. -/
def State.hourCounted (s : State) : Health := ((List.range 80).filter fun d => s.aon.domOn.getLsbD d).foldl Health.addHour s.hl

theorem exec_wearTimer {s : State} (h : 180000000000 ≤ (s.aon.counter - s.score.wearDue).toNat) : exec .wearTimer s =
    .next ({ s with
      hl := s.hourCounted
      score := { s.score with wearDue := s.aon.counter } }.requestRec 5 s.hourCounted.wearPayload) := by
  have he : (!s.elapsed s.score.wearDue 180000000000) = false := by
    rw [State.elapsed, decide_eq_true h, Bool.not_true]
  change execWearTimer s = _
  unfold execWearTimer
  exact if_neg (ne_true_of_eq_false he)

theorem State.hourCounted_hoursAt (s : State) (d : Fin 80) (v : Nat) : s.hourCounted.hoursAt d.val v =
    if s.aon.domOn.getLsbD d.val = true ∧ v = (s.hl.vstep.get d).toNat then (s.hl.hoursAt d.val v + 1) % 2 ^ 32 else s.hl.hoursAt d.val v := by
  have hmem : d.val ∈ (List.range 80).filter (fun d => s.aon.domOn.getLsbD d) ↔ s.aon.domOn.getLsbD d.val = true := by
    simp [d.isLt]
  have hget : (s.hl.vstep[d.val]?).getD 0 = s.hl.vstep.get d := by
    rw [Vector.getElem?_eq_getElem d.isLt]
    rfl
  rw [State.hourCounted, Health.hoursAt_foldl (List.nodup_range.filter _)]
  simp only [hmem, hget]

/-! ### Loads -/

theorem State.readDone_only (s : State) (rn len : Nat) : HostOnly s (s.readDone rn len) := by
  unfold State.readDone
  split
  · exact .refl s
  · dsimp only
    split
    · exact HostOnly.trans (State.modHost_only s _) (State.setTries_only _ _ 0)
    · refine HostOnly.trans ?_ (State.send_hostOnly _ _)
      refine HostOnly.trans ?_ (State.modHost_only _ _)
      exact HostOnly.trans (State.modHost_only s _) (State.setTries_only _ _ 0)

/-- Why a load is refused (R519). -/
def State.loadBad (s : State) (l : LoadSt) (data : List Byte) : Option Byte := if l.kind = 2 then s.keyBad data else s.patBad data

theorem State.loadBad_congr {s t : State} (hf : t.fab = s.fab) (hs : t.score = s.score) (l : LoadSt) (data : List Byte) :
    t.loadBad l data = s.loadBad l data := by
  unfold State.loadBad State.keyBad State.patBad State.opVerify
  rw [hf, hs]

theorem exec_scoreLoadDataReceived {s : State} {l : LoadSt} {data : List Byte} (hl : s.score.load = some l) (hq : l.queued = false)
    (hlen : data.length = l.len) : exec (.scoreLoadDataReceived data) s = match s.loadBad l data with
      | some st => .next ((s.readDone l.region l.len).loadDone st)
      | none =>
        let b := s.readDone l.region l.len
        .next (if l.kind = 2 then { b with score := { b.score with load := some { l with queued := true } } }.requestRec 3 (data.take 272)
          else { b with score := { b.score with load := some { l with queued := true } } }.requestRec 7 data) := by
  have hcond : ¬ (l.queued = true ∨ data.length ≠ l.len) := by simp [hq, hlen]
  have h := s.readDone_only l.region l.len
  rw [← State.loadBad_congr h.fab h.score]
  change execScoreLoadDataReceived data s = _
  unfold execScoreLoadDataReceived
  rw [hl]
  exact if_neg hcond

/-! ### Leaves -/

theorem exec_lowerTreeGenerated {s : State} {q : AttReq} (hq : s.att.req = some q) (hw : q.waitTree = true)
    (ht : s.lowTree = some (s.att.next / 32768)) : exec .lowerTreeGenerated s =
      .next ({ s with att := { s.att with tree := some (s.att.next / 32768) } }).attStep := by
  have ht' : (s.setAtt { s.att with tree := some (s.att.next / 32768) }).lowTree = some (s.att.next / 32768) := ht
  change execLowerTreeGenerated s = _
  unfold execLowerTreeGenerated
  rw [hq]
  dsimp only
  rw [hw, if_neg (by decide), if_pos ht']
  rfl

theorem State.attStep_signs {s : State} {q : AttReq} (hq : s.att.req = some q) (hsigned : s.att.signed = [])
    (hlimit : s.att.next < s.att.limit) (hleaf : s.att.next < leafEnd) (hlms : s.score.nolms = false)
    (htree : s.att.tree = some (s.att.next / 32768)) : s.attStep = s.attSign q := by
  unfold State.attStep
  rw [hq]
  simp only [hsigned, hlms, htree, Nat.not_le.2 hlimit, Nat.not_le.2 hleaf, List.isEmpty_nil, Bool.not_true, Bool.false_eq_true,
    or_self, ne_eq, not_true_eq_false, if_false]

theorem byteAt_append_left {a b : List Byte} {i : Nat} (h : i < a.length) : byteAt (a ++ b) i = byteAt a i := by
  unfold byteAt
  exact List.getD_append _ _ _ _ h

theorem byteAt_append_right {a b : List Byte} {i : Nat} (h : a.length ≤ i) : byteAt (a ++ b) i = byteAt b (i - a.length) := by
  unfold byteAt
  exact List.getD_append_right _ _ _ _ h

/-- A number written first byte first is read again (RFC 8554). -/
theorem word32_beWord (n : Nat) (l : List Byte) : word32 (beWord n ++ l) 0 = n % 2 ^ 32 := by
  have hbytes : beWord n = [BitVec.ofNat 8 (n / 256 / 256 / 256), BitVec.ofNat 8 (n / 256 / 256), BitVec.ofNat 8 (n / 256), BitVec.ofNat 8 n] := rfl
  rw [hbytes]
  simp only [word32, byteAt, List.cons_append, List.nil_append, List.getD_cons_zero, List.getD_cons_succ, BitVec.toNat_ofNat]
  omega

theorem word32_append (a b : List Byte) (i : Nat) : word32 (a ++ b) (a.length + i) = word32 b i := by
  have hbyte (k : Nat) : byteAt (a ++ b) (a.length + k) = byteAt b k := by
    rw [byteAt_append_right (Nat.le_add_right _ _), Nat.add_sub_cancel_left]
  simp only [word32, Nat.add_assoc, hbyte]

theorem lmsSig_head (q : Nat) (body : Nat → Byte) : ∃ low, lmsSig q body = beWord q ++ low := by
  unfold lmsSig
  rw [List.append_assoc, List.append_assoc, List.append_assoc]
  exact ⟨_, rfl⟩

section
variable (s : State) (leaf : Nat) (msg : List Byte)

/-- A signature in the parts of R517: L less one, the upper signature, the lower tree's key, the lower signature. -/
theorem State.hssSign_parts : ∃ upper key low : List Byte, upper.length = 2668 ∧ key.length = 56 ∧
    upper = ((s.lowRecord (leaf / 32768)).drop 60).take 2668 ∧ key = ((s.lowRecord (leaf / 32768)).drop 4).take 56 ∧
    s.hssSign leaf msg = (beWord 1 ++ upper ++ key) ++ (beWord (leaf % 32768) ++ low) := by
  have hlen := s.lowRecord_length (leaf / 32768)
  obtain ⟨low, hlow⟩ := lmsSig_head (leaf % 32768) (Config.hssSigByte leaf msg)
  refine ⟨((s.lowRecord (leaf / 32768)).drop 60).take 2668, ((s.lowRecord (leaf / 32768)).drop 4).take 56, low, ?_, ?_, rfl, rfl, ?_⟩
  · simp [hlen]
  · simp [hlen]
  · rw [← hlow]
    rfl

theorem State.hssSign_words : word32 (s.hssSign leaf msg) 0 = 1 ∧ word32 (s.hssSign leaf msg) 2728 = leaf % 32768 := by
  obtain ⟨upper, key, low, hupper, hkey, -, -, hsig⟩ := s.hssSign_parts leaf msg
  have hfront : (beWord 1 ++ upper ++ key).length = 2728 := by simp [hupper, hkey]
  rw [hsig]
  constructor
  · rw [List.append_assoc, List.append_assoc]
    exact word32_beWord 1 _
  · have h := word32_append (beWord 1 ++ upper ++ key) (beWord (leaf % 32768) ++ low) 0
    rw [hfront, word32_beWord] at h
    exact h.trans (Nat.mod_eq_of_lt (by omega))

/-- A leaf of the tree that the HSSLOW record names is signed under that record's key and upper signature (R524). -/
theorem State.hssSign_record (hlen : s.score.hsslow.length = 2728) (ht : fieldAt s.score.hsslow 0 4 = leaf / 32768) :
    ((s.hssSign leaf msg).drop 4).take 2668 = s.score.hsslow.drop 60 ∧
      ((s.hssSign leaf msg).drop 2672).take 56 = (s.score.hsslow.drop 4).take 56 := by
  have hrec : s.lowRecord (leaf / 32768) = s.score.hsslow := if_pos ((if_pos hlen).trans (congrArg some ht))
  obtain ⟨upper, key, low, hupper, hkey, hu, hk, hsig⟩ := s.hssSign_parts leaf msg
  rw [hrec] at hu hk
  have hu' : upper = s.score.hsslow.drop 60 := hu.trans (List.take_of_length_le (by simp [hlen]))
  rw [hsig, ← hu', ← hk]
  constructor
  · rw [List.append_assoc, List.append_assoc, List.drop_left' (beWord_length 1), List.take_left' hupper]
  · have hfront : (beWord 1 ++ upper).length = 2672 := by simp [hupper]
    rw [List.append_assoc, List.drop_left' hfront, List.take_left' hkey]

end

/-! ### The report -/

/-- The report fits the region it goes to, which can be written. -/
def State.reportFits (s : State) (q : AttReq) : Bool := match s.region? q.region with
  | none => false
  | some r => !r.peer && r.write && decide (q.off + s.att.signed.length ≤ r.length)

theorem exec_attestReportWritten {s : State} {q : AttReq} (hq : s.att.req = some q) (hs : s.att.signed ≠ []) :
    exec .attestReportWritten s = if s.reportFits q then .next ((s.writeRegion none q.region q.off s.att.signed .bytes 0).attDone stOK)
      else .next (s.attDone stBUFFER) := by
  change execAttestReportWritten s = _
  unfold execAttestReportWritten
  rw [hq]
  exact if_neg (ne_true_of_eq_false (List.isEmpty_eq_false_iff.2 hs))

theorem State.reportFits_of {s : State} {q : AttReq} {r : Region} (hr : s.region? q.region = some r) (hp : r.peer = false)
    (hw : r.write = true) (hlen : q.off + s.att.signed.length ≤ r.length) : s.reportFits q = true := by
  simp [State.reportFits, hr, hp, hw, hlen]

theorem State.not_reportFits {s : State} {q : AttReq}
    (h : ∀ r, s.region? q.region = some r → r.peer = true ∨ r.write = false ∨ r.length < q.off + s.att.signed.length) :
    s.reportFits q = false := by
  unfold State.reportFits
  split
  · rfl
  next r hr =>
    obtain hp | hw | hlen := h r hr
    · simp [hp]
    · simp [hw]
    · simp [Nat.not_le.2 hlen]

/-- Settles O53: pages by `State.pageDone_flash`, records by `State.crcSpoiled_differs` (the spoiled CRC is log entry 31), erases by
`State.sectorErased_read`, wear by `State.hourCounted_hoursAt`, leaves by `State.attStep_signs` and `State.hssSign_record`. -/
theorem flashRecordsAndLeaves : Obligations.FlashRecordsAndLeaves := by
  unfold Obligations.FlashRecordsAndLeaves
  intro s
  refine ⟨fun w hw hdev => ⟨?_, s.devFail_okDev hdev, fun hd => ⟨exec_recordReadback_matched hw hd, s.crcSpoiled w, ?_, ?_,
      s.crcSpoiled_differs w, fun hf => ?_, fun hf => ?_⟩⟩, fun d o rest he hs => ⟨⟨s.sectorErased d o rest,
      exec_sectorEraseComplete he hs true, rfl, s.sectorErased_eq d o rest, s.sectorErased_read d o rest⟩, exec_sectorEraseComplete he hs false⟩,
    fun h => ⟨s.hourCounted, exec_wearTimer h, s.hourCounted_hoursAt⟩, fun l data hl hq hlen => ?_, fun q hq =>
    ⟨exec_lowerTreeGenerated hq, fun hsigned hlimit hleaf hlms htree => ?_, fun hsigned => ⟨fun r hr hp hw hlen => ?_, fun hbad => ?_⟩⟩⟩
  · intro hstart
    refine ⟨⟨s.pageDone w, exec_pageProgramComplete hw hstart true, rfl, fun a => ?_, ?_, s.pageDone_eq w⟩,
      exec_pageProgramComplete hw hstart false⟩
    · rw [State.pageDone_flash]
      exact memRead_memWriteN _ _ _ _ _
    · exact s.flash_setFlash_sister _ hdev
  · rw [State.crcSpoiled, State.setFlash_eq, State.takeFresh_job]
  · rw [State.crcSpoiled, State.setFlash_eq, State.takeFresh_att]
  · exact (exec_recordReadback_differs hw hd).trans (if_neg (by omega))
  · exact (exec_recordReadback_differs hw hd).trans (if_pos (by omega))
  · have hexec := exec_scoreLoadDataReceived hl hq hlen
    refine ⟨fun st hst => ⟨(s.readDone l.region l.len).loadDone st, ?_, rfl⟩, fun hgood => ?_⟩
    · rwa [show s.loadBad l data = some st from hst] at hexec
    · rwa [show s.loadBad l data = none from hgood] at hexec
  · rw [State.attStep_signs hq hsigned hlimit hleaf hlms htree]
    obtain ⟨h0, h1⟩ := s.hssSign_words s.att.next q.report
    exact ⟨rfl, _, rfl, s.hssSign_length _ _, h0, h1, s.hssSign_record _ _⟩
  · exact (exec_attestReportWritten hq hsigned).trans (if_pos (State.reportFits_of hr hp hw hlen))
  · exact ⟨s.attDone stBUFFER, (exec_attestReportWritten hq hsigned).trans (if_neg (ne_true_of_eq_false (State.not_reportFits hbad))),
      rfl, rfl, rfl, outputs_nil rfl rfl, rfl⟩

end Sys2Proof.Machine

/-! ## Host commands on their turn (R425, R426), and admission (R335, R336)

O32. A command that is taken leaves its queue pair and the reserved ones behind it complete, which touches the host attachment alone
(`State.takeCmd_only`). -/

namespace Sys2Proof.Machine

open Claim

/-! ### Commands on their turn -/

theorem State.popSend_only (s : State) (q : BitVec 12) : HostOnly s (s.popSend q) := by
  unfold State.popSend
  exact HostOnly.trans (s.modQp_only _ _) rfl

theorem State.skipGo_only (n : Nat) (s : State) : HostOnly s (s.skipGo n) := by
  induction n generalizing s with
  | zero => exact .refl s
  | succ n ih =>
    unfold State.skipGo
    split
    · exact .refl s
    · split
      · exact .refl s
      · split
        · exact ((s.popSend_only _).trans (State.complete_only _ _ _ _ _)).trans (ih _)
        · exact .refl s

theorem State.skipReserved_only (s : State) : HostOnly s s.skipReserved := s.skipGo_only _

theorem State.takeCmd_only (s : State) (h : HostCmd) : HostOnly s (s.takeCmd h) := by
  unfold State.takeCmd
  split
  · exact .refl s
  · exact (s.popSend_only _).trans (State.skipReserved_only _)

@[simp] theorem State.takeCmd_job (s : State) (h : HostCmd) : (s.takeCmd h).job = s.job := (s.takeCmd_only h).job
@[simp] theorem State.takeCmd_fab (s : State) (h : HostCmd) : (s.takeCmd h).fab = s.fab := (s.takeCmd_only h).fab
@[simp] theorem State.takeCmd_stat (s : State) (h : HostCmd) : (s.takeCmd h).stat = s.stat := (s.takeCmd_only h).stat
@[simp] theorem State.takeCmd_aon (s : State) (h : HostCmd) : (s.takeCmd h).aon = s.aon := (s.takeCmd_only h).aon

theorem turn_go {s : State} {i : Instr} (ht : Turn s i) {h : HostCmd} {opc mask : Byte} {ops : Operands}
    (hi : hostCmd i = some (h, opc, mask, ops)) : ¬ s.behind h opc ops = true := by
  obtain ⟨h', opc', mask', ops', hi', hb⟩ := ht
  rw [hi] at hi'
  cases hi'
  exact ne_true_of_eq_false hb

theorem cleanCmd_flags {s : State} {i : Instr} (hc : CleanCmd s i) {h : HostCmd} {opc mask : Byte} {ops : Operands}
    (hi : hostCmd i = some (h, opc, mask, ops)) : cmdBad h mask = false := by
  obtain ⟨-, h', opc', mask', ops', hi', hr, hf⟩ := hc
  rw [hi] at hi'
  cases hi'
  simp [cmdBad, hr, hf]

theorem cmdBad_zero_iff (h : HostCmd) : cmdBad h 0 = false ↔ h.rsvSet = false ∧ h.flags = 0 := by
  have hmask (f : Byte) : f &&& ~~~(0 : Byte) = f := BitVec.and_allOnes
  unfold cmdBad
  rw [hmask, Bool.or_eq_false_iff, bne_eq_false_iff_eq]

/-! ### Admission -/

/-- The state with the job an ADMIT makes. -/
def State.admitting (s : State) (a : Admission) (seed : Dword) (inpages : Nat) : State := { s with job := { s.job.leftOver with
  subArea := s.job.subArea
  state := .admitting
  jobid := a.jobid
  seed := seed
  epoch := a.epoch
  inpages := inpages
  admission := some a } }

theorem exec_admitJob_idle {s : State} {h : HostCmd} {iregion : BitVec 16} {ilen : Word} {ioff seed : Dword} {jobid epoch inpages : Word}
    {trick cursor : BitVec 48} {bad : Bool} (ht : Turn s (.admitJob h iregion ilen ioff seed jobid epoch inpages trick cursor))
    (hidle : s.job.state = .idle) (hread : (s.takeCmd h).canRead iregion.toNat ioff.toNat ilen.toNat = true)
    (hbad : bad = (cmdBad h 0 || decide (inpages.toNat < 1 ∨ inpages.toNat > 251133952))) :
    exec (.admitJob h iregion ilen ioff seed jobid epoch inpages trick cursor) s =
      .next (((s.takeCmd h).admitting ⟨h, trick.toNat, cursor.toNat, iregion.toNat, ilen.toNat, bad, jobid, epoch⟩ seed
        inpages.toNat).sendRead iregion.toNat ioff.toNat ilen.toNat) := by
  have hnow : ((s.takeCmd h).job.state != .idle) = false := by
    rw [State.takeCmd_job, hidle]
    rfl
  change execAdmitJob h iregion ilen ioff seed jobid epoch inpages trick cursor s = _
  unfold execAdmitJob
  rw [if_neg (turn_go ht rfl)]
  dsimp only
  rw [hnow, hread, Bool.or_false, ← hbad]
  rfl

theorem State.isBench_congr {s t : State} (ha : t.aon = s.aon) : t.isBench = s.isBench := by
  unfold State.isBench State.roleStrap
  rw [ha]

/-- The checks of an image read the fabric, the straps and the Scoresheet. -/
theorem State.admitChecks_congr {s t : State} (h : HostOnly s t) (a : Admission) (image : List Byte) :
    t.admitChecks a image = s.admitChecks a image ∧ t.levelOf a.jobid = s.levelOf a.jobid := by
  rw [h]
  exact ⟨rfl, rfl⟩

/-- A good image passes (R335). -/
theorem State.admitChecks_good {s : State} {a : Admission} {image : List Byte} (hbad : a.bad = false) (hepoch : a.epoch = s.fab.epoch)
    (hview : s.inView a.jobid = true) (hform : imageForm image = true) (hq : s.fab.self ≠ .quarantine) (ho : s.fab.self ≠ .offered)
    (hf : s.hl.failed = false) (hlevel : fieldAt image 6 2 ≤ s.levelOf a.jobid) (hsigned : s.imageSigned image = true)
    (htrick : a.trick ≠ allOnes48) : s.admitChecks a image = none := by
  simp [State.admitChecks, State.admitState, worst, failIf, hbad, hepoch, hview, hform, hq, ho, hf, Nat.not_lt.2 hlevel, hsigned, htrick]

/-- The state with the image loaded and the job running (R336). -/
def State.imageLoaded (s : State) (a : Admission) (image : List Byte) : State :=
  let t := (({ s with job := { s.job with
    code := (image.drop (fieldAt image 16 4)).take (fieldAt image 20 4)
    entries := (List.range (fieldAt image 12 2)).map fun i => fieldAt image (64 + 8 * i) 4
    halt := false
    t0 := .empty
    t1 := .empty
    a2 := (byteAt image 8).getLsbD 0
    feature := BitVec.ofNat 16 (s.levelOf a.jobid)
    ranks0 := s.ranks.length } }).clearCounters).setTrick a.trick a.cursor
  { t with job := { t.job with state := .running, admission := none } }

theorem exec_admissionImageReceived_good {s : State} {a : Admission} {image : List Byte} (ha : s.awaited image.length = some a)
    (hgood : s.admitChecks a image = none) (htrick : a.trick ≠ allOnes48) : exec (.admissionImageReceived image) s =
      .next ((((s.readDone a.region a.len).imageLoaded a image).complete a.cmd 0x01 stOK (leBytes (s.levelOf a.jobid) 2)).setOwner
        a.cmd.qp).settle := by
  obtain ⟨hchecks, hlevel⟩ := State.admitChecks_congr (s.readDone_only a.region a.len) a image
  have hsub : (a.trick == allOnes48) = false := beq_eq_false_iff_ne.2 htrick
  rw [← hlevel]
  change execAdmissionImageReceived image s = _
  unfold execAdmissionImageReceived
  rw [ha]
  dsimp only
  rw [hchecks, hgood, hsub]
  rfl

/-- Settles O32, by `exec_admitJob_idle` and `exec_admissionImageReceived_good`. That `bad` covers reserved bytes and flags is log entry 6,
that the image is read although a check has failed is log entry 49. -/
theorem admissionLoadsJob : Obligations.AdmissionLoadsJob := by
  unfold Obligations.AdmissionLoadsJob
  intro s h
  refine ⟨fun iregion ilen ioff seed jobid epoch inpages trick cursor => ?_,
    fun image trick cursor rn jobid epoch hst hadm hrebuild htrick hepoch hview hform hq ho hf hlevel hsigned => ?_⟩
  · intro b ht hidle hread
    obtain ⟨bad, hbad⟩ : ∃ bad, bad = (cmdBad h 0 || decide (inpages.toNat < 1 ∨ inpages.toNat > 251133952)) := ⟨_, rfl⟩
    refine ⟨_, exec_admitJob_idle ht hidle hread hbad, _, bad, rfl, rfl, rfl, rfl, rfl, rfl, rfl, rfl, fun c => ?_, rfl, ?_⟩
    · exact Vector.getElem_replicate c.isLt
    · rw [hbad, Bool.or_eq_false_iff, cmdBad_zero_iff, decide_eq_false_iff_not, and_assoc]
      refine and_congr_right fun _ => and_congr_right fun _ => ?_
      omega
  · have ha : s.awaited image.length = some ⟨h, trick, cursor, rn, image.length, false, jobid, epoch⟩ := by
      simp [State.awaited, hadm, hst, hrebuild]
    have hchecks : s.admitChecks ⟨h, trick, cursor, rn, image.length, false, jobid, epoch⟩ image = none :=
      State.admitChecks_good rfl hepoch hview hform hq ho hf hlevel hsigned htrick
    have hexec := exec_admissionImageReceived_good ha hchecks htrick
    exact ⟨(s.readDone rn image.length).imageLoaded ⟨h, trick, cursor, rn, image.length, false, jobid, epoch⟩ image, hexec,
      rfl, rfl, rfl, rfl, rfl, rfl⟩

end Sys2Proof.Machine

/-! ## The end of a job (R337 to R339)

O33. From the end of the drain to the wipe no context comes back and the job's state and recovery record stay (`Dwindles`). -/

namespace Sys2Proof.Machine

open Claim

/-! ### Who owns the job -/

@[simp] theorem State.lose_owner (s : State) (w : Carried) : (s.lose w).host.owner = s.host.owner := by
  cases w <;> rfl

@[simp] theorem State.modQp_owner (s : State) (i : Nat) (f : Qp → Qp) : (s.modQp i f).host.owner = s.host.owner := by
  unfold State.modQp
  split <;> rfl

@[simp] theorem State.writeRegion_owner (s : State) (tr : Option Nat) (rn off : Nat) (data : List Byte) (what : Carried) (tag : Nat) :
    (s.writeRegion tr rn off data what tag).host.owner = s.host.owner := by
  unfold State.writeRegion
  split
  · exact s.lose_owner what
  · split
    · exact s.lose_owner what
    · split
      · exact s.lose_owner what
      · rfl

@[simp] theorem State.ringPut_owner (s : State) (qi : Nat) (tr : Option Nat) (c : Compl) (own : Bool) :
    (s.ringPut qi tr c own).host.owner = s.host.owner := by
  unfold State.ringPut
  split
  · rfl
  · split
    · rfl
    · exact State.writeRegion_owner _ _ _ _ _ _ _

@[simp] theorem State.ringWrite_owner (s : State) (qi : Nat) (tr : Option Nat) (c : Compl) (own : Bool) :
    (s.ringWrite qi tr c own).host.owner = s.host.owner := by
  unfold State.ringWrite
  split
  · exact State.ringPut_owner _ _ _ _ _
  · rw [State.ringPut_owner, State.ringPut_owner]
    exact s.modQp_owner qi _

@[simp] theorem State.postTo_owner (s : State) (qi : Nat) (tr : Option Nat) (c : Compl) : (s.postTo qi tr c).host.owner = s.host.owner := by
  unfold State.postTo
  split
  · exact s.ringWrite_owner _ _ _ _
  · rfl

@[simp] theorem State.postOwner_owner (s : State) (tr : Option Nat) (c : Compl) : (s.postOwner tr c).host.owner = s.host.owner := by
  unfold State.postOwner
  split
  · exact s.ringWrite_owner _ _ _ _
  · split <;> rfl

@[simp] theorem State.complete_owner (s : State) (h : HostCmd) (opc status : Byte) (l : List Byte) :
    (s.complete h opc status l).host.owner = s.host.owner := by
  unfold State.complete
  rw [State.postTo_owner]
  split <;> rfl

@[simp] theorem State.doOut_owner (s : State) (h : HeldOut) : (s.doOut h).host.owner = s.host.owner := by
  cases h with
  | write t rn off data ring => exact s.writeRegion_owner _ _ _ _ _ _
  | ownerCompl t c => exact s.postOwner_owner _ _
  | compl t q c => exact s.postTo_owner _ _ _

theorem State.flushHeldGo_owner (n : Nat) (s : State) : (s.flushHeldGo n).host.owner = s.host.owner := by
  induction n generalizing s with
  | zero => rfl
  | succ n ih =>
    unfold State.flushHeldGo
    split
    · rfl
    · split
      · rfl
      · rw [ih, State.doOut_owner]

@[simp] theorem State.flushHeld_owner (s : State) : s.flushHeld.host.owner = s.host.owner := s.flushHeldGo_owner _

/-- Who becomes the owner is the owner. -/
theorem State.setOwner_owner (s : State) (q : BitVec 12) : (s.setOwner q).host.owner = some q := by
  unfold State.setOwner State.flushHolding
  split
  · rfl
  · exact State.flushHeld_owner _

/-! ### Contexts that go -/

/-- No context of t is new, and the job is in the same state with the same recovery record. -/
structure Dwindles (s t : State) : Prop where
  state : t.job.state = s.job.state
  recov : t.job.recov = s.job.recov
  gone : ∀ c, s.job.ctx? c = none → t.job.ctx? c = none

theorem Dwindles.refl (s : State) : Dwindles s s := ⟨rfl, rfl, fun _ => id⟩

theorem Dwindles.trans {s t u : State} (h : Dwindles s t) (k : Dwindles t u) : Dwindles s u :=
  ⟨k.state.trans h.state, k.recov.trans h.recov, fun c hc => k.gone c (h.gone c hc)⟩

theorem Dwindles.foldl {α : Type} {f : State → α → State} (hf : ∀ s a, Dwindles s (f s a)) (l : List α) (s : State) :
    Dwindles s (l.foldl f s) :=
  foldl_rel Dwindles .refl (fun _ _ _ => .trans) f hf l s

theorem Dwindles.of_job {s t : State} (h : t.job = s.job) : Dwindles s t := by
  constructor <;> rw [h]
  exact fun _ => id

theorem HostOnly.dwindles {s t : State} (h : HostOnly s t) : Dwindles s t := .of_job h.job

theorem TableOnly.dwindles {s t : State} (h : TableOnly s t) : Dwindles s t := by
  refine ⟨by rw [h.rest], by rw [h.rest], fun c hc => ?_⟩
  obtain ⟨-, ht⟩ | ⟨x, y, hx, -, -⟩ := h.ctxs c
  · exact ht
  · rw [hc] at hx
    cases hx

theorem Job.collect_state (j : Job) : j.collect.state = j.state := by
  simp only [Job.collect, Job.mapCtxs_state]

theorem Job.collect_recov (j : Job) : j.collect.recov = j.recov := by
  simp only [Job.collect, Job.mapCtxs_recov]

/-- A context that goes takes none with it and brings none. -/
theorem State.dropCtx_dwindles (s : State) (c : CtxId) (rel : Buffer → Buffer) : Dwindles s (s.dropCtx c rel) := by
  unfold State.dropCtx
  split
  · exact .refl s
  · refine ⟨Job.collect_state _, Job.collect_recov _, fun d hd => Job.collect_ctx?_none ?_⟩
    change (s.job.setCtx c none).ctx? d = none
    rw [Job.ctx?_setCtx]
    split
    · rfl
    · exact hd

/-- A context is torn down with its completion. -/
def State.tornDown (s : State) (status : Byte) (x : CtxId × Ctx) : State :=
  (s.teardownCore x.1).ctxCompl none status (abortRecord status x.1)

theorem State.tornDown_dwindles (s : State) (status : Byte) (x : CtxId × Ctx) : Dwindles s (s.tornDown status x) :=
  (s.dropCtx_dwindles x.1 Buffer.orphan).trans (State.release_only _ _).dwindles

theorem State.tornDown_gone (s : State) (status : Byte) (x : CtxId × Ctx) : (s.tornDown status x).job.ctx? x.1 = none :=
  (State.release_only _ _).dwindles.gone _ (s.dropCtx_ctx?_self x.1 Buffer.orphan)

/-- After the last context of a list has been torn down none of them is there. -/
theorem State.foldl_tornDown_gone (status : Byte) (l : List (CtxId × Ctx)) (s : State) :
    ∀ x ∈ l, (l.foldl (fun s x => s.tornDown status x) s).job.ctx? x.1 = none := by
  induction l generalizing s with
  | nil => simp
  | cons y l ih =>
    intro x hx
    rcases List.mem_cons.1 hx with rfl | hx
    · exact (Dwindles.foldl (fun s x => s.tornDown_dwindles status x) l _).gone _ (s.tornDown_gone status x)
    · exact ih _ x hx

theorem State.teardownQuiet_dwindles (s : State) (status : Byte) : Dwindles s (s.teardownQuiet status) :=
  (Dwindles.foldl (fun s x => s.tornDown_dwindles status x) _ s).trans (State.settle_only _).dwindles

theorem State.teardownQuiet_gone (s : State) (status : Byte) (c : CtxId) : (s.teardownQuiet status).job.ctx? c = none := by
  refine (State.settle_only _).dwindles.gone c ?_
  cases hx : s.job.ctx? c with
  | none => exact (Dwindles.foldl (fun s x => s.tornDown_dwindles status x) _ s).gone c hx
  | some x => exact State.foldl_tornDown_gone status s.job.ctxList s (c, x) (Job.mem_ctxList_iff.2 hx)

theorem State.endReq_dwindles (s : State) (r : Req) (status : Byte) (hold : Option Nat) (step : Nat) :
    Dwindles s (s.endReq r status hold step) := by
  have h : Dwindles s (s.endNoted r status hold step) := .of_job (s.endNoted_job r status hold step)
  exact h.trans ⟨rfl, rfl, fun _ => id⟩

theorem State.abortReqs_dwindles (s : State) : Dwindles s s.abortReqs := by
  unfold State.abortReqs
  exact (Dwindles.foldl (fun s r => s.endReq_dwindles r _ _ _) _ s).trans ⟨rfl, rfl, fun _ => id⟩

/-! ### Retirements due -/

@[simp] theorem State.nextRec_job (s : State) : s.nextRec.job = s.job := by
  unfold State.nextRec
  split
  · rfl
  · split
    · rfl
    · unfold State.beginRec
      dsimp only
      split <;> rfl

@[simp] theorem State.requestRec_job (s : State) (region : Nat) (payload : List Byte) : (s.requestRec region payload).job = s.job := by
  unfold State.requestRec
  dsimp only
  split
  · exact State.nextRec_job _
  · split
    · rfl
    · exact State.nextRec_job _

theorem State.wakeOne_job (s : State) (k : UnitKind) (die : Nat) (forRetire : Bool) : (s.wakeOne k die forRetire).job = s.job := by
  unfold State.wakeOne
  split
  · rfl
  · split <;> rfl

theorem State.freshSpares_job (s : State) : s.freshSpares.job = s.job := by
  unfold State.freshSpares
  refine (foldl_rel (fun s t : State => t.job = s.job) (fun _ => rfl) (fun _ _ _ h k => k.trans h) _ (fun s r => ?_) _ s)
  dsimp only
  split
  · exact State.wakeOne_job _ _ _ _
  · rfl

theorem Job.modCtx_ctx?_none {j : Job} {c d : CtxId} {f : Ctx → Ctx} (h : j.ctx? d = none) : (j.modCtx c f).ctx? d = none := by
  by_cases hd : d = c
  · subst hd
    rw [Job.ctx?_modCtx_same, h]
    rfl
  · rw [Job.ctx?_modCtx_other _ _ _ _ hd, h]

theorem State.leaveSeat_dwindles (s : State) (i : Nat) : Dwindles s (s.leaveSeat i) := by
  unfold State.leaveSeat
  split
  · exact .refl s
  · exact ⟨Job.modCtx_state _ _ _, Job.modCtx_recov _ _ _, fun d hd => Job.modCtx_ctx?_none hd⟩

theorem Dwindles.ite {s : State} {p : Prop} [Decidable p] {a b : State} (ha : Dwindles s a) (hb : Dwindles s b) :
    Dwindles s (if p then a else b) := by
  split
  · exact ha
  · exact hb

theorem State.retireNow_dwindles (s : State) (u : PUnit) : Dwindles s (s.retireNow u) := by
  unfold State.retireNow
  split
  · exact .refl s
  · extract_lets h1 h2 s1 a s2 s3 s4
    have k1 : Dwindles s s1 := ⟨rfl, rfl, fun _ => id⟩
    have k2 : Dwindles s s2 := .ite (k1.trans ⟨rfl, rfl, fun _ => id⟩) k1
    have k3 : Dwindles s s3 := .ite (k2.trans (s2.leaveSeat_dwindles _)) k2
    have k4 : Dwindles s s4 := .ite (k3.trans (.of_job rfl)) k3
    have k5 : Dwindles s (if (u.kind == .tile) = true then s4.stopPlls else s4) := .ite (k4.trans (.of_job rfl)) k4
    refine k5.trans (.of_job ?_)
    rw [State.saveRepair, State.requestRec_job, State.freshSpares_job]

theorem State.retireDue_dwindles (s : State) : Dwindles s s.retireDue := by
  unfold State.retireDue
  exact (Dwindles.foldl (fun s u => s.retireNow_dwindles u) _ s).trans (.of_job rfl)

/-! ### From the drain to the wipe -/

/-- The job is being wiped. -/
def State.toWiping (s : State) : State := { s with job := { s.job with state := .wiping } }

theorem State.toWiping_recov (s : State) : s.toWiping.job.recov = s.job.recov := rfl
theorem State.toWiping_ctx? (s : State) (c : CtxId) : s.toWiping.job.ctx? c = s.job.ctx? c := rfl

/-- The state once every context is torn down and the job is being wiped. -/
def State.wiped (s : State) : State := (s.teardownQuiet stABORTED).abortReqs.toWiping.flushHeld.retireDue

theorem State.wiped_spec (s : State) : s.wiped.job.state = .wiping ∧ s.wiped.job.recov = s.job.recov ∧ ∀ c, s.wiped.job.ctx? c = none := by
  have hdown := (s.teardownQuiet_dwindles stABORTED).trans (State.abortReqs_dwindles _)
  have hend := (State.flushHeld_only (s.teardownQuiet stABORTED).abortReqs.toWiping).dwindles.trans (State.retireDue_dwindles _)
  refine ⟨hend.state, hend.recov.trans ((State.toWiping_recov _).trans hdown.recov), fun c => hend.gone c ?_⟩
  rw [State.toWiping_ctx?]
  exact (State.abortReqs_dwindles _).gone c (s.teardownQuiet_gone stABORTED c)

theorem State.endIfDrained_wiped {s : State} (hs : s.job.state = .ending) (hd : s.drained = true) (hck : s.job.recov.ck = none) :
    s.endIfDrained = s.wiped := by
  have hck' : s.wiped.job.recov.ck = none := by rw [s.wiped_spec.2.1, hck]
  have hcond : (s.job.state == .ending && s.drained) = true := by rw [hs, hd]; rfl
  unfold State.wiped State.toWiping at hck' ⊢
  unfold State.endIfDrained
  rw [if_pos hcond]
  dsimp only
  rw [hck']

/-! ### The commands -/

/-- The state once an END waits for the drain. -/
def State.endWaits (s : State) (h : HostCmd) : State := { s with job := { s.job with
  ends := s.job.ends ++ [h]
  state := .ending
  draining := true } }

section
variable {s : State} {h : HostCmd} (hc : CleanCmd s (.endJob h))
include hc

theorem exec_endJob_idle (hs : s.job.state = .idle ∨ s.job.state = .wiping) :
    exec (.endJob h) s = .next ((s.takeCmd h).complete h 0x02 stALREADY []) := by
  change execEndJob h s = _
  unfold execEndJob
  rw [if_neg (turn_go hc.1 rfl)]
  dsimp only
  rw [if_neg (ne_true_of_eq_false (cleanCmd_flags hc rfl))]
  have hjob : (s.takeCmd h).job.state = s.job.state := congrArg Job.state (s.takeCmd_job h)
  obtain hs | hs := hs
  · rw [hjob, hs]
  · rw [hjob, hs]

theorem exec_endJob_running (hs : s.job.state = .running) (hf : h.flags.getLsbD 0 = false) :
    exec (.endJob h) s = .next (((s.takeCmd h).endWaits h).endIfDrained).pump := by
  change execEndJob h s = _
  unfold execEndJob
  rw [if_neg (turn_go hc.1 rfl)]
  dsimp only
  have hjob : (s.takeCmd h).job.state = .running := (congrArg Job.state (s.takeCmd_job h)).trans hs
  rw [if_neg (ne_true_of_eq_false (cleanCmd_flags hc rfl)), hjob, hf]
  dsimp only
  rw [if_neg (by decide)]
  rfl

end

/-- The state at the end of the wipe, before the ENDs that wait complete. -/
def State.wipedOut (s : State) : State := { s with
  job := { s.job.leftOver with shareRegs := [] }
  host := { s.host with
    owner := none }
  hl := { s.hl with
    lost := []
    seen := []
    selftest := s.hl.selftest || s.fab.self == .quarantine }
  fab := { s.fab with
    held := []
    qstage := if s.fab.self = .quarantine then 4 else s.fab.qstage } }

theorem State.abortCmds_only (s : State) : HostOnly s s.abortCmds :=
  foldl_rel HostOnly .refl (fun _ _ _ => .trans) _ (fun s h => s.complete_only h _ _ _) _ s

theorem exec_wipeComplete {s : State} (hs : s.job.state = .wiping) (hb : s.aon.braceAt = none) (hck : s.job.recov.ck = none) :
    exec .wipeComplete s =
      .next (s.job.ends.foldl (fun (s : State) h => s.complete h 0x02 stOK []) s.abortCmds.wipedOut).flushHeld := by
  have hcond : ¬ ((s.job.state ≠ .wiping || s.aon.braceAt.isSome || s.job.recov.ck.isSome) = true) := by
    simp [hs, hb, hck]
  rw [← s.abortCmds_only.job]
  change execWipeComplete s = _
  unfold execWipeComplete
  exact if_neg hcond

/-- Completions of commands leave the owner as it is. -/
theorem State.foldl_complete_owner (opc status : Byte) (l : List HostCmd) (s : State) :
    (l.foldl (fun (s : State) h => s.complete h opc status []) s).host.owner = s.host.owner :=
  foldl_rel (fun s t => t.host.owner = s.host.owner) (fun _ => rfl) (fun _ _ _ h k => k.trans h) _ (fun s h => s.complete_owner h _ _ _) l s

theorem State.foldl_complete_only (opc status : Byte) (l : List HostCmd) (s : State) :
    HostOnly s (l.foldl (fun (s : State) h => s.complete h opc status []) s) :=
  foldl_rel HostOnly .refl (fun _ _ _ => .trans) _ (fun s h => s.complete_only h _ _ _) l s

/-- Settles O33: the drain by `State.wiped_spec`, the wipe by `exec_wipeComplete`. What the wipe keeps is log entry 43; that held
completions go out after it is log entry 44. -/
theorem endDrainsAndWipes : Obligations.EndDrainsAndWipes := by
  unfold Obligations.EndDrainsAndWipes
  refine fun s h => ⟨fun hc hs => ⟨s.takeCmd h, exec_endJob_idle hc hs, rfl⟩, fun hc hs hf => ?_, fun hs hd hck => ?_, fun hs hb hck => ?_⟩
  · have hjob := s.takeCmd_job h
    refine ⟨(s.takeCmd h).endWaits h, exec_endJob_running hc hs hf, rfl, rfl, ?_, ?_, ?_⟩
    · exact congrArg (fun j : Job => j.ends ++ [h]) hjob
    · exact (congrArg Job.ctxs hjob :)
    · exact (congrArg Job.bufs hjob :)
  · obtain ⟨hstate, -, hgone⟩ := s.wiped_spec
    refine ⟨s.wiped, ?_, hstate, hgone⟩
    change execJobEndDrained s = _
    rw [execJobEndDrained, State.endIfDrained_wiped hs hd hck]
  · have honly := (State.foldl_complete_only 0x02 stOK s.job.ends s.abortCmds.wipedOut).trans (State.flushHeld_only _)
    have habort := s.abortCmds_only
    refine ⟨_, exec_wipeComplete hs hb hck, ?_, ?_, ?_, ?_, s.abortCmds.wipedOut, rfl⟩
    · refine honly.job.trans ?_
      rw [State.wipedOut, habort.job]
      rfl
    · exact (State.flushHeld_owner _).trans (State.foldl_complete_owner _ _ _ _)
    · exact honly.stat.trans habort.stat
    · exact honly.cfg.trans habort.cfg

end Sys2Proof.Machine

/-! ## RESUME, OWN, CREATE and KILL (R241, R430, R343, R344)

O34, from one equation per command for the case that it has its effect. -/

namespace Sys2Proof.Machine

open Claim

/-- The state once a halted job has been resumed. -/
def State.resumed (s : State) : State :=
  let j := s.job.mapCtxs fun _ x => { x with halted := false }
  { s with job := { j with
    halt := false
    t0 := { j.t0 with abase := j.t0.att }
    t1 := { j.t1 with abase := j.t1.att } } }

theorem State.resumed_stat (s : State) : s.resumed.stat = s.stat := by
  simp only [State.resumed]

theorem State.resumed_halt (s : State) : s.resumed.job.halt = false := by
  simp only [State.resumed]

theorem exec_resume {s : State} {h : HostCmd} (hc : CleanCmd s (.resume h)) (hs : s.job.state = .running) (hh : s.job.halt = true) :
    exec (.resume h) s = .next ((((s.takeCmd h).resumed.complete h 0x03 stOK []).castRecorded s.stat.sealedN).castRecorded
      (s.stat.sealedN + 1)).pump := by
  have hjob := s.takeCmd_job h
  have hstat : ((s.takeCmd h).resumed.complete h 0x03 stOK []).stat = s.stat := by
    rw [(State.complete_only _ _ _ _ _).stat, State.resumed_stat, State.takeCmd_stat]
  have hrun : (s.takeCmd h).isRunning = true := by rw [State.isRunning, hjob, hs]; rfl
  have hhalt : (s.takeCmd h).job.halt = true := by rw [hjob, hh]
  have hbad := cleanCmd_flags hc rfl
  have hn : (cmdBad h 0 || !(s.takeCmd h).isRunning) = false := by rw [hbad, hrun]; rfl
  rw [← hstat]
  change execResume h s = _
  unfold execResume
  rw [if_neg (turn_go hc.1 rfl)]
  refine (if_neg (ne_true_of_eq_false hn)).trans ((if_neg ?_).trans ?_)
  · rw [hhalt]
    decide
  · simp only [State.resumed]

theorem State.resumed_ctx? (s : State) (c : CtxId) : s.resumed.job.ctx? c = (s.job.ctx? c).map fun x => { x with halted := false } := by
  rw [← Job.ctx?_mapCtxs s.job (fun _ x => { x with halted := false }) c]
  simp only [State.resumed, Job.ctx?]

theorem State.resumed_tricks (s : State) : s.resumed.job.t0 = { s.job.t0 with abase := s.job.t0.att } ∧
    s.resumed.job.t1 = { s.job.t1 with abase := s.job.t1.att } := by
  simp only [State.resumed, Job.mapCtxs_t0, Job.mapCtxs_t1, and_self]

theorem exec_own {s : State} {h : HostCmd} (hc : CleanCmd s (.own h)) :
    exec (.own h) s = .next (((s.takeCmd h).complete h 0x04 stOK []).setOwner h.qp) := by
  change execOwn h s = _
  unfold execOwn
  rw [if_neg (turn_go hc.1 rfl)]
  exact if_neg (ne_true_of_eq_false (cleanCmd_flags hc rfl))

/-- The lowest free context. -/
theorem find?_lowest {j : Job} {c : CtxId} (hc : j.ctx? c = none) (hlow : ∀ d, d < c → (j.ctx? d).isSome) :
    (ctxIds.find? fun c => (j.ctx? c).isNone) = some c := by
  refine List.find?_eq_some_iff_getElem.2 ⟨by rw [hc]; rfl, c.val, by simp [ctxIds], by simp [ctxIds], fun k hk => ?_⟩
  have hd := hlow ⟨k, hk.trans c.isLt⟩ hk
  simp only [ctxIds, List.getElem_finRange]
  rw [Option.isSome_iff_exists] at hd
  obtain ⟨x, hx⟩ := hd
  rw [Fin.cast_mk, hx]
  rfl

/-- The state with a context created. -/
def State.created (s : State) (c : CtxId) (pc : Nat) (arg : Dword) (shm shv shc : BitVec 16) : State :=
  let j := s.job.setCtx c (some (s.ctxNew c pc arg shm shv shc))
  { s with job := { j with dead := j.dead.filter fun p => p.1 != c } }

theorem State.created_ctx? (s : State) (c : CtxId) (pc : Nat) (arg : Dword) (shm shv shc : BitVec 16) (d : CtxId) :
    (s.created c pc arg shm shv shc).job.ctx? d = if d = c then some (s.ctxNew c pc arg shm shv shc) else s.job.ctx? d :=
  Job.ctx?_setCtx s.job c d _

theorem exec_create {s : State} {h : HostCmd} {entry : Byte} {shm shv shc : BitVec 16} {arg : Dword} {c : CtxId} {pc : Nat}
    (hc : CleanCmd s (.create h entry shm shv shc arg)) (hs : s.job.state = .running) (hpc : s.job.entries[entry.toNat]? = some pc)
    (hfree : s.job.ctx? c = none) (hlow : ∀ d, d < c → (s.job.ctx? d).isSome) :
    exec (.create h entry shm shv shc arg) s =
      .next (((s.takeCmd h).created c pc arg shm shv shc).complete h 0x10 stOK [BitVec.ofNat 8 c.val]).settle := by
  have hjob := s.takeCmd_job h
  have hbad : (cmdBad h 0 || !(s.takeCmd h).isRunning) = false := by
    rw [cleanCmd_flags hc rfl, State.isRunning, hjob, hs]
    rfl
  have hfind : (ctxIds.find? fun c => ((s.takeCmd h).job.ctx? c).isNone) = some c := by
    rw [hjob]
    exact find?_lowest hfree hlow
  have hentry : (s.takeCmd h).job.entries[entry.toNat]? = some pc := by rw [hjob, hpc]
  change execCreate h entry shm shv shc arg s = _
  unfold execCreate
  rw [if_neg (turn_go hc.1 rfl)]
  dsimp only
  rw [hfind, hentry]
  exact if_neg (ne_true_of_eq_false hbad)

section
variable (entry : Nat) (arg : Dword) (c : CtxId)

theorem archNew_reg (r : SReg) : (archNew entry arg c).reg r = if r = 1 then arg else if r = 2 then BitVec.ofNat 64 c.val else 0 := by
  unfold Arch.reg archNew
  by_cases h0 : r = 0
  · subst h0
    rfl
  · have h1 : r = 1 ↔ r.toNat = 1 := ⟨fun h => by rw [h]; rfl, fun h => BitVec.eq_of_toNat_eq h⟩
    have h2 : r = 2 ↔ r.toNat = 2 := ⟨fun h => by rw [h]; rfl, fun h => BitVec.eq_of_toNat_eq h⟩
    rw [if_neg h0]
    change (((Vector.replicate 32 (0 : Dword)).set 1 arg).set 2 (BitVec.ofNat 64 c.val))[r.toNat] = _
    rw [Vector.getElem_set, Vector.getElem_set, Vector.getElem_replicate]
    rw [if_congr h1 rfl rfl, if_congr h2 rfl rfl, if_congr (eq_comm (a := 2)) rfl rfl, if_congr (eq_comm (a := 1)) rfl rfl]
    by_cases hr : r.toNat = 2
    · rw [if_pos hr, if_neg (by omega), if_pos hr]
    · rw [if_neg hr, if_neg hr]

theorem archNew_pred (p : PReg) : (archNew entry arg c).pred p = decide (p = 0) := by
  unfold Arch.pred archNew
  by_cases h0 : p = 0
  · subst h0
    rfl
  · have hp : p.toNat ≠ 0 := fun h => h0 (BitVec.eq_of_toNat_eq h)
    rw [if_neg h0, decide_eq_false h0]
    change (((Vector.replicate 8 false).set 0 true))[p.toNat] = _
    rw [Vector.getElem_set, if_neg (Ne.symm hp), Vector.getElem_replicate]

theorem archNew_ctr (k : EReg) : (archNew entry arg c).ctr k = ⟨0, none⟩ := Vector.getElem_replicate k.isLt

theorem archNew_hnd (b : HReg) : (archNew entry arg c).hnd b = none := Vector.getElem_replicate b.isLt

end

/-- The state once the context of a KILL has gone. -/
def State.killed (s : State) (c : CtxId) : State := (s.teardownCore c).ctxCompl none stABORTED (abortRecord stABORTED c)

theorem exec_kill {s : State} {h : HostCmd} {ctx : Byte} {c : CtxId} {x : Ctx} (hc : CleanCmd s (.kill h ctx)) (hs : s.job.state = .running)
    (hn : ctx.toNat = c.val) (hx : s.job.ctx? c = some x) : exec (.kill h ctx) s =
      .next (((((s.takeCmd h).killed c).complete h 0x11 stOK []).teardownVotes x.joinedTricks).forceDone).pump := by
  have hjob := s.takeCmd_job h
  have hbad : ¬ ((cmdBad h 0 || !(s.takeCmd h).isRunning || decide (ctx.toNat ≥ 64)) = true) := by
    rw [cleanCmd_flags hc rfl, State.isRunning, hjob, hs, hn, decide_eq_false (Nat.not_le.2 c.isLt)]
    decide
  have hctx : (s.takeCmd h).job.ctx? (Fin.ofNat 64 ctx.toNat) = some x := by
    rw [hjob, hn, Fin.ofNat_val_eq_self, hx]
  have hc' : Fin.ofNat 64 ctx.toNat = c := by rw [hn, Fin.ofNat_val_eq_self]
  change execKill h ctx s = _
  unfold execKill
  rw [if_neg (turn_go hc.1 rfl)]
  refine (if_neg hbad).trans ?_
  dsimp only
  rw [hctx, hc']
  rfl

/-- Settles O34, by `exec_resume`, `exec_own`, `exec_create` and `exec_kill`. That RESUME moves the attempt base of a trick whose work was
discarded too is log entry 72. -/
theorem resumeOwnCreateKill : Obligations.ResumeOwnCreateKill := by
  unfold Obligations.ResumeOwnCreateKill
  refine fun s h => ⟨fun hc hs hh => ?_, fun hc => ?_, fun entry shm shv shc arg c pc hc hs hpc hfree hlow => ?_,
    fun ctx c x hc hs hn hx => ?_⟩
  · have hjob := s.takeCmd_job h
    obtain ⟨h0, h1⟩ := (s.takeCmd h).resumed_tricks
    refine ⟨(s.takeCmd h).resumed, exec_resume hc hs hh, State.resumed_halt _, ?_, ?_, fun c => ?_⟩
    · rw [h0, hjob]
    · rw [h1, hjob]
    · rw [State.resumed_ctx?, hjob]
  · have honly := ((s.takeCmd h).complete_only h 0x04 stOK []).trans (State.setOwner_only _ h.qp)
    exact ⟨_, exec_own hc, State.setOwner_owner _ _, honly.job.trans (s.takeCmd_job h), honly.stat.trans (s.takeCmd_stat h)⟩
  · refine ⟨(s.takeCmd h).created c pc arg shm shv shc, exec_create hc hs hpc hfree hlow, (s.takeCmd h).ctxNew c pc arg shm shv shc, ?_, rfl,
      archNew_reg pc arg c, archNew_pred pc arg c, archNew_ctr pc arg c, archNew_hnd pc arg c, rfl, rfl, rfl, rfl, rfl, rfl, fun d hd => ?_⟩
    · rw [State.created_ctx?, if_pos rfl]
    · rw [State.created_ctx?, if_neg hd, State.takeCmd_job]
  · have hjob : ((s.takeCmd h).killed c).job = ((s.takeCmd h).dropCtx c Buffer.orphan).job := (State.release_only _ _).job
    have hx' : (s.takeCmd h).job.ctx? c = some x := by rw [State.takeCmd_job, hx]
    refine ⟨(s.takeCmd h).killed c, exec_kill hc hs hn hx, ?_, fun b hb ho => ?_⟩
    · rw [hjob, State.dropCtx_ctx?_self]
    · rw [hjob] at hb
      exact State.dropCtx_released hx' (fun _ => rfl) hb ho

end Sys2Proof.Machine

/-! ## Regions (R420 to R423)

O35, from one equation per path for a command that passes its checks. -/

namespace Sys2Proof.Machine

open Claim

/-- The region a REGREG describes, not yet in effect. -/
def regionOf (h : HostCmd) (region : BitVec 16) (peer : Bool) (access : Byte) (rkey : Word) (vaddr length : Dword) (qpn : Word)
    (addr : BitVec 128) : Region where
  num := region.toNat
  peer := peer
  qp := BitVec.ofNat 12 (qpn.toNat - 0x1000)
  addr := addr
  read := access.getLsbD 0
  write := access.getLsbD 1
  rkey := rkey
  vaddr := vaddr.toNat
  length := length.toNat
  orphaned := false
  sqp := none
  pending := some h
  deleting := none
  retry := none

/-- The checks of form that a region number, an access field and a length pass. -/
theorem regionForm_false {region : BitVec 16} {access : Byte} {length : Dword} (hr : region ≠ 0) (ha : access.toNat ≤ 3) (hl : length ≠ 0)
    {path : Byte} (hp : path.toNat ≤ 1) : (region.toNat == 0 || decide (path > 1 ∨ access > 3) || length == 0) = false := by
  have hr' : region.toNat ≠ 0 := fun h => hr (BitVec.eq_of_toNat_eq h)
  have hgt : ¬ (path > 1 ∨ access > 3) := by
    rintro (h | h)
    · exact absurd (BitVec.lt_def.1 h) (Nat.not_lt.2 hp)
    · exact absurd (BitVec.lt_def.1 h) (Nat.not_lt.2 ha)
  rw [decide_eq_false hgt, beq_eq_false_iff_ne.2 hr', beq_eq_false_iff_ne.2 hl]
  rfl

section
variable {s : State} {h : HostCmd} {region : BitVec 16} {access : Byte} {rkey : Word} {vaddr length : Dword} {qpn : Word} {addr : BitVec 128}
  (hr : region ≠ 0) (ha : access.toNat ≤ 3) (hl : length ≠ 0)
  (hnew : ((s.takeCmd h).host.regions.find? fun r => r.num == region.toNat) = none)
include hr ha hl hnew

theorem exec_regreg_host (hc : CleanCmd s (.regreg h region 0 access rkey vaddr length qpn 0)) {q : Qp} (hlo : 0x1000 ≤ qpn.toNat)
    (hhi : qpn.toNat < 0x2000) (hq : (s.takeCmd h).qp? (qpn.toNat - 0x1000) = some q) (hready : q.st = .ready) (hrole : q.role = 1 ∨ q.role = 3) :
    exec (.regreg h region 0 access rkey vaddr length qpn 0) s = .next (((s.takeCmd h).setRegions ((s.takeCmd h).host.regions ++
      [regionOf h region false access rkey vaddr length qpn 0])).regTry region.toNat).pump := by
  have hflags := cleanCmd_flags hc rfl
  have hform := regionForm_false hr ha hl (path := 0) (by decide)
  have hrole' : (q.st == .ready && (q.role == 1 || q.role == 3)) = true := by
    rcases hrole with hrole | hrole <;> simp [hready, hrole]
  have hrange : decide (0x1000 ≤ qpn.toNat ∧ qpn.toNat < 0x2000) = true := decide_eq_true ⟨hlo, hhi⟩
  simp only [Bool.or_eq_false_iff] at hform
  obtain ⟨⟨hn, hpath⟩, hlen⟩ := hform
  change execRegreg h region 0 access rkey vaddr length qpn 0 s = _
  unfold execRegreg
  rw [if_neg (turn_go hc.1 rfl)]
  dsimp only
  rw [hnew, hflags, hn, hpath, hlen, hq]
  dsimp only
  rw [hrange, hrole']
  rfl

theorem exec_regreg_peer (hc : CleanCmd s (.regreg h region 1 access rkey vaddr length 0 addr)) (hb : (s.takeCmd h).isBench = false)
    (hp : ((s.takeCmd h).storePort addr).isSome) {i : Nat} {e : State}
    (ho : (s.takeCmd h).openStore (regionOf h region true access rkey vaddr length 0 addr) = some (i, e)) (hf : (s.takeCmd h).freeSqp.isSome) :
    exec (.regreg h region 1 access rkey vaddr length 0 addr) s = .next ((e.setRegions (e.host.regions ++
      [{ regionOf h region true access rkey vaddr length 0 addr with sqp := some i }])).regTry region.toNat) := by
  have hflags := cleanCmd_flags hc rfl
  have hform := regionForm_false hr ha hl (path := 1) (by decide)
  have hnone (o : Option Nat) (h : o.isSome) : o.isNone = false := by cases o <;> simp_all
  have hnone' (o : Option (Fin 12)) (h : o.isSome) : o.isNone = false := by cases o <;> simp_all
  simp only [Bool.or_eq_false_iff] at hform
  obtain ⟨⟨hn, hpath⟩, hlen⟩ := hform
  unfold regionOf at ho
  change execRegreg h region 1 access rkey vaddr length 0 addr s = _
  unfold execRegreg
  rw [if_neg (turn_go hc.1 rfl)]
  dsimp only
  rw [hnew, hflags, hn, hpath, hlen, hb, hnone' _ hp, hnone _ hf]
  dsimp only
  split
  next k hk => exact nomatch hk
  next =>
    have hpeer : ((1 : Byte) == 1) = true := rfl
    rw [if_pos hpeer, hpeer, ho]
    rfl

end

/-- The queue pair of a PEER region begins to open when a peer port and an entry are there. -/
theorem State.openStore_isSome {s : State} {r : Region} (hp : (s.storePort r.addr).isSome) (hf : s.freeSqp.isSome) :
    ∃ i e, s.openStore r = some (i, e) ∧ HostOnly s e := by
  obtain ⟨p, hp⟩ := Option.isSome_iff_exists.1 hp
  obtain ⟨i, hi⟩ := Option.isSome_iff_exists.1 hf
  obtain ⟨q, o, ho, -, -, -⟩ := State.openStore_opens hp hi
  exact ⟨i, (s.setSqp i q).send o, ho, rfl⟩

theorem exec_regdel {s : State} {h : HostCmd} {region : BitVec 16} {r : Region} (hc : CleanCmd s (.regdel h region))
    (hr : (s.takeCmd h).region? region.toNat = some r) (hn : (s.takeCmd h).regionNamed region.toNat = false) (hd : r.deleting = none) :
    exec (.regdel h region) s = .next (((s.takeCmd h).setRegions ((s.takeCmd h).host.regions.map fun r =>
      if r.num = region.toNat ∧ r.pending.isNone then { r with deleting := some h } else r)).regTry region.toNat) := by
  change execRegdel h region s = _
  unfold execRegdel
  rw [if_neg (turn_go hc.1 rfl)]
  dsimp only
  rw [cleanCmd_flags hc rfl, hr]
  dsimp only
  rw [hn, hd]
  rfl

/-- Settles O35, by `exec_regreg_host`, `exec_regreg_peer` and `exec_regdel`. -/
theorem regionsRegisterAndDelete : Obligations.RegionsRegisterAndDelete := by
  unfold Obligations.RegionsRegisterAndDelete
  intro s h region access rkey vaddr length qpn addr
  refine ⟨fun q => ?_, ?_, fun r => ?_⟩
  · intro b hc hr ha hl hlo hhi hq hready hrole hnew
    have hqp : (BitVec.ofNat 12 (qpn.toNat - 0x1000)).toNat = qpn.toNat - 0x1000 := by
      rw [BitVec.toNat_ofNat]
      omega
    exact ⟨regionOf h region false access rkey vaddr length qpn 0, exec_regreg_host hr ha hl hnew hc hlo hhi hq hready hrole, rfl, rfl, hqp,
      rfl, rfl, rfl, rfl, rfl, rfl, rfl⟩
  · intro b hc hr ha hl hb hp hf hnew
    obtain ⟨i, e, ho, honly⟩ := State.openStore_isSome (s := b) (r := regionOf h region true access rkey vaddr length 0 addr) hp hf
    exact ⟨e, { regionOf h region true access rkey vaddr length 0 addr with sqp := some i }, exec_regreg_peer hr ha hl hnew hc hb hp ho hf,
      rfl, rfl, rfl, rfl, rfl, rfl, rfl, rfl, honly⟩
  · intro b hc hr hn hd
    exact exec_regdel hc hr hn hd

end Sys2Proof.Machine

/-! ## INPUB, CQBIND and SQBIND (R419, R428, R429)

O36, from one equation per command. -/

namespace Sys2Proof.Machine

open Claim

/-! ### INPUB -/

/-- A live INPUT buffer overlaps the range. -/
def Buffer.inRange (lo hi : Nat) (b : Buffer) : Bool := b.cls == .input && !b.dead && decide (b.offset < hi ∧ lo < b.offset + b.bytes)

/-- The state once an INPUB has published. -/
def State.inputPublished (s : State) (lo hi : Nat) : State :=
  { s with job := { s.job with bufs := s.job.bufs.map fun b => if b.inRange lo hi then { b with pubSealed := b.pubSealed + 1 } else b } }

theorem exec_inpub {s : State} {h : HostCmd} {offset length : Dword} (hc : CleanCmd s (.inpub h offset length)) (hs : s.job.state = .running)
    (hl : length ≠ 0) (hin : offset.toNat + length.toNat ≤ s.job.inpages * 4096) : exec (.inpub h offset length) s =
      .next (((s.takeCmd h).inputPublished offset.toNat (offset.toNat + length.toNat)).complete h 0x22 stOK
        (leBytes (s.job.bufs.filter (Buffer.inRange offset.toNat (offset.toNat + length.toNat))).length 4)).pump := by
  have hjob := s.takeCmd_job h
  have hbad : ¬ ((cmdBad h 0 || !(s.takeCmd h).isRunning || length == 0 ||
      decide (offset.toNat + length.toNat > (s.takeCmd h).job.inpages * 4096)) = true) := by
    rw [cleanCmd_flags hc rfl, State.isRunning, hjob, hs, beq_eq_false_iff_ne.2 hl, decide_eq_false (Nat.not_lt.2 hin)]
    decide
  rw [← hjob]
  change execInpub h offset length s = _
  unfold execInpub
  rw [if_neg (turn_go hc.1 rfl)]
  exact if_neg hbad

/-! ### CQBIND -/

theorem exec_cqbind {s : State} {h : HostCmd} {log2n : Byte} {region : BitVec 16} {offset : Dword} {r : Region} {q : Qp}
    (hc : CleanCmd s (.cqbind h log2n region offset)) (hlo : 4 ≤ log2n.toNat) (hhi : log2n.toNat ≤ 16) (ho : offset.toNat % 64 = 0)
    (hr : (s.takeCmd h).region? region.toNat = some r) (hw : r.write = true) (hfit : offset.toNat + 64 * 2 ^ log2n.toNat ≤ r.length)
    (hq : (s.takeCmd h).qp? h.qp.toNat = some q) : exec (.cqbind h log2n region offset) s =
      .next ((((s.takeCmd h).setQp h.qp.toNat { q with ring := some ⟨region.toNat, offset.toNat, log2n.toNat, 0,
        (q.ring.map CRing.seen).getD (s.takeCmd h).host.told⟩ }).complete h 0x23 stOK []).flushHolding) := by
  have hsize : decide (log2n.toNat < 4 ∨ log2n.toNat > 16) = false := decide_eq_false (by omega)
  have halign : (offset.toNat % 64 != 0) = false := bne_eq_false_iff_eq.2 ho
  have hroom : (!r.write || (!false && decide (offset.toNat + 64 * 2 ^ log2n.toNat > r.length))) = false := by
    rw [hw, decide_eq_false (Nat.not_lt.2 hfit)]
    rfl
  change execCqbind h log2n region offset s = _
  unfold execCqbind
  rw [if_neg (turn_go hc.1 rfl)]
  dsimp only
  rw [cleanCmd_flags hc rfl, hsize, halign, hr]
  dsimp only
  rw [hroom]
  change Host.Outcome.next ((((s.takeCmd h).modQp h.qp.toNat fun q => { q with ring := some ⟨region.toNat, offset.toNat, log2n.toNat, 0,
    (q.ring.map CRing.seen).getD (s.takeCmd h).host.told⟩ }).complete h 0x23 stOK []).flushHolding) = _
  rw [State.modQp, hq]

/-! ### SQBIND -/

theorem exec_sqbind {s : State} {h : HostCmd} {ring : Byte} (hc : CleanCmd s (.sqbind h ring)) (hr : ring.toNat < 128) :
    exec (.sqbind h ring) s = .next (((s.takeCmd h).setRing ring.toNat { s.job.ring ring.toNat with bound := some h.qp }).complete h 0x24
      stOK []) := by
  have hbad : ¬ ((cmdBad h 0 || decide (ring.toNat ≥ 128)) = true) := by
    rw [cleanCmd_flags hc rfl, decide_eq_false (Nat.not_le.2 hr)]
    decide
  rw [← s.takeCmd_job h]
  change execSqbind h ring s = _
  unfold execSqbind
  rw [if_neg (turn_go hc.1 rfl)]
  exact if_neg hbad

/-- Settles O36, by `exec_inpub`, `exec_cqbind` and `exec_sqbind`. The count of drops a new ring has been told of is log entry 44. -/
theorem inputPublishAndRingBinding : Obligations.InputPublishAndRingBinding := by
  unfold Obligations.InputPublishAndRingBinding
  refine fun s h => ⟨fun offset length hc hs hl hin => ?_, fun log2n region offset r q => ?_, fun ring hc hr => ?_⟩
  · refine ⟨_, exec_inpub hc hs hl hin, ?_, ?_⟩
    · simp only [State.inputPublished, State.takeCmd_job]
      rfl
    · exact (congrArg Job.ctxs (s.takeCmd_job h) :)
  · intro b hc hlo hhi ho hr hw hfit hq
    exact ⟨_, exec_cqbind hc hlo hhi ho hr hw hfit hq, rfl⟩
  · have hset (k : Nat) := (s.takeCmd h).ring_setRing ring.toNat k { s.job.ring ring.toNat with bound := some h.qp }
    refine ⟨_, exec_sqbind hc hr, ?_, fun k hk => ?_⟩
    · exact (hset ring.toNat).trans (if_pos rfl)
    · refine (hset k).trans ((if_neg hk).trans ?_)
      rw [State.takeCmd_job]

end Sys2Proof.Machine

/-! ## VIEWCHG, CKPTCFG, CKPTNOW and RESTORE (R399, R439, R457, R458)

O38, O39. The checks of a checkpoint record read nothing of the host attachment, so the read that brought it changes none of them. -/

namespace Sys2Proof.Machine

open Claim

/-! ### VIEWCHG -/

/-- The state with a requested change entered. -/
def State.chgEntered (s : State) (h : HostCmd) (action : Byte) (mid rank spareMid : BitVec 16) : State :=
  { s with fab := { s.fab with chgs := s.fab.chgs ++ [⟨action.toNat, mid, rank, spareMid, some h, s.isCoord⟩] } }

section
variable {s : State} {h : HostCmd} {action : Byte} {mid rank spareMid : BitVec 16} (hc : CleanCmd s (.viewchg h action mid rank spareMid))
  (hok : (s.takeCmd h).chgBad action mid rank spareMid = none)
include hc hok

theorem exec_viewchg : exec (.viewchg h action mid rank spareMid) s =
    if ((s.takeCmd h).chgEntered h action mid rank spareMid).isCoord then .next ((s.takeCmd h).chgEntered h action mid rank spareMid).carryOn
    else match ((s.takeCmd h).chgEntered h action mid rank spareMid).coordinator with
      | none => .next ((s.takeCmd h).chgEntered h action mid rank spareMid)
      | some m => .next (((s.takeCmd h).chgEntered h action mid rank spareMid).forwardChg m
        ⟨action.toNat, mid, rank, spareMid, some h, (s.takeCmd h).isCoord⟩) := by
  change execViewchg h action mid rank spareMid s = _
  unfold execViewchg
  rw [if_neg (turn_go hc.1 rfl)]
  dsimp only
  rw [cleanCmd_flags hc rfl, hok]
  rfl

end

/-- Settles O38, by `exec_viewchg`; the message of type 10 and its payload are log entry 21. -/
theorem viewChangesReachCoordinator : Obligations.ViewChangesReachCoordinator := by
  unfold Obligations.ViewChangesReachCoordinator
  intro s h action mid rank spareMid b hc hok
  refine ⟨b.chgEntered h action mid rank spareMid, rfl, fun hcoord => ?_, fun m hcoord hm => ?_⟩
  · exact (exec_viewchg hc hok).trans (if_pos hcoord)
  · refine (exec_viewchg hc hok).trans ((if_neg (ne_true_of_eq_false hcoord)).trans ?_)
    rw [hm]
    rfl

/-! ### CKPTCFG and CKPTNOW -/

/-- The recovery record with new intervals and targets, in force at once or after the refresh that runs (R439). -/
def Recov.configured (p : BitVec 16) (f : Word) (ta tb : BitVec 16) (aoff boff : Dword) (r : Recov) : Recov :=
  if r.refresh.isSome then { r with pendCfg := some (p.toNat, f.toNat, ta.toNat, tb.toNat, aoff.toNat, boff.toNat) }
  else { r with
    p := p.toNat
    f := f.toNat
    ta := ta.toNat
    tb := tb.toNat
    aoff := aoff.toNat
    boff := boff.toNat }

theorem exec_ckptcfg {s : State} {h : HostCmd} {p : BitVec 16} {f : Word} {ta tb : BitVec 16} {aoff boff : Dword}
    (hc : CleanCmd s (.ckptcfg h p f ta tb aoff boff)) (hs : s.job.state = .running) (hp : p ≠ 0) (hf : f.toNat % p.toNat = 0)
    (ha : (s.takeCmd h).targetBad ta.toNat = false) (hb : (s.takeCmd h).targetBad tb.toNat = false) :
    exec (.ckptcfg h p f ta tb aoff boff) s =
      .next (((s.takeCmd h).setRecov (Recov.configured p f ta tb aoff boff)).complete h 0x40 stOK []) := by
  have hpos : 0 < p.toNat := Nat.pos_of_ne_zero fun h => hp (BitVec.eq_of_toNat_eq h)
  have hform : (cmdBad h 0 || !(s.takeCmd h).isRunning || p == 0 || f.toNat % max 1 p.toNat != 0) = false := by
    rw [cleanCmd_flags hc rfl, State.isRunning, s.takeCmd_job h, hs, beq_eq_false_iff_ne.2 hp, Nat.max_eq_right hpos, hf]
    rfl
  change execCkptcfg h p f ta tb aoff boff s = _
  unfold execCkptcfg
  rw [if_neg (turn_go hc.1 rfl)]
  dsimp only
  rw [hform, ha, hb]
  rfl

theorem exec_ckptnow {s : State} {h : HostCmd} (hc : CleanCmd s (.ckptnow h)) (hs : s.job.state = .running) (ht : s.job.recov.ta ≠ 0) :
    exec (.ckptnow h) s = .next ((s.takeCmd h).setRecov fun r => { r with nowReqs := r.nowReqs ++ [h] }) := by
  have hbad : ¬ ((cmdBad h 0 || !(s.takeCmd h).isRunning || (s.takeCmd h).job.recov.ta == 0) = true) := by
    rw [cleanCmd_flags hc rfl, State.isRunning, s.takeCmd_job h, hs, beq_eq_false_iff_ne.2 ht]
    decide
  change execCkptnow h s = _
  unfold execCkptnow
  rw [if_neg (turn_go hc.1 rfl)]
  exact if_neg hbad

/-! ### RESTORE -/

theorem exec_restore {s : State} {h : HostCmd} {region : BitVec 16} {offset length : Dword} (hc : CleanCmd s (.restore h region offset length))
    (hs : s.job.state = .running) (hi : s.job.recov.issuedT = false) (hr : s.job.recov.restored = false)
    (hread : (s.takeCmd h).canRead region.toNat offset.toNat length.toNat = true) :
    exec (.restore h region offset length) s = .next ((s.takeCmd h).modHost (fun x => { x with
      restoreRead := x.restoreRead ++ [⟨h, length.toNat, region.toNat, false⟩] }) |>.sendRead region.toNat offset.toNat length.toNat) := by
  have hbad : (cmdBad h 0 || !(s.takeCmd h).isRunning || (s.takeCmd h).job.recov.issuedT || (s.takeCmd h).job.recov.restored) = false := by
    rw [cleanCmd_flags hc rfl, State.isRunning, s.takeCmd_job h, hs, hi, hr]
    rfl
  change execRestore h region offset length s = _
  unfold execRestore
  rw [if_neg (turn_go hc.1 rfl)]
  dsimp only
  rw [hbad]
  exact if_pos hread

/-- What the record's checks read of the state (R458). -/
def State.recordForm (s : State) (b : List Byte) : Bool :=
  false || !s.isRunning || s.job.recov.issuedT || s.job.recov.restored || fieldAt b 0 4 != 0x31435A4B || fieldAt b 4 2 != 1 ||
    (crc32c (b.take 4092)).toNat != fieldAt b 4092 4 ||
    (!decide (b.length < 4096 + fieldAt b 80 8) && (crc32c ((b.drop 4096).take (fieldAt b 80 8))).toNat != fieldAt b 88 4) ||
    !ckReserved b || fieldAt b 48 2 != s.myRank || fieldAt b 50 2 != s.jobN || fieldAt b 40 8 != s.job.seed.toNat ||
    fieldAt b 16 6 == allOnes48

def State.recordRoom (s : State) (b : List Byte) : Nat := if s.job.recov.room = 0 then s.kittyNeed (recordShard b) else 0

def State.recordBuf (s : State) (b : List Byte) : Bool :=
  decide (b.length < 4096 + fieldAt b 80 8) || fieldAt b 80 8 != roundUp (fieldAt b 72 4) 4096 + fieldAt b 64 8 ||
    decide (s.job.dramUsed + s.recordRoom b > jobDram)

def State.recordLevel (s : State) (b : List Byte) : Bool := s.isRunning && fieldAt b 6 2 != s.job.feature.toNat

theorem State.recordForm_good {s : State} {b : List Byte} (h : RestoreGood s b) : s.recordForm b = false := by
  have htrick : (fieldAt b 16 6 == allOnes48) = false := beq_eq_false_iff_ne.2 h.trick
  simp [State.recordForm, State.isRunning, h.run, h.first, h.magic, h.header, h.data, h.reserved, h.member, htrick]

theorem State.recordBuf_good {s : State} {b : List Byte} (h : RestoreGood s b) : s.recordBuf b = false := by
  have hroom : s.job.dramUsed + s.recordRoom b ≤ jobDram := h.room
  have hsizes : (fieldAt b 80 8 != roundUp (fieldAt b 72 4) 4096 + fieldAt b 64 8) = false := bne_eq_false_iff_eq.2 h.sizes
  rw [State.recordBuf, decide_eq_false (Nat.not_lt.2 h.whole), hsizes, decide_eq_false (Nat.not_lt.2 hroom)]
  rfl

theorem State.recordLevel_good {s : State} {b : List Byte} (h : RestoreGood s b) : s.recordLevel b = false := by
  rw [State.recordLevel, h.level, bne_self_eq_false, Bool.and_false]

theorem State.recordChecks_congr {s t : State} (h : HostOnly s t) (b : List Byte) :
    t.recordForm b = s.recordForm b ∧ t.recordBuf b = s.recordBuf b ∧ t.recordLevel b = s.recordLevel b := by
  rw [h]
  exact ⟨rfl, rfl, rfl⟩

/-- The status of a record that passes: its seed of the next trick is its own trick's, or not (R458). -/
def recordStatus (b : List Byte) : Byte := if fieldAt b 32 6 != fieldAt b 16 6 then stRNGSKEW else stOK

/-- The log entry a record carries. -/
def recordProof (b : List Byte) : Option LogE := if (byteAt b 53).getLsbD 1 then some (logOfBytes ((b.drop 96).take 32)) else none

/-- The state once a record that passes has become the shadow. -/
def State.recordTaken (s : State) (b : List Byte) : State :=
  let t := (((s.setRecov fun r => { r with
    shadow := some (recordShard b)
    shadowLog := recordProof b
    restored := true
    srcFirst := true
    room := if r.room = 0 then s.recordRoom b else r.room }).setTrick (fieldAt b 16 6) (fieldAt b 24 6)).arm (recordShard b) (recordProof b)
      (recordStatus b))
  { t with stat := { t.stat with
    rngSkew := fieldAt b 32 6 != fieldAt b 16 6
    degraded := true } }

theorem exec_restoreRecordReceived {s : State} {h : HostCmd} {record : List Byte} {rn : Nat} {rest : List RestoreRead}
    (hr : s.host.restoreRead = ⟨h, record.length, rn, false⟩ :: rest) (hgood : RestoreGood s record) :
    exec (.restoreRecordReceived record) s =
      .next (((((s.modHost fun x => { x with restoreRead := rest }).readDone rn record.length).recordTaken record).complete h 0x42
        (recordStatus record) (leBytes (fieldAt record 16 6) 6)).settle) := by
  have honly := HostOnly.trans (s.modHost_only fun x => { x with restoreRead := rest }) (State.readDone_only _ rn record.length)
  obtain ⟨hform, hbuf, hlevel⟩ := State.recordChecks_congr honly record
  rw [State.recordForm_good hgood] at hform
  rw [State.recordBuf_good hgood] at hbuf
  rw [State.recordLevel_good hgood] at hlevel
  unfold State.recordForm at hform
  unfold State.recordBuf State.recordRoom recordShard at hbuf
  unfold State.recordLevel at hlevel
  change execRestoreRecordReceived record s = _
  unfold execRestoreRecordReceived
  rw [hr]
  refine (if_neg (not_not.2 rfl)).trans ?_
  dsimp only
  dsimp only at hbuf
  rw [hform, hbuf, hlevel]
  rfl

/-- Settles O39, by `exec_ckptcfg`, `exec_ckptnow`, `exec_restore` and `exec_restoreRecordReceived`. -/
theorem checkpointCommands : Obligations.CheckpointCommands := by
  unfold Obligations.CheckpointCommands
  refine fun s h => ⟨fun p f ta tb aoff boff hc hs hp hf ha hb => ?_, fun hc hs ht => ?_, fun region offset length => ?_,
    fun record rn rest hr hgood => ?_⟩
  · have hjob := s.takeCmd_job h
    refine ⟨_, exec_ckptcfg hc hs hp hf ha hb, fun hnone => ?_, fun hsome => ?_⟩
    · have hconf (r : Recov) (hr : r.refresh = none) : (Recov.configured p f ta tb aoff boff r).p = p.toNat ∧
          (Recov.configured p f ta tb aoff boff r).f = f.toNat ∧ (Recov.configured p f ta tb aoff boff r).ta = ta.toNat ∧
          (Recov.configured p f ta tb aoff boff r).tb = tb.toNat ∧ (Recov.configured p f ta tb aoff boff r).aoff = aoff.toNat ∧
          (Recov.configured p f ta tb aoff boff r).boff = boff.toNat := by
        simp [Recov.configured, hr]
      exact hconf (s.takeCmd h).job.recov (by rw [hjob, hnone])
    · have hconf (r : Recov) (hr : r.refresh.isSome = true) : (Recov.configured p f ta tb aoff boff r).p = r.p ∧
          (Recov.configured p f ta tb aoff boff r).pendCfg =
            some (p.toNat, f.toNat, ta.toNat, tb.toNat, aoff.toNat, boff.toNat) := by
        simp [Recov.configured, hr]
      rw [← hjob] at hsome ⊢
      exact hconf (s.takeCmd h).job.recov hsome
  · refine ⟨_, exec_ckptnow hc hs ht, ?_⟩
    rw [← s.takeCmd_job h]
  · intro b hc hs hi hr hread
    exact exec_restore hc hs hi hr hread
  · have hstatus : recordStatus record = if fieldAt record 32 6 = fieldAt record 16 6 then stOK else stRNGSKEW := by
      unfold recordStatus
      simp only [bne_iff_ne, ne_eq, ite_not]
    refine ⟨((s.modHost fun x => { x with restoreRead := rest }).readDone rn record.length).recordTaken record, ?_, rfl, rfl, rfl,
      recordShard record, rfl, rfl⟩
    rw [← hstatus]
    exact exec_restoreRecordReceived hr hgood

end Sys2Proof.Machine

/-! ## Queue pairs open and close (R415, R416, R424)

O40. What follows a queue pair's fall from READY takes back no message and no error flag (`Adds`), and every region of the queue pair
stays orphaned or goes (`RegionsFrom`). -/

namespace Sys2Proof.Machine

open Claim

/-! ### What only adds messages -/

/-- t holds every message of s, sent or waiting for a pause, and ERR.QP stays set. -/
structure Adds (s t : State) : Prop where
  outbox : s.outbox ⊆ t.outbox
  heldTx : s.heldTx ⊆ t.heldTx
  errQp : s.host.errQp = true → t.host.errQp = true

theorem Adds.refl (s : State) : Adds s s := ⟨List.Subset.refl _, List.Subset.refl _, id⟩

theorem Adds.trans {s t u : State} (h : Adds s t) (k : Adds t u) : Adds s u :=
  ⟨List.Subset.trans h.outbox k.outbox, List.Subset.trans h.heldTx k.heldTx, k.errQp ∘ h.errQp⟩

theorem Adds.of_eq {s t : State} (ho : t.outbox = s.outbox) (hh : t.heldTx = s.heldTx) (he : t.host.errQp = s.host.errQp) : Adds s t :=
  ⟨by rw [ho]; exact List.Subset.refl _, by rw [hh]; exact List.Subset.refl _, by rw [he]; exact id⟩

theorem Adds.foldl {α : Type} {f : State → α → State} (h : ∀ s a, Adds s (f s a)) (l : List α) (s : State) : Adds s (l.foldl f s) :=
  foldl_rel Adds .refl (fun _ _ _ => .trans) f h l s

theorem Adds.sends {s t : State} (h : Adds s t) {r : State} {o : Out} (hs : Sends r s o) : Sends r t o := by
  unfold Sends at *
  by_cases hp : r.pausedTo o = true
  · rw [if_pos hp] at hs ⊢
    exact h.heldTx hs
  · rw [if_neg hp] at hs ⊢
    exact h.outbox hs

theorem State.send_adds (s : State) (o : Out) : Adds s (s.send o) :=
  ⟨List.subset_append_left _ _, List.subset_append_left _ _, id⟩

/-- A message just sent is among those sent. -/
theorem State.send_sends (s : State) (o : Out) : Sends s (s.send o) o := by
  unfold Sends
  cases hp : s.pausedTo o <;> simp [State.send, hp]

theorem State.lose_adds (s : State) (w : Carried) : Adds s (s.lose w) := by
  cases w <;> exact .of_eq rfl rfl rfl

theorem State.modQp_adds (s : State) (i : Nat) (f : Qp → Qp) : Adds s (s.modQp i f) := by
  unfold State.modQp
  split <;> exact .of_eq rfl rfl rfl

theorem State.writeRegion_adds (s : State) (tr : Option Nat) (rn off : Nat) (data : List Byte) (what : Carried) (tag : Nat) :
    Adds s (s.writeRegion tr rn off data what tag) := by
  unfold State.writeRegion
  split
  · exact s.lose_adds what
  · split
    · exact s.lose_adds what
    · split
      · exact s.lose_adds what
      · exact (s.send_adds _).trans (.of_eq rfl rfl rfl)

theorem State.ringPut_adds (s : State) (qi : Nat) (tr : Option Nat) (c : Compl) (own : Bool) : Adds s (s.ringPut qi tr c own) := by
  unfold State.ringPut
  split
  · exact .refl s
  · split
    · exact .refl s
    · refine .trans ?_ (State.writeRegion_adds _ _ _ _ _ _ _)
      exact .of_eq rfl rfl rfl

theorem State.ringWrite_adds (s : State) (qi : Nat) (tr : Option Nat) (c : Compl) (own : Bool) : Adds s (s.ringWrite qi tr c own) := by
  unfold State.ringWrite
  split
  · exact s.ringPut_adds _ _ _ _
  · refine .trans (.trans ?_ (State.ringPut_adds _ _ _ _ _)) (State.ringPut_adds _ _ _ _ _)
    exact (s.modQp_adds qi _).trans (.of_eq rfl rfl rfl)

theorem State.postTo_adds (s : State) (qi : Nat) (tr : Option Nat) (c : Compl) : Adds s (s.postTo qi tr c) := by
  unfold State.postTo
  split
  · exact s.ringWrite_adds _ _ _ _
  · exact .of_eq rfl rfl rfl

theorem State.postOwner_adds (s : State) (tr : Option Nat) (c : Compl) : Adds s (s.postOwner tr c) := by
  unfold State.postOwner
  split
  · exact s.ringWrite_adds _ _ _ _
  · split <;> exact .of_eq rfl rfl rfl

theorem State.complete_adds (s : State) (h : HostCmd) (opc status : Byte) (l : List Byte) : Adds s (s.complete h opc status l) := by
  unfold State.complete
  refine .trans ?_ (State.postTo_adds _ _ _ _)
  split <;> exact .of_eq rfl rfl rfl

theorem State.doOut_adds (s : State) (h : HeldOut) : Adds s (s.doOut h) := by
  cases h with
  | write t rn off data ring => exact s.writeRegion_adds _ _ _ _ _ _
  | ownerCompl t c => exact s.postOwner_adds _ _
  | compl t q c => exact s.postTo_adds _ _ _

theorem State.flushHeldGo_adds (n : Nat) (s : State) : Adds s (s.flushHeldGo n) := by
  induction n generalizing s with
  | zero => exact .refl s
  | succ n ih =>
    unfold State.flushHeldGo
    split
    · exact .refl s
    · split
      · exact .refl s
      · refine .trans (.trans ?_ (State.doOut_adds _ _)) (ih _)
        exact .of_eq rfl rfl rfl

theorem State.flushHeld_adds (s : State) : Adds s s.flushHeld := s.flushHeldGo_adds _

theorem State.ckFinish_adds (s : State) (w : CkWrite) : Adds s (s.ckFinish w) := by
  unfold State.ckFinish
  refine .trans ?_ (Adds.foldl (fun s h => ?_) _ _)
  · exact .of_eq rfl rfl rfl
  · split <;> exact s.complete_adds _ _ _ _

theorem State.ckPut_adds (s : State) (w : CkWrite) : Adds s (s.ckPut w).2 := by
  unfold State.ckPut
  obtain ⟨rn, off⟩ := w.place
  dsimp only
  split
  · exact .refl s
  split
  · exact .refl s
  generalize (if w.step = 0 then _ else _ : Nat × List Byte) = ad
  split
  · exact s.lose_adds .bytes
  · exact s.send_adds _

theorem State.ckNextTarget_adds (s : State) (w : CkWrite) : Adds s (s.ckNextTarget w) := by
  unfold State.ckNextTarget
  split
  · dsimp only
    split
    · exact (s.ckPut_adds _).trans (.of_eq rfl rfl rfl)
    · exact (s.ckPut_adds _).trans (State.ckFinish_adds _ _)
  · exact s.ckFinish_adds w

theorem State.ckAbandon_adds (s : State) : Adds s s.ckAbandon := by
  unfold State.ckAbandon
  split
  · exact .refl s
  · exact (s.lose_adds _).trans (State.ckNextTarget_adds _ _)

theorem State.refuseAdmit_adds (s : State) (h : HostCmd) (st : Byte) : Adds s (s.refuseAdmit h st) := by
  unfold State.refuseAdmit
  refine .trans ?_ (State.complete_adds _ _ _ _ _)
  exact .of_eq rfl rfl rfl

theorem State.readsFail_adds (s : State) (has : Nat → Bool) : Adds s (s.readsFail has) := by
  unfold State.readsFail
  extract_lets a b vs rs as c d e f
  have ha : Adds s a := .of_eq rfl rfl rfl
  have hb : Adds a b := by
    unfold b
    split
    · exact .refl a
    · split
      · exact a.refuseAdmit_adds _ _
      · exact .refl a
  have hc : Adds b c := .of_eq rfl rfl rfl
  have hd : Adds c d := .foldl (fun s v => s.complete_adds _ _ _ _) _ _
  have he : Adds d e := .foldl (fun s v => s.complete_adds _ _ _ _) _ _
  have hf : Adds e f := .foldl (fun s v => s.complete_adds _ _ _ _) _ _
  refine .trans (((((ha.trans hb).trans hc).trans hd).trans he).trans hf) ?_
  split
  · exact .refl f
  · split <;> exact .of_eq rfl rfl rfl

theorem State.closeRegion_adds (s : State) (r : Region) : Adds s (s.closeRegion r) := by
  unfold State.closeRegion
  dsimp only
  split
  · exact .of_eq rfl rfl rfl
  · exact ⟨List.subset_append_left _ _, List.subset_append_left _ _, id⟩

theorem State.trimHolding_adds (s : State) : Adds s s.trimHolding := by
  unfold State.trimHolding
  extract_lets n
  clear_value n
  split <;> exact .of_eq rfl rfl rfl

/-! ### Regions that stay -/

/-- Every region of t is one of s, on the same queue pair, and orphaned if it was. -/
def RegionsFrom (s t : State) : Prop := ∀ r ∈ t.host.regions, ∃ r' ∈ s.host.regions, r.peer = r'.peer ∧ r.qp = r'.qp ∧
  (r'.orphaned = true → r.orphaned = true)

theorem RegionsFrom.refl (s : State) : RegionsFrom s s := fun r hr => ⟨r, hr, rfl, rfl, id⟩

theorem RegionsFrom.trans {s t u : State} (h : RegionsFrom s t) (k : RegionsFrom t u) : RegionsFrom s u := by
  intro r hr
  obtain ⟨r', hr', hpeer, hqp, ho⟩ := k r hr
  obtain ⟨r'', hr'', hpeer', hqp', ho'⟩ := h r' hr'
  exact ⟨r'', hr'', hpeer.trans hpeer', hqp.trans hqp', ho ∘ ho'⟩

theorem SameRegions.regionsFrom {s t : State} (h : SameRegions s t) : RegionsFrom s t := by
  intro r hr
  rw [h.regions] at hr
  exact ⟨r, hr, rfl, rfl, id⟩

theorem RegionsFrom.foldl {α : Type} {f : State → α → State} (h : ∀ s a, RegionsFrom s (f s a)) (l : List α) (s : State) :
    RegionsFrom s (l.foldl f s) :=
  foldl_rel RegionsFrom .refl (fun _ _ _ => .trans) f h l s

theorem State.closeRegion_regionsFrom (s : State) (r : Region) : RegionsFrom s (s.closeRegion r) := by
  have hfilter (l : List Region) (hl : l = s.host.regions.filter fun x => x != r) : ∀ x ∈ l, ∃ r' ∈ s.host.regions, x.peer = r'.peer ∧
      x.qp = r'.qp ∧ (r'.orphaned = true → x.orphaned = true) := by
    intro x hx
    rw [hl] at hx
    exact ⟨x, (List.mem_filter.1 hx).1, rfl, rfl, id⟩
  unfold State.closeRegion
  dsimp only
  split
  · exact hfilter _ rfl
  · exact hfilter _ rfl

/-- What a registration that completes leaves: messages are added and regions stay. -/
theorem State.regTry_after (s : State) (n : Nat) : Adds s (s.regTry n) ∧ RegionsFrom s (s.regTry n) := by
  unfold State.regTry
  split
  · exact ⟨.refl s, .refl s⟩
  extract_lets old a b
  clear_value old
  have ha : Adds s a ∧ RegionsFrom s a := by
    unfold a
    split
    · exact ⟨.refl s, .refl s⟩
    · split
      · exact ⟨.refl s, .refl s⟩
      · exact ⟨(s.closeRegion_adds _).trans (State.complete_adds _ _ _ _ _),
          (s.closeRegion_regionsFrom _).trans (State.complete_sameRegions _ _ _ _ _).regionsFrom⟩
  have hb : Adds a b ∧ RegionsFrom a b := by
    unfold b
    split
    · exact ⟨.refl a, .refl a⟩
    · exact ⟨a.closeRegion_adds _, a.closeRegion_regionsFrom _⟩
  split
  · exact ha
  rename_i r _
  extract_lets ready c
  split
  · exact ha
  split
  · exact ha
  have hc : Adds b c ∧ RegionsFrom b c := by
    refine ⟨.of_eq rfl rfl rfl, fun x hx => ?_⟩
    obtain ⟨y, hy, rfl⟩ := List.mem_map.1 hx
    refine ⟨y, hy, ?_⟩
    split <;> exact ⟨rfl, rfl, id⟩
  exact ⟨((ha.1.trans hb.1).trans hc.1).trans (State.complete_adds _ _ _ _ _),
    ((ha.2.trans hb.2).trans hc.2).trans (State.complete_sameRegions _ _ _ _ _).regionsFrom⟩

theorem State.trimHolding_sameRegions (s : State) : SameRegions s s.trimHolding := by
  unfold State.trimHolding
  extract_lets n
  clear_value n
  split <;> exact ⟨rfl, rfl⟩

/-- What follows a queue pair's fall from READY (R424): messages are added, its regions are orphaned. -/
theorem State.qpOff_after (s : State) (i : Nat) : Adds s (s.qpOff i) ∧
    ∀ r ∈ (s.qpOff i).host.regions, r.peer = false → r.qp.toNat = i → r.orphaned = true := by
  unfold State.qpOff
  extract_lets mine has ref own gone a b c d
  set o : State := s.modHost fun x => { x with
    regions := x.regions.map fun r => if mine r then { r with orphaned := true } else r
    unacked := x.unacked.filter fun u => u.qp != ref && (own u).isNone
    holding := x.unacked.filterMap own ++ x.holding } with ho
  have hso : Adds s o := .of_eq rfl rfl rfl
  have horphan : ∀ r ∈ o.host.regions, r.peer = false → r.qp.toNat = i → r.orphaned = true := by
    intro r hr hpeer hqp
    obtain ⟨x, -, rfl⟩ := List.mem_map.1 hr
    by_cases hx : mine x = true
    · rw [if_pos hx]
    · rw [if_neg hx] at hpeer hqp
      exact absurd (by simp [mine, hpeer, hqp]) hx
  have hd : Adds c d ∧ SameRegions c d := by
    unfold d
    split
    · exact ⟨.refl c, .refl c⟩
    · split
      · exact ⟨c.ckAbandon_adds, c.ckAbandon_sameRegions⟩
      · exact ⟨.refl c, .refl c⟩
  have hadds : Adds o d := ((o.trimHolding_adds.trans (.foldl (fun s (u : Unacked) => s.lose_adds u.what) gone a)).trans
    (b.readsFail_adds has)).trans hd.1
  have hregions : SameRegions o d := ((o.trimHolding_sameRegions.trans (.foldl (fun s (u : Unacked) => s.lose_sameRegions u.what) gone a)).trans
    (b.readsFail_sameRegions has)).trans hd.2
  have htry : Adds d d.regTryAll ∧ RegionsFrom d d.regTryAll :=
    ⟨.foldl (fun s n => (s.regTry_after n).1) _ _, .foldl (fun s n => (s.regTry_after n).2) _ _⟩
  refine ⟨((hso.trans hadds).trans htry.1).trans (State.flushHeld_adds _), fun r hr hpeer hqp => ?_⟩
  obtain ⟨r', hr', hpeer', hqp', ho'⟩ := (hregions.regionsFrom.trans htry.2).trans (State.flushHeld_sameRegions _).regionsFrom r hr
  exact ho' (horphan r' hr' (hpeer'.symm.trans hpeer) (by rw [← hqp', hqp]))

/-! ### Queue pairs that go -/

theorem State.qp?_none_of_qpState {s t : State} (h : t.qpState = s.qpState) {i : Nat} (hn : s.qp? i = none) : t.qp? i = none := by
  have hi := congrFun h i
  rw [State.qpState, State.qpState, hn] at hi
  exact Option.map_eq_none_iff.1 hi

theorem alGet_alDel_other {α : Type} (l : List (Nat × α)) {i j : Nat} (h : j ≠ i) : alGet (alDel l i) j = alGet l j := by
  induction l with
  | nil => rfl
  | cons p l ih =>
    obtain ⟨k, x⟩ := p
    by_cases hk : k = i
    · have hdel : alDel ((k, x) :: l) i = alDel l i := List.filter_cons_of_neg (by simp [hk])
      rw [hdel, ih, alGet, if_neg (by rw [hk]; exact Ne.symm h)]
    · have hdel : alDel ((k, x) :: l) i = (k, x) :: alDel l i := List.filter_cons_of_pos (by simp [hk])
      rw [hdel, alGet, alGet, ih]

/-- The table without queue pair i. -/
def State.qpGone (s : State) (i : Nat) : State :=
  { s with host := { s.host with qps := alDel s.host.qps i, arrived := s.host.arrived.filter (·.toNat != i) } }

theorem State.qpGone_qp? (s : State) (i j : Nat) : (s.qpGone i).qp? j = if j = i then none else s.qp? j := by
  by_cases h : j = i
  · subst h
    rw [if_pos rfl]
    exact alGet_alDel_self _ _
  · rw [if_neg h]
    exact alGet_alDel_other _ h

theorem State.qpFree_eq (s : State) (i : Nat) : s.qpFree i = if s.qpReady i then (s.qpGone i).qpOff i else s.qpGone i := rfl

/-- A queue pair that becomes FREE is gone, and if it was READY its regions are orphaned (R424). -/
theorem State.qpFree_after (s : State) (i : Nat) : Adds s (s.qpFree i) ∧ (s.qpFree i).qp? i = none ∧
    (s.qpReady i = true → ∀ r ∈ (s.qpFree i).host.regions, r.peer = false → r.qp.toNat = i → r.orphaned = true) := by
  have hgone : Adds s (s.qpGone i) := .of_eq rfl rfl rfl
  have hnone : (s.qpGone i).qp? i = none := (s.qpGone_qp? i i).trans (if_pos rfl)
  rw [State.qpFree_eq]
  split
  next hr =>
    obtain ⟨hadds, hregions⟩ := (s.qpGone i).qpOff_after i
    exact ⟨hgone.trans hadds, State.qp?_none_of_qpState (State.qpOff_qpState _ i) hnone, fun _ => hregions⟩
  next hr => exact ⟨hgone, hnone, fun h => absurd h hr⟩

theorem State.qpReady_of {s : State} {i : Nat} {q : Qp} (hq : s.qp? i = some q) : s.qpReady i = (q.st == .ready) := by
  rw [State.qpReady, hq]

/-- A READY queue pair that enters ERROR sets ERR.QP and leaves its regions orphaned (R424). -/
theorem State.qpError_after {s : State} {i : Nat} {q : Qp} (hq : s.qp? i = some q) (hready : q.st = .ready) :
    (s.qpError i).host.errQp = true ∧ Adds s (s.qpError i) ∧
      ∀ r ∈ (s.qpError i).host.regions, r.peer = false → r.qp.toNat = i → r.orphaned = true := by
  have hne : ¬ q.st = .error := by rw [hready]; decide
  have hbeq : (q.st == .ready) = true := by rw [hready]; rfl
  unfold State.qpError
  rw [hq]
  dsimp only
  rw [if_neg hne, if_pos hbeq]
  obtain ⟨hadds, hregions⟩ := State.qpOff_after (let s := s.setQp i { q with st := .error, since := s.now, latches := [] }
    { s with host := { s.host with errQp := true } }) i
  refine ⟨hadds.errQp rfl, .trans ?_ hadds, hregions⟩
  exact ⟨List.Subset.refl _, List.Subset.refl _, fun _ => rfl⟩

/-! ### REQ -/

section
variable {s : State} {port : Fin 4} (hup : (s.host.ports.get port).up = true) {role version : Byte} {rsvZero : Bool} {mtu : Nat} {peer : CmPeer}
include hup

theorem exec_cmReq_form (hf : ¬ (version = 1 ∧ rsvZero = true ∧ (mtu = 1024 ∨ mtu = 2048 ∨ mtu = 4096))) :
    exec (.cmReq port role version rsvZero mtu peer) s = .next (s.send (.rej port 2)) := by
  have hbad : (version ≠ 1 || !rsvZero || !([1024, 2048, 4096].contains mtu)) = true := by
    by_contra hc
    simp only [Bool.or_eq_true, decide_eq_true_eq, Bool.not_eq_true', not_or, not_not, Bool.not_eq_false, List.contains_eq_mem, List.mem_cons,
      List.not_mem_nil, or_false] at hc
    exact hf ⟨hc.1.1, hc.1.2, hc.2⟩
  change execCmReq port role version rsvZero mtu peer s = _
  unfold execCmReq
  rw [hup]
  exact (if_neg (by decide)).trans (if_pos hbad)

variable (hf : version = 1 ∧ rsvZero = true ∧ (mtu = 1024 ∨ mtu = 2048 ∨ mtu = 4096))
include hf

theorem exec_cmReq_formed : exec (.cmReq port role version rsvZero mtu peer) s =
    if role < 1 || role > 3 then .next (s.send (.rej port 3))
    else match s.freeQp with
      | none => .next (s.send (.rej port 1))
      | some i =>
        if role = 2 ∧ (s.host.qps.filter fun p => p.2.role == 2).length ≥ 16 then .next (s.send (.rej port 1))
        else .next ((s.setQp i ⟨.connecting, role, port, mtu, peer.qpn, s.now, peer.retry.toNat, peer.rnr.toNat, ackTime peer.ackTimeout, 0,
          s.lineRate, none, none, none, none, [], none, []⟩).send (.rep port (BitVec.ofNat 12 i) (s.repData i))) := by
  obtain ⟨hv, hr, hm⟩ := hf
  have hgood : ¬ ((version ≠ 1 || !rsvZero || !([1024, 2048, 4096].contains mtu)) = true) := by
    simp [hv, hr, hm]
  change execCmReq port role version rsvZero mtu peer s = _
  unfold execCmReq
  dsimp only
  rw [hup, if_neg (by decide), if_neg hgood] <;> cases s.freeQp <;> rfl

end

theorem role_reserved_iff (role : Byte) : (decide (role < 1) || decide (role > 3)) = true ↔ ¬ (role = 1 ∨ role = 2 ∨ role = 3) := by
  rw [Bool.or_eq_true, decide_eq_true_eq, decide_eq_true_eq]
  bv_omega

/-- The lowest free entry. -/
theorem State.freeQp_eq_some {s : State} {i : Nat} (hi : i < 4096) (hn : s.qp? i = none) (hlow : ∀ j, j < i → (s.qp? j).isSome) :
    s.freeQp = some i := by
  refine List.find?_eq_some_iff_getElem.2 ⟨by rw [hn]; rfl, i, by simpa using hi, by simp, fun j hj => ?_⟩
  have h := hlow j hj
  rw [List.getElem_range]
  cases hq : s.qp? j with
  | none => simp [hq] at h
  | some q => rfl

theorem State.freeQp_eq_none {s : State} (h : ∀ i, i < 4096 → (s.qp? i).isSome) : s.freeQp = none := by
  refine List.find?_eq_none.2 fun i hi hn => ?_
  have hs := h i (List.mem_range.1 hi)
  rw [Option.isNone_iff_eq_none.1 hn] at hs
  cases hs

/-- A REP leaves by its own port, whatever the table holds. -/
theorem State.sendsAs_rep (s : State) (i : Nat) (q : Qp) (port : Fin 4) (k : BitVec 12) (d : List Byte) :
    SendsAs s (s.setQp i q) (.rep port k d) :=
  ⟨rfl, rfl, rfl, rfl, fun _ => rfl, fun _ => rfl⟩

/-! ### The other commands -/

section
variable {s : State} {qp : BitVec 12} {q : Qp} (hq : s.qp? qp.toNat = some q)
include hq

theorem State.touch_of : s.touch qp.toNat = s.setQp qp.toNat (if q.st = .connecting then { q with st := .ready } else q) := by
  rw [State.touch, State.modQp, hq]

theorem exec_cmDreq_host : exec (.cmDreq (.host qp)) s = .next ((s.send (.drep (.host qp))).qpFree qp.toNat).pump := by
  change execCmDreq (.host qp) s = _
  unfold execCmDreq
  dsimp only
  rw [hq]
  rfl

theorem exec_cmDrep_host : exec (.cmDrep (.host qp)) s = .next (s.qpFree qp.toNat).pump := by
  change execCmDrep (.host qp) s = _
  unfold execCmDrep
  dsimp only
  rw [hq]
  rfl

/-- A queue pair that is not READY is freed without more. -/
theorem State.qpFree_idle (hst : q.st ≠ .ready) : s.qpFree qp.toNat = s.qpGone qp.toNat := by
  rw [State.qpFree_eq, State.qpReady_of hq, if_neg (by simp [hst])]

theorem exec_connectingTimeout (hst : q.st = .connecting) (ht : 50000 ≤ (s.aon.counter - q.since).toNat) :
    exec (.connectingTimeout qp) s = .next (s.qpGone qp.toNat) := by
  have hcond : (q.st == .connecting && s.elapsed q.since 50000) = true := by
    rw [hst, State.elapsed, decide_eq_true ht]
    rfl
  rw [← State.qpFree_idle hq (by rw [hst]; decide)]
  change execConnectingTimeout qp s = _
  unfold execConnectingTimeout
  rw [hq]
  exact if_pos hcond

theorem exec_qpErrorTimeout (hst : q.st = .error) (ht : 50000 ≤ (s.aon.counter - q.since).toNat) :
    exec (.qpErrorTimeout qp) s = .next (s.qpGone qp.toNat) := by
  have hcond : (q.st == .error && s.elapsed q.since 50000) = true := by
    rw [hst, State.elapsed, decide_eq_true ht]
    rfl
  rw [← State.qpFree_idle hq (by rw [hst]; decide)]
  change execQpErrorTimeout qp s = _
  unfold execQpErrorTimeout
  rw [hq]
  exact if_pos hcond

theorem exec_qpRetryExhausted_host (hst : q.st = .ready) : exec (.qpRetryExhausted (.host qp)) s = .next (s.qpError qp.toNat).pump := by
  change execQpRetryExhausted (.host qp) s = _
  unfold execQpRetryExhausted
  dsimp only
  rw [State.qpReady_of hq, hst]
  rfl

end

/-- Settles O40: REQ by `exec_cmReq_form` and `exec_cmReq_formed`, what is freed by `State.qpFree_after`, ERROR by `State.qpError_after`. -/
theorem queuePairsOpenAndClose : Obligations.QueuePairsOpenAndClose := by
  unfold Obligations.QueuePairsOpenAndClose
  intro s port role version rsvZero mtu peer retry rnr time qp ask formOk
  refine ⟨fun hup => ⟨fun hf => exec_cmReq_form hup hf, fun hf hr => ?_, fun hf hr hfull => ?_, fun i hf hr hi hn hlow hman => ?_⟩,
    fun q hq => ⟨?_, ?_, ?_, fun hst ht => ?_, fun hst ht => ?_, fun hst => ?_⟩⟩
  · exact (exec_cmReq_formed hup hf).trans (if_pos ((role_reserved_iff role).2 hr))
  · refine (exec_cmReq_formed hup hf).trans ((if_neg fun h => (role_reserved_iff role).1 h hr).trans ?_)
    rw [State.freeQp_eq_none hfull]
  · have hm : ¬ (role = 2 ∧ (s.host.qps.filter fun p => p.2.role == 2).length ≥ 16) := fun h => Nat.not_le.2 (hman h.1) h.2
    have hexec := (exec_cmReq_formed (peer := ⟨peer, retry, rnr, time⟩) hup hf).trans (if_neg fun h => (role_reserved_iff role).1 h hr)
    rw [State.freeQp_eq_some hi hn hlow] at hexec
    refine ⟨_, hexec.trans (if_neg hm), rfl, (s.sendsAs_rep i _ port _ _).outputs, fun j hj => ?_, _,
      (s.qp?_setQp i i _).trans (if_pos rfl), rfl, rfl, rfl, rfl, rfl, rfl, rfl, rfl, fun h8 h20 => ?_, rfl, rfl, rfl⟩
    · exact (s.qp?_setQp i j _).trans (if_neg hj)
    · change min 20 (max 8 time.toNat) = time.toNat
      omega
  · refine ⟨s.touch qp.toNat, rfl, ?_⟩
    rw [State.touch_of hq]
    exact ⟨rfl, outputs_nil rfl rfl, fun j hj => (s.qp?_setQp _ j _).trans (if_neg hj), (s.qp?_setQp _ _ _).trans (if_pos rfl)⟩
  · obtain ⟨hadds, hnone, hregions⟩ := (s.send (.drep (.host qp))).qpFree_after qp.toNat
    refine ⟨_, exec_cmDreq_host hq, hnone, hadds.sends (s.send_sends _), fun hst r hr hp hqp => hregions ?_ r hr hp (by rw [hqp])⟩
    exact (State.qpReady_of (s := s.send _) hq).trans (by rw [hst]; rfl)
  · obtain ⟨-, hnone, hregions⟩ := s.qpFree_after qp.toNat
    refine ⟨_, exec_cmDrep_host hq, hnone, fun hst r hr hp hqp => hregions ?_ r hr hp (by rw [hqp])⟩
    exact (State.qpReady_of hq).trans (by rw [hst]; rfl)
  · exact ⟨_, exec_connectingTimeout hq hst ht, rfl, outputs_nil rfl rfl, (s.qpGone_qp? _ _).trans (if_pos rfl),
      fun j hj => (s.qpGone_qp? _ j).trans (if_neg hj)⟩
  · exact ⟨_, exec_qpErrorTimeout hq hst ht, rfl, outputs_nil rfl rfl, (s.qpGone_qp? _ _).trans (if_pos rfl),
      fun j hj => (s.qpGone_qp? _ j).trans (if_neg hj)⟩
  · obtain ⟨herr, -, hregions⟩ := State.qpError_after hq hst
    exact ⟨_, exec_qpRetryExhausted_host hq hst, herr, State.qpError_of_ready hq hst,
      fun r hr hp hqp => hregions r hr hp (by rw [hqp])⟩

end Sys2Proof.Machine

/-! ## Packets of the host ports (R414, R417, R418, R425, R426)

O42. A message to a queue pair leaves by the queue pair's port, whatever else of its entry changes (`sendsAs_setQp`). -/

namespace Sys2Proof.Machine

open Claim

/-! ### A command behind an earlier SEND -/

theorem exec_behind {s : State} {i : Instr} {h : HostCmd} {opc mask : Byte} {ops : Operands} (hi : hostCmd i = some (h, opc, mask, ops))
    (hb : s.behind h opc ops = true) : exec i s = .next s := by
  cases i <;> simp only [hostCmd, Option.some.injEq, Prod.mk.injEq, reduceCtorEq] at hi
  all_goals
    obtain ⟨rfl, rfl, -, rfl⟩ := hi
    exact if_pos hb

/-! ### Messages to a queue pair -/

theorem SendsAs.refl (s : State) (o : Out) : SendsAs s s o := ⟨rfl, rfl, rfl, rfl, fun _ => rfl, fun _ => rfl⟩

theorem SendsAs.trans {s t u : State} {o : Out} (h : SendsAs s t o) (k : SendsAs t u o) : SendsAs s u o :=
  ⟨k.outbox.trans h.outbox, k.heldTx.trans h.heldTx, k.via.trans h.via, k.cfg.trans h.cfg,
    fun p => (k.hostPaused p).trans (h.hostPaused p), fun p => (k.peerPaused p).trans (h.peerPaused p)⟩

/-- What s would send is among the messages once t has sent it. -/
theorem SendsAs.sends {s t : State} {o : Out} (h : SendsAs s t o) : Sends s (t.send o) o := by
  unfold Sends
  cases hp : s.pausedTo o <;> simp [State.send, h.stamp, h.pausedTo, hp]

section
variable {s : State} {qp : BitVec 12} {q : Qp} (hq : s.qp? qp.toNat = some q)
include hq

theorem sendsAs_setQp {o : Out} (hvia : ∀ u : State, u.via o = some (u.qpPort (.host qp))) (q' : Qp) (hport : q'.port = q.port) :
    SendsAs s (s.setQp qp.toNat q') o where
  outbox := rfl
  heldTx := rfl
  via := by
    have hget : alGet s.host.qps qp.toNat = some q := hq
    rw [hvia, hvia]
    simp [State.qpPort, State.setQp, alGet_alSet, hget, hport]
  cfg := rfl
  hostPaused _ := rfl
  peerPaused _ := rfl

omit hq in
/-- Reading a word empties or loads a latch at most. -/
theorem sendsAs_readWord (s : State) (off : Nat) (l : List Word) : SendsAs s (s.readWord qp.toNat off).2 (.readReply qp l) := by
  unfold State.readWord
  split
  · exact .refl s _
  · rename_i q hq
    split
    · exact sendsAs_readReply hq l _ rfl
    · split
      · split
        · exact .refl s _
        · exact sendsAs_readReply hq l _ rfl
      · exact .refl s _

omit hq in
theorem sendsAs_readWords (n : Nat) (s : State) (off : Nat) (l : List Word) :
    SendsAs s (s.readWords qp.toNat off n).2 (.readReply qp l) := by
  induction n generalizing s off with
  | zero => exact .refl s _
  | succ n ih => exact (sendsAs_readWord s off l).trans (ih _ _)

omit hq in
theorem State.readWords_length (n : Nat) (s : State) (i off : Nat) : (s.readWords i off n).1.length = n := by
  induction n generalizing s off with
  | zero => rfl
  | succ n ih => exact congrArg (· + 1) (ih _ _)

/-! ### SENDs -/

variable (hst : q.st = .ready) {bytes : List Byte}
include hst

/-- The state once a SEND is queued and acknowledged. -/
def State.sendQueued (s : State) (qp : BitVec 12) (q : Qp) (bytes : List Byte) : State :=
  let t := (s.setQp qp.toNat { q with rx := q.rx ++ [bytes] }).send (.ack qp)
  { t with host := { t.host with arrived := t.host.arrived ++ [qp] } }

theorem exec_controlSend_queued (hrole : q.role = 1) (hlen : bytes.length = 64) (hfree : q.rx.length < 64) :
    exec (.controlSendReceived qp bytes) s = .next (s.sendQueued qp q bytes).skipReserved := by
  change execControlSendReceived qp bytes s = _
  unfold execControlSendReceived
  rw [State.arrive_setQp hq hst]
  dsimp only
  rw [if_neg (by simp [hrole, hlen]), if_neg (Nat.not_le.2 hfree), State.setQp_setQp]
  rfl

theorem exec_controlSend_noCredit (hrole : q.role = 1) (hlen : bytes.length = 64) (hfull : 64 ≤ q.rx.length) :
    exec (.controlSendReceived qp bytes) s = .next ((s.setQp qp.toNat q).send (.nak qp 2)) := by
  change execControlSendReceived qp bytes s = _
  unfold execControlSendReceived
  rw [State.arrive_setQp hq hst]
  dsimp only
  rw [if_neg (by simp [hrole, hlen]), if_pos hfull]

theorem exec_controlSend_refused (hbad : q.role ≠ 1 ∨ bytes.length ≠ 64) :
    exec (.controlSendReceived qp bytes) s = .next ((s.setQp qp.toNat q).refuse qp).pump := by
  change execControlSendReceived qp bytes s = _
  unfold execControlSendReceived
  rw [State.arrive_setQp hq hst]
  dsimp only
  rw [if_pos (by simpa using hbad)]

omit hst in
theorem State.sendQueued_spec : HostOnly s (s.sendQueued qp q bytes) ∧ Outputs s (s.sendQueued qp q bytes) [.ack qp] ∧
    (s.sendQueued qp q bytes).host.arrived = s.host.arrived ++ [qp] ∧
    (∀ j, (s.sendQueued qp q bytes).qp? j = if j = qp.toNat then some { q with rx := q.rx ++ [bytes] } else s.qp? j) :=
  ⟨rfl, (sendsAs_setQp hq (fun _ => rfl) { q with rx := q.rx ++ [bytes] } rfl).outputs, rfl, fun j => s.qp?_setQp _ j _⟩

omit hq hst in
theorem State.skipGo_one {t : State} {b : List Byte} (ha : t.host.arrived = [qp]) (hb : t.headSend qp = some b) : t.skipReserved =
    if reservedOpc (byteAt b 0) then
      (t.popSend qp).complete ⟨qp, byteAt b 1, BitVec.ofNat 64 (fieldAt b 8 8), true⟩ (byteAt b 0) stILLEGAL []
    else t := by
  have hlen : t.host.arrived.length = 1 := by rw [ha]; rfl
  have hhead : t.host.arrived.head? = some qp := by rw [ha]; rfl
  rw [State.skipReserved, hlen, State.skipGo, hhead]
  dsimp only
  rw [hb]
  rfl

/-! ### Refused packets -/

omit hst in
/-- A READY queue pair that is refused a packet is sent a NAK and enters ERROR. -/
theorem State.refuse_after {r : State} (hst : q.st = .ready) (hs : Sends r (s.send (.nak qp 0)) (.nak qp 0)) :
    Sends r (s.refuse qp) (.nak qp 0) ∧ ∃ q', (s.refuse qp).qp? qp.toNat = some q' ∧ q'.st = .error := by
  have hq' : (s.send (.nak qp 0)).qp? qp.toNat = some q := hq
  obtain ⟨-, hadds, -⟩ := State.qpError_after hq' hst
  exact ⟨hadds.sends hs, State.qpError_of_ready hq' hst⟩

/-! ### RDMA -/

theorem exec_rdmaWrite_submission {vaddr : Dword} (hrole : q.role = 1 ∨ q.role = 3) (hfit : vaddr.toNat + bytes.length ≤ 33554432) :
    exec (.rdmaWriteReceived qp 2 vaddr bytes) s = .next ({ s.setQp qp.toNat q with job := { s.job with
      subArea := memWriteN 0 s.job.subArea vaddr.toNat bytes } }.send (.ack qp)) := by
  have hhost : (q.role == 1 || q.role == 3) = true := by rcases hrole with h | h <;> simp [h]
  change execRdmaWriteReceived qp 2 vaddr bytes s = _
  unfold execRdmaWriteReceived
  dsimp only
  rw [if_neg (by decide), State.arrive_setQp hq hst]
  dsimp only
  rw [if_pos ⟨rfl, hhost, hfit⟩]
  rfl

theorem exec_rdmaWrite_input {vaddr : Dword} (hrole : q.role = 1 ∨ q.role = 3) (hrun : s.job.state = .running)
    (hfit : vaddr.toNat + bytes.length ≤ s.job.inpages * 4096) :
    exec (.rdmaWriteReceived qp 3 vaddr bytes) s = .next ({ s.setQp qp.toNat q with job := { s.job with
      input := memWriteN 0 s.job.input vaddr.toNat bytes } }.send (.ack qp)) := by
  have hhost : (q.role == 1 || q.role == 3) = true := by rcases hrole with h | h <;> simp [h]
  change execRdmaWriteReceived qp 3 vaddr bytes s = _
  unfold execRdmaWriteReceived
  dsimp only
  rw [if_neg (by decide), State.arrive_setQp hq hst]
  dsimp only
  rw [if_neg fun h => absurd h.1 (by decide), if_pos ⟨rfl, hhost, hrun, hfit⟩]
  rfl

theorem exec_rdmaRead_noRegion {rkey : Word} {vaddr : Dword} {n : Nat} (hk : rkey ≠ 1) :
    exec (.rdmaReadReceived qp rkey vaddr n) s = .next ((s.setQp qp.toNat q).send (.nak qp 1)) := by
  change execRdmaReadReceived qp rkey vaddr n s = _
  unfold execRdmaReadReceived
  rw [if_neg hk, State.arrive_setQp hq hst]

theorem exec_rdmaRead_registers {vaddr : Dword} {n : Nat} (hrole : q.role = 2) (ha : vaddr.toNat % 4 = 0) (hn : n % 4 = 0)
    (hend : vaddr.toNat + n ≤ 2 ^ 24) : exec (.rdmaReadReceived qp 1 vaddr n) s =
      .next (((s.setQp qp.toNat q).readWords qp.toNat vaddr.toNat (n / 4)).2.send
        (.readReply qp ((s.setQp qp.toNat q).readWords qp.toNat vaddr.toNat (n / 4)).1)) := by
  change execRdmaReadReceived qp 1 vaddr n s = _
  unfold execRdmaReadReceived State.winRead
  rw [if_pos rfl, State.arrive_setQp hq hst]
  dsimp only
  rw [if_neg (by simpa [hrole, ha, hn] using hend)]

end

theorem State.modHPort_self (s : State) (port : Fin 4) (f : HPort → HPort) : (s.modHPort port f).host.ports.get port = f (s.host.ports.get port) :=
  (s.modHPort_get port port f).trans (if_pos rfl)

section
variable {s : State} {qp : BitVec 12} {q : Qp} {bytes : List Byte} (hq : s.qp? qp.toNat = some q) (ha : s.host.arrived = []) (hrx : q.rx = [])
include hq ha hrx

/-- The only SEND that waits is at the head of its queue pair. -/
theorem State.sendQueued_head : (s.sendQueued qp q bytes).host.arrived = [qp] ∧ (s.sendQueued qp q bytes).headSend qp = some bytes := by
  obtain ⟨-, -, harr, hqps⟩ := State.sendQueued_spec hq (bytes := bytes)
  refine ⟨by rw [harr, ha]; rfl, ?_⟩
  rw [State.headSend, (hqps _).trans (if_pos rfl), hrx]
  rfl

/-- Once it has been taken, the queue pair is as it was before it came. -/
theorem State.popSend_sendQueued : ((s.sendQueued qp q bytes).popSend qp).host.arrived = [] ∧
    ((s.sendQueued qp q bytes).popSend qp).qp? qp.toNat = some q ∧
    Outputs s ((s.sendQueued qp q bytes).popSend qp) [.ack qp] ∧ HostOnly s ((s.sendQueued qp q bytes).popSend qp) := by
  obtain ⟨honly, hout, -, hqps⟩ := State.sendQueued_spec hq (bytes := bytes)
  have hq' : (s.sendQueued qp q bytes).qp? qp.toNat = some { q with rx := [bytes] } := by
    rw [(hqps _).trans (if_pos rfl), hrx]
    rfl
  have hback : ({ { q with rx := [bytes] } with rx := [] } : Qp) = q := by rw [← hrx]
  have hmod : (s.sendQueued qp q bytes).modQp qp.toNat (fun x => { x with rx := x.rx.tail }) = (s.sendQueued qp q bytes).setQp qp.toNat q := by
    rw [State.modQp, hq']
    exact congrArg ((s.sendQueued qp q bytes).setQp qp.toNat) hback
  have hpop : (s.sendQueued qp q bytes).popSend qp = { (s.sendQueued qp q bytes).setQp qp.toNat q with host :=
      { ((s.sendQueued qp q bytes).setQp qp.toNat q).host with arrived := [] } } := by
    rw [State.popSend, hmod]
    change ({ (s.sendQueued qp q bytes).setQp qp.toNat q with host := { ((s.sendQueued qp q bytes).setQp qp.toNat q).host with
      arrived := (s.sendQueued qp q bytes).host.arrived.erase qp } } : State) = _
    rw [(State.sendQueued_head hq ha hrx).1, List.erase_cons_head]
  rw [hpop]
  exact ⟨rfl, State.qp?_setQp_self _ _ q, hout, HostOnly.trans honly rfl⟩

end

/-- Settles O42, by one equation for each kind of packet; a command behind another SEND is log entry 26, the reasons of an unsupported
frame are log entry 102. -/
theorem packetsAreTakenOrRefused : Obligations.PacketsAreTakenOrRefused := by
  unfold Obligations.PacketsAreTakenOrRefused
  refine fun s => ⟨fun i h opc mask ops hi hb => exec_behind hi hb, fun qp q bytes port hq hst => ?_⟩
  have hack := sendsAs_setQp hq (o := .ack qp) (fun _ => rfl) q rfl
  have hnak (k : Nat) := sendsAs_setQp hq (o := .nak qp k) (fun _ => rfl) q rfl
  refine ⟨fun hrole hlen hfree => ?_, fun hrole hlen hfull => ?_, fun hbad => ?_, fun vaddr hrole hfit => ?_, fun vaddr hrole hrun hfit => ?_,
    fun rkey vaddr n hk => ?_, fun vaddr n hrole ha hn hend => ?_, ?_, ?_, ?_, ?_, ?_⟩
  · obtain ⟨honly, hout, harr, hqps⟩ := State.sendQueued_spec hq (bytes := bytes)
    have hexec := exec_controlSend_queued hq hst hrole hlen hfree
    refine ⟨⟨_, hexec, honly, hout, harr, (hqps _).trans (if_pos rfl), fun j hj => (hqps j).trans (if_neg hj)⟩, fun ha hrx hopc => ?_,
      fun ha hrx hopc => ?_⟩
    · obtain ⟨harr', hhead⟩ := State.sendQueued_head hq ha hrx (bytes := bytes)
      obtain ⟨hempty, hback, hout', honly'⟩ := State.popSend_sendQueued hq ha hrx (bytes := bytes)
      rw [State.skipGo_one harr' hhead, if_pos hopc] at hexec
      exact ⟨_, hexec, honly', hout', hempty, hback⟩
    · obtain ⟨harr', hhead⟩ := State.sendQueued_head hq ha hrx (bytes := bytes)
      rw [State.skipGo_one harr' hhead, if_neg (ne_true_of_eq_false hopc)] at hexec
      exact ⟨_, hexec, honly, hout⟩
  · exact ⟨_, exec_controlSend_noCredit hq hst hrole hlen hfull, rfl, (hnak 2).outputs, State.qp?_setQp_of_eq hq⟩
  · have hq' : (s.setQp qp.toNat q).qp? qp.toNat = some q := s.qp?_setQp_self _ q
    exact ⟨_, exec_controlSend_refused hq hst hbad, State.refuse_after hq' hst (hnak 0).sends⟩
  · refine ⟨_, exec_rdmaWrite_submission hq hst hrole hfit, SendsAs.outputs ⟨hack.outbox, hack.heldTx, hack.via, hack.cfg, hack.hostPaused,
      hack.peerPaused⟩, rfl, rfl, rfl, fun a => memRead_memWriteN _ _ _ _ _⟩
  · refine ⟨_, exec_rdmaWrite_input hq hst hrole hrun hfit, SendsAs.outputs ⟨hack.outbox, hack.heldTx, hack.via, hack.cfg, hack.hostPaused,
      hack.peerPaused⟩, rfl, rfl, rfl, fun a => memRead_memWriteN _ _ _ _ _⟩
  · exact ⟨_, exec_rdmaRead_noRegion hq hst hk, rfl, (hnak 1).outputs⟩
  · refine ⟨_, exec_rdmaRead_registers hq hst hrole ha hn hend, _, State.readWords_length _ _ _ _, SendsAs.sends ?_⟩
    exact (sendsAs_readReply hq _ q rfl).trans (sendsAs_readWords _ _ _ _)
  · exact ⟨s.dropHost port, rfl, rfl, rfl, congrArg HPort.dropped (s.modHPort_self port _)⟩
  · exact ⟨_, rfl, State.refuse_after hq hst (s.send_sends _)⟩
  · exact ⟨s.dropHost port, rfl, rfl, rfl, congrArg HPort.dropped (s.modHPort_self port _)⟩
  · exact ⟨s.modHPort port fun p => { p with icrc := satAdd p.icrc 1 sat32 }, rfl, rfl, rfl, congrArg HPort.icrc (s.modHPort_self port _)⟩
  · exact ⟨s.modHPort port fun p => { p with fec := satAdd p.fec 1 sat32 }, rfl, rfl, rfl, congrArg HPort.fec (s.modHPort_self port _)⟩

end Sys2Proof.Machine

/-! ## Reset values (file 20) -/

namespace Sys2Proof.Machine
open Claim

/-- The configuration and observation registers of each block at reset, as tables 05-11, 17-7, 08-8, 14-7, 15-11, 14-9, 12-10 and 13-7 give them. -/
theorem State.readReg_reset : State.reset.readReg 0x5004 = 0x04A60FB8 ∧ State.reset.readReg 0x5008 = 0x20804010 ∧
    State.reset.readReg 0x5040 = 0x40 ∧ State.reset.readReg 0x7000 = 0x8 ∧ State.reset.readReg 0x8000 = 0x64 ∧
    State.reset.readReg 0x9000 = 0x2D3 ∧ State.reset.readReg 0xA000 = 0x829C001D ∧ State.reset.readReg 0xD008 = 0x20400 ∧
    State.reset.readReg 0xE000 = 0x0800400C ∧ State.reset.readReg 0xE100 = 8 := by
  refine ⟨?_, ?_, ?_, ?_, ?_, ?_, ?_, ?_, ?_, ?_⟩ <;> decide

/-- Settles O59: the reset state is one state, whose registers are read. -/
theorem resetValuesAreTheSpecs : Obligations.ResetValuesAreTheSpecs := by
  unfold Obligations.ResetValuesAreTheSpecs
  obtain ⟨hesc, hrot, hspot, hseal, hmem, hhp, hpp, hsched, hserve, hplan⟩ := State.readReg_reset
  exact ⟨rfl, rfl, rfl, rfl, rfl, rfl, hesc, hrot, hspot, hseal, hmem, hhp, hpp, hsched, hserve, hplan, leavesReserved_of_reset rfl⟩

end Sys2Proof.Machine

/-! ## Ports and lanes (R388, R389, R408, R424)

O49. What follows the fall of a host port's queue pairs leaves the ports themselves alone (`SamePorts`). -/

namespace Sys2Proof.Machine

open Claim

/-! ### What leaves the host ports -/

/-- The host ports are up, paused and counted in t as in s. -/
def SamePorts (s t : State) : Prop := t.host.ports = s.host.ports

theorem SamePorts.refl (s : State) : SamePorts s s := rfl

theorem SamePorts.trans {s t u : State} (h : SamePorts s t) (k : SamePorts t u) : SamePorts s u := Eq.trans k h

theorem SamePorts.foldl {α : Type} {f : State → α → State} (h : ∀ s a, SamePorts s (f s a)) (l : List α) (s : State) :
    SamePorts s (l.foldl f s) :=
  foldl_rel SamePorts .refl (fun _ _ _ => .trans) f h l s

theorem State.lose_samePorts (s : State) (w : Carried) : SamePorts s (s.lose w) := by
  cases w <;> rfl

theorem State.modQp_samePorts (s : State) (i : Nat) (f : Qp → Qp) : SamePorts s (s.modQp i f) := by
  unfold State.modQp
  split <;> rfl

theorem State.writeRegion_samePorts (s : State) (tr : Option Nat) (rn off : Nat) (data : List Byte) (what : Carried) (tag : Nat) :
    SamePorts s (s.writeRegion tr rn off data what tag) := by
  unfold State.writeRegion
  split
  · exact s.lose_samePorts what
  · split
    · exact s.lose_samePorts what
    · split
      · exact s.lose_samePorts what
      · rfl

theorem State.ringPut_samePorts (s : State) (qi : Nat) (tr : Option Nat) (c : Compl) (own : Bool) : SamePorts s (s.ringPut qi tr c own) := by
  unfold State.ringPut
  split
  · rfl
  · split
    · rfl
    · refine .trans ?_ (State.writeRegion_samePorts _ _ _ _ _ _ _)
      rfl

theorem State.ringWrite_samePorts (s : State) (qi : Nat) (tr : Option Nat) (c : Compl) (own : Bool) :
    SamePorts s (s.ringWrite qi tr c own) := by
  unfold State.ringWrite
  split
  · exact s.ringPut_samePorts _ _ _ _
  · refine .trans (.trans ?_ (State.ringPut_samePorts _ _ _ _ _)) (State.ringPut_samePorts _ _ _ _ _)
    exact s.modQp_samePorts qi _

theorem State.postTo_samePorts (s : State) (qi : Nat) (tr : Option Nat) (c : Compl) : SamePorts s (s.postTo qi tr c) := by
  unfold State.postTo
  split
  · exact s.ringWrite_samePorts _ _ _ _
  · rfl

theorem State.postOwner_samePorts (s : State) (tr : Option Nat) (c : Compl) : SamePorts s (s.postOwner tr c) := by
  unfold State.postOwner
  split
  · exact s.ringWrite_samePorts _ _ _ _
  · split <;> rfl

theorem State.complete_samePorts (s : State) (h : HostCmd) (opc status : Byte) (l : List Byte) : SamePorts s (s.complete h opc status l) := by
  unfold State.complete
  split
  · exact State.postTo_samePorts _ _ _ _
  · exact s.postTo_samePorts _ _ _

theorem State.doOut_samePorts (s : State) (h : HeldOut) : SamePorts s (s.doOut h) := by
  cases h with
  | write t rn off data ring => exact s.writeRegion_samePorts _ _ _ _ _ _
  | ownerCompl t c => exact s.postOwner_samePorts _ _
  | compl t q c => exact s.postTo_samePorts _ _ _

theorem State.flushHeldGo_samePorts (n : Nat) (s : State) : SamePorts s (s.flushHeldGo n) := by
  induction n generalizing s with
  | zero => exact .refl s
  | succ n ih =>
    unfold State.flushHeldGo
    split
    · exact .refl s
    · split
      · exact .refl s
      · refine .trans (.trans ?_ (State.doOut_samePorts _ _)) (ih _)
        rfl

theorem State.flushHeld_samePorts (s : State) : SamePorts s s.flushHeld := s.flushHeldGo_samePorts _

theorem State.ckFinish_samePorts (s : State) (w : CkWrite) : SamePorts s (s.ckFinish w) := by
  unfold State.ckFinish
  refine SamePorts.trans ?_ (SamePorts.foldl (fun s h => ?_) _ _)
  · rfl
  · split <;> exact s.complete_samePorts _ _ _ _

theorem State.ckPut_samePorts (s : State) (w : CkWrite) : SamePorts s (s.ckPut w).2 := by
  unfold State.ckPut
  obtain ⟨rn, off⟩ := w.place
  dsimp only
  split
  · rfl
  split
  · rfl
  generalize (if w.step = 0 then _ else _ : Nat × List Byte) = ad
  split
  · exact s.lose_samePorts .bytes
  · rfl

theorem State.ckNextTarget_samePorts (s : State) (w : CkWrite) : SamePorts s (s.ckNextTarget w) := by
  unfold State.ckNextTarget
  split
  · dsimp only
    split
    · exact s.ckPut_samePorts _
    · exact (s.ckPut_samePorts _).trans (State.ckFinish_samePorts _ _)
  · exact s.ckFinish_samePorts w

theorem State.ckAbandon_samePorts (s : State) : SamePorts s s.ckAbandon := by
  unfold State.ckAbandon
  split
  · rfl
  · exact (s.lose_samePorts _).trans (State.ckNextTarget_samePorts _ _)

theorem State.readsFail_samePorts (s : State) (has : Nat → Bool) : SamePorts s (s.readsFail has) := by
  unfold State.readsFail
  extract_lets a b vs rs as c d e f
  have hb : SamePorts a b := by
    unfold b
    split
    · rfl
    · split
      · exact State.complete_samePorts _ _ _ _ _
      · rfl
  have hd : SamePorts c d := .foldl (fun s v => s.complete_samePorts _ _ _ _) _ _
  have he : SamePorts d e := .foldl (fun s v => s.complete_samePorts _ _ _ _) _ _
  have hf : SamePorts e f := .foldl (fun s v => s.complete_samePorts _ _ _ _) _ _
  have hall : SamePorts s f := ((hb.trans hd).trans he).trans hf
  split
  · exact hall
  · split <;> exact hall

theorem State.regTry_samePorts (s : State) (n : Nat) : SamePorts s (s.regTry n) := by
  unfold State.regTry
  split
  · rfl
  extract_lets old a b
  clear_value old
  have hclose (s : State) (r : Region) : SamePorts s (s.closeRegion r) := by
    unfold State.closeRegion
    dsimp only
    split <;> rfl
  have ha : SamePorts s a := by
    unfold a
    split
    · rfl
    · split
      · rfl
      · exact (hclose s _).trans (State.complete_samePorts _ _ _ _ _)
  have hb : SamePorts a b := by
    unfold b
    split
    · rfl
    · exact hclose a _
  split
  · exact ha
  extract_lets ready c
  split
  · exact ha
  split
  · exact ha
  exact (ha.trans hb).trans (State.complete_samePorts _ _ _ _ _)

theorem State.trimHolding_samePorts (s : State) : SamePorts s s.trimHolding := by
  unfold State.trimHolding
  extract_lets n
  clear_value n
  split <;> rfl

theorem State.qpOff_samePorts (s : State) (i : Nat) : SamePorts s (s.qpOff i) := by
  unfold State.qpOff
  extract_lets mine has ref own gone a b c d
  have ha : SamePorts s a := by
    refine .trans ?_ (State.trimHolding_samePorts _)
    rfl
  have hb : SamePorts a b := .foldl (fun s (u : Unacked) => s.lose_samePorts u.what) _ _
  have hc : SamePorts b c := b.readsFail_samePorts has
  have hd : SamePorts c d := by
    unfold d
    split
    · rfl
    · split
      · exact c.ckAbandon_samePorts
      · rfl
  have htry : SamePorts d d.regTryAll := .foldl State.regTry_samePorts _ _
  exact ((((ha.trans hb).trans hc).trans hd).trans htry).trans (State.flushHeld_samePorts _)

theorem State.qpError_samePorts (s : State) (i : Nat) : SamePorts s (s.qpError i) := by
  unfold State.qpError
  split
  · rfl
  · split
    · rfl
    · dsimp only
      split
      · exact SamePorts.trans (t := { s.setQp i _ with host := { (s.setQp i _).host with errQp := true } }) rfl (State.qpOff_samePorts _ i)
      · rfl

/-! ### Records -/

/-- t differs from s in the Scoresheet's records alone. -/
def ScoreOnly (s t : State) : Prop := t = { s with score := t.score }

theorem ScoreOnly.trans {s t u : State} (h : ScoreOnly s t) (k : ScoreOnly t u) : ScoreOnly s u := by
  unfold ScoreOnly at *
  rw [k, h]

theorem State.nextRec_scoreOnly (s : State) : ScoreOnly s s.nextRec := by
  unfold State.nextRec
  split
  · rfl
  · split
    · rfl
    · unfold State.beginRec
      dsimp only
      split <;> rfl

/-- A record asked for changes the records alone. -/
theorem State.requestRec_scoreOnly (s : State) (region : Nat) (payload : List Byte) : ScoreOnly s (s.requestRec region payload) := by
  unfold State.requestRec
  dsimp only
  split
  · exact ScoreOnly.trans (by rfl) (State.nextRec_scoreOnly _)
  · split
    · rfl
    · exact ScoreOnly.trans (by rfl) (State.nextRec_scoreOnly _)

theorem State.saveRepair_scoreOnly (s : State) : ScoreOnly s s.saveRepair := s.requestRec_scoreOnly _ _

/-! ### A host port goes down (R424) -/

/-- A queue pair that enters ERROR changes the state of no other. -/
theorem State.qpError_qpState (s : State) (i j : Nat) : (s.qpError i).qpState j =
    if j = i then (s.qpState i).map fun _ => .error else s.qpState j := by
  unfold State.qpError
  split
  next hq =>
    split_ifs with hj
    · simp [State.qpState, hj, hq]
    · rfl
  next q hq =>
    split
    next hst =>
      split_ifs with hj
      · simp [State.qpState, hj, hq, hst]
      · rfl
    next hst =>
      dsimp only
      have hset : ({ s.setQp i { q with st := .error, since := s.now, latches := [] } with
          host := { (s.setQp i { q with st := .error, since := s.now, latches := [] }).host with errQp := true } } : State).qpState j =
          if j = i then (s.qpState i).map fun _ => .error else s.qpState j := by
        refine (congrArg (Option.map Qp.st) (s.qp?_setQp i j _)).trans ?_
        split_ifs with hj
        · simp [State.qpState, hq]
        · rfl
      split
      · exact (congrFun (State.qpOff_qpState _ i) j).trans hset
      · exact hset

theorem State.foldl_qpError_qpState (l : List (Nat × Qp)) (s : State) (i : Nat) :
    (l.foldl (fun s q => s.qpError q.1) s).qpState i = if i ∈ l.map Prod.fst then (s.qpState i).map fun _ => .error else s.qpState i := by
  induction l generalizing s with
  | nil => rfl
  | cons q l ih =>
    rw [List.foldl_cons, ih, State.qpError_qpState]
    simp only [List.map_cons, List.mem_cons]
    by_cases hi : i = q.1
    · simp only [hi, if_true, true_or]
      split_ifs
      · exact Option.map_map _ _ _
      · rfl
    · simp only [hi, if_false, false_or]

theorem alGet_mem {α : Type} {l : List (Nat × α)} {i : Nat} {x : α} (h : alGet l i = some x) : (i, x) ∈ l := by
  induction l with
  | nil => cases h
  | cons p l ih =>
    obtain ⟨k, y⟩ := p
    rw [alGet] at h
    split_ifs at h with hk
    · cases h
      rw [hk]
      exact List.mem_cons_self
    · exact List.mem_cons_of_mem _ (ih h)

/-- A host port that goes down is down, and every READY queue pair on it is in ERROR. -/
theorem State.hostPortDown_spec (s : State) (p : Fin 4) : ((s.hostPortDown p).host.ports.get p).up = false ∧
    ∀ i q, s.qp? i = some q → q.port = p → q.st = .ready → ∃ q', (s.hostPortDown p).qp? i = some q' ∧ q'.st = .error := by
  unfold State.hostPortDown
  extract_lets e
  have hports : SamePorts e ((e.host.qps.filter fun q => q.2.port == p && q.2.st == .ready).foldl (fun s q => s.qpError q.1) e) :=
    .foldl (fun s (q : Nat × Qp) => s.qpError_samePorts q.1) _ _
  refine ⟨?_, fun i q hq hport hst => ?_⟩
  · rw [hports, State.modHPort_self]
  · refine Option.map_eq_some_iff.1 (show State.qpState _ i = some .error from ?_)
    have hmem : (i, q) ∈ e.host.qps := alGet_mem hq
    rw [State.foldl_qpError_qpState, if_pos (List.mem_map.2 ⟨(i, q), List.mem_filter.2 ⟨hmem, by simp [hport, hst]⟩, rfl⟩), State.qpState,
      show e.qp? i = some q from hq]
    rfl

/-! ### Peer ports (R389, R408) -/

/-- Frames of a peer port carry no RoCEv2 header and wait for no pause. -/
theorem outputs_frames {s t : State} {l : List Out} (hl : ∀ o ∈ l, s.via o = none) (ho : t.outbox = s.outbox ++ l.map fun o => ⟨none, o⟩)
    (hh : t.heldTx = s.heldTx) : Outputs s t l := by
  have hp (o : Out) (hm : o ∈ l) : s.pausedTo o = false := by rw [State.pausedTo, hl o hm]
  refine ⟨?_, ?_⟩
  · rw [ho, List.filter_eq_self.2 fun o hm => by rw [hp o hm]; rfl]
    exact congrArg _ (List.map_congr_left fun o hm => by rw [State.stamp, hl o hm]; rfl)
  · rw [hh, List.filter_eq_nil_iff.2 fun o hm => by rw [hp o hm]; exact Bool.false_ne_true]
    exact (List.append_nil _).symm

theorem State.send_frame_outbox (s : State) {o : Out} (h : s.via o = none) : (s.send o).outbox = s.outbox ++ [⟨none, o⟩] := by
  simp [State.send, State.pausedTo, State.stamp, h]

theorem State.send_frame_heldTx (s : State) {o : Out} (h : s.via o = none) : (s.send o).heldTx = s.heldTx := by
  simp [State.send, State.pausedTo, h]

theorem State.sendGroup_outbox (s : State) (p : Fin 12) (mac : BitVec 48) (payload : List Byte) :
    (s.sendGroup p mac payload).outbox = s.outbox ++ [⟨none, linkOut s p mac groupDst 1 0 payload⟩] := s.send_frame_outbox rfl

theorem State.sendGroup_heldTx (s : State) (p : Fin 12) (mac : BitVec 48) (payload : List Byte) :
    (s.sendGroup p mac payload).heldTx = s.heldTx := s.send_frame_heldTx rfl

theorem State.sendHello_outbox (s : State) (p : Fin 12) : (s.sendHello p).outbox = s.outbox ++ [⟨none, helloOut s p⟩] :=
  s.sendGroup_outbox p _ _

theorem State.sendHello_heldTx (s : State) (p : Fin 12) : (s.sendHello p).heldTx = s.heldTx := s.sendGroup_heldTx p _ _

theorem State.setPPort_self (s : State) (p : Fin 12) (f : PPort → PPort) : (s.setPPort p f).fab.ports.get p = f (s.fab.ports.get p) :=
  (s.setPPort_get p p f).trans (if_pos rfl)

/-- The peer port that comes up asks its partner with HELLO and LANECAP. -/
theorem exec_portLinkUp_peer {s : State} {port : Fin 12} {pmd : BitVec 2} (hready : s.aon.ready = true) (href : s.aon.refOk = true)
    (hbench : s.isBench = false) (hpmd : s.pmdOk pmd = true) : Next (.portLinkUp false port pmd) s fun t => FabChange s t ∧
      (t.fab.ports.get port).up = true ∧ (t.fab.ports.get port).pmd = pmd ∧ (t.fab.ports.get port).direct = false ∧
      Outputs s t [helloOut s port, linkOut s port 0x0180C200000E groupDst 1 0 [linkCAP, 0]] := by
  set e : State := s.setPPort port fun x => { x with up := true, pmd := pmd, direct := false, training := false } with he
  have hport : e.fab.ports.get port = { s.fab.ports.get port with up := true, pmd := pmd, direct := false, training := false } :=
    s.setPPort_self port _
  refine next_of_exec_eq (t := (e.sendHello port).sendGroup port capMac [linkCAP, 0]) ?_ ⟨rfl, ?_, ?_, ?_, ?_⟩
  · change execPortLinkUp false port pmd s = _
    simp [execPortLinkUp, hready, href, hbench, hpmd, he]
  · exact congrArg PPort.up hport
  · exact congrArg PPort.pmd hport
  · exact congrArg PPort.direct hport
  · refine outputs_frames (by simp [helloOut, linkOut, State.via]) ?_ ?_
    · rw [State.sendGroup_outbox, State.sendHello_outbox, List.append_assoc]
      rfl
    · rw [State.sendGroup_heldTx, State.sendHello_heldTx]
      rfl

theorem exec_portLinkUp_host {s : State} {port : Fin 12} {p : Fin 4} {pmd : BitVec 2} (hready : s.aon.ready = true)
    (href : s.aon.refOk = true) (hp : p.val = port.val) : exec (.portLinkUp true port pmd) s =
      .next (s.modHPort p fun x => { x with up := true, pmd := pmd.getLsbD 0 }) := by
  have hport : Fin.ofNat 4 port.val = p := by rw [← hp]; exact Fin.ofNat_val_eq_self p
  have hlt : ¬ 4 ≤ port.val := by omega
  change execPortLinkUp true port pmd s = _
  simp only [execPortLinkUp, hport]
  simp [hready, href, hlt]

theorem exec_portLinkDown_host {s : State} {port : Fin 12} {p : Fin 4} (hp : p.val = port.val) (hup : (s.host.ports.get p).up = true) :
    exec (.portLinkDown true port) s = .next (s.hostPortDown p).pump := by
  have hport : Fin.ofNat 4 port.val = p := by rw [← hp]; exact Fin.ofNat_val_eq_self p
  have hlt : ¬ 4 ≤ port.val := by omega
  change execPortLinkDown true port s = _
  simp only [execPortLinkDown, hport]
  simp [hlt, hup]

/-! ### A peer port goes down (R389, R395) -/

/-- The port itself as it goes down: what waited for it is lost. -/
def State.portFallen (s : State) (p : Fin 12) : State :=
  (s.dropTx false p.val).setPPort p fun x => { x with up := false, direct := false, paused := 0, errDown := true }

theorem State.peerPortDown_eq (s : State) (p : Fin 12) : s.peerPortDown p =
    ((s.portFallen p).routesDown p |>.host.sqps.filter fun q => q.2.port == p).foldl (fun s q => s.storeLost q.1)
      ((s.portFallen p).routesDown p) := rfl

/-- A route with no frame unacknowledged goes down and nothing else happens. -/
theorem State.routeDown_quiet (s : State) {r : Route} (h : r.window = []) (silent : Bool) : s.routeDown r silent =
    s.modRoute r.port r.peer fun r => { r with up := false, window := [], downSince := s.now, silent := silent } := by
  simp [State.routeDown, h, State.voteEach, sortBy]

/-- A route still up on a port with nothing unacknowledged was up before, and is none of those that went down. -/
theorem State.foldl_routeDown_up (l : List Route) (hl : ∀ x ∈ l, x.window = []) (s : State) {r : Route}
    (hr : r ∈ (l.foldl (fun s r => s.routeDown r false) s).fab.routes) (hup : r.up = true) : r ∈ s.fab.routes ∧ r ∉ l := by
  induction l generalizing s with
  | nil => exact ⟨hr, List.not_mem_nil⟩
  | cons x l ih =>
    obtain ⟨hmem, hnot⟩ := ih (fun y hy => hl y (List.mem_cons_of_mem _ hy)) _ hr
    rw [show (fun s r => State.routeDown s r false) s x = _ from s.routeDown_quiet (hl x List.mem_cons_self) false] at hmem
    obtain ⟨y, hy, hyr⟩ := List.mem_map.1 hmem
    split_ifs at hyr with hkey
    · rw [← hyr] at hup
      cases hup
    · subst hyr
      refine ⟨hy, fun h => ?_⟩
      obtain rfl | h := List.mem_cons.1 h
      · exact hkey ⟨rfl, rfl⟩
      · exact hnot h

theorem State.routesDown_down {s : State} {p : Fin 12} (h : ∀ r ∈ s.fab.routes, r.port = p → r.window = []) :
    ∀ r ∈ (s.routesDown p).fab.routes, r.port = p → r.up = false := by
  intro r hr hp
  by_contra hup
  rw [Bool.not_eq_false] at hup
  have hl : ∀ x ∈ s.fab.routes.filter fun r => r.port == p && r.up, x.window = [] := fun x hx => by
    obtain ⟨hmem, hcond⟩ := List.mem_filter.1 hx
    exact h x hmem (beq_iff_eq.1 (Bool.and_eq_true_iff.1 hcond).1)
  obtain ⟨hmem, hnot⟩ := State.foldl_routeDown_up _ hl s hr hup
  exact hnot (List.mem_filter.2 ⟨hmem, by simp [hp, hup]⟩)

/-! ### Lanes (R408) -/

/-- The fallen port with its lane error flagged, waiting for the spare where it may have it. -/
def State.laneFlagged (s : State) (port : Fin 12) (can : Bool) : State :=
  (s.peerPortDown port).setPPort port fun x => { x with errLane := true, training := can, direct := (s.fab.ports.get port).direct && can }

theorem State.laneLost_eq (s : State) (port : Fin 12) (lane : Fin 9) {can : Bool} (hcan : ((s.fab.ports.get port).direct &&
    (s.fab.ports.get port).spare != 15 && (s.fab.ports.get port).retiredLane == 15 && !s.hl.nopat) = can) : s.laneLost port lane =
      if can then ((s.laneFlagged port can).raiseEvent 9 ⟨.lane, 9 * port.val + lane.val⟩ none 0).wakeOne .lane port.val true
      else (s.laneFlagged port can).raiseEvent 9 ⟨.lane, 9 * port.val + lane.val⟩ none 0 := by
  subst hcan
  rfl

theorem State.laneInUse_of {s : State} {port : Fin 12} {lane : Fin 9} (hup : (s.fab.ports.get port).up = true)
    (hspare : (s.fab.ports.get port).spare.toNat ≠ lane.val) (hret : (s.fab.ports.get port).retiredLane.toNat ≠ lane.val) :
    s.laneInUse port lane = true := by
  simp [State.laneInUse, hup, hspare, hret]

/-- The port with its woken spare in place of the failed lane. -/
def State.laneBack (s : State) (port : Fin 12) : State :=
  (s.enterSpare ⟨.lane, 9 * port.val + (s.fab.ports.get port).spare.toNat⟩).setPPort port fun x =>
    { x with up := true, training := false, spare := 15 }

theorem exec_spareLaneTrained {s : State} {port : Fin 12} (htrain : (s.fab.ports.get port).training = true) (href : s.aon.refOk = true)
    (hpat : s.hl.nopat = false) : exec (.spareLaneTrained port) s = .next ((s.laneBack port).saveRepair.sendHello port) := by
  change Host.Outcome.next (s.laneTrained port) = _
  simp [State.laneTrained, htrain, href, hpat, State.laneBack]

/-- Settles O49, by one equation for each command. -/
theorem portsAndLanesComeAndGo : Obligations.PortsAndLanesComeAndGo := by
  unfold Obligations.PortsAndLanesComeAndGo
  intro s port p pmd lane x spared lost
  have hlost {i : Instr} (h : exec i s = .next (s.laneLost port lane).pump) : lost i := by
    have hport := State.setPPort_self (s.peerPortDown port) port fun y => { y with errLane := true, training := spared, direct := x.direct && spared }
    refine ⟨s.laneFlagged port spared, h.trans (congrArg (fun t => Host.Outcome.next (State.pump t)) (s.laneLost_eq port lane rfl)), ?_, ?_, ?_⟩
    · exact congrArg PPort.errLane hport
    · exact congrArg PPort.training hport
    · refine (congrArg PPort.direct hport).trans ?_
      simp [spared, Bool.and_assoc]
  refine ⟨fun hready href => ⟨fun hp => ?_, fun hbench hpmd => ?_⟩, fun hp hup => ?_, fun hup => ?_, fun hup hspare hret => ?_,
    fun htrain href hpat => ?_⟩
  · have hport := s.modHPort_self p fun x => { x with up := true, pmd := pmd.getLsbD 0 }
    exact ⟨_, exec_portLinkUp_host hready href hp, rfl, outputs_nil rfl rfl, rfl, congrArg HPort.up hport, congrArg HPort.pmd hport⟩
  · refine exec_portLinkUp_peer hready href hbench ?_
    unfold State.pmdOk
    split_ifs at hpmd ⊢ <;> simpa using hpmd
  · exact ⟨_, exec_portLinkDown_host hp hup, s.hostPortDown_spec p⟩
  · have hport := State.setPPort_self (s.dropTx false port.val) port fun y => { y with up := false, direct := false, paused := 0, errDown := true }
    refine ⟨s.portFallen port, rfl, rfl, congrArg PPort.up hport, congrArg PPort.errDown hport, ?_, fun h => ?_⟩
    · change execPortLinkDown false port s = _
      simp [execPortLinkDown, x] at hup ⊢
      simp [hup, State.peerPortDown_eq]
    · exact State.routesDown_down h
  · have huse := State.laneInUse_of hup hspare hret
    refine ⟨hlost ?_, fun n hdirect hn => hlost ?_⟩
    · change execLaneFailure port lane s = _
      rw [execLaneFailure, if_pos huse]
    · change execLaneFecWindow port lane n s = _
      rw [execLaneFecWindow, if_pos]
      rw [huse, show (s.fab.ports.get port).direct = true from hdirect, decide_eq_true hn]
      rfl
  · have hport : (s.laneBack port).fab.ports.get port = { s.fab.ports.get port with up := true, training := false, spare := 15 } :=
      State.setPPort_self _ port _
    have hrec : (s.laneBack port).saveRepair = { s.laneBack port with score := (s.laneBack port).saveRepair.score } :=
      State.saveRepair_scoreOnly _
    have hexec := exec_spareLaneTrained htrain href hpat
    rw [hrec] at hexec
    refine ⟨_, hexec, congrArg PPort.up hport, congrArg PPort.training hport, congrArg PPort.spare hport, rfl, rfl, ?_⟩
    refine outputs_frames (by simp [helloOut, linkOut, State.via]) ?_ ?_
    · exact (State.sendHello_outbox _ port).trans rfl
    · exact (State.sendHello_heldTx _ port).trans rfl

end Sys2Proof.Machine

/-! ## Supply, brace, domains and boot (R33 to R35, R482 to R494, R499, R501, R502)

O55, one lemma for each command with more than one effect. -/

namespace Sys2Proof.Machine

open Claim

theorem ScoreOnly.aon {s t : State} (h : ScoreOnly s t) : t.aon = s.aon := by
  rw [show t = _ from h]

theorem ScoreOnly.hl {s t : State} (h : ScoreOnly s t) : t.hl = s.hl := by
  rw [show t = _ from h]

section
variable {s : State}

/-! ### The input bus (R482, R483) -/

theorem exec_powerOn_starts {mv : Nat} (hoff : s.aon.bootStep = 0) (hlo : 46000 < mv) (hhi : mv ≤ 65000) : exec (.powerOn mv) s =
    .next { s.supply (BitVec.ofNat 16 mv) with aon := { (s.supply (BitVec.ofNat 16 mv)).aon with bootStep := 1, startFilter := true } } := by
  change execPowerOn mv s = _
  unfold execPowerOn
  rw [if_neg (by omega), if_neg (by simp only [busMax]; omega)]

/-- Power-good: the straps are latched and the counter starts. -/
theorem exec_startFilter_powers (h1 : s.aon.bootStep = 1) (hov : s.aon.holdOv = false) (hot : s.aon.holdOt = false) :
    Next .startFilter s fun t => t.aon.bootStep = 3 ∧ t.aon.latch = s.aon.contacts ∧ t.aon.counter = 0 ∧ t.aon.oscOn = true ∧ t.job = s.job := by
  refine next_of_exec_eq (t := { s with
    aon := { s.aon with
      bootStep := 3
      startFilter := false
      oscOn := true
      counter := 0
      latch := s.aon.contacts
      vmin := if s.aon.vin < s.aon.vmin then s.aon.vin else s.aon.vmin
      peak := if s.aon.pin > s.aon.peak then s.aon.pin else s.aon.peak }
    cfg := { s.cfg with kcfg := parityG s.aon.contacts } }) ?_ ⟨rfl, rfl, rfl, rfl, rfl⟩
  change execStartFilter s = _
  unfold execStartFilter
  rw [if_neg (by simp [h1, hov, hot])]

theorem State.powered_of_boot (h : 3 ≤ s.aon.bootStep) : s.powered = true := decide_eq_true h

/-! ### Brace (R484 to R488) -/

/-- s in brace: its boot step is to be done again, the erases in hand are suspended. -/
def State.braced (s : State) : State :=
  let six := decide (s.aon.bootStep = 6)
  { s with
    aon := { s.aon with
      braceAt := some s.aon.counter
      recover := none
      braces := satAdd s.aon.braces 1 sat32
      hold := false
      waves := if s.aon.bootStep = 5 then 0 else s.aon.waves
      hubLock := s.aon.hubLock && !six
      vsLock := if six then 0 else s.aon.vsLock
      tgPll := if six then 0 else s.aon.tgPll }
    score := { s.score with suspended := !s.score.erases.isEmpty } }

theorem exec_brace_enters (hp : s.powered = true) (hb : s.aon.braceAt = none) :
    exec .brace s = .next (s.newVin.braced.voidEach 6).forceDone.pump := by
  change execBrace s = _
  unfold execBrace
  rw [hp, hb]
  rfl

theorem exec_brace_again (hp : s.powered = true) {b : Dword} (hb : s.aon.braceAt = some b) :
    exec .brace s = .next { s.newVin with aon := { s.newVin.aon with recover := none } } := by
  change execBrace s = _
  unfold execBrace
  rw [hp, hb]
  rfl

theorem exec_recoveryFilterStart {b : Dword} (hb : s.aon.braceAt = some b) : exec .recoveryFilterStart s =
    .next { s.newVin with aon := { s.newVin.aon with recover := some (s.newVin.aon.recover.getD s.newVin.aon.counter) } } := by
  change execRecoveryFilterStart s = _
  unfold execRecoveryFilterStart
  rw [hb]
  rfl

/-- s after a brace that began at b. -/
def State.braceOver (s : State) (b : Dword) : State := { s with
  aon := { s.aon with
    braceAt := none
    recover := none
    lastDur := BitVec.ofNat 31 ((s.aon.counter - b).toNat / 64)
    lastValid := true }
  score := { s.score with suspended := false } }

theorem exec_braceEnd {b : Dword} (hb : s.aon.braceAt = some b) :
    exec .braceEnd s = .next (if s.recovered = true then (s.braceOver b).resumeFlash.pump else s) := by
  change execBraceEnd s = _
  unfold execBraceEnd
  rw [hb]
  cases hr : s.recovered <;> simp [State.braceOver]

theorem State.recovered_eq_true_iff : s.recovered = true ↔ ∃ r, s.aon.recover = some r ∧ 100000 ≤ (s.aon.counter - r).toNat := by
  unfold State.recovered State.elapsed
  cases s.aon.recover <;> simp

/-! ### Domains (R490, R491) -/

/-- A bit that is cleared changes no other. -/
theorem getLsbD_setBit_other {w : Nat} (v : BitVec w) {i k : Nat} (b : Bool) (h : k ≠ i) : (setBit v i b).getLsbD k = v.getLsbD k := by
  by_cases hk : k < w
  · rw [getLsbD_setBit v b hk, if_neg h]
  · rw [BitVec.getLsbD_of_ge _ _ (not_lt.1 hk), BitVec.getLsbD_of_ge _ _ (not_lt.1 hk)]

theorem getLsbD_setBit_self {w : Nat} (v : BitVec w) {i : Nat} (b : Bool) (h : i < w) : (setBit v i b).getLsbD i = b := by
  rw [getLsbD_setBit v b h, if_pos rfl]

/-- What a domain that goes off takes with it. -/
def State.domainLoss (e : State) (d : Nat) : State :=
  if vitalDomain d = true then e.failModule 3 4
  else if d ≥ 68 then (e.setChMap (d - 68) { e.chMap (d - 68) with lost := true }).failModule 5 4
  else (e.groupGone d).voidOpen 4

theorem exec_domainFault {d : Fin 80} {lostLock : Bool} (hd : d.val ≠ 67) (hboot : 5 ≤ s.aon.bootStep)
    (hon : s.aon.domOn.getLsbD d.val = true) : exec (.domainFault d lostLock) s =
      .next (if (alGet s.hl.domFltAt d.val).any fun t => decide ((s.aon.counter - t).toNat < s.escWindow)
        then ((s.domainOff d.val lostLock).domainLoss d.val).keepOff d.val else (s.domainOff d.val lostLock).domainLoss d.val).lockStep.pump := by
  change execDomainFault d lostLock s = _
  unfold execDomainFault
  rw [if_neg hd, if_neg (by simp [hon, hboot])]
  cases alGet s.hl.domFltAt d.val with
  | none => rfl
  | some t =>
    rw [Option.any_some]
    rfl

theorem vitalDomain_false_of_ge {d : Nat} (h : 68 ≤ d) : vitalDomain d = false := by
  unfold vitalDomain
  rw [Bool.or_eq_false_iff]
  exact ⟨by simp; omega, by simp; omega⟩

theorem foldl_setBit_getLsbD (f : Nat → Bool) (l : List Nat) (v : BitVec 80) {k : Nat} (hk : k < 80) :
    (l.foldl (fun (v : BitVec 80) d => setBit v d (f d)) v).getLsbD k = if k ∈ l then f k else v.getLsbD k := by
  induction l generalizing v with
  | nil => rfl
  | cons d l ih =>
    simp only [List.foldl_cons, List.mem_cons]
    rw [ih, getLsbD_setBit v _ hk]
    by_cases hd : k = d
    · simp [hd]
    · simp [hd]

/-! ### Boot (R501, R502, R516, R522) -/

theorem State.booting_of {k : Nat} (h : s.aon.bootStep = k ∧ s.aon.braceAt = none ∧ s.aon.holdRst = false) : s.booting k = true := by
  obtain ⟨hk, hb, hr⟩ := h
  simp [State.booting, hk, hb, hr]

/-- The Scoresheet as boot step 3 reads it; a device that does not answer reads nothing. -/
def State.seen (s : State) (a b : Bool) : State := { s with score := { s.score with
  f0 := if a then s.score.f0 else []
  f1 := if b then s.score.f1 else [] } }

theorem State.seen_both (s : State) : s.seen true true = s := rfl

/-- The first leaf that no earlier LMS record reserves. -/
def State.firstLeaf (s : State) : Option Nat := (s.validRec rgLMS).map fun p => min (fieldAt p 0 4 + 64) leafEnd

/-- s with what boot step 3 finds: the device answers, the leaves left, the keys, patterns and hours of wear. -/
def State.readIn (s : State) (a b : Bool) : State :=
  let lms := (s.seen a b).firstLeaf
  let keys := ((s.seen a b).validRec rgTRUST).getD []
  let pat := ((s.seen a b).validRec rgPATSET).getD []
  let wear := ((s.seen a b).validRec rgWEAR).getD []
  let hours := ((List.range 80).flatMap fun d => (List.range 9).map fun v => (d, v, fieldAt wear (36 * d + 4 * v) 4)).filter
    fun x => x.2.2 != 0
  { s with
    score := { s.score with
      ok0 := a
      ok1 := b
      nolms := lms.isNone
      norepair := ((s.seen a b).validRec rgREPAIR).isNone
      keys := keys
      keygen := BitVec.ofNat 32 (fieldAt keys 8 4)
      pat := pat
      patver := BitVec.ofNat 32 (fieldAt pat 8 4)
      hsslow := ((s.seen a b).validRec rgHSSLOW).getD [] }
    att := { s.att with
      next := lms.getD 0
      limit := lms.getD 0 }
    hl := { s.hl with hours := hours }
    aon := { s.aon with bootStep := 4 } }

theorem exec_bootScoresheetRead (hboot : s.booting 3 = true) (a b : Bool) : Next (.bootScoresheetRead a b) s fun t =>
    t.aon.bootStep = 4 ∧ t.score.ok0 = a ∧ t.score.ok1 = b ∧ t.score.f0 = s.score.f0 ∧ t.score.f1 = s.score.f1 ∧
      t.score.nolms = (s.seen a b).firstLeaf.isNone ∧ t.att.next = (s.seen a b).firstLeaf.getD 0 ∧ t.att.limit = (s.seen a b).firstLeaf.getD 0 := by
  have hexec : exec (.bootScoresheetRead a b) s = .next (s.readIn a b) := by
    change execBootScoresheetRead a b s = _
    unfold execBootScoresheetRead
    rw [hboot]
    rfl
  refine next_of_exec_eq hexec ⟨rfl, rfl, rfl, rfl, rfl, ?_, ?_, ?_⟩ <;> simp only [State.readIn]

/-- Whether a valid pattern set stands in the Scoresheet as read. -/
def State.patRead (s : State) : State :=
  { s with hl := { s.hl with nopat := s.score.pat.isEmpty || !patForm s.score.pat || !patSigOk s.score.pat } }

/-- s with boot step 4 done: held where BOOT_SRC says so. -/
def State.stepFour (s : State) : State := { s with aon := { s.aon with
  hold := s.aon.latch.getLsbD 9
  bootStep := if s.aon.latch.getLsbD 9 then 4 else 5
  waves := 0 } }

/-- The repair history the devices that answered hold, loaded. -/
def State.repaired (s : State) : Option (List Byte) → State
  | none => s.patRead
  | some p => s.patRead.loadRepair p

theorem exec_bootRepairLoad (hboot : s.booting 4 = true) (hhold : s.aon.hold = false) : ∃ t, exec .bootRepairLoad s = .next t ∧
    ScoreOnly (s.repaired ((s.seen s.score.ok0 s.score.ok1).validRec rgREPAIR)).stepFour t := by
  have hsave (x : State) (b : Bool) : ScoreOnly x (if b then x.saveRepair else x) := by
    cases b
    · rfl
    · exact x.saveRepair_scoreOnly
  change ∃ t, execBootRepairLoad s = .next t ∧ _
  unfold execBootRepairLoad
  rw [if_neg (by simp [hboot, hhold])]
  extract_lets answered score seen hl e
  change ∃ t, _ = Host.Outcome.next t ∧ ScoreOnly (s.repaired (seen.validRec rgREPAIR)).stepFour t
  cases seen.validRec rgREPAIR with
  | none => exact ⟨_, rfl, hsave _ _⟩
  | some p => exact ⟨_, rfl, hsave _ _⟩

/-- The maps of the repair history in force. -/
theorem State.loadRepair_maps (s : State) (p : List Byte) : (s.loadRepair p).hl.tret = BitVec.ofNat 224 (fieldAt p 0 28) ∧
    (s.loadRepair p).hl.tspr = BitVec.ofNat 224 (fieldAt p 28 28) ∧ (s.loadRepair p).hl.bret = BitVec.ofNat 528 (fieldAt p 60 66) ∧
    (s.loadRepair p).hl.cret = BitVec.ofNat 156 (fieldAt p 192 20) ∧ (s.loadRepair p).hl.sret = BitVec.ofNat 18 (fieldAt p 232 4) ∧
    (s.loadRepair p).hl.lret = BitVec.ofNat 108 (fieldAt p 240 14) := ⟨rfl, rfl, rfl, rfl, rfl, rfl⟩

theorem exec_bootDomainWave (hboot : s.booting 5 = true) : Next .bootDomainWave s fun t => t.aon.waves = s.aon.waves + 1 ∧
    t.aon.bootStep = (if 4 ≤ s.aon.waves then 6 else 5) ∧ ∀ d, d < 80 → t.aon.domOn.getLsbD d =
      if d ∈ waveDomains s.aon.waves then !s.hl.staysOff d && !s.aon.domFlt.getLsbD d else s.aon.domOn.getLsbD d := by
  have hexec : ∃ a, exec .bootDomainWave s = .next { s with aon := a } ∧ a.waves = s.aon.waves + 1 ∧
      a.bootStep = (if 4 ≤ s.aon.waves then 6 else 5) ∧ a.domOn = (waveDomains s.aon.waves).foldl
        (fun (v : BitVec 80) d => setBit v d (!s.hl.staysOff d && !s.aon.domFlt.getLsbD d)) s.aon.domOn := by
    change ∃ a, execBootDomainWave s = .next { s with aon := a } ∧ _
    unfold execBootDomainWave
    rw [hboot]
    refine ⟨_, rfl, rfl, ?_, rfl⟩
    simp
  obtain ⟨a, hexec, hwaves, hstep, hon⟩ := hexec
  refine next_of_exec_eq hexec ⟨hwaves, hstep, fun d hd => ?_⟩
  rw [hon]
  exact foldl_setBit_getLsbD _ _ _ hd

/-- A PLL that locks is noted as locked. -/
def State.pllNoted (s : State) : Pll → Aon
  | .group d => { s.aon with tgPll := setBit s.aon.tgPll d.val true }
  | .die n => { s.aon with vsLock := setBit s.aon.vsLock n.val true }
  | .hub => { s.aon with hubLock := true }

theorem State.lockStep_aon (s : State) : ∃ k, s.lockStep = { s with aon := { s.aon with bootStep := k } } := by
  unfold State.lockStep
  split
  · exact ⟨_, rfl⟩
  · exact ⟨_, rfl⟩

/-- Powered and, for a tile group, needed (R493). -/
def State.pllServed (s : State) : Pll → Bool
  | .group d => s.aon.domOn.getLsbD (16 * (d.val / 14) + d.val % 14) && s.groupNeeded d.val
  | .die n => s.aon.domOn.getLsbD (16 * n.val + 14)
  | .hub => s.aon.domOn.getLsbD 64

theorem exec_pllLock (hboot : 6 ≤ s.aon.bootStep) (hb : s.aon.bootStep ≠ 6 ∨ s.aon.braceAt = none) {p : Pll} (hp : s.pllServed p = true) :
    ∃ k, exec (.pllLock p) s = .next { s with aon := { s.pllNoted p with bootStep := k } } := by
  have hgo : ¬ (s.aon.bootStep < 6 || (s.aon.bootStep == 6 && s.aon.braceAt.isSome)) = true := by
    obtain h | h := hb
    · simp [h]; omega
    · simp [h]; omega
  change ∃ k, execPllLock p s = _
  unfold execPllLock
  rw [if_neg hgo]
  have hnoted : s.pllNoted p = if s.pllServed p = true then s.pllNoted p else s.aon := (if_pos hp).symm
  obtain ⟨k, hk⟩ := ({ s with aon := s.pllNoted p } : State).lockStep_aon
  refine ⟨k, .trans ?_ (congrArg Host.Outcome.next hk)⟩
  rw [hnoted]
  cases p <;> rfl

end

/-- Settles O55, command by command. -/
theorem supplyBraceAndBoot : Obligations.SupplyBraceAndBoot := by
  unfold Obligations.SupplyBraceAndBoot
  intro s at_
  refine ⟨fun mv hoff hlo hhi => ?_, exec_startFilter_powers, fun hp hb => ?_, fun b hb => ⟨?_, fun hp => ?_, fun hshort => ?_, fun r hr hlong => ?_⟩,
    fun hp => ?_, fun hhot => ?_, fun hov => ?_, fun hot => ?_, fun k => ⟨_, rfl, rfl⟩, ⟨_, rfl, rfl⟩, ⟨_, rfl, rfl⟩, rfl, fun d lostLock hd hboot hon => ?_,
    fun a b hat => ?_, fun hat hhold => ?_, fun hhold hb => ?_, fun hat => ?_, fun hboot hb => ⟨fun hon => ?_, fun n hon => ?_, fun d hon hneed => ?_⟩,
    fun hat => ?_, fun hat => ?_⟩
  · refine ⟨_, exec_powerOn_starts hoff hlo hhi, rfl, rfl, ?_, rfl⟩
    exact (BitVec.toNat_ofNat mv 16).trans (Nat.mod_eq_of_lt (by omega))
  · refine ⟨s.newVin.braced, exec_brace_enters (State.powered_of_boot hp) hb, rfl, rfl, rfl, rfl, fun h5 => if_pos h5, fun h6 => ⟨?_, ?_, ?_⟩, rfl⟩
    · change (s.aon.hubLock && !decide (s.aon.bootStep = 6)) = false
      simp [h6]
    · exact if_pos (decide_eq_true h6)
    · exact if_pos (decide_eq_true h6)
  · exact ⟨_, exec_recoveryFilterStart hb, rfl, rfl, hb⟩
  · exact ⟨_, exec_brace_again (State.powered_of_boot hp) hb, rfl, rfl, hb, rfl⟩
  · rw [exec_braceEnd hb, if_neg]
    rw [State.recovered_eq_true_iff]
    rintro ⟨r, hr, hlong⟩
    exact absurd (hshort r hr) (not_lt.2 hlong)
  · refine ⟨s.braceOver b, (exec_braceEnd hb).trans ?_, rfl, rfl, rfl, rfl, rfl, rfl⟩
    rw [if_pos (State.recovered_eq_true_iff.2 ⟨r, hr, hlong⟩)]
  · refine ⟨{ s.newTemps with aon := { s.newTemps.aon with hot := true } }, ?_, rfl, rfl⟩
    change execJunctionHot s = _
    rw [execJunctionHot, State.powered_of_boot hp]
    rfl
  · refine ⟨{ s.newTemps with aon := { s.newTemps.aon with hot := false } }, ?_, rfl, rfl⟩
    change execHotCleared s = _
    rw [execHotCleared, hhot]
    rfl
  · refine ⟨{ s.newVin with aon := { s.newVin.aon with holdOv := false, startFilter := true } }, ?_, rfl, rfl, rfl⟩
    change execOvervoltageRelease s = _
    rw [execOvervoltageRelease, hov]
    rfl
  · refine ⟨{ s.newTemps with aon := { s.newTemps.aon with holdOt := false, startFilter := true } }, ?_, rfl, rfl, rfl⟩
    change execOvertemperatureRelease s = _
    rw [execOvertemperatureRelease, hot]
    rfl
  · refine ⟨s.domainOff d.val lostLock, (s.domainOff d.val lostLock).domainLoss d.val, exec_domainFault hd hboot hon,
      getLsbD_setBit_self _ _ d.isLt, getLsbD_setBit_self _ _ d.isLt, getLsbD_setBit_self _ _ d.isLt, rfl,
      fun k hk => getLsbD_setBit_other _ _ hk, fun hv => if_pos hv, fun hv hlt => ?_, fun hge => ?_⟩
    · exact (if_neg (ne_true_of_eq_false hv)).trans (if_neg (not_le.2 hlt))
    · exact (if_neg (ne_true_of_eq_false (vitalDomain_false_of_ge hge))).trans (if_pos hge)
  · obtain ⟨t, hexec, hstep, h0, h1, hf0, hf1, hlms, hnext, hlimit⟩ := exec_bootScoresheetRead (State.booting_of hat) a b
    refine ⟨t, hexec, hstep, h0, h1, hf0, hf1, hnext.trans hlimit.symm, fun ha hb => ?_⟩
    subst ha hb
    rw [State.seen_both, State.firstLeaf] at hlms hlimit
    refine ⟨fun hnone => ?_, fun p hp => ?_⟩
    · rw [show s.validRec rgLMS = none from hnone] at hlms hlimit
      exact ⟨hlms, hlimit⟩
    · rw [show s.validRec rgLMS = some p from hp] at hlms hlimit
      exact ⟨hlms, hlimit⟩
  · obtain ⟨t, hexec, honly⟩ := exec_bootRepairLoad (State.booting_of hat) hhold
    have haon := honly.aon
    have hhl := honly.hl
    have hlatch (x : Option (List Byte)) : (s.repaired x).aon = s.aon := by cases x <;> rfl
    refine ⟨t, hexec, ?_, ?_, fun h0 h1 => ?_⟩
    · rw [haon]
      exact congrArg (fun a : Aon => a.latch.getLsbD 9) (hlatch _)
    · rw [haon]
      exact congrArg (fun a : Aon => if a.latch.getLsbD 9 = true then 4 else 5) (hlatch _)
    · rw [h0, h1, State.seen_both] at hhl
      refine ⟨fun hnone => ?_, fun p hp => ?_⟩
      · rw [show s.validRec rgREPAIR = none from hnone] at hhl
        rw [hhl]
        exact ⟨rfl, rfl⟩
      · rw [show s.validRec rgREPAIR = some p from hp] at hhl
        rw [hhl]
        exact s.patRead.loadRepair_maps p
  · refine ⟨{ s with aon := { s.aon with hold := false, bootStep := 5, waves := 0 } }, ?_, rfl, rfl, rfl, rfl⟩
    change execBootholdRelease s = _
    rw [execBootholdRelease, hhold, hb]
    rfl
  · exact exec_bootDomainWave (State.booting_of hat)
  · obtain ⟨k, hk⟩ := exec_pllLock hboot hb (p := .hub) hon
    exact ⟨_, hk, rfl⟩
  · obtain ⟨k, hk⟩ := exec_pllLock hboot hb (p := .die n) hon
    exact ⟨_, hk, getLsbD_setBit_self _ _ n.isLt⟩
  · obtain ⟨k, hk⟩ := exec_pllLock hboot hb (p := .group d) (Bool.and_eq_true_iff.2 ⟨hon, hneed⟩)
    exact ⟨_, hk, getLsbD_setBit_self _ _ d.isLt⟩
  · refine ⟨{ s with aon := { s.aon with bootStep := 8 }, hl := { s.hl with selftest := true } }, ?_, rfl, rfl⟩
    change execDramTrainingComplete s = _
    rw [execDramTrainingComplete, State.booting_of hat]
    rfl
  · refine ⟨{ s with aon := { s.aon with ready := true, bootStep := 10 } }, ?_, rfl, rfl, rfl⟩
    change execBootReady s = _
    rw [execBootReady, State.booting_of hat]
    rfl

end Sys2Proof.Machine

/-! ## Errors of memory and links (R22 to R24, R174, R341, R434, R452, R464, R465)

O51, one equation for each kind of error. An error met by no single trick's work voids every trick in flight: the model's reading
(log entry 84). -/

namespace Sys2Proof.Machine

open Claim

theorem ScoreOnly.job {s t : State} (h : ScoreOnly s t) : t.job = s.job := by
  rw [show t = _ from h]

theorem State.askable_zero (s : State) : s.askable 0 = s.ranks.filter fun e => e.mid != s.fab.mid :=
  List.filter_congr fun e _ => by simp

section
variable {s : State}

/-! ### Corrected errors (R464) -/

/-- A command that counts a corrected error counts it, or at the threshold starts the count again and records an event. -/
theorem counts_of_countCorrected {i : Instr} {src lo : Nat} {u : Sys2Proof.PUnit} (h : exec i s = .next (s.countCorrected src u lo).pump) :
    ((s.hl.suspOf u).ce + 1 < 2 ^ (s.cfg.esc.toNat / 2 ^ lo % 16) → Ends i s State.pump fun e =>
      e = { s with hl := s.hl.setSusp { s.hl.suspOf u with ce := (s.hl.suspOf u).ce + 1 } }) ∧
    (2 ^ (s.cfg.esc.toNat / 2 ^ lo % 16) ≤ (s.hl.suspOf u).ce + 1 → exec i s =
      .next ({ s with hl := s.hl.setSusp { s.hl.suspOf u with ce := 0 } }.raiseEvent src u (s.workTrick u) 0).pump) := by
  obtain ⟨hbelow, hat⟩ := s.countCorrected_cases src u lo
  refine ⟨fun hlt => ⟨_, h.trans ?_, rfl⟩, fun hle => h.trans ?_⟩
  · rw [hbelow (not_le.2 hlt)]
  · rw [hat hle]

/-! ### Uncorrectable errors (R465, Table 16-1) -/

theorem State.failModule_quiet (hf : s.hl.failed = false) (hr : s.job.state ≠ .running) (he : s.job.state ≠ .ending) (fcause : Nat)
    (cause : BitVec 4) : s.failModule fcause cause = { s with hl := { s.hl with failed := true, fcause := fcause } } := by
  have hstate : (s.job.state == .running || s.job.state == .ending) = false := by simp [hr, he]
  unfold State.failModule
  rw [if_neg (ne_true_of_eq_false hf)]
  exact if_neg (ne_true_of_eq_false hstate)

theorem State.failModule_failed (hf : s.hl.failed = true) (fcause : Nat) (cause : BitVec 4) : s.failModule fcause cause = s := if_pos hf

section
variable {buf off : Nat} {trick : Option (BitVec 48)} {b : Buffer} (hb : s.job.buf? buf = some b)
include hb

theorem exec_dramBuffer_state (hc : b.cls = .state) :
    exec (.dramUncorrectableError (.buffer buf off trick)) s = .next (s.failModule 5 0xA).pump := by
  change execDramUncorrectableError (.buffer buf off trick) s = _
  simp only [execDramUncorrectableError, hb, hc]

theorem exec_dramBuffer_lost (hc : b.cls = .input ∨ (b.cls = .stream ∧ b.exp = none)) :
    exec (.dramUncorrectableError (.buffer buf off trick)) s = .next (s.loseBuffers [(buf, off)] (trick.map BitVec.toNat) 0xA).pump := by
  change execDramUncorrectableError (.buffer buf off trick) s = _
  obtain hc | ⟨hc, hexp⟩ := hc
  · simp only [execDramUncorrectableError, hb, hc]
  · simp only [execDramUncorrectableError, hb, hc, hexp]

/-- A damaged stripe of an exported buffer is asked of the other members, where there are any (R452). -/
theorem exec_dramBuffer_exported (hc : b.cls = .stream) {x : ℕ × Bool × Option ℕ} (hexp : b.exp = some x) :
    exec (.dramUncorrectableError (.buffer buf off trick)) s = .next (if (s.ranks.filter fun e => e.mid != s.fab.mid) = [] then
      s.loseBuffers [(buf, off)] (trick.map BitVec.toNat) 0xA
      else (s.askStripe b x.1 (b.stripeOf off)).voidHit (trick.map BitVec.toNat) 0xA).pump := by
  change execDramUncorrectableError (.buffer buf off trick) s = _
  simp only [execDramUncorrectableError, hb, hc, hexp, State.askable_zero, List.isEmpty_iff]
  split_ifs <;> rfl

theorem exec_dramSpill : exec (.dramUncorrectableError (.spill buf off trick)) s =
    .next (s.loseBuffers [(buf, off)] (trick.map BitVec.toNat) 0xA).pump := by
  change execDramUncorrectableError (.spill buf off trick) s = _
  simp only [execDramUncorrectableError, hb]

end

theorem exec_dramSum {buf r c off : Nat} {trick : Option (BitVec 48)} {o : OutTile} {n : Option Nat} {x : Ctx} (hlies : o.lies = .region n)
    (hlive : o.live = true) (ho : s.job.tiles.find? (fun o => o.live && o.buf == buf && o.r == r && o.c == c) = some o)
    (hx : s.job.ctx? o.ctx = some x) : ∃ k : Byte, exec (.dramUncorrectableError (.sum buf r c off trick)) s =
      .next (s.loseOwned [(o.ctx, k, off)] (trick.map BitVec.toNat) 0xA).pump := by
  have howned : ∃ k, s.job.ownedSum o off = some (o.ctx, k, off) := by
    unfold Job.ownedSum
    rw [hlies, hlive, hx]
    exact ⟨_, rfl⟩
  obtain ⟨k, hk⟩ := howned
  refine ⟨k, ?_⟩
  change execDramUncorrectableError (.sum buf r c off trick) s = _
  simp only [execDramUncorrectableError, ho, hk]

theorem exec_wsue_inService {bank : Fin 528} {lost : List (Nat × Nat)} (hspare : s.hl.isSpare ⟨.bank, bank.val⟩ = false)
    (hret : s.hl.isRet ⟨.bank, bank.val⟩ = false) : exec (.wsue bank lost) s =
      .next ((s.raiseEvent 5 ⟨.bank, bank.val⟩ (s.openTricks.head?.map fun t => (t, ((s.trick? t).getD .empty).att)) 0).loseBuffers
        (lost.filter fun x => match s.job.buf? x.1 with
          | none => false
          | some b => b.cls == .resident || b.cls == .stash) none 5).pump := by
  change execWsue bank lost s = _
  unfold execWsue
  dsimp only
  rw [if_neg (ne_true_of_eq_false hspare), hret]
  rfl

/-! ### Links (R22, R24) -/

/-- s with one more ring link lost. -/
def State.ringCut (s : State) (link : Fin 4) : State := { s with hl := { s.hl with ringLost := setBit s.hl.ringLost link.val true } }

theorem exec_ringLinkLoss_another {link : Fin 4} {r : Bool} (h : s.hl.ringLost.getLsbD link.val = false) (hl : s.hl.ringLost ≠ 0) :
    exec (.ringLinkLoss link r) s = .next ((s.ringCut link).failModule 7 3).pump := by
  change execRingLinkLoss link r s = _
  unfold execRingLinkLoss
  rw [if_neg (ne_true_of_eq_false h), beq_false_of_ne hl]
  rfl

theorem exec_ringLinkLoss_first {link : Fin 4} {r : Bool} (h : s.hl.ringLost.getLsbD link.val = false) (hl : s.hl.ringLost = 0) :
    exec (.ringLinkLoss link r) s = .next (if r then (s.ringCut link).voidOpen 3 else s.ringCut link).pump := by
  change execRingLinkLoss link r s = _
  unfold execRingLinkLoss
  rw [if_neg (ne_true_of_eq_false h), beq_iff_eq.2 hl]
  rfl

/-! ### Channels -/

theorem State.chMap_setChMap (s : State) {p : Nat} (hp : p < 12) (m : ChMap) : (s.setChMap p m).chMap p = m := by
  simp [State.chMap, State.setChMap, hp]

/-- The spare's copy is complete: it waits for the next trick. -/
def State.channelCopied (s : State) (p : Fin 12) : State :=
  (s.enterSpare ⟨.channel, 13 * p.val + (s.chMap p.val).spare.toNat⟩).setChMap p.val { s.chMap p.val with copying := false, pendMove := true }

theorem exec_spareChannelCopyComplete {p : Fin 12} (h : (s.chMap p.val).copying = true) :
    exec (.spareChannelCopyComplete p) s = .next (s.channelCopied p).saveRepair := by
  change execSpareChannelCopyComplete p s = _
  unfold execSpareChannelCopyComplete
  dsimp only
  rw [h]
  rfl

end

/-- Settles O51, by one equation for each error. -/
theorem errorsAreCountedOrFail : Obligations.ErrorsAreCountedOrFail := by
  unfold Obligations.ErrorsAreCountedOrFail
  intro s counts fails
  refine ⟨fun _ _ hf hr he => State.failModule_quiet hf hr he _ _, fun _ _ hf => State.failModule_failed hf _ _,
    fun ch => counts_of_countCorrected rfl, fun bank => counts_of_countCorrected rfl, rfl, rfl, fun p => rfl,
    fun buf off trick b hb => ⟨exec_dramBuffer_state hb, exec_dramBuffer_lost hb, fun x hc hexp => exec_dramBuffer_exported hb hc hexp,
      exec_dramSpill hb⟩,
    fun buf r c off trick o n x hlies hlive ho hx => exec_dramSum hlies hlive ho hx, fun ch => rfl, fun t cause => ⟨rfl, rfl⟩,
    fun bank lost hspare hret => exec_wsue_inService hspare hret,
    fun link r h => ⟨s.ringCut link, fun k hk => ?_, rfl, exec_ringLinkLoss_another h, exec_ringLinkLoss_first h⟩,
    fun link => ⟨{ s with hl := { s.hl with hubLost := setBit s.hl.hubLost link.val true } }, getLsbD_setBit_self _ _ link.isLt, rfl, rfl⟩,
    fun hw => ?_, fun p hp => ?_⟩
  · refine (getLsbD_setBit _ _ hk).trans ?_
    by_cases hkl : k = link.val <;> simp [hkl]
  · refine ⟨{ s with hl := { s.hl with window := s.now, susp := s.hl.susp.map fun x => { x with ce := 0 } } }, ?_, fun x hx => ?_, rfl, rfl, rfl⟩
    · change execEscalationWindowExpiry s = _
      have hel : s.elapsed s.hl.window s.escWindow = true := decide_eq_true hw
      unfold execEscalationWindowExpiry
      rw [hel]
      rfl
    · obtain ⟨y, -, rfl⟩ := List.mem_map.1 hx
      rfl
  · have honly := (s.channelCopied p).saveRepair_scoreOnly
    have hmap : (s.channelCopied p).chMap p.val = { s.chMap p.val with copying := false, pendMove := true } := by
      rw [State.channelCopied, State.chMap_setChMap _ p.isLt]
    have hsaved : (s.channelCopied p).saveRepair.chMap p.val = (s.channelCopied p).chMap p.val := by
      simp only [State.chMap, honly.hl]
    rw [hmap] at hsaved
    exact next_of_exec_eq (exec_spareChannelCopyComplete hp) ⟨congrArg ChMap.copying hsaved, congrArg ChMap.pendMove hsaved, honly.job⟩

end Sys2Proof.Machine

/-! ## Escalation steps, rotations and self-test (R466, R467, R471 to R478)

O52. A rotation is looked up after `State.modRot` by `State.rot?_modRot`; what self-test leaves alone, and that a retired unit stays
retired, is `Tested`. A spare that takes the index of a channel that could not be read does so after its test (log entry 97). -/

namespace Sys2Proof.Machine

open Claim

/-! ### Rotations -/

theorem State.rot?_spec {s : State} {k : RotKind} {die : Nat} {r : Rot} (h : s.rot? k die = some r) : r.kind = k ∧ r.die = die := by
  simpa using List.find?_some h

/-- The rotation of a kind on a die, after it has been changed. -/
theorem State.rot?_modRot {s : State} {k : RotKind} {die : Nat} {f : Rot → Rot} {r : Rot} (h : s.rot? k die = some r)
    (hf : ∀ r, (f r).kind = r.kind ∧ (f r).die = r.die) : (s.modRot k die f).rot? k die = some (f r) := by
  have hsame : ((fun r : Rot => r.kind == k && r.die == die) ∘ fun r => if r.kind = k ∧ r.die = die then f r else r) =
      fun r => r.kind == k && r.die == die := by
    funext x
    simp only [Function.comp_apply]
    split_ifs
    · rw [(hf x).1, (hf x).2]
    · rfl
  have hfind : s.hl.rots.find? (fun r => r.kind == k && r.die == die) = some r := h
  change (s.hl.rots.map _).find? _ = _
  rw [List.find?_map, hsame, hfind, Option.map_some, if_pos (State.rot?_spec h)]

theorem State.rot?_congr {s t : State} (h : t.hl.rots = s.hl.rots) (k : RotKind) (die : Nat) : t.rot? k die = s.rot? k die := by
  rw [State.rot?, h, State.rot?]

theorem State.wakeOne_rots (s : State) (k : UnitKind) (die : Nat) (forRetire : Bool) : (s.wakeOne k die forRetire).hl.rots = s.hl.rots := by
  unfold State.wakeOne
  split
  · rfl
  · split <;> rfl

theorem unitsOf_kind {k : UnitKind} {die : Nat} {u : Sys2Proof.PUnit} (h : u ∈ unitsOf k die) : u.kind = k := by
  cases k <;> (obtain ⟨i, -, rfl⟩ := List.mem_map.1 h; rfl)

/-- The next unit of a rotation is in service (R471). -/
theorem State.nextUnit_inService {s : State} {r : Rot} {t : Nat} (h : s.nextUnit r = some t) : s.hl.inService ⟨rotUnit r.kind, t⟩ = true := by
  have hmem : t ∈ ((Machine.unitsOf (rotUnit r.kind) r.die).filter s.hl.inService).map PUnit.idx := by
    unfold State.nextUnit at h
    dsimp only at h
    split at h
    · exact List.mem_of_head? h
    · rename_i k _
      cases hf : (((Machine.unitsOf (rotUnit r.kind) r.die).filter s.hl.inService).map PUnit.idx).find? fun i => decide (i > k) with
      | none =>
        rw [hf] at h
        exact List.mem_of_head? h
      | some i =>
        rw [hf] at h
        cases h
        exact List.mem_of_find?_eq_some hf
  obtain ⟨u, hu, rfl⟩ := List.mem_map.1 hmem
  obtain ⟨hu, hin⟩ := List.mem_filter.1 hu
  rw [← unitsOf_kind hu]
  exact hin

section
variable {s : State}

/-! ### Escalation steps (R466, R467) -/

theorem exec_escalationStepSettled (d : Fin 80) (hb : s.aon.braceAt = none) (ho : s.openTricks = []) :
    exec (.escalationStepSettled d) s = .next (s.applySteps fun k => k == d.val).pump := by
  change execEscalationStepSettled d s = _
  unfold execEscalationStepSettled
  rw [if_neg]
  simp [hb, State.atBoundary, ho]

/-- The steps of a domain that take effect: raised up to their limits, and due no more. -/
theorem State.applySteps_spec (s : State) (d : Fin 80) :
    (((s.applySteps fun k => k == d.val).hl.vstep.get d).toNat =
      min ((s.hl.vstep.get d).toNat + (s.hl.due.filter fun x => x == .volt d.val).length) 8) ∧
    (((s.applySteps fun k => k == d.val).hl.fstep.get d).toNat =
      min ((s.hl.fstep.get d).toNat + (s.hl.due.filter fun x => x == .clock d.val).length) 3) ∧
    (∀ k : Fin 80, k ≠ d → (s.applySteps fun k => k == d.val).hl.vstep.get k = s.hl.vstep.get k ∧
      (s.applySteps fun k => k == d.val).hl.fstep.get k = s.hl.fstep.get k) ∧
    DueStep.volt d.val ∉ (s.applySteps fun k => k == d.val).hl.due ∧ DueStep.clock d.val ∉ (s.applySteps fun k => k == d.val).hl.due ∧
    (s.applySteps fun k => k == d.val).job = s.job := by
  unfold State.applySteps
  extract_lets bump h changed e
  have hone : (if changed = true then e.saveRepair else e).hl = e.hl ∧ (if changed = true then e.saveRepair else e).job = e.job := by
    split
    · exact ⟨e.saveRepair_scoreOnly.hl, e.saveRepair_scoreOnly.job⟩
    · exact ⟨rfl, rfl⟩
  rw [hone.1, hone.2]
  have hv (k : Fin 80) : e.hl.vstep.get k = if (k.val == d.val) = true then
      BitVec.ofNat 4 (bump (s.hl.vstep.get k).toNat 8 (s.hl.dueVolts k)) else s.hl.vstep.get k := by
    simp [e, h, vget_eq]
  have hf (k : Fin 80) : e.hl.fstep.get k = if (k.val == d.val) = true then
      BitVec.ofNat 2 (bump (s.hl.fstep.get k).toNat 3 (s.hl.dueClocks k)) else s.hl.fstep.get k := by
    simp [e, h, vget_eq]
  refine ⟨?_, ?_, fun k hk => ⟨?_, ?_⟩, ?_, ?_, rfl⟩
  · rw [hv, if_pos (beq_self_eq_true d.val), BitVec.toNat_ofNat]
    exact Nat.mod_eq_of_lt (by simp only [bump]; omega)
  · rw [hf, if_pos (beq_self_eq_true d.val), BitVec.toNat_ofNat]
    exact Nat.mod_eq_of_lt (by simp only [bump]; omega)
  · exact (hv k).trans (if_neg (by simpa using Fin.val_ne_of_ne hk))
  · exact (hf k).trans (if_neg (by simpa using Fin.val_ne_of_ne hk))
  · exact fun hm => by simpa using (List.mem_filter.1 hm).2
  · exact fun hm => by simpa using (List.mem_filter.1 hm).2

/-! ### Rotations that fall due, and their targets (R471 to R473) -/

/-- The rotation with its target named, its spare still to be woken. -/
def Rot.named (r : Rot) (now : Dword) (t : Nat) : Rot := { r with
  start := now
  due := true
  dueSince := now
  stage := 1
  target := some t
  spare := none }

theorem exec_rotationDue {k : RotKind} {die : Fin 4} {r : Rot} {t : Nat} (hpat : s.hl.nopat = false) (hready : s.aon.ready = true)
    (hr : s.rot? k die.val = some r) (hstage : r.stage = 0) (hperiod : s.rotPeriod k ≠ 0)
    (hel : s.rotPeriod k ≤ (s.aon.counter - r.start).toNat) (ht : s.nextUnit r = some t) : exec (.rotationDue k die) s =
      .next (if k = .engine then s.modRot k die.val fun r => r.named s.aon.counter t
        else (s.modRot k die.val fun r => r.named s.aon.counter t).wakeOne (rotUnit k) die.val false) := by
  change execRotationDue k die s = _
  unfold execRotationDue
  rw [hr]
  dsimp only
  rw [if_neg, ht]
  · rfl
  · have hnow : s.elapsed r.start (s.rotPeriod k) = true := decide_eq_true hel
    rw [hpat, hready, hnow, decide_eq_false (not_not_intro hstage), decide_eq_false hperiod]
    decide

theorem exec_rotationDue_names {k : RotKind} {die : Fin 4} {r : Rot} {t : Nat} (hpat : s.hl.nopat = false) (hready : s.aon.ready = true)
    (hr : s.rot? k die.val = some r) (hstage : r.stage = 0) (hperiod : s.rotPeriod k ≠ 0)
    (hel : s.rotPeriod k ≤ (s.aon.counter - r.start).toNat) (ht : s.nextUnit r = some t) :
    Next (.rotationDue k die) s fun u => (∃ r', u.rot? k die.val = some r' ∧ r'.stage = 1 ∧ r'.target = some t ∧ r'.due = true ∧
      r'.start = s.aon.counter ∧ r'.spare = none) ∧ s.hl.inService ⟨rotUnit k, t⟩ = true ∧ u.job = s.job := by
  have hmod := State.rot?_modRot (f := fun r => r.named s.aon.counter t) hr fun _ => ⟨rfl, rfl⟩
  have hin := State.nextUnit_inService ht
  rw [(State.rot?_spec hr).1] at hin
  refine next_of_exec_eq (exec_rotationDue hpat hready hr hstage hperiod hel ht) ⟨⟨r.named s.aon.counter t, ?_, rfl, rfl, rfl, rfl, rfl⟩, hin, ?_⟩
  · split_ifs
    · exact hmod
    · exact (State.rot?_congr (State.wakeOne_rots _ _ _ _) k _).trans hmod
  · split_ifs
    · rfl
    · exact State.wakeOne_job _ _ _ _

/-- A unit back from its test, as the spare. -/
def State.restsAsSpare (s : State) (u : Sys2Proof.PUnit) : State :=
  { s with hl := ({ s.hl with off := s.hl.off.filter fun v => v != u } : Health).setSpare u true }

section
variable {u : Sys2Proof.PUnit} {k : RotKind} {r : Rot} (hk : rotKindOf u.kind = some k) (hr : s.rot? k (unitDie u) = some r)
  (ht : r.target = some u.idx) (hb : s.aon.braceAt = none) (hpat : s.hl.nopat = false) (h3 : r.stage = 3)
include hk hr ht hb hpat h3

omit ht hb hpat h3 in
theorem exec_rotationTarget_busy (hbusy : s.targetBusy k r u = true) : exec (.rotationTargetTestComplete u true) s = .next s := by
  change execRotationTargetTestComplete u true s = _
  unfold execRotationTargetTestComplete
  rw [hk]
  dsimp only
  rw [hr]
  dsimp only
  split_ifs <;> rfl

/-- The test of a target that is not busy ends, and what its passing brings is done. -/
theorem exec_rotationTarget_passes (hbusy : s.targetBusy k r u = false) : exec (.rotationTargetTestComplete u true) s = .next
    (if k = .engine then s.modRot k (unitDie u) fun r => { r with stage := 4 } else
      (((s.restsAsSpare u).endRotation k (unitDie u)).refill u.kind (unitDie u)).saveRepair.pump) := by
  change execRotationTargetTestComplete u true s = _
  unfold execRotationTargetTestComplete
  rw [hk]
  dsimp only
  rw [hr]
  dsimp only
  rw [if_neg, if_neg (ne_true_of_eq_false hbusy), if_neg (by rw [h3]; decide)]
  · simp only [if_true]
    split_ifs <;> rfl
  · simp [ht, h3, hb, hpat]

theorem exec_rotationTarget_engine (hbusy : s.targetBusy k r u = false) (he : k = .engine) :
    Next (.rotationTargetTestComplete u true) s fun t => (∃ r', t.rot? k (unitDie u) = some r' ∧ r' = { r with stage := 4 }) ∧ t.job = s.job := by
  refine next_of_exec_eq (t := s.modRot k (unitDie u) fun r => { r with stage := 4 }) ?_
    ⟨⟨_, State.rot?_modRot hr fun _ => ⟨rfl, rfl⟩, rfl⟩, rfl⟩
  rw [exec_rotationTarget_passes hk hr ht hb hpat h3 hbusy, if_pos he]

end

/-- With no spare woken for a rotation there, another is woken for the retirement. -/
theorem State.wakeFor_wakesOne {k : UnitKind} {die : Nat} (h : ∀ w ∈ s.hl.wakes, w.u.kind = k → unitDie w.u = die → w.forRetire = true) :
    s.wakeFor k die = s.wakeOne k die true := by
  have hnone : s.hl.wakes.find? (fun w => w.u.kind == k && unitDie w.u == die && !w.forRetire) = none := by
    rw [List.find?_eq_none]
    intro w hw hc
    simp only [Bool.and_eq_true, beq_iff_eq, Bool.not_eq_true'] at hc
    rw [h w hw hc.1.1 hc.1.2] at hc
    cases hc.2
  rw [State.wakeFor, hnone]

theorem Health.setSpare_rest (h : Health) (u : Sys2Proof.PUnit) (b : Bool) : (h.setSpare u b).off = h.off ∧ (h.setSpare u b).rots = h.rots ∧
    (h.setSpare u b).wakes = h.wakes ∧ (h.setSpare u b).chmaps = h.chmaps ∧ (h.setSpare u b).retest = h.retest ∧
    (h.setSpare u b).selftest = h.selftest := by
  unfold Health.setSpare
  split <;> exact ⟨rfl, rfl, rfl, rfl, rfl, rfl⟩

theorem State.wakeOne_off (s : State) (k : UnitKind) (die : Nat) (forRetire : Bool) : (s.wakeOne k die forRetire).hl.off = s.hl.off := by
  unfold State.wakeOne
  split
  · rfl
  · split <;> rfl

/-- A rotation that has ended, a further spare woken where the die has too few. -/
theorem State.refilled_spec {k : RotKind} {die : Nat} {r : Rot} {u : UnitKind} (hr : s.rot? k die = some r)
    (hw : ∀ w ∈ s.hl.wakes, w.u.kind = u → unitDie w.u = die → w.forRetire = true) :
    (((s.endRotation k die).refill u die).job = s.job) ∧ ((s.endRotation k die).refill u die).hl.off = s.hl.off ∧
      ∃ r', ((s.endRotation k die).refill u die).rot? k die = some r' ∧ r'.stage = 0 ∧ r'.target = none ∧ r'.lastUnit = r.target := by
  have hmod : (s.endRotation k die).rot? k die = some { r with stage := 0, due := false, lastUnit := r.target, target := none, spare := none } :=
    State.rot?_modRot hr fun _ => ⟨rfl, rfl⟩
  unfold State.refill
  split
  · rw [State.wakeFor_wakesOne (s := s.endRotation k die) hw]
    exact ⟨State.wakeOne_job _ _ _ _, State.wakeOne_off _ _ _ _, _, (State.rot?_congr (State.wakeOne_rots _ _ _ _) k die).trans hmod, rfl, rfl, rfl⟩
  · exact ⟨rfl, rfl, _, hmod, rfl, rfl, rfl⟩

/-! ### Woken spares (R474 to R476) -/

theorem spareTest_open (hb : s.aon.braceAt = none) (hpat : s.hl.nopat = false) : (s.aon.braceAt.isSome || s.hl.nopat) = false := by
  rw [hb, hpat]
  rfl

section
variable {u : Sys2Proof.PUnit} {w : Wake} (hw : s.hl.wakes.find? (fun w => w.u == u && !w.passed) = some w) (hb : s.aon.braceAt = none)
  (hpat : s.hl.nopat = false)
include hw hb hpat

theorem exec_spareTest_fails_channel (hk : u.kind = .channel) : exec (.spareTestComplete u false) s =
    .next ((s.raiseEvent 0xA u none 0).packageLost (u.idx / 13)).pump := by
  change execSpareTestComplete u false s = _
  unfold execSpareTestComplete
  rw [hw]
  dsimp only
  rw [if_neg (ne_true_of_eq_false (spareTest_open hb hpat)), if_neg Bool.false_ne_true, if_pos hk]
  rfl

theorem exec_spareTest_fails (hk : u.kind ≠ .channel) : exec (.spareTestComplete u false) s =
    .next ((s.raiseEvent 0xA u none 0).wakeOne u.kind (unitDie u) w.forRetire).stopPlls.pump := by
  change execSpareTestComplete u false s = _
  unfold execSpareTestComplete
  rw [hw]
  dsimp only
  rw [if_neg (ne_true_of_eq_false (spareTest_open hb hpat)), if_neg Bool.false_ne_true, if_neg hk]
  rfl

/-- A spare that passes, its clock on while it was tested. -/
def State.testedOn (s : State) (u : Sys2Proof.PUnit) : State := (s.pllRuns u).stopPlls

omit hw hb hpat in
theorem State.testedOn_eq (s : State) (u : Sys2Proof.PUnit) : s.testedOn u =
    { s with aon := { s.aon with tgPll := (s.testedOn u).aon.tgPll } } := by
  unfold State.testedOn State.pllRuns
  split <;> rfl

/-- What a channel's spare that passes does: it takes the index of a channel that could not be read, or starts its copy. -/
theorem exec_spareTest_channel (hk : u.kind = .channel) : exec (.spareTestComplete u true) s =
    .next (if ((s.testedOn u).chMap (u.idx / 13)).unread = true then (((s.testedOn u).enterSpare u).setChMap (u.idx / 13)
        { (s.testedOn u).chMap (u.idx / 13) with unread := false, pendMove := true }).saveRepair.pump
      else ({ s.testedOn u with hl := { (s.testedOn u).hl with wakes := (s.testedOn u).hl.wakes.filter fun x => x.u != u } } : State).setChMap
        (u.idx / 13) { (s.testedOn u).chMap (u.idx / 13) with copying := true }) := by
  change execSpareTestComplete u true s = _
  unfold execSpareTestComplete
  rw [hw]
  dsimp only
  rw [if_neg (ne_true_of_eq_false (spareTest_open hb hpat)), if_pos rfl, if_pos hk]
  exact (apply_ite Host.Outcome.next _ _ _).symm

theorem exec_spareTest_lane (hk : u.kind = .lane) (hi : u.idx < 108) : exec (.spareTestComplete u true) s =
    .next ((s.testedOn u).laneTrained (Fin.ofNat 12 (u.idx / 9))).pump := by
  change execSpareTestComplete u true s = _
  unfold execSpareTestComplete
  rw [hw]
  dsimp only
  rw [if_neg (ne_true_of_eq_false (spareTest_open hb hpat)), if_pos rfl, if_neg (by rw [hk]; decide), if_pos hk, if_pos hi]
  rfl

/-- s with the spare u marked as passed. -/
def State.passed (s : State) (u : Sys2Proof.PUnit) : State :=
  { s with hl := { s.hl with wakes := s.hl.wakes.map fun (x : Wake) => if x.u = u then { x with passed := true } else x } }

omit hw hb hpat in
theorem State.passed_wakes (s : State) (u : Sys2Proof.PUnit) : ∀ x ∈ (s.passed u).hl.wakes, x.u = u → x.passed = true := by
  intro x hx hxu
  obtain ⟨y, -, rfl⟩ := List.mem_map.1 hx
  split_ifs at hxu ⊢ with hy
  · rfl
  · exact absurd hxu hy

theorem exec_spareTest_passes (hc : u.kind ≠ .channel) (hl : u.kind ≠ .lane) : Ends (.spareTestComplete u true) s State.pump fun e =>
    e.job = s.job ∧ ∀ x ∈ e.hl.wakes, x.u = u → x.passed = true := by
  have hexec : ∃ e : State, exec (.spareTestComplete u true) s = .next e.pump ∧ e.job = ((s.testedOn u).passed u).job ∧
      e.hl.wakes = ((s.testedOn u).passed u).hl.wakes := by
    change ∃ e : State, execSpareTestComplete u true s = .next e.pump ∧ _
    unfold execSpareTestComplete
    rw [hw]
    dsimp only
    rw [if_neg (ne_true_of_eq_false (spareTest_open hb hpat)), if_pos rfl, if_neg hc, if_neg hl]
    split
    · exact ⟨_, rfl, rfl, rfl⟩
    · split <;> exact ⟨_, rfl, rfl, rfl⟩
  obtain ⟨e, hexec, hjob, hwakes⟩ := hexec
  refine ⟨e, hexec, hjob.trans ?_, ?_⟩
  · rw [s.testedOn_eq]
    rfl
  · rw [hwakes]
    exact (s.testedOn u).passed_wakes u

end

/-! ### A test inside the trick (R473) -/

/-- The rotation under test inside the trick: its woken spare sleeps again, an engine under test is out of service. -/
def State.testedInside (s : State) (k : RotKind) (die : Nat) (target : Option Nat) : State :=
  let m := s.modRot k die fun r => { r with stage := 5, spare := none }
  { m with hl := { m.hl with
    rotLong := true
    wakes := m.hl.wakes.filter fun (w : Wake) => !(w.u.kind == rotUnit k && unitDie w.u == die && !w.forRetire)
    off := if k = .engine then m.hl.off ++ (target.map fun t => (⟨.engine, t⟩ : Sys2Proof.PUnit)).toList
      else m.hl.off } }

/-- A trick that has begun has the times of the tests dealt. -/
def TrickRec.tested (r : TrickRec) (l : List Dealt) : TrickRec := if r.begun = true then { r with dealt := r.dealt ++ l } else r

/-- The times of the tile tests inside a trick on the die; an engine's test counts as none. -/
def State.testTimes (s : State) (k : RotKind) (die : Nat) : List Dealt :=
  if k = .tile then (s.inTest.filter fun i => i / 56 == die).map s.testTime else []

theorem exec_longRotationTimeout {k : RotKind} {die : Fin 4} {r : Rot} (hk : k = .tile ∨ k = .engine) (hr : s.rot? k die.val = some r)
    (hdue : r.due = true) (hstage : r.stage = 1 ∨ r.stage = 2) (hbegun : s.job.t0.begun = true ∨ s.job.t1.begun = true)
    (hpat : s.hl.nopat = false) (hel : 3000000000 ≤ (s.aon.counter - r.dueSince).toNat) : exec (.longRotationTimeout k die) s =
      .next ({ s.testedInside k die.val r.target with job := { s.job with
        t0 := s.job.t0.tested ((s.testedInside k die.val r.target).testTimes k die.val)
        t1 := s.job.t1.tested ((s.testedInside k die.val r.target).testTimes k die.val) } } : State).stopPlls.pump := by
  change execLongRotationTimeout k die s = _
  unfold execLongRotationTimeout
  rw [hr]
  dsimp only
  have hnow : s.elapsed r.dueSince 3000000000 = true := decide_eq_true hel
  have hgo : ¬ ((!(k == .tile || k == .engine) || !(s.job.t0.begun || s.job.t1.begun) || !r.due || decide (r.stage ≠ 1 ∧ r.stage ≠ 2) || s.hl.nopat ||
      !s.elapsed r.dueSince 3000000000) = true) := by
    have hkind : (k == .tile || k == .engine) = true := by obtain rfl | rfl := hk <;> rfl
    have hopen : (s.job.t0.begun || s.job.t1.begun) = true := Bool.or_eq_true_iff.2 hbegun
    have hst : decide (r.stage ≠ 1 ∧ r.stage ≠ 2) = false := decide_eq_false (by omega)
    rw [hkind, hopen, hdue, hst, hpat, hnow]
    decide
  rw [if_neg hgo]
  have hbusy (r : TrickRec) (s : State) : (if k = .tile ∧ r.begun = true then
      { r with dealt := r.dealt ++ (s.inTest.filter fun i => i / 56 == die.val).map s.testTime } else r) = r.tested (s.testTimes k die.val) := by
    unfold TrickRec.tested State.testTimes
    obtain rfl | rfl := hk
    · simp
    · simp
  simp only [hbusy]
  rfl

end

/-! ### Self-test (R478) -/

/-- What self-test leaves: the domains to be tested again, the end of the test; a unit retired stays retired. -/
structure Tested (s t : State) : Prop where
  retest : t.hl.retest = s.hl.retest
  selftest : t.hl.selftest = s.hl.selftest
  ret : ∀ u, s.hl.isRet u = true → t.hl.isRet u = true

theorem Tested.refl (s : State) : Tested s s := ⟨rfl, rfl, fun _ => id⟩

theorem Tested.trans {s t u : State} (h : Tested s t) (k : Tested t u) : Tested s u :=
  ⟨k.retest.trans h.retest, k.selftest.trans h.selftest, fun v => k.ret v ∘ h.ret v⟩

theorem Tested.of_hl {s t : State} (h : t.hl = s.hl) : Tested s t := by
  refine ⟨by rw [h], by rw [h], fun u hu => by rwa [h]⟩

theorem Tested.foldl {α : Type} {f : State → α → State} (h : ∀ s a, Tested s (f s a)) (l : List α) (s : State) : Tested s (l.foldl f s) :=
  foldl_rel Tested .refl (fun _ _ _ => .trans) f h l s

theorem Health.isRet_setSpare (h : Health) (v : Sys2Proof.PUnit) (b : Bool) (u : Sys2Proof.PUnit) : (h.setSpare v b).isRet u = h.isRet u := by
  unfold Health.setSpare
  split <;> rfl

/-- Retiring one unit brings none back. -/
theorem Health.isRet_setRet {h : Health} {u : Sys2Proof.PUnit} (v : Sys2Proof.PUnit) (hu : h.isRet u = true) : (h.setRet v true).isRet u = true := by
  revert hu
  unfold Health.setRet Health.isRet
  cases v.kind <;> cases u.kind <;> (intro hu; simp [setBit, hu])

theorem Health.setRet_rest (h : Health) (u : Sys2Proof.PUnit) (b : Bool) : (h.setRet u b).retest = h.retest ∧ (h.setRet u b).selftest = h.selftest := by
  unfold Health.setRet
  split <;> exact ⟨rfl, rfl⟩

theorem Health.isRet_setRet_self (h : Health) {u : Sys2Proof.PUnit} (hk : u.kind = .engine ∨ u.kind = .bank) (hi : u.idx < 16) :
    (h.setRet u true).isRet u = true := by
  unfold Health.setRet Health.isRet
  obtain hk | hk := hk <;> rw [hk] <;> exact getLsbD_setBit_self _ _ (by omega)

theorem State.wakeOne_tested (s : State) (k : UnitKind) (die : Nat) (forRetire : Bool) : Tested s (s.wakeOne k die forRetire) := by
  unfold State.wakeOne
  split
  · exact .refl s
  · split
    · exact .refl s
    · exact ⟨rfl, rfl, fun _ => id⟩

theorem State.modRot_tested (s : State) (k : RotKind) (die : Nat) (f : Rot → Rot) : Tested s (s.modRot k die f) := ⟨rfl, rfl, fun _ => id⟩

theorem State.wakeFor_tested (s : State) (k : UnitKind) (die : Nat) : Tested s (s.wakeFor k die) := by
  unfold State.wakeFor
  split
  · exact s.wakeOne_tested _ _ _
  · dsimp only
    split
    · exact ⟨rfl, rfl, fun _ => id⟩
    · refine .trans (.trans ?_ (State.modRot_tested _ _ _ _)) (State.wakeOne_tested _ _ _ _)
      exact ⟨rfl, rfl, fun _ => id⟩

theorem State.wakeFor_aon (s : State) (k : UnitKind) (die : Nat) : (s.wakeFor k die).aon = s.aon := by
  have hone (s : State) (k : UnitKind) (die : Nat) (b : Bool) : (s.wakeOne k die b).aon = s.aon := by
    unfold State.wakeOne
    split
    · rfl
    · split <;> rfl
  unfold State.wakeFor
  split
  · exact hone _ _ _ _
  · dsimp only
    split
    · rfl
    · exact hone _ _ _ _

theorem ScoreOnly.tested {s t : State} (h : ScoreOnly s t) : Tested s t := .of_hl h.hl

theorem State.freshSpares_tested (s : State) : Tested s s.freshSpares := by
  refine Tested.foldl (fun s r => ?_) _ _
  dsimp only
  split
  · exact (s.modRot_tested _ _ _).trans (State.wakeOne_tested _ _ _ _)
  · exact .refl s

/-- s with the unit retired, before what its kind brings with it. -/
def State.marked (s : State) (u : Sys2Proof.PUnit) : State :=
  let h := (s.hl.setRet u true).setSpare u false
  { s with hl := { h with
    off := h.off.filter (fun v => v != u)
    due := h.due.filter (fun d => d != .retire u && d != .leave u)
    wakes := h.wakes.filter (fun w => w.u != u) } }

theorem State.marked_tested (s : State) (u : Sys2Proof.PUnit) : Tested s (s.marked u) where
  retest := (Health.setSpare_rest _ u false).2.2.2.2.1.trans (s.hl.setRet_rest u true).1
  selftest := (Health.setSpare_rest _ u false).2.2.2.2.2.trans (s.hl.setRet_rest u true).2
  ret v hv := (Health.isRet_setSpare _ u false v).trans (Health.isRet_setRet u hv)

theorem State.retireNow_marks (s : State) (u : Sys2Proof.PUnit) (h : s.hl.isRet u = false) : Tested (s.marked u) (s.retireNow u) := by
  unfold State.retireNow
  rw [if_neg (ne_true_of_eq_false h)]
  extract_lets a b c aon d e f
  have hd : Tested c d := by
    unfold d
    split
    · exact .of_hl rfl
    · exact .refl c
  have he : Tested d e := by
    unfold e
    split
    · unfold State.leaveSeat
      split
      · exact .refl d
      · exact .of_hl rfl
    · exact .refl d
  have hf : Tested e f := by
    unfold f
    split
    · exact .of_hl rfl
    · exact .refl e
  have hstop : Tested f (if (u.kind == UnitKind.tile) = true then f.stopPlls else f) := by
    split
    · exact .of_hl rfl
    · exact .refl f
  exact ((((hd.trans he).trans hf).trans hstop).trans (State.freshSpares_tested _)).trans (State.saveRepair_scoreOnly _).tested

theorem State.retireNow_tested (s : State) (u : Sys2Proof.PUnit) : Tested s (s.retireNow u) := by
  by_cases h : s.hl.isRet u = true
  · rw [State.retireNow, if_pos h]
    exact .refl s
  · exact (s.marked_tested u).trans (s.retireNow_marks u (Bool.not_eq_true _ ▸ h))

/-- An engine or a bank that retires is retired. -/
theorem State.retireNow_isRet (s : State) {u : Sys2Proof.PUnit} (hk : u.kind = .engine ∨ u.kind = .bank) (hi : u.idx < 16) :
    (s.retireNow u).hl.isRet u = true := by
  by_cases h : s.hl.isRet u = true
  · exact (s.retireNow_tested u).ret u h
  · refine (s.retireNow_marks u (Bool.not_eq_true _ ▸ h)).ret u ?_
    exact (Health.isRet_setSpare _ u false u).trans (s.hl.isRet_setRet_self hk hi)

/-- The event of a unit that fails, recorded before it retires. -/
theorem State.selfFail_marks (s : State) (u : Sys2Proof.PUnit) (h : s.hl.isRet u = false) :
    ∃ e : State, Tested s e ∧ Tested (e.retireNow u) (s.selfFail u) := by
  unfold State.selfFail
  rw [if_neg (ne_true_of_eq_false h)]
  extract_lets x near n h' ev e spare f p m r g
  have he : Tested s e := by
    refine .trans ?_ (State.requestRec_scoreOnly _ _ _).tested
    exact ⟨rfl, rfl, fun _ => id⟩
  refine ⟨e, he, ?_⟩
  have hset (s : State) (p : Nat) (m : ChMap) : Tested s (s.setChMap p m) := ⟨rfl, rfl, fun _ => id⟩
  have hg : Tested f g := ⟨(Health.setSpare_rest _ _ _).2.2.2.2.1, (Health.setSpare_rest _ _ _).2.2.2.2.2,
    fun v hv => (Health.isRet_setSpare _ _ _ v).trans hv⟩
  split
  · exact .refl _
  · split
    · exact hset _ _ _
    · split
      · exact hset _ _ _
      · exact (hg.trans (hset _ _ _)).trans (State.saveRepair_scoreOnly _).tested

theorem State.selfFail_tested (s : State) (u : Sys2Proof.PUnit) : Tested s (s.selfFail u) := by
  by_cases h : s.hl.isRet u = true
  · rw [State.selfFail, if_pos h]
    exact .refl s
  · obtain ⟨e, he, hret⟩ := s.selfFail_marks u (Bool.not_eq_true _ ▸ h)
    exact (he.trans (e.retireNow_tested u)).trans hret

theorem State.selfFail_isRet (s : State) {u : Sys2Proof.PUnit} (hk : u.kind = .engine ∨ u.kind = .bank) (hi : u.idx < 16) :
    (s.selfFail u).hl.isRet u = true := by
  by_cases h : s.hl.isRet u = true
  · exact (s.selfFail_tested u).ret u h
  · obtain ⟨e, -, hret⟩ := s.selfFail_marks u (Bool.not_eq_true _ ▸ h)
    exact hret.ret u (e.retireNow_isRet hk hi)

theorem State.foldl_selfFail_isRet (l : List Sys2Proof.PUnit) (s : State) : ∀ u ∈ l, u.kind = .engine ∨ u.kind = .bank → u.idx < 16 →
    (l.foldl State.selfFail s).hl.isRet u = true := by
  induction l generalizing s with
  | nil => exact fun u hu => absurd hu List.not_mem_nil
  | cons v l ih =>
    intro u hu hk hi
    obtain rfl | hu := List.mem_cons.1 hu
    · exact (Tested.foldl State.selfFail_tested l (s.selfFail u)).ret u (s.selfFail_isRet hk hi)
    · exact ih _ u hu hk hi

theorem State.keepOff_tested (s : State) (d : Nat) : Tested s (s.keepOff d) := by
  unfold State.keepOff
  refine .trans (.trans ?_ (Tested.foldl State.retireNow_tested _ _)) (State.saveRepair_scoreOnly _).tested
  exact ⟨rfl, rfl, fun _ => id⟩

theorem State.foldl_wakeFor_aon (l : List Sys2Proof.PUnit) (s : State) :
    (l.foldl (fun s u => s.wakeFor u.kind (unitDie u)) s).aon = s.aon := by
  induction l generalizing s with
  | nil => rfl
  | cons u l ih => exact (ih _).trans (s.wakeFor_aon _ _)

/-- After the self-test: no test runs, what is on has been tested, and the engines and banks that failed are retired. -/
theorem State.selfTest_spec (s : State) (failed : List Sys2Proof.PUnit) : (s.selfTest failed).hl.selftest = false ∧
    (s.selfTest failed).hl.retest = s.hl.retest &&& ~~~(s.selfTest failed).aon.domOn ∧
    ∀ u ∈ failed, u.kind = .engine ∨ u.kind = .bank → u.idx < 16 → (s.selfTest failed).hl.isRet u = true := by
  unfold State.selfTest
  extract_lets hl a served woken b c bad d hl' e f g
  have hbc : Tested b c := .foldl (fun s (w : Wake) => s.wakeOne_tested _ _ _) woken b
  have hcd : Tested c d := .foldl (fun s k => s.keepOff_tested k) bad c
  have hbd : Tested b d := hbc.trans hcd
  have had : Tested a d := (Tested.foldl State.selfFail_tested failed a).trans hbd
  have hef : Tested e f := .foldl (fun s (u : Sys2Proof.PUnit) => s.wakeFor_tested u.kind (unitDie u)) _ e
  have haon : f.aon = e.aon := State.foldl_wakeFor_aon _ e
  have hself : f.hl.selftest = false := hef.selftest.trans had.selftest
  have hretest : f.hl.retest = s.hl.retest &&& ~~~f.aon.domOn := by
    rw [haon]
    exact hef.retest.trans (congrArg (· &&& ~~~d.aon.domOn) had.retest)
  have hret : ∀ u ∈ failed, u.kind = .engine ∨ u.kind = .bank → u.idx < 16 → f.hl.isRet u = true := fun u hu hk hi =>
    hef.ret u (hbd.ret u (State.foldl_selfFail_isRet failed a u hu hk hi))
  split
  · exact ⟨hself, hretest, hret⟩
  · exact ⟨hself, hretest, hret⟩

theorem exec_selfTestComplete {s : State} {failed : List Sys2Proof.PUnit} (ht : s.hl.selftest = true) (h8 : s.aon.bootStep = 8)
    (hb : s.aon.braceAt = none) : exec (.selfTestComplete failed) s =
      .next { s.selfTest failed with aon := { (s.selfTest failed).aon with bootStep := 9 } } := by
  change execSelfTestComplete failed s = _
  unfold execSelfTestComplete
  rw [if_neg]
  simp [ht, h8, hb]

/-- Settles O52, clause by clause; that a spare takes the index of an unreadable channel only after its test is log entry 97. -/
theorem rotationsAndSelfTest : Obligations.RotationsAndSelfTest := by
  unfold Obligations.RotationsAndSelfTest
  intro s
  refine ⟨fun d hb ho => ⟨_, exec_escalationStepSettled d hb ho, s.applySteps_spec d⟩,
    fun k die r t hpat hready hr hstage hperiod hel ht => exec_rotationDue_names hpat hready hr hstage hperiod hel ht,
    fun u w hw hb hpat => ⟨fun hk hi hread => ?_, fun hk hi hunread => ?_, exec_spareTest_fails_channel hw hb hpat,
      fun hk hi => ⟨_, exec_spareTest_lane hw hb hpat hk hi, s.testedOn_eq u⟩, exec_spareTest_passes hw hb hpat, exec_spareTest_fails hw hb hpat⟩,
    fun u k r hk hr ht hb hpat => ⟨fun h3 he hbusy => exec_rotationTarget_engine hk hr ht hb hpat h3 hbusy he,
      fun h3 hbusy => exec_rotationTarget_busy hk hr hbusy, fun h3 he hbusy hwakes => ?_⟩,
    fun k die r hk hr hdue hstage hbegun hpat hel => ?_, fun failed ht h8 hb => ?_⟩
  · have hm : (s.testedOn u).chMap (u.idx / 13) = s.chMap (u.idx / 13) := by rw [s.testedOn_eq]; rfl
    have hexec := exec_spareTest_channel hw hb hpat hk
    rw [hm, if_neg (ne_true_of_eq_false hread)] at hexec
    refine next_of_exec_eq hexec ⟨?_, fun x hx => ?_, ?_⟩
    · rw [State.chMap_setChMap _ (by omega)]
    · simpa using (List.mem_filter.1 hx).2
    · rw [s.testedOn_eq]
      rfl
  · have hm : (s.testedOn u).chMap (u.idx / 13) = s.chMap (u.idx / 13) := by rw [s.testedOn_eq]; rfl
    have hexec := exec_spareTest_channel hw hb hpat hk
    rw [hm, if_pos hunread] at hexec
    have honly := (((s.testedOn u).enterSpare u).setChMap (u.idx / 13)
      { s.chMap (u.idx / 13) with unread := false, pendMove := true }).saveRepair_scoreOnly
    have hmap := State.chMap_setChMap ((s.testedOn u).enterSpare u) (p := u.idx / 13) (by omega)
      { s.chMap (u.idx / 13) with unread := false, pendMove := true }
    have hchmap := hmap
    rw [State.chMap, ← honly.hl] at hchmap
    refine ⟨_, hexec, congrArg ChMap.unread hchmap, congrArg ChMap.pendMove hchmap, ?_, ?_⟩
    · rw [honly.hl]
      change ((s.testedOn u).hl.setSpare u false).isSpare u = false
      unfold Health.setSpare Health.isSpare
      rw [hk]
      exact getLsbD_setBit_self _ _ hi
    · rw [honly.job, s.testedOn_eq]
      rfl
  · obtain ⟨hoffS, hrotsS, hwakesS, -⟩ := Health.setSpare_rest { s.hl with off := s.hl.off.filter fun v => v != u } u true
    have hr' : (s.restsAsSpare u).rot? k (unitDie u) = some r := (State.rot?_congr hrotsS k _).trans hr
    obtain ⟨hjob, hoff, r', hrot, hstage, htarget, hlast⟩ := State.refilled_spec (s := s.restsAsSpare u) (u := u.kind) hr' (by
      rw [show (s.restsAsSpare u).hl.wakes = s.hl.wakes from hwakesS]
      exact hwakes)
    have honly := (((s.restsAsSpare u).endRotation k (unitDie u)).refill u.kind (unitDie u)).saveRepair_scoreOnly
    have hexec := exec_rotationTarget_passes hk hr ht hb hpat h3 hbusy
    rw [if_neg he] at hexec
    refine ⟨_, hexec, honly.job.trans hjob, ?_, r', ?_, hstage, htarget, hlast.trans ht⟩
    · rw [honly.hl, hoff, show (s.restsAsSpare u).hl.off = _ from hoffS]
      exact fun hm => by simpa using (List.mem_filter.1 hm).2
    · rw [State.rot?, honly.hl]
      exact hrot
  · have hrot := State.rot?_modRot (f := fun r => { r with stage := 5, spare := none }) hr fun _ => ⟨rfl, rfl⟩
    refine ⟨_, exec_longRotationTimeout hk hr hdue hstage hbegun hpat hel, rfl,
      ⟨(s.testedInside k die.val r.target).testTimes k die.val, fun he => ?_, rfl⟩, _, hrot, rfl, rfl, rfl⟩
    rw [he]
    rfl
  · obtain ⟨hself, hretest, hret⟩ := s.selfTest_spec failed
    refine next_of_exec_eq (exec_selfTestComplete ht h8 hb) ⟨rfl, hself, fun d hd => ?_, hret⟩
    change (s.selfTest failed).hl.retest.getLsbD d = (s.hl.retest.getLsbD d && !(s.selfTest failed).aon.domOn.getLsbD d)
    rw [hretest, BitVec.getLsbD_and, BitVec.getLsbD_not, decide_eq_true hd, Bool.true_and]

end Sys2Proof.Machine

/-! ## Links (R386, R388, R393 to R396, R402, R403, R408)

O46 fails in one clause: a frame with an uncorrectable FEC codeword counts in FECUNC alone (Table 14-9), not among the dropped frames. -/

namespace Sys2Proof.Machine

open Claim

/-- An uncorrectable FEC codeword leaves the count of dropped frames as it is. -/
theorem exec_peerFrameDropped_uncorrectable (s : State) (port : Fin 12) : ∃ t, exec (.peerFrameDropped port .uncorrectable) s = .next t ∧
    (t.fab.ports.get port).dropped = (s.fab.ports.get port).dropped :=
  ⟨_, rfl, (congrArg PPort.dropped (s.setPPort_self port fun p => { p with fec := satAdd p.fec 1 sat32 }) :)⟩

/-- Refutes O46: at reset a frame dropped for an uncorrectable codeword leaves DROPPED at 0, where the clause for every reason but a bad
check asks for 1. -/
theorem not_linksKeepAckAndRetry : ¬ Obligations.LinksKeepAckAndRetry := by
  unfold Obligations.LinksKeepAckAndRetry
  intro h
  obtain ⟨-, -, -, -, -, -, -, -, hdropped, -⟩ := h State.reset
    { port := 0, retx := false, last := false, ver := 1, epoch := 0, sysid := 0, src := 0, dst := 0, seq := 0, ack := 0, trick := 0,
      attempt := 0, jobid := 0 } 0 0 ⟨0, 0, 0, 0, 1, true, 0, 0, [], 0, 0, 0, false⟩
  obtain ⟨t, hexec, -, -, hone⟩ := hdropped .uncorrectable (by decide)
  obtain ⟨u, hexec', hsame⟩ := exec_peerFrameDropped_uncorrectable State.reset 0
  have htu : t = u := Host.Outcome.next.inj (hexec.symm.trans hexec')
  have hzero : (State.reset.fab.ports.get 0).dropped = 0 := by decide
  rw [htu, hsame, hzero] at hone
  exact absurd hone (by decide)

end Sys2Proof.Machine

/-! ## STATE traffic, refresh, rebuild and repair (R439, R443 to R446, R449, R450, R452, R456, R460)

O48. A STATE frame of the job reaches its handler on the state once the frame has been taken; each handler is then one equation. The
messages' types and layouts are log entry 21, the first-trick message entry 64, the shard length message entry 98. -/

namespace Sys2Proof.Machine

open Claim

/-! ### Arrival -/

@[simp] theorem taken_hl (s : State) (h : FrameHdr) : (taken s h).hl = s.hl := by rw [taken_linkOnly s h]

section
variable {s : State} {h : FrameHdr} (hf : JobFrame s h)
include hf

theorem exec_stateFrame (m : StateMsg) : exec (.stateFrameReceived h m) s = .next ((taken s h).takeState h m).pump := by
  change execStateFrameReceived h m s = _
  unfold execStateFrameReceived
  rw [rxJob_jobFrame hf]
  exact congrArg Host.Outcome.next (if_pos rfl)

theorem exec_refreshDone (point : Nat) (refused : Bool) : exec (.refreshDoneReceived h point refused) s =
    .next ((taken s h).refreshMsg (midOf h.src) point (if refused then .refused else .done)).pump := by
  change execRefreshDoneReceived h point refused s = _
  unfold execRefreshDoneReceived
  rw [rxJob_jobFrame hf]
  exact congrArg Host.Outcome.next (if_pos rfl)

theorem exec_refreshCommit (point : Nat) : exec (.refreshCommitReceived h point) s = .next ((taken s h).takeCommit point).pump := by
  change execRefreshCommitReceived h point s = _
  unfold execRefreshCommitReceived
  rw [rxJob_jobFrame hf]
  exact congrArg Host.Outcome.next (if_pos rfl)

end

/-! ### Refusals, done reports and the commit (R443 to R446) -/

theorem State.refreshMsg_refused (s : State) (src : BitVec 9) (point : Nat) :
    s.refreshMsg src point .refused = s.refuseRefresh point (some src) := if_pos rfl

/-- The point of the refresh under way, before its commit. -/
theorem State.refreshMsg_current {s : State} {f : Refresh} (hf : s.job.recov.refresh = some f) (hc : f.committed = false)
    (src : BitVec 9) {m : RefreshMsg} (hm : m ≠ .refused) :
    s.refreshMsg src f.point m = s.refreshTake f.point (s.rankOf src) (some src) m := by
  have hmine : s.job.recov.refresh.filter (fun g => g.point == f.point) = some f := by
    rw [hf, Option.filter_some, if_pos (beq_self_eq_true f.point)]
  unfold State.refreshMsg
  rw [if_neg hm, hmine]
  exact if_neg (ne_true_of_eq_false hc)

/-- The refusal of a point this member has made no refresh of is passed on to the other neighbours. -/
theorem State.refuseRefresh_unmade {s : State} {point : Nat} (hnone : ∀ f, s.job.recov.refresh = some f → f.point ≠ point)
    (hnew : s.job.recov.failedAt ≠ some point) (src : BitVec 9) : s.refuseRefresh point (some src) =
      ((s.children ++ s.parent.toList).filter (· != src)).foldl (fun (s : State) m => s.sendState m 4 point 0 0 []) { s with
        stat := { s.stat with rfail := true }
        job := { s.job with recov := { s.job.recov with failedAt := some point } } } := by
  have hmine : s.job.recov.refresh.filter (fun f => f.point == point) = none := by
    cases hr : s.job.recov.refresh with
    | none => rfl
    | some f => rw [Option.filter_some, if_neg (by simpa using hnone f hr)]
  have hfilter (l : List (BitVec 9)) : (l.filter fun m => some m != some src) = l.filter (· != src) :=
    List.filter_congr fun m _ => by simp [bne]
  unfold State.refuseRefresh
  rw [hmine]
  dsimp only
  rw [if_neg (by simpa using hnew), hfilter]
  rfl

/-- s once the refresh f has committed here: the other generation holds its parity (R443 step 4). -/
def State.committedTo (s : State) (f : Refresh) : State :=
  let g := !s.stat.gen
  let u := s.setRecov fun r =>
    let r := { r with refresh := some { f with committed := true } }
    if g then { r with par1 := some ⟨f.point, f.building⟩ } else { r with par0 := some ⟨f.point, f.building⟩ }
  { u with stat := { u.stat with gen := g, rp := some f.point, degraded := false } }

theorem State.takeCommit_current {s : State} {f : Refresh} (hf : s.job.recov.refresh = some f) (hc : f.committed = false) :
    s.takeCommit f.point = (s.committedTo f).children.foldl (fun s m => s.sendState m 3 f.point 0 0 []) (s.committedTo f) := by
  unfold State.takeCommit
  rw [hf]
  dsimp only
  rw [if_pos ⟨rfl, by rw [hc]; rfl⟩, State.commitRefresh, hf]
  rfl

theorem State.committedTo_spec (s : State) (f : Refresh) :
    (s.committedTo f).stat = { s.stat with gen := !s.stat.gen, rp := some f.point, degraded := false } ∧
    (s.committedTo f).job.recov.refresh = some { f with committed := true } ∧
    (if s.stat.gen then (s.committedTo f).job.recov.par0 else (s.committedTo f).job.recov.par1) = some ⟨f.point, f.building⟩ := by
  unfold State.committedTo
  cases hg : s.stat.gen
  · exact ⟨rfl, rfl, rfl⟩
  · exact ⟨rfl, rfl, rfl⟩

/-! ### The log -/

/-- The newest entry is in a log with room for one. -/
theorem mem_logAdd {cap : Nat} (hcap : 0 < cap) (l : List LogE) (e : LogE) : e ∈ logAdd cap l e := by
  unfold logAdd
  dsimp only
  rw [List.drop_append_of_le_length (by simp; omega)]
  exact List.mem_append_right _ (List.mem_singleton_self e)

/-- s with a copy of a log entry kept. -/
def State.logKept (s : State) (bytes : List Byte) : State :=
  { s with job := { s.job with recov := { s.job.recov with blog := logAdd blogCap s.job.recov.blog (logOfBytes bytes) } } }

/-! ### Checkpoint steps (R456) -/

/-- The write of w's step acknowledged: its queue pair answers, so its retries start anew. -/
def State.ckAcked (s : State) (w : CkWrite) : State := match (s.region? w.place.1).bind Region.carrier with
  | none => s
  | some q => s.setTries q 0

theorem State.setTries_outputs (s : State) (q : QpRef) (n : Nat) : (s.setTries q n).outbox = s.outbox ∧ (s.setTries q n).heldTx = s.heldTx := by
  unfold State.setTries
  split
  · unfold State.modQp
    split <;> exact ⟨rfl, rfl⟩
  · split <;> exact ⟨rfl, rfl⟩

theorem State.ckAcked_spec (s : State) (w : CkWrite) : HostChange s (s.ckAcked w) ∧ Outputs s (s.ckAcked w) [] := by
  unfold State.ckAcked
  split
  · exact ⟨rfl, outputs_nil rfl rfl⟩
  · obtain ⟨hout, hheld⟩ := s.setTries_outputs _ 0
    exact ⟨s.setTries_only _ 0, outputs_nil hout hheld⟩

theorem exec_checkpointWriteAck {s : State} {w : CkWrite} (hw : s.job.recov.ck = some w) (hseal : w.awaitSeal = false) :
    exec .checkpointWriteAck s = .next (if w.step < 2 then (s.ckAcked w).ckStep { w with step := w.step + 1 }
      else (s.ckAcked w).ckNextTarget (if w.target = 0 then { w with aOk := true } else { w with bOk := true })) := by
  change execCheckpointWriteAck s = _
  unfold execCheckpointWriteAck
  rw [hw]
  dsimp only
  rw [if_neg (ne_true_of_eq_false hseal)]
  split_ifs <;> rfl

/-! ### A rebuild ends (R407, R449, R450) -/

theorem State.takeRefused_rebuilding {s : State} {r : Rebuild} (hr : s.job.recov.rebuild = some r) : ∃ e : State,
    s.takeRefused = e.complete r.cmd 0x01 stABORTED [] ∧ e.job.state = .wiping ∧ e.job.recov.rebuild = none := by
  unfold State.takeRefused
  rw [hr]
  exact ⟨_, rfl, rfl, rfl⟩

/-- The shard of the chunks the substitute holds. -/
def Rebuild.shard (r : Rebuild) (g : Nat) : Shard := shardOfBytes ((List.range (g - 1)).flatMap fun c => match alGet r.chunks c with
  | none => []
  | some (b, _) => b)

/-- The substitute at the recovery point k, RUNNING; the vacancy is yet to be ended on the other members. -/
def State.rebuilt (s : State) (r : Rebuild) (k : Shard) : State :=
  let par : Parity := ⟨k.trick, r.par⟩
  let proof := logFind s.job.recov.blog k.trick
  let g := s.kittySize
  let s := s.setRecov fun q =>
    { q with
      rebuild := none
      shadow := some k
      shadowLog := proof
      par0 := if s.stat.gen then q.par0 else some par
      par1 := if s.stat.gen then some par else q.par1
      room := r.size * (g - 1) + 2 * r.size }
  let s := (s.setTrick k.trick k.cursor).arm k proof stOK
  { s with job := { s.job with state := .running, admission := none }, stat := { s.stat with rp := some k.trick } }

/-- s with every other member told that the vacancy is over. -/
def State.vacancyOver (s : State) : State :=
  (s.ranks.filter fun e => e.mid != s.fab.mid).foldl (fun s e => s.sendState e.mid 15 0 0 0 []) s

theorem FabOnly.foldl {α : Type} {f : State → α → State} (h : ∀ s a, FabOnly s (f s a)) (l : List α) (s : State) : FabOnly s (l.foldl f s) :=
  foldl_rel FabOnly .refl (fun _ _ _ => .trans) f h l s

theorem State.vacancyOver_only (s : State) : FabOnly s s.vacancyOver :=
  FabOnly.foldl (fun s (e : ViewEntry) => s.sendPeer_only e.mid _ _ _ _ _) _ _

/-- Every chunk, the parity of every other member and the log have come. -/
theorem exec_substituteRebuildComplete {s : State} {r : Rebuild} {base g : Nat} (hr : s.job.recov.rebuild = some r)
    (hk : s.kitty = some (base, g)) (hsize : r.size ≠ 0) (hlog : r.logGot = true)
    (hchunks : ∀ c, c < g - 1 → ∃ b n, alGet r.chunks c = some (b, n) ∧ r.size ≤ n)
    (hpar : ∀ k, base ≤ k → k < base + g → k ≠ s.myRank → ∃ n, alGet r.parGot k = some n ∧ r.size ≤ n) :
    exec .substituteRebuildComplete s = .next (((s.rebuilt r (r.shard g)).vacancyOver.complete r.cmd 0x01 stOK
      (leBytes (s.rebuilt r (r.shard g)).vacancyOver.job.feature.toNat 2)).setOwner r.cmd.qp).settle := by
  have hall : (List.range (g - 1)).all (fun c => match alGet r.chunks c with
      | none => false
      | some (_, n) => decide (n ≥ r.size)) = true := by
    refine List.all_eq_true.2 fun c hc => ?_
    obtain ⟨b, n, hget, hn⟩ := hchunks c (List.mem_range.1 hc)
    rw [hget]
    exact decide_eq_true hn
  have hothers : s.kittyOthers.all (fun k => decide ((alGet r.parGot k).getD 0 ≥ r.size)) = true := by
    refine List.all_eq_true.2 fun k hmem => ?_
    rw [State.kittyOthers, hk] at hmem
    obtain ⟨hm, hne⟩ := List.mem_filter.1 hmem
    obtain ⟨i, hi, rfl⟩ := List.mem_map.1 hm
    obtain ⟨n, hget, hn⟩ := hpar (base + i) (Nat.le_add_right _ _) (Nat.add_lt_add_left (List.mem_range.1 hi) _) (of_decide_eq_true hne)
    rw [hget]
    exact decide_eq_true hn
  have hg : s.kittySize = g := by rw [State.kittySize, hk]
  change execSubstituteRebuildComplete s = _
  unfold execSubstituteRebuildComplete
  rw [hr]
  dsimp only
  rw [hg, hlog, hothers, decide_eq_true hsize, if_neg]
  · simp only [State.rebuilt, State.vacancyOver, Rebuild.shard, hg] <;> rfl
  · rw [Bool.true_and, Bool.and_true, Bool.and_true]
    intro hn
    rw [Bool.not_eq_true'] at hn
    exact absurd (hall.symm.trans hn) (by decide)

theorem State.rebuilt_recov (s : State) (r : Rebuild) (k : Shard) : (s.rebuilt r k).job.recov.rebuild = none ∧
    (s.rebuilt r k).job.recov.shadow = some k ∧
    (s.rebuilt r k).job.recov.par0 = (if s.stat.gen then s.job.recov.par0 else some ⟨k.trick, r.par⟩) ∧
    (s.rebuilt r k).job.recov.par1 = (if s.stat.gen then some ⟨k.trick, r.par⟩ else s.job.recov.par1) := ⟨rfl, rfl, rfl, rfl⟩

theorem State.rebuilt_job (s : State) (r : Rebuild) (k : Shard) : (s.rebuilt r k).job.state = .running ∧
    (s.rebuilt r k).job.admission = none ∧ (s.rebuilt r k).job.feature = s.job.feature := by
  refine ⟨rfl, rfl, ?_⟩
  simp only [State.rebuilt, State.arm, State.setTrick, State.setRecov]

theorem State.rebuilt_stat (s : State) (r : Rebuild) (k : Shard) : (s.rebuilt r k).stat.rp = some k.trick ∧
    (s.rebuilt r k).stat.sealedN = k.trick ∧ (s.rebuilt r k).stat.cursor = k.cursor := ⟨rfl, rfl, rfl⟩

/-! ### Stripe repair (R452) -/

/-- What is answered to a request for a stripe of the buffer it names: the stripe, or that no such buffer is exported or no such stripe is there. -/
def State.stripeAnswer (s : State) (y? : Option Buffer) (stripe : Nat) : Nat × List Byte := match y? with
  | none => (1, [])
  | some y => if s.hl.lost.contains (y.id, stripe) then (2, []) else (0, s.job.stripeData y stripe)

theorem State.takeState_stripe (s : State) (h : FrameHdr) (bufid : BitVec 12) (stripe : Nat) (fmt : BitVec 3) (rows cols : Nat)
    (mode block dir : BitVec 2) : s.takeState h (.stripeRequest bufid stripe fmt rows cols mode block dir) =
      s.sendState (midOf h.src) 12 (s.stripeAnswer (s.job.stripeOf bufid fmt rows cols mode block dir) stripe).1 bufid.toNat stripe
        (s.stripeAnswer (s.job.stripeOf bufid fmt rows cols mode block dir) stripe).2 := by
  unfold State.takeState State.stripeAnswer
  dsimp only <;> cases s.job.stripeOf bufid fmt rows cols mode block dir <;> rfl

section
variable {s : State} {buf stripe : Nat} {src : BitVec 9} {y : Buffer} (hlost : (buf, stripe) ∈ s.hl.lost) (hy : s.job.buf? buf = some y)
include hlost hy

theorem exec_stripeRepair_stripe (data : List Byte) : exec (.streamStripeRepair buf stripe ⟨src, .stripe data⟩) s = .next ({ s with
    hl := { s.hl with lost := s.hl.lost.filter fun e => e != (buf, stripe) }
    job := s.job.putStripe y stripe data } : State).pump := by
  change execStreamStripeRepair buf stripe ⟨src, .stripe data⟩ s = _
  unfold execStreamStripeRepair
  rw [if_neg (by simpa using hlost), hy]

/-- A stripe no member can give. -/
theorem exec_stripeRepair_gone {a : StripeAns} (ha : a = .damaged ∨ (a = .notHeld ∧ s.askable (s.rankOf src + 1) = [])) :
    exec (.streamStripeRepair buf stripe ⟨src, a⟩) s = .next (s.stripeGone y stripe).pump := by
  change execStreamStripeRepair buf stripe ⟨src, a⟩ s = _
  unfold execStreamStripeRepair
  rw [if_neg (by simpa using hlost), hy]
  dsimp only
  obtain rfl | ⟨rfl, hnone⟩ := ha
  · rfl
  · cases y.exp with
    | none => rfl
    | some x =>
      dsimp only
      rw [hnone]
      rfl

theorem exec_stripeRepair_nextRank {e : ViewEntry} {rest : List ViewEntry} (hask : s.askable (s.rankOf src + 1) = e :: rest) {id : Nat}
    {w : Bool × Option Nat} (hexp : y.exp = some (id, w)) : ∃ d, exec (.streamStripeRepair buf stripe ⟨src, .notHeld⟩) s =
      .next (s.sendState e.mid 11 stripe id 0 d) := by
  change ∃ d, execStreamStripeRepair buf stripe ⟨src, .notHeld⟩ s = _
  unfold execStreamStripeRepair
  rw [if_neg (by simpa using hlost), hy]
  dsimp only
  rw [hexp]
  dsimp only
  rw [hask, State.askFrom, hask]
  exact ⟨_, rfl⟩

end

/-- The members that may still be asked after one. -/
theorem State.askable_after (s : State) (src : BitVec 9) : s.askable (s.rankOf src + 1) =
    s.ranks.filter fun e => e.mid != s.fab.mid && decide (s.rankOf src < e.rank.toNat) := rfl

/-- Settles O48, by the handler of each message on the state once the frame has been taken. -/
theorem refreshAndRepairTraffic : Obligations.RefreshAndRepairTraffic := by
  unfold Obligations.RefreshAndRepairTraffic
  intro s h b src
  have hjob : b.job = s.job := taken_job s h
  refine ⟨fun hf => ⟨fun point hnone hnew => ?_, fun point p len hp => ?_, fun bytes => ?_, fun bufid stripe fmt rows cols mode block dir => ?_,
      fun t => ?_, fun r hr => ?_, fun f hr hc => ⟨?_, fun len => ?_, ?_, ?_, ?_⟩⟩,
    fun f hr hc hck => ⟨{ s with job := { s.job with recov := { s.job.recov with shadow := some f.pinned } } }, ?_, rfl⟩,
    fun w hw hseal => ⟨s.ckAcked w, (s.ckAcked_spec w).1, (s.ckAcked_spec w).2, fun hs => ?_, fun hs ht => ?_, fun hs ht => ?_⟩,
    fun r base g part hr hk hsize hlog hchunks hpar => ?_, fun buf stripe from_ data y hlost hy => ?_⟩
  · have hrefresh : ∀ f, b.job.recov.refresh = some f → f.point ≠ point := by rw [hjob]; exact hnone
    have hfailed : b.job.recov.failedAt ≠ some point := by rw [hjob]; exact hnew
    rw [exec_stateFrame hf]
    exact congrArg (fun t => Host.Outcome.next (State.pump t)) (State.refuseRefresh_unmade hrefresh hfailed src)
  · rw [exec_stateFrame hf]
    have hother : b.takeState h (.shardLength point p len) = b.otherP src point := if_pos (by rw [hjob]; exact hp)
    exact congrArg (fun t => Host.Outcome.next (State.pump t)) hother
  · refine ⟨b.logKept bytes, exec_stateFrame hf _, ?_, ?_, ?_⟩
    · have hroom : 0 < blogCap := by norm_num [blogCap]
      dsimp only [State.logKept]
      exact mem_logAdd hroom _ _
    · rw [State.logKept, ← hjob]
    · rw [State.logKept, ← hjob]
  · have hanswer {k : Nat} {d : List Byte} (hk : b.stripeAnswer (s.job.stripeOf bufid fmt rows cols mode block dir) stripe = (k, d)) :
        exec (.stateFrameReceived h (.stripeRequest bufid stripe fmt rows cols mode block dir)) s =
          .next (b.sendState src 12 k bufid.toNat stripe d).pump := by
      rw [exec_stateFrame hf, State.takeState_stripe, taken_job, hk]
    refine ⟨fun hnone => hanswer ?_, fun y hy => ⟨fun hl => hanswer ?_, fun hl => hanswer ?_⟩⟩
    · rw [hnone]
      rfl
    · rw [hy]
      exact if_pos (by rw [taken_hl]; simpa using hl)
    · rw [hy, State.stripeAnswer, hjob]
      exact if_neg (by rw [taken_hl]; simpa using hl)
  · rw [exec_stateFrame hf]
    refine congrArg (fun t => Host.Outcome.next (State.pump t)) ?_
    change (if t = b.stat.sealedN then b else b.trickSkew) = _
    rw [taken_stat]
  · obtain ⟨e, he, hstate, hrebuild⟩ := State.takeRefused_rebuilding (s := b) (r := r) (by rw [hjob]; exact hr)
    exact ⟨e, (exec_stateFrame hf _).trans (congrArg (fun t => Host.Outcome.next (State.pump t)) he), hstate, hrebuild⟩
  · rw [exec_stateFrame hf]
    exact congrArg (fun t => Host.Outcome.next (State.pump t)) (b.refreshMsg_refused src f.point)
  · have hmine : b.job.recov.refresh = some f := by rw [hjob]; exact hr
    have hlen : b.takeState h (.shardLength f.point s.job.recov.p len) = b.refreshMsg src f.point (.length len) :=
      if_neg (by rw [hjob]; exact not_not_intro rfl)
    rw [exec_stateFrame hf, hlen, State.refreshMsg_current hmine hc src (by rintro ⟨⟩)]
    rfl
  · rw [exec_refreshDone hf]
    exact congrArg (fun t => Host.Outcome.next (State.pump t)) (b.refreshMsg_refused src f.point)
  · have hmine : b.job.recov.refresh = some f := by rw [hjob]; exact hr
    rw [exec_refreshDone hf]
    exact congrArg (fun t => Host.Outcome.next (State.pump t)) (State.refreshMsg_current hmine hc src (by decide))
  · have hmine : b.job.recov.refresh = some f := by rw [hjob]; exact hr
    obtain ⟨hstat, hcommitted, hparity⟩ := b.committedTo_spec f
    refine ⟨b.committedTo f, ?_, hstat, hcommitted, hparity⟩
    rw [exec_refreshCommit hf, State.takeCommit_current hmine hc]
  · change execShadowCopyComplete s = _
    unfold execShadowCopyComplete State.copyShadow
    rw [hr]
    dsimp only
    rw [if_pos (by rw [hc, hck]; rfl)]
    rfl
  · rw [exec_checkpointWriteAck hw hseal, if_pos hs]
  · rw [exec_checkpointWriteAck hw hseal, if_neg (by omega), if_pos ht]
  · rw [exec_checkpointWriteAck hw hseal, if_neg (by omega), if_neg ht]
  · have hshard : r.shard g = shardOfBytes ((List.range (g - 1)).flatMap fun c => (part c).1) := by
      refine congrArg shardOfBytes (List.flatMap_congr fun c hc => ?_)
      rw [(hchunks c (List.mem_range.1 hc)).1]
    have hexec := exec_substituteRebuildComplete hr hk hsize hlog
      (fun c hc => ⟨_, _, (hchunks c hc).1, (hchunks c hc).2⟩) hpar
    rw [← hshard]
    have honly := (s.rebuilt r (r.shard g)).vacancyOver_only
    obtain ⟨hstate, hadm, hfeature⟩ := s.rebuilt_job r (r.shard g)
    obtain ⟨hrebuild, hshadow, hpar0, hpar1⟩ := s.rebuilt_recov r (r.shard g)
    obtain ⟨hrp, hsealed, hcursor⟩ := s.rebuilt_stat r (r.shard g)
    rw [honly.job, hfeature] at hexec
    refine ⟨_, hexec, ?_⟩
    rw [honly.job, honly.stat, hpar0, hpar1]
    refine ⟨hstate, hadm, hrebuild, hshadow, hrp, hsealed, hcursor, ?_⟩
    split_ifs <;> rfl
  · have hid : y.id = buf := by simpa using List.find?_some hy
    intro nextMem gone
    have hgone {a : StripeAns} (ha : a = .damaged ∨ (a = .notHeld ∧ s.askable (s.rankOf from_ + 1) = [])) : gone a := by
      refine ⟨_, exec_stripeRepair_gone hlost hy ha, rfl, fun x hx => ?_⟩
      have hne := (List.mem_filter.1 hx).2
      rw [hid] at hne
      simpa using hne
    refine ⟨⟨_, exec_stripeRepair_stripe hlost hy data, fun hm => by simpa using (List.mem_filter.1 hm).2, rfl⟩, hgone (.inl rfl),
      fun hnone => hgone (.inr ⟨rfl, List.head?_eq_none_iff.1 hnone⟩), fun x id hx hexp => ?_⟩
    obtain ⟨w, hw⟩ := hexp
    obtain ⟨rest, hask⟩ := List.head?_eq_some_iff.1 hx
    exact exec_stripeRepair_nextRank hlost hy hask hw

end Sys2Proof.Machine

/-! ## Views installed (R398 to R402)

O37. Between the moment a view is put in force and the end of its installation the rounds, seals, voids and reports that follow keep
the view and the agreement (`SameMemb`), so what `State.install` leaves is what it wrote first. -/

namespace Sys2Proof.Machine

open Claim

/-! ### Steps that keep the view and the agreement -/

/-- t has the view, the agreement and the standing of s, and holds no frame that s does not. -/
structure SameMemb (s t : State) : Prop where
  epoch : t.fab.epoch = s.fab.epoch
  view : t.fab.view = s.fab.view
  promised : t.fab.promised = s.fab.promised
  accepted : t.fab.accepted = s.fab.accepted
  coord : t.fab.coord = s.fab.coord
  overridden : t.fab.overridden = s.fab.overridden
  self : t.fab.self = s.fab.self
  held : t.fab.held ⊆ s.fab.held

theorem SameMemb.refl (s : State) : SameMemb s s := ⟨rfl, rfl, rfl, rfl, rfl, rfl, rfl, List.Subset.refl _⟩

theorem SameMemb.trans {s t u : State} (h : SameMemb s t) (k : SameMemb t u) : SameMemb s u :=
  ⟨k.epoch.trans h.epoch, k.view.trans h.view, k.promised.trans h.promised, k.accepted.trans h.accepted, k.coord.trans h.coord,
    k.overridden.trans h.overridden, k.self.trans h.self, List.Subset.trans k.held h.held⟩

theorem SameMemb.foldl {α : Type} {f : State → α → State} (hf : ∀ s a, SameMemb s (f s a)) (l : List α) (s : State) :
    SameMemb s (l.foldl f s) :=
  foldl_rel SameMemb .refl (fun _ _ _ => .trans) f hf l s

/-- The loop runs on what an earlier step left. -/
theorem SameMemb.thenFoldl {α : Type} {f : State → α → State} {l : List α} {s t : State} (h : SameMemb s t)
    (hf : ∀ s a, SameMemb s (f s a)) : SameMemb s (l.foldl f t) := h.trans (.foldl hf l t)

/-- A step that leaves the fabric as it is keeps the view and the agreement. -/
theorem SameMemb.of_fab {s t : State} (h : t.fab = s.fab) : SameMemb s t := by
  constructor <;> rw [h]
  exact List.Subset.refl _

/-- A further step that leaves the fabric as it is. -/
theorem SameMemb.toFab {s t u : State} (h : SameMemb s t) (k : u.fab = t.fab) : SameMemb s u := h.trans (.of_fab k)

/-- An earlier step that leaves the fabric as it is. -/
theorem SameMemb.fromFab {s t u : State} (h : SameMemb t u) (k : t.fab = s.fab) : SameMemb s u := .trans (.of_fab k) h

/-- The rounds of a reconciliation and a rewind due are no part of the agreement. -/
theorem SameMemb.ofRounds (s : State) (f : Fab) (h : f = { s.fab with
    rewindDue := f.rewindDue, recons := f.recons, reconciling := f.reconciling, reconWait := f.reconWait }) :
    SameMemb s { s with fab := f } := by
  constructor <;> rw [h]
  exact List.Subset.refl _

theorem HostOnly.sameMemb {s t : State} (h : HostOnly s t) : SameMemb s t := .of_fab h.fab
theorem LinkOnly.sameMemb {s t : State} (h : LinkOnly s t) : SameMemb s t := by
  constructor <;> rw [h]
  exact List.Subset.refl _
theorem TableOnly.sameMemb {s t : State} (h : TableOnly s t) : SameMemb s t := .of_fab (by rw [h.only])

theorem SameMemb.ite_snd {s : State} {p : Prop} [Decidable p] {a b : Bool × State} (ha : SameMemb s a.2) (hb : SameMemb s b.2) :
    SameMemb s (if p then a else b).2 := by
  split
  · exact ha
  · exact hb

theorem SameMemb.ite {s : State} {p : Prop} [Decidable p] {a b : State} (ha : SameMemb s a) (hb : SameMemb s b) :
    SameMemb s (if p then a else b) := by
  split
  · exact ha
  · exact hb

theorem State.sendPeer_sameMemb (s : State) (m : BitVec 9) (cls : Byte) (t : Nat) (a : Byte) (l : List Byte) (last : Bool) :
    SameMemb s (s.sendPeer m cls t a l last) := by
  unfold State.sendPeer
  refine .ite (.refl s) ?_
  dsimp only
  split
  · exact (s.putFrame_linkOnly _ _ _).sameMemb
  · exact LinkOnly.sameMemb rfl

theorem State.setRecov_sameMemb (s : State) (f : Recov → Recov) : SameMemb s (s.setRecov f) := .of_fab rfl
theorem State.sendState_sameMemb (s : State) (m : BitVec 9) (ty point p off : Nat) (data : List Byte) :
    SameMemb s (s.sendState m ty point p off data) :=
  s.sendPeer_sameMemb _ _ _ _ _ _

/-! ### Checkpoints and refreshes -/

theorem State.ckPut_sameMemb (s : State) (w : CkWrite) : SameMemb s (s.ckPut w).2 := by
  unfold State.ckPut
  dsimp only
  split
  · exact .refl s
  · split
    · exact .refl s
    · exact .ite_snd (State.lose_only s .bytes).sameMemb (State.send_hostOnly s _).sameMemb

theorem State.ckFinish_sameMemb (s : State) (w : CkWrite) : SameMemb s (s.ckFinish w) := by
  unfold State.ckFinish
  dsimp only
  refine .thenFoldl (.of_fab rfl) fun s h => ?_
  split <;> exact (State.complete_only _ _ _ _ _).sameMemb

theorem State.ckNextTarget_sameMemb (s : State) (w : CkWrite) : SameMemb s (s.ckNextTarget w) := by
  unfold State.ckNextTarget
  split
  · dsimp only
    split
    · exact (s.ckPut_sameMemb _).trans (State.setRecov_sameMemb _ _)
    · exact (s.ckPut_sameMemb _).trans (State.ckFinish_sameMemb _ _)
  · exact s.ckFinish_sameMemb w

theorem State.ckStep_sameMemb (s : State) (w : CkWrite) : SameMemb s (s.ckStep w) := by
  unfold State.ckStep
  split
  · exact s.setRecov_sameMemb _
  · dsimp only
    split
    · exact (s.ckPut_sameMemb w).trans (State.setRecov_sameMemb _ _)
    · exact (s.ckPut_sameMemb w).trans (State.ckNextTarget_sameMemb _ w)

theorem State.failRefresh_sameMemb (s : State) : SameMemb s s.failRefresh := by
  unfold State.failRefresh
  split
  · exact .refl s
  · split
    · exact .refl s
    · exact .trans (t := { s with stat := { s.stat with rfail := true } }) (.of_fab rfl)
        ((State.setRecov_sameMemb _ _).trans (State.setRecov_sameMemb _ _))

theorem State.commitRefresh_sameMemb (s : State) : SameMemb s s.commitRefresh := by
  unfold State.commitRefresh
  split
  · exact .refl s
  · exact .thenFoldl (.of_fab rfl) fun s m => s.sendState_sameMemb m 3 _ 0 0 []

theorem State.checkDone_sameMemb (s : State) : SameMemb s s.checkDone := by
  unfold State.checkDone
  split
  · exact .refl s
  · dsimp only
    split
    · split
      · exact (s.setRecov_sameMemb _).trans (State.commitRefresh_sameMemb _)
      · exact (s.setRecov_sameMemb _).trans (State.sendState_sameMemb _ _ _ _ _ _ _)
    · exact .refl s

theorem State.refuseRefresh_sameMemb (s : State) (point : Nat) (m : Option (BitVec 9)) : SameMemb s (s.refuseRefresh point m) := by
  unfold State.refuseRefresh
  dsimp only
  split
  · exact .refl s
  · refine .thenFoldl (.trans ?_ (State.setRecov_sameMemb _ _)) fun s m => s.sendState_sameMemb m 4 _ 0 0 []
    split
    · exact s.failRefresh_sameMemb
    · exact .of_fab rfl

theorem State.refreshSettle_sameMemb (s : State) : SameMemb s s.refreshSettle := by
  unfold State.refreshSettle
  split
  · exact .refl s
  · split
    · exact (s.setRecov_sameMemb _).trans (State.checkDone_sameMemb _)
    · exact .refl s

theorem State.refreshPiece_sameMemb (s : State) (rank off : Nat) (data : List Byte) : SameMemb s (s.refreshPiece rank off data) := by
  unfold State.refreshPiece
  split
  · exact .refl s
  · exact (s.setRecov_sameMemb _).trans (State.refreshSettle_sameMemb _)

theorem State.refreshDone_sameMemb (s : State) (rank : Nat) : SameMemb s (s.refreshDone rank) := by
  unfold State.refreshDone
  split
  · exact .refl s
  · exact (s.setRecov_sameMemb _).trans (State.checkDone_sameMemb _)

theorem State.sendPieces_sameMemb (m : BitVec 9) (ty point p n off : Nat) (d : List Byte) (s : State) :
    SameMemb s (s.sendPieces m ty point p n off d) := by
  induction n generalizing s off d with
  | zero => exact .refl s
  | succ n ih =>
    unfold State.sendPieces
    split
    · exact .refl s
    · exact (s.sendPeer_sameMemb _ _ _ _ _ _).trans (ih _ _ _)

theorem State.sendChunks_sameMemb (s : State) (f : Refresh) (z : Nat) : SameMemb s (s.sendChunks f z) := by
  refine .foldl (fun s c => ?_) _ s
  split
  · exact .refl s
  · exact State.sendPieces_sameMemb _ _ _ _ _ _ _ s

theorem State.refreshLength_sameMemb (s : State) (rank len : Nat) : SameMemb s (s.refreshLength rank len) := by
  unfold State.refreshLength
  split
  · exact .refl s
  · dsimp only
    refine .ite (s.setRecov_sameMemb _) (.ite ?_ ?_)
    · refine .trans ?_ (State.refuseRefresh_sameMemb _ _ _)
      exact .of_fab rfl
    · refine .trans ?_ ((State.sendChunks_sameMemb _ _ _).trans
        ((State.checkDone_sameMemb _).trans (State.refreshSettle_sameMemb _)))
      exact .of_fab rfl

theorem State.refreshTake_sameMemb (s : State) (point rank : Nat) (src : Option (BitVec 9)) (m : RefreshMsg) :
    SameMemb s (s.refreshTake point rank src m) := by
  cases m with
  | length n => exact s.refreshLength_sameMemb rank n
  | piece off d => exact s.refreshPiece_sameMemb rank off d
  | done => exact s.refreshDone_sameMemb rank
  | refused => exact s.refuseRefresh_sameMemb point src

theorem State.takeEarly_sameMemb (s : State) : SameMemb s s.takeEarly := by
  unfold State.takeEarly
  split
  · exact .refl s
  · exact .thenFoldl (State.setRecov_sameMemb _ _) fun s e => s.refreshTake_sameMemb _ _ _ _

theorem State.startRefresh_sameMemb (s : State) (ckpt fromShadow : Bool) : SameMemb s (s.startRefresh ckpt fromShadow) := by
  unfold State.startRefresh
  split
  · exact .of_fab rfl
  · dsimp only
    split
    · exact .of_fab rfl
    · refine .trans (.thenFoldl (State.setRecov_sameMemb _ _) fun s r => ?_)
        ((State.refreshLength_sameMemb _ _ _).trans (State.takeEarly_sameMemb _))
      split
      · exact .refl s
      · exact s.sendState_sameMemb _ _ _ _ _ _

theorem State.ckAtSeal_sameMemb (s : State) : SameMemb s s.ckAtSeal := by
  unfold State.ckAtSeal
  split
  · exact .refl s
  · split
    · exact s.ckStep_sameMemb _
    · exact .refl s

theorem State.pointCheck_sameMemb (s : State) : SameMemb s s.pointCheck :=
  s.ckAtSeal_sameMemb.trans (.ite (s.ckAtSeal.startRefresh_sameMemb _ false) (.refl s.ckAtSeal))

/-! ### Token rings -/

theorem State.ringEntry_sameMemb (s : State) (r : Req) (hold : Option Nat) (l : List Byte) : SameMemb s (s.ringEntry r hold l) := by
  unfold State.ringEntry
  dsimp only
  split
  · exact (State.writeRegion_only s _ _ _ _ _ _).sameMemb
  · exact (State.release_only s _).sameMemb

theorem State.modReq_sameMemb (s : State) (r : Req) (f : Req → Req) : SameMemb s (s.modReq r f) := .of_fab rfl

theorem State.gcReqs_sameMemb (s : State) : SameMemb s s.gcReqs := .of_fab rfl

theorem State.reqCompl_sameMemb (s : State) (ring : Fin 128) (hold : Option Nat) (status : Byte) (reqid : Dword) (kind : Byte) :
    SameMemb s (s.reqCompl ring hold status reqid kind) := by
  unfold State.reqCompl
  split
  · exact s.dropCompl_only.sameMemb
  · dsimp only
    split
    · exact (State.postTo_only s _ _ _).sameMemb
    · exact (State.release_only s _).sameMemb

theorem State.countEnd_sameMemb (s : State) (status : Byte) : SameMemb s (s.countEnd status) := .of_fab rfl

theorem State.cancelsDone_sameMemb (r : Req) (hold : Option Nat) (status : Byte) (n : Nat) (s : State) :
    SameMemb s (s.cancelsDone r hold status n) := by
  induction n generalizing s with
  | zero => exact .refl s
  | succ n ih => exact (s.reqCompl_sameMemb _ _ _ _ _).trans (ih _)

theorem State.endReq_sameMemb (s : State) (r : Req) (status : Byte) (hold : Option Nat) (step : Nat) :
    SameMemb s (s.endReq r status hold step) := by
  unfold State.endReq
  exact .trans (s.ringEntry_sameMemb r hold _) (.trans (State.countEnd_sameMemb _ status)
    (.trans (State.cancelsDone_sameMemb r hold _ r.cancels _) (State.modReq_sameMemb _ r _)))

theorem State.releaseToks_sameMemb (n slot : Nat) (l : List TokStage) (s : State) : SameMemb s (s.releaseToks n slot l) := by
  induction l generalizing s with
  | nil => exact .refl s
  | cons t rest ih =>
    unfold State.releaseToks
    split
    · exact .refl s
    next r _ =>
      refine .trans ?_ (ih _)
      refine .ite ((s.ringEntry_sameMemb r (some n) _).toFab rfl) ((s.ringEntry_sameMemb r (some n) _).toFab rfl)

theorem State.resolveReq_sameMemb (s : State) (n : Nat) (e : PlanE) : SameMemb s (s.resolveReq n e) := by
  unfold State.resolveReq
  split
  · exact .refl s
  · split
    · exact .refl s
    · exact .ite (s.endReq_sameMemb _ _ _ _) (.ite (s.endReq_sameMemb _ _ _ _) (State.releaseToks_sameMemb n _ _ s))

theorem State.resolvePlan_sameMemb (s : State) (n : Nat) : SameMemb s (s.resolvePlan n) := by
  unfold State.resolvePlan
  split
  · exact .refl s
  · exact .foldl (fun s e => s.resolveReq_sameMemb n e) _ s

theorem State.releaseStaged_sameMemb (s : State) (n : Nat) : SameMemb s (s.releaseStaged n) := by
  have write (u : State) (w : Staged) : SameMemb u (match w with
      | .host t _ rn off d => u.release (.write t rn off d false)
      | .emit t => u.resolvePlan t) := by
    cases w with
    | host t _ rn off d => exact (u.release_only _).sameMemb
    | emit t => exact u.resolvePlan_sameMemb t
  unfold State.releaseStaged
  dsimp only
  refine .trans ?_ (State.gcReqs_sameMemb _)
  have h := SameMemb.foldl write
  split
  · exact (h _ _).toFab rfl
  · exact ((h _ _).trans (State.resolvePlan_sameMemb _ n)).toFab rfl

/-! ### The seal -/

theorem State.sealUpdate_sameMemb (s : State) (t : Nat) (commit : Bool) : SameMemb s (s.sealUpdate t commit) := by
  unfold State.sealUpdate
  split
  · exact .refl s
  · dsimp only
    refine .ite (.of_fab rfl) (.ite (.of_fab rfl) (.trans ?_ (State.release_only _ _).sameMemb))
    exact .of_fab rfl

theorem State.lagSwap_sameMemb (s : State) : SameMemb s s.lagSwap := by
  unfold State.lagSwap State.lagSwapN
  refine .ite (.of_fab rfl) ?_
  dsimp only
  split
  · exact .of_fab rfl
  · exact .of_fab rfl
  · exact .of_fab rfl
  · exact .ite (.of_fab rfl) (.of_fab rfl)

theorem State.takeHeldData_sameMemb (s : State) : SameMemb s s.takeHeldData := by
  unfold State.takeHeldData
  dsimp only
  refine .thenFoldl ⟨rfl, rfl, rfl, rfl, rfl, rfl, rfl, List.filter_subset_self _⟩ fun s i => ?_
  split
  · exact .of_fab rfl
  · exact .refl s

theorem State.settleLag_sameMemb (s : State) : SameMemb s s.settle.lagSwap.settle :=
  (State.settle_only s).sameMemb.trans ((State.lagSwap_sameMemb _).trans (State.settle_only _).sameMemb)

theorem State.applySeal_sameMemb (s : State) (commit : Bool) : SameMemb s (s.applySeal commit) := by
  unfold State.applySeal
  extract_lets t r job s1 s2 s3 e s4 j0 j stat s5 s6 s7 s8 s9 s10
  have h2 : SameMemb s s2 := .trans (t := s1) (.of_fab rfl) (s1.sealUpdate_sameMemb t commit)
  have h5 : SameMemb s s5 := h2.toFab rfl
  have h6 : SameMemb s5 s6 := .ite (.of_fab rfl) (.refl s5)
  have h9 : SameMemb s6 s9 := (s6.releaseStaged_sameMemb t).trans
    (.trans (.ite (State.release_only _ _).sameMemb (.refl _)) s8.flushHeld_only.sameMemb)
  have h10 : SameMemb s9 s10 := by
    dsimp only [s10]
    split
    · exact .refl s9
    · split
      · exact .refl s9
      · exact s9.sendState_sameMemb _ _ _ _ _ _
  exact h5.trans (h6.trans (h9.trans (h10.trans (s10.takeHeldData_sameMemb.trans
    ((State.pointCheck_sameMemb _).trans (State.settleLag_sameMemb _))))))

/-! ### The void -/

theorem State.servePublish_sameMemb (s : State) : SameMemb s s.servePublish := by
  unfold State.servePublish
  refine .ite (.refl s) (.foldl (fun s p => .ite (.refl s) ?_) _ s)
  split
  · exact .refl s
  · exact .of_fab rfl

theorem State.applyVoid_sameMemb (s : State) (t : Nat) (halt : Bool) (cause : BitVec 4) (origin : BitVec 16) :
    SameMemb s (s.applyVoid t halt cause origin) := by
  unfold State.applyVoid
  split
  · exact .refl s
  next r0 _ =>
    extract_lets s1 oldest wrote dirty gone spills j1 j2 lost j3 j4 s2 s3 s4 s5
    have h3 : SameMemb s s3 := .trans (t := s2) (.of_fab rfl) (.trans (t := s2.voidServe t) (.of_fab rfl)
      ((State.servePublish_sameMemb _).trans (State.takeHeldData_sameMemb _)))
    have h4 : SameMemb s3 s4 := .ite (State.release_only _ _).sameMemb (.refl s3)
    have h5 : SameMemb s4 s5 := .ite (State.release_only _ _).sameMemb (.refl s4)
    exact h3.trans (h4.trans (h5.trans s5.settleLag_sameMemb))

/-! ### Decisions and votes -/

theorem State.applied_sameMemb (s : State) (t : Nat) (v : Verdict) (commit : Bool) (cause : BitVec 4) (origin : BitVec 16) :
    SameMemb s (s.applied t v commit cause origin) := by
  cases v with
  | ok => exact .ite (s.applySeal_sameMemb commit) (.refl s)
  | void => exact s.applyVoid_sameMemb t false cause origin
  | halt => exact s.applyVoid_sameMemb t true cause origin

theorem State.decided_sameMemb (s : State) (t : Nat) (v : Verdict) (commit : Bool) (cause : BitVec 4) (origin : BitVec 16) :
    SameMemb s (s.decided t v commit cause origin) :=
  .thenFoldl (s.applied_sameMemb t v commit cause origin) fun s m => s.sendPeer_sameMemb m _ _ _ _ _

theorem State.modTrick_sameMemb (s : State) (t : Nat) (f : TrickRec → TrickRec) : SameMemb s (s.modTrick t f) :=
  .ite (.of_fab rfl) (.ite (.of_fab rfl) (.refl s))

theorem State.rootSeal_sameMemb (s : State) : SameMemb s s.rootSeal :=
  .ite (s.decided_sameMemb _ _ _ _ _) (.refl s)

theorem State.sendVote_sameMemb (s : State) (t : Nat) (a : Byte) (v : Verdict) (commit : Bool) (cause : BitVec 4)
    (origin : BitVec 16) : SameMemb s (s.sendVote t a v commit cause origin) := by
  unfold State.sendVote
  split
  · exact .refl s
  · exact s.sendPeer_sameMemb _ _ _ _ _ _

/-- The OK of a subtree, sealed at the root and sent up elsewhere. -/
theorem State.forwardOk_sameMemb (s : State) (t : Nat) (r : TrickRec) :
    SameMemb s (if s.isRoot then s.rootSeal.rootSeal else s.sendVote t r.att .ok r.commits 0 0xFFFF) :=
  .ite (s.rootSeal_sameMemb.trans (State.rootSeal_sameMemb _)) (s.sendVote_sameMemb _ _ _ _ _ _)

/-- The VOID of a subtree, decided at the root and sent up elsewhere. -/
theorem State.forwardVoid_sameMemb (s : State) (t : Nat) (r : TrickRec) (cause : BitVec 4) (origin : BitVec 16) :
    SameMemb s (if s.isRoot then s.rootVoid t r cause origin else s.sendVote t r.att .void false cause origin) :=
  .ite (s.decided_sameMemb _ _ _ _ _) (s.sendVote_sameMemb _ _ _ _ _ _)

theorem State.nodeVote_sameMemb (s : State) (t : Nat) (v : VoteR) : SameMemb s (s.nodeVote t v) := by
  unfold State.nodeVote
  split
  · exact .refl s
  · have keep := s.modTrick_sameMemb t
    exact .ite (keep _) (.ite (.ite ((keep _).trans (State.forwardOk_sameMemb _ _ _)) (keep _))
      (.ite (keep _) ((keep _).trans (State.forwardVoid_sameMemb _ _ _ _ _))))

theorem State.voteVoid_sameMemb (s : State) (t : Nat) (cause : BitVec 4) : SameMemb s (s.voteVoid t cause) := by
  unfold State.voteVoid
  split
  · exact .refl s
  · have keep := s.modTrick_sameMemb t
    exact .ite (.refl s) (.ite (keep _) (.ite (.refl s) ((keep _).trans (State.nodeVote_sameMemb _ _ _))))

theorem State.voteEach_sameMemb (cause : BitVec 4) (l : List Nat) (s : State) : SameMemb s (s.voteEach cause l) := by
  induction l generalizing s with
  | nil => exact .refl s
  | cons t l ih => exact .ite (s.voteVoid_sameMemb t cause) ((s.voteVoid_sameMemb t cause).trans (ih _))

theorem State.reVote_sameMemb (s : State) (t : Nat) : SameMemb s (s.reVote t) := by
  unfold State.reVote
  split
  · exact .refl s
  · have keep := s.modTrick_sameMemb t
    split
    · exact .ite (.refl s) ((keep _).trans (State.forwardVoid_sameMemb _ _ _ _ _))
    · exact .ite ((keep _).trans (State.forwardOk_sameMemb _ _ _)) (.refl s)

theorem State.refault_sameMemb (s : State) : SameMemb s s.refault := by
  refine .foldl (fun s p => .ite (.refl s) ?_) _ s
  split
  · exact .refl s
  · exact s.voteVoid_sameMemb _ 7

/-! ### Teardown, rewind and the end of a reconciliation -/

theorem State.teardownCore_sameMemb (s : State) (c : CtxId) : SameMemb s (s.teardownCore c) := by
  unfold State.teardownCore State.dropCtx
  split
  · exact .refl s
  · exact .of_fab rfl

theorem State.teardownAll_sameMemb (s : State) (status : Byte) : SameMemb s (s.teardownAll status) := by
  unfold State.teardownAll
  extract_lets l s1 ts
  have h1 : SameMemb s s1 :=
    .foldl (f := fun s x => (s.teardownCore x.1).ctxCompl none status (abortRecord status x.1))
      (fun s x => (s.teardownCore_sameMemb x.1).trans (State.release_only _ _).sameMemb) l s
  clear_value s1
  exact h1.trans ((State.voteEach_sameMemb 7 _ s1).trans (State.settle_only _).sameMemb)

theorem State.rewind_sameMemb (s : State) : SameMemb s s.rewind := by
  unfold State.rewind
  split
  · extract_lets s1 s2 s3 s4
    have h2 : SameMemb s1 s2 := .ite (.refl s1) (s1.applyVoid_sameMemb _ _ _ _)
    have h3 : SameMemb s2 s3 := (State.teardownAll_sameMemb _ _).fromFab rfl
    clear_value s3
    have h4 : SameMemb s3 s4 := .of_fab rfl
    exact s.failRefresh_sameMemb.trans (h2.trans (h3.trans (h4.trans (s4.jobEvent_only _ _ _ _).sameMemb)))
  · exact .refl s

theorem State.rewindIf_sameMemb (s : State) : SameMemb s s.rewindIf := by
  unfold State.rewindIf
  extract_lets fab
  exact .ite (.trans (.ofRounds s _ rfl) (State.rewind_sameMemb _)) (.refl s)

theorem State.endRecon_sameMemb (s : State) : SameMemb s s.endRecon := by
  unfold State.endRecon
  extract_lets fab s1
  have h1 : SameMemb s s1 := .ofRounds s _ rfl
  exact h1.trans ((State.reVote_sameMemb _ _).trans ((State.reVote_sameMemb _ _).trans
    ((State.refault_sameMemb _).trans (State.rewindIf_sameMemb _))))

theorem State.reconDecide_sameMemb (s : State) : SameMemb s s.reconDecide := by
  unfold State.reconDecide
  extract_lets l me mine others tell o
  have htell (u : State) (t : Nat) (a : Byte) (v : Verdict) (commit : Bool) (cause : BitVec 4) (o : BitVec 16) :
      SameMemb u (tell u t a v commit cause o) := by
    have hsent : SameMemb u (others.foldl (fun s m => s.sendPeer m classSEAL t a (sealPayload true v commit cause o) false) u) :=
      .foldl (fun s m => s.sendPeer_sameMemb m _ _ _ _ _) others u
    exact hsent.trans (.ite ((State.modTrick_sameMemb _ _ _).trans (State.applied_sameMemb _ _ _ _ _ _)) (.refl _))
  clear_value tell
  cases l with
  | nil => exact .ite s.endRecon_sameMemb (.refl s)
  | cons x r =>
    exact .ite (.refl s) (.ite ((htell _ _ _ _ _ _ _).trans (State.endRecon_sameMemb _))
      ((htell _ _ _ _ _ _ _).trans ((htell _ _ _ _ _ _ _).trans (State.endRecon_sameMemb _))))

theorem State.startRecon_sameMemb (s : State) (old : List (BitVec 9)) : SameMemb s (s.startRecon old) := by
  unfold State.startRecon
  extract_lets cur surv reset job s1 fab
  split
  · exact .refl s
  · refine .ite (.refl s) ?_
    extract_lets own s2
    have h2 : SameMemb s s2 := (SameMemb.ofRounds s1 _ rfl).fromFab rfl
    exact h2.trans (.ite s2.reconDecide_sameMemb (s2.sendPeer_sameMemb _ _ _ _ _ _))

/-! ### The rest of an installation -/

/-- With no frame held, none waits for the epoch now current. -/
theorem State.takeHeldEpoch_sameMemb {s : State} (hheld : s.fab.held = []) : SameMemb s s.takeHeldEpoch := by
  unfold State.takeHeldEpoch
  rw [hheld]
  refine .trans ?_ (State.refault_sameMemb _)
  exact ⟨rfl, rfl, rfl, rfl, rfl, rfl, rfl, List.nil_subset _⟩

theorem State.settleChgs_sameMemb (s : State) : SameMemb s s.settleChgs := by
  unfold State.settleChgs
  extract_lets bad gone fab s1
  have h1 : SameMemb s s1 := ⟨rfl, rfl, rfl, rfl, rfl, rfl, rfl, List.Subset.refl _⟩
  refine h1.thenFoldl fun s c => ?_
  split
  · exact .refl s
  · exact (s.complete_only _ _ _ _).sameMemb

theorem State.forwardChg_sameMemb (s : State) (m : BitVec 9) (c : ChgReq) : SameMemb s (s.forwardChg m c) := by
  unfold State.forwardChg State.sendMemb
  exact s.sendPeer_sameMemb _ _ _ _ _ _

theorem State.reRequest_sameMemb (s : State) : SameMemb s s.reRequest := by
  unfold State.reRequest
  refine .ite (.refl s) ?_
  split
  · exact .refl s
  · exact .thenFoldl (.foldl (fun s c => s.forwardChg_sameMemb _ c) _ s) fun s p => s.sendPeer_sameMemb _ _ _ _ _ _

/-- What follows the reconciliation in every installation that leaves this module a member. -/
theorem State.endInstall_sameMemb {s : State} (hheld : s.fab.held = []) :
    SameMemb s s.takeHeldEpoch.settleChgs.reRequest :=
  (State.takeHeldEpoch_sameMemb hheld).trans ((State.settleChgs_sameMemb _).trans (State.reRequest_sameMemb _))

theorem State.rebuildFail_sameMemb (s : State) (cmd : HostCmd) : SameMemb s (s.rebuildFail cmd) := by
  unfold State.rebuildFail
  extract_lets s1 job stat s2
  have h1 : SameMemb s s1 := .foldl (fun s m => s.sendState_sameMemb m 13 0 0 0 []) _ s
  exact (h1.toFab (u := s2.setRecov fun r => { r with rebuild := none }) rfl).trans (State.complete_only _ _ _ _ _).sameMemb

theorem State.ckEnd_sameMemb (s : State) : SameMemb s s.ckEnd := by
  unfold State.ckEnd
  split
  · exact .refl s
  · exact .ite (s.ckStep_sameMemb _) (.refl s)

theorem State.abortReqs_sameMemb (s : State) : SameMemb s s.abortReqs :=
  .trans (.foldl (fun s r => s.endReq_sameMemb r _ _ _) _ s) (.of_fab rfl)

/-- A module put in quarantine keeps the view and the agreement, but for its own standing and its round. -/
theorem State.quarantine_sameMemb (s : State) :
    SameMemb { s with fab := { s.fab with self := .quarantine, coord := none } } s.quarantine := by
  unfold State.quarantine
  extract_lets fab s1 job s2 s3 s4 job4
  have h2 : SameMemb { s with fab := { s.fab with self := .quarantine, coord := none } } s2 :=
    ⟨rfl, rfl, rfl, rfl, rfl, rfl, rfl, List.nil_subset _⟩
  clear_value s2
  have h3 : SameMemb s2 s3 := (s2.teardownAll_sameMemb _).trans (State.abortReqs_sameMemb _)
  clear_value s3
  have h4 : SameMemb s3 s4 := by
    dsimp only [s4]
    split
    · exact .refl s3
    · exact (s3.complete_only _ _ _ _).sameMemb
  exact h2.trans (h3.trans (h4.trans (((State.flushHeld_only _).sameMemb.trans (State.ckEnd_sameMemb _)).fromFab rfl)))

theorem State.askFrom_sameMemb (s : State) (b : Buffer) (bufid stripe r : Nat) : SameMemb s (s.askFrom b bufid stripe r) := by
  unfold State.askFrom
  split
  · exact .refl s
  · exact s.sendState_sameMemb _ _ _ _ _ _

theorem State.reAsk_sameMemb (s : State) : SameMemb s s.reAsk := by
  refine .foldl (fun s e => ?_) _ s
  split
  · exact .refl s
  · split
    · exact .refl s
    · exact s.askFrom_sameMemb _ _ _ _

/-! ### What an installation leaves -/

/-- The view v is in force with no promise or round, this module stands in it as x, and no frame is held. -/
structure InForce (v : View) (ovr : Bool) (x : SelfState) (s : State) : Prop where
  epoch : s.fab.epoch = v.epoch
  view : s.fab.view = some v
  promised : s.fab.promised = 0
  accepted : s.fab.accepted = none
  coord : s.fab.coord = none
  overridden : s.fab.overridden = ovr
  self : s.fab.self = x
  held : s.fab.held = []

theorem SameMemb.inForce {s t : State} {v : View} {ovr : Bool} {x : SelfState} (h : SameMemb s t) (k : InForce v ovr x s) :
    InForce v ovr x t :=
  ⟨h.epoch.trans k.epoch, h.view.trans k.view, h.promised.trans k.promised, h.accepted.trans k.accepted, h.coord.trans k.coord,
    h.overridden.trans k.overridden, h.self.trans k.self, List.subset_nil.1 (k.held ▸ h.held)⟩

/-- The module that a view leaves DEAD or absent goes to quarantine under it. -/
theorem InForce.quarantined {s : State} {v : View} {ovr : Bool} {x : SelfState} (k : InForce v ovr x s) :
    InForce v ovr .quarantine s.quarantine.settleChgs :=
  (s.quarantine_sameMemb.trans (State.settleChgs_sameMemb _)).inForce
    ⟨k.epoch, k.view, k.promised, k.accepted, rfl, k.overridden, rfl, k.held⟩

/-- What the end of an installation finds in force stays so. -/
theorem InForce.endInstall {s : State} {v : View} {ovr : Bool} {x : SelfState} (k : InForce v ovr x s) :
    InForce v ovr x s.takeHeldEpoch.settleChgs.reRequest :=
  (State.endInstall_sameMemb k.held).inForce k

/-- The standing of this module in a view (R400). -/
def selfIn (v : View) : SelfState := match v.entry? Config.ownMid with
  | none => .quarantine
  | some e => match e.state with
    | .dead => .quarantine
    | .spare => .spare
    | .active => .active

theorem State.install_inForce {s : State} (v : View) (ovr : Bool) (hheld : s.fab.held = []) :
    InForce v ovr (selfIn v) (s.install v ovr) := by
  unfold State.install selfIn
  extract_lets me jid old named missing fab0 s1 keep fab1 s2 done fab2 s3 s4 fab4 aon s5 s6 s7 back fab7 s8
  have h3 : InForce v ovr s.fab.self s3 := ⟨rfl, rfl, rfl, rfl, rfl, rfl, rfl, hheld⟩
  have h4 : InForce v ovr s.fab.self s4 := (SameMemb.foldl (fun u c => by
    split
    · exact .refl u
    · exact (u.complete_only _ _ _ _).sameMemb) done s3).inForce h3
  clear_value s4
  have h5 : InForce v ovr .active s5 := ⟨h4.epoch, h4.view, h4.promised, h4.accepted, h4.coord, h4.overridden, rfl, h4.held⟩
  clear_value s5
  have h6 : InForce v ovr .active s6 := (s5.failRefresh_sameMemb.trans (State.setRecov_sameMemb _ _)).inForce h5
  clear_value s6
  have h7 : InForce v ovr .active s7 := (SameMemb.ite (s := s6) (a := s6.setDegraded) (.of_fab rfl) (.refl s6)).inForce h6
  have h8 : InForce v ovr .active s8 :=
    ((SameMemb.ofRounds s7 _ rfl).trans ((State.startRecon_sameMemb _ old).trans (State.rewindIf_sameMemb _))).inForce h7
  clear_value s8
  subst me
  cases v.entry? Config.ownMid with
  | none => exact h4.quarantined
  | some e =>
    dsimp only
    cases e.state with
    | dead => exact h4.quarantined
    | spare =>
      refine InForce.endInstall ((State.failRefresh_sameMemb _).inForce ?_)
      exact ⟨h4.epoch, h4.view, h4.promised, h4.accepted, h4.coord, h4.overridden, rfl, h4.held⟩
    | active =>
      dsimp only
      split
      · exact (s8.reAsk_sameMemb.inForce h8).endInstall
      · split
        · split
          · exact h6.endInstall
          · exact ((s6.rebuildFail_sameMemb _).inForce h6).endInstall
        · exact ((SameMemb.ite (s6.startRecon_sameMemb old) (.refl s6)).inForce h6).endInstall

/-! ### Views given by the host -/

section
variable {s : State} {h : HostCmd} {region : BitVec 16} {len : Word} {offset : Dword}

/-- A view command whose record may be read has it read (R398, R401). -/
theorem State.viewCmd_reads (s : State) {h : HostCmd} (opc : Byte) {rn n off : Nat} (hclean : cmdBad h 0 = false)
    (hread : s.canRead rn off n = true) : s.viewCmd h opc rn n off =
      (s.modHost fun x => { x with viewRead := x.viewRead ++ [⟨h, opc == 0x31, rn, n, false⟩] }).sendRead rn off n := by
  unfold State.viewCmd
  rw [hclean]
  exact if_pos hread

theorem exec_joinview (hc : CleanCmd s (.joinview h region len offset))
    (hread : (s.takeCmd h).canRead region.toNat offset.toNat len.toNat = true) :
    exec (.joinview h region len offset) s = .next (((s.takeCmd h).modHost fun x => { x with
      viewRead := x.viewRead ++ [⟨h, false, region.toNat, len.toNat, false⟩] }).sendRead region.toNat offset.toNat len.toNat) := by
  change execJoinview h region len offset s = _
  unfold execJoinview
  rw [if_neg (turn_go hc.1 rfl), State.viewCmd_reads _ _ (cleanCmd_flags hc rfl) hread]
  rfl

theorem exec_override (hc : CleanCmd s (.override h region len offset))
    (hread : (s.takeCmd h).canRead region.toNat offset.toNat len.toNat = true) :
    exec (.override h region len offset) s = .next (((s.takeCmd h).modHost fun x => { x with
      viewRead := x.viewRead ++ [⟨h, true, region.toNat, len.toNat, false⟩] }).sendRead region.toNat offset.toNat len.toNat) := by
  change execOverride h region len offset s = _
  unfold execOverride
  rw [if_neg (turn_go hc.1 rfl), State.viewCmd_reads _ _ (cleanCmd_flags hc rfl) hread]
  rfl

end

theorem HostOnly.isBench {s t : State} (h : HostOnly s t) : t.isBench = s.isBench := by
  rw [h]
  rfl

theorem HostOnly.cfgSysid {s t : State} (h : HostOnly s t) : t.cfgSysid = s.cfgSysid := by
  rw [h]
  rfl

/-- What a record that passes its checks shows (R398, R401): the record is the view's, its signature aside for JOINVIEW. -/
def ViewGood (s : State) (record : List Byte) (ovr : Bool) (v : View) : Prop :=
  if ovr then v.epoch > s.fab.epoch ∧ s.opVerify permOVR (record.take (record.length - 5396)) (record.drop (record.length - 5396)) = true
  else s.fab.epoch = 0 ∧ v.epoch = 1 ∧ (v.entry? Config.ownMid).isSome ∧ s.roleBars v = false

/-- The checks read nothing of the host attachment. -/
theorem ViewGood.congr {s t : State} (h : HostOnly s t) {record : List Byte} {ovr : Bool} {v : View} (k : ViewGood s record ovr v) :
    ViewGood t record ovr v := by
  rw [h]
  exact k

theorem exec_viewRecordReceived {s : State} {h : HostCmd} {record : List Byte} {ovr : Bool} {rn : Nat} {rest : List ViewRead} {v : View}
    (hr : s.host.viewRead = ⟨h, ovr, rn, record.length, false⟩ :: rest) (hbench : s.isBench = false)
    (hv : parseView (record.take (if ovr then record.length - 5396 else record.length)) = some v) (hsys : v.sysid = s.cfgSysid)
    (hgood : ViewGood s record ovr v) : exec (.viewRecordReceived record) s =
      .next (((((s.modHost fun x => { x with viewRead := rest }).readDone rn record.length).complete h
        (if ovr then 0x31 else 0x30) stOK []).install v ovr).carryOn) := by
  have honly := HostOnly.trans (s.modHost_only fun x => { x with viewRead := rest }) (State.readDone_only _ rn record.length)
  change execViewRecordReceived record s = _
  unfold execViewRecordReceived
  rw [hr]
  refine (if_neg (not_not.2 rfl)).trans ?_
  have hbench' := honly.isBench.trans hbench
  have hsys' := hsys.trans honly.cfgSysid.symm
  have hgood' := hgood.congr honly
  generalize (s.modHost fun x => { x with viewRead := rest }).readDone rn record.length = t at hbench' hsys' hgood' ⊢
  dsimp only
  rw [hv]
  cases ovr with
  | false =>
    obtain ⟨he, h1, hown, hbars⟩ := hgood'
    simp [failIf, worst, hbench', hsys', he, h1, hbars, Option.isSome_iff_ne_none.1 hown]
  | true =>
    obtain ⟨he, hsig⟩ := hgood'
    simp [failIf, worst, hbench', hsys', hsig, BitVec.not_le.2 he]

/-- Settles O37: a record that may be read is read (`State.viewCmd_reads`), one that passes its checks is installed, and the rest of an
installation keeps what it puts in force (`State.install_inForce`). -/
theorem hostGivenViewsInstall : Obligations.HostGivenViewsInstall := by
  unfold Obligations.HostGivenViewsInstall
  refine fun s h region len offset => ⟨fun hc hread => exec_joinview hc hread, fun hc hread => exec_override hc hread,
    fun record ovr rn rest v hr hbench hv hsys hgood => exec_viewRecordReceived hr hbench hv hsys hgood, fun v ovr _ _ hheld _ => ?_⟩
  obtain ⟨he, hv, hp, ha, hc, ho, hs, -⟩ := State.install_inForce v ovr hheld
  exact ⟨he, hv, hp, ha, hc, ho, hs⟩

end Sys2Proof.Machine
